-- ==== Sys2Proof/Word.lean ====
section
/-! DEFINITION. The word types of the D8 (R10): bytes, 32-bit registers and 64-bit register pairs. -/

namespace Sys2Proof

/-- One byte. -/
abbrev Byte := BitVec 8

/-- One register: every register is 32 bits wide (R10). -/
abbrev Word := BitVec 32

/-- A `_LO`/`_HI` register pair holds 64 bits (R11). -/
abbrev DWord := BitVec 64

end Sys2Proof
end

