-- ==== Sys2Proof/Syntax.lean ====
section
/-! DEFINITION. The commands of the D8: one constructor for every row of spec/opcode_table.json, with the row's operands. -/

namespace Sys2Proof

/-- The three in-order units of a core that a step can be queued at (R77). -/
inductive UnitId where
  | matrix
  | vector
  | sfu
  deriving DecidableEq, Repr

/-- What a SECDED code shows when a word is read (R80, R231, R259). -/
inductive Ecc where
  | clean
  | corrected
  | uncorrectable
  deriving DecidableEq, Repr

/-- The three classes of transfer tags (R131). -/
inductive TagClass where
  | read
  | write
  | remote
  deriving DecidableEq, Repr

/-- How a transfer ends: with good data, or with an uncorrectable error from the far end (R150, R279). -/
inductive XferStatus where
  | ok
  | corrected
  | dataError
  deriving DecidableEq, Repr

/-- The pass of a sluice hop (R302): reduce 0, gather 1, data 2. -/
inductive HopPass where
  | reduce
  | gather
  | data
  deriving DecidableEq, Repr

/-- The consumer of a page walk (R203): a DESC stream context of a core, or the quarry units of the stacks that hold the pages. For a query block, the header that the home die control core writes first (R238). -/
inductive WalkDest where
  | stream (core : Nat) (sc : Nat)
  | sketch (qaddr : Nat) (header : BitVec 512)
  | bench (qaddr : Nat) (header : BitVec 512)
  | deliver (op : Byte) (qaddr : Nat) (tfmt : BitVec 4)
  deriving DecidableEq, Repr

/-- A launch of a collective (R293): its operation, and for a TOPK_MERGE the entries of the list at SRC of each chunk; K where none is given. -/
structure Launch where
  opid   : Nat
  counts : List Nat
  deriving DecidableEq, Repr

/-- A port that has trained, and the halves that its partner has retired (bit 0 lanes 0–3, bit 1 lanes 4–7), which the training settles on (R378). -/
structure Trained where
  port : Nat
  half : BitVec 2
  deriving DecidableEq, Repr

/-- A step of a die's VDD_CORE voltage (R493), and whether the regulator answers (R498). -/
structure VoutStep where
  die    : Nat
  answer : Bool
  deriving DecidableEq, Repr

/-- The commands and events of the D8, in the order of the table. -/
inductive Instr where
  /-- ADMISSION_CUT (R32): When step s begins its final layer, the batch for step s + 1 is fixed from the requests fetched before the cut. -/
  | admissionCut
  /-- DIE_STEP_REPORT (R31): A die control core reports that its part of the batch step has finished. die: the reporting die control core, 0-3. -/
  | dieStepReport (die : Nat)
  /-- STEP_SYNC_PULSE (R455): A sampled STEP_SYNC rising edge is matched to a held boundary, latched or ignored. -/
  | stepSyncPulse
  /-- SYNC_HOLD_DEADLINE (R455): A step-sync window closes without a pulse, and the boundary is declared as missed. -/
  | syncHoldDeadline
  /-- STEP_BOUNDARY (R31): The chip manager declares a batch-step boundary, KV_EPOCH advances and the boundary work runs. -/
  | stepBoundary
  /-- SLOT_LAUNCH (R108): A die control core writes an argument block, sets the entry PC and launches an IDLE slot. args: the 64 bytes of the argument block (R83); model: the instance named by the launch (R441). -/
  | slotLaunch (core : Nat) (slot : Nat) (pc : BitVec 14) (model : Byte) (args : List Byte)
  /-- STREAM_IN (R101): A STREAM step in IN mode starts a double-buffered haul into core store. the sequencer of logical core `core` reaches this step in task slot `slot`. -/
  | streamIn (core : Nat) (slot : Nat)
  /-- STREAM_OUT (R101): A STREAM step in OUT mode starts a haul out of core store, marking both buffers free. the sequencer of logical core `core` reaches this step in task slot `slot`. -/
  | streamOut (core : Nat) (slot : Nat)
  /-- STREAM_CHAIN_RECV (R118): A CHAIN_RECV stream arms its core for a chain id and receives its slice. the sequencer of logical core `core` reaches this step in task slot `slot`. -/
  | streamChainRecv (core : Nat) (slot : Nat)
  /-- STREAM_CHAIN_SEND (R117): A CHAIN_SEND stream injects a weight-chain broadcast once its span has armed. the sequencer of logical core `core` reaches this step in task slot `slot`. -/
  | streamChainSend (core : Nat) (slot : Nat)
  /-- MMA (R90): A matrix tile is issued to the matrix unit. the sequencer of logical core `core` reaches this step in task slot `slot`. -/
  | mma (core : Nat) (slot : Nat)
  /-- MMA_REDUCE (R106): A matrix tile is issued whose output is copied into a berm as a sluice chunk. the sequencer of logical core `core` reaches this step in task slot `slot`. -/
  | mmaReduce (core : Nat) (slot : Nat)
  /-- ADD (R94): VEC element-wise add. the sequencer of logical core `core` reaches this step in task slot `slot`. -/
  | add (core : Nat) (slot : Nat)
  /-- MUL (R94): VEC element-wise multiply. the sequencer of logical core `core` reaches this step in task slot `slot`. -/
  | mul (core : Nat) (slot : Nat)
  /-- FMA (R94): VEC fused multiply-add. the sequencer of logical core `core` reaches this step in task slot `slot`. -/
  | fma (core : Nat) (slot : Nat)
  /-- ADDI (R94): VEC add of the immediate. the sequencer of logical core `core` reaches this step in task slot `slot`. -/
  | addi (core : Nat) (slot : Nat)
  /-- MULI (R94): VEC multiply by the immediate. the sequencer of logical core `core` reaches this step in task slot `slot`. -/
  | muli (core : Nat) (slot : Nat)
  /-- MAX (R94): VEC element-wise maximum. the sequencer of logical core `core` reaches this step in task slot `slot`. -/
  | max (core : Nat) (slot : Nat)
  /-- MIN (R94): VEC element-wise minimum. the sequencer of logical core `core` reaches this step in task slot `slot`. -/
  | min (core : Nat) (slot : Nat)
  /-- CMPGE (R94): VEC compare greater-or-equal. the sequencer of logical core `core` reaches this step in task slot `slot`. -/
  | cmpge (core : Nat) (slot : Nat)
  /-- SELGE (R94): VEC select on sign. the sequencer of logical core `core` reaches this step in task slot `slot`. -/
  | selge (core : Nat) (slot : Nat)
  /-- CONVERT (R94): VEC format conversion, including block formats. the sequencer of logical core `core` reaches this step in task slot `slot`. -/
  | convert (core : Nat) (slot : Nat)
  /-- COPY (R94): VEC copy of elements unchanged. the sequencer of logical core `core` reaches this step in task slot `slot`. -/
  | copy (core : Nat) (slot : Nat)
  /-- RSUM (R94): VEC sum reduction by the fixed tree. the sequencer of logical core `core` reaches this step in task slot `slot`. -/
  | rsum (core : Nat) (slot : Nat)
  /-- RMAX (R94): VEC max reduction by the fixed tree. the sequencer of logical core `core` reaches this step in task slot `slot`. -/
  | rmax (core : Nat) (slot : Nat)
  /-- DROPOUT (R73): VEC dropout with counter-based random draws. the sequencer of logical core `core` reaches this step in task slot `slot`. -/
  | dropout (core : Nat) (slot : Nat)
  /-- EXP2 (R60): SFU step computing 2^x. the sequencer of logical core `core` reaches this step in task slot `slot`. -/
  | exp2 (core : Nat) (slot : Nat)
  /-- LOG2 (R60): SFU step computing log2 x. the sequencer of logical core `core` reaches this step in task slot `slot`. -/
  | log2 (core : Nat) (slot : Nat)
  /-- RCP (R60): SFU step computing the reciprocal. the sequencer of logical core `core` reaches this step in task slot `slot`. -/
  | rcp (core : Nat) (slot : Nat)
  /-- RSQRT (R60): SFU step computing the reciprocal square root. the sequencer of logical core `core` reaches this step in task slot `slot`. -/
  | rsqrt (core : Nat) (slot : Nat)
  /-- PWL (R67): SFU step evaluating a user PWL table. the sequencer of logical core `core` reaches this step in task slot `slot`. -/
  | pwl (core : Nat) (slot : Nat)
  /-- GELU_ERF (R60): SFU step computing erf-based GELU. the sequencer of logical core `core` reaches this step in task slot `slot`. -/
  | geluErf (core : Nat) (slot : Nat)
  /-- GELU_TANH (R60): SFU step computing tanh-based GELU. the sequencer of logical core `core` reaches this step in task slot `slot`. -/
  | geluTanh (core : Nat) (slot : Nat)
  /-- ERF (R60): SFU step computing erf. the sequencer of logical core `core` reaches this step in task slot `slot`. -/
  | erf (core : Nat) (slot : Nat)
  /-- MICRO_PROGRAM (R68): SFU step running a straight-line micro-program function. the sequencer of logical core `core` reaches this step in task slot `slot`. -/
  | microProgram (core : Nat) (slot : Nat)
  /-- NORM (R71): Root-mean-square normalisation of rows. the sequencer of logical core `core` reaches this step in task slot `slot`. -/
  | norm (core : Nat) (slot : Nat)
  /-- ROPE (R96): Rotary position embedding of tokens. the sequencer of logical core `core` reaches this step in task slot `slot`. -/
  | rope (core : Nat) (slot : Nat)
  /-- ATTN_TILE (R171): One online-softmax attention, merge or recompute tile on the matrix, vector and SFU units. the sequencer of logical core `core` reaches this step in task slot `slot`. -/
  | attnTile (core : Nat) (slot : Nat)
  /-- DIKE (R114): A slot records its arrival at a die-wide or package-wide barrier. the sequencer of logical core `core` reaches this step in task slot `slot`. -/
  | dike (core : Nat) (slot : Nat)
  /-- DIKE_TIMEOUT (R116): A dike not released within SQ_DIKE_TIMEOUT faults its arrived members. pkg: a package-wide dike; die: the die of a die-wide dike; did: the dike id. -/
  | dikeTimeout (pkg : Bool) (die : Nat) (did : Nat)
  /-- WAIT (R104): A sequencer step that waits on two flag words and may open a loop. the sequencer of logical core `core` reaches this step in task slot `slot`. -/
  | wait (core : Nat) (slot : Nat)
  /-- SIGNAL (R104): A fenced sequencer step that sets flag bits in any core. the sequencer of logical core `core` reaches this step in task slot `slot`. -/
  | signal (core : Nat) (slot : Nat)
  /-- SIGNAL_DELIVER (R105): SIGNAL bits reach the target core's flag word. n: position of the SIGNAL among those in flight, oldest first. -/
  | signalDeliver (n : Nat)
  /-- EMIT (R104): A message is queued to a die control core. the sequencer of logical core `core` reaches this step in task slot `slot`. -/
  | emit (core : Nat) (slot : Nat)
  /-- EMIT_REPLY (R104): A die control core replies to an EMIT and sets its reply flag bits. the die control core of `die` replies to the oldest message of its queue. -/
  | emitReply (die : Nat)
  /-- HALT (R104): A fence that returns the slot to IDLE once earlier steps have completed. the sequencer of logical core `core` reaches this step in task slot `slot`. -/
  | halt (core : Nat) (slot : Nat)
  /-- UNIT_STEP_COMPLETE (R79): A unit finishes a step, its writes become visible and its flags are set. ecc: what the SECDED codes of the operands showed. -/
  | unitStepComplete (core : Nat) (unit : UnitId) (ecc : Ecc)
  /-- SLOT_FAULT_MESSAGE (R113): A die control core ends the batch step of the faulting model instance. -/
  | slotFaultMessage (core : Nat) (slot : Nat)
  /-- CHAIN_ARM (R118): An arm token reaches the injector, which may then start the broadcast. the arm token of the last unarmed core of chain `id` reaches the injector. -/
  | chainArm (id : Nat)
  /-- CHAIN_FLIT (R119): A chain flit arrives at a hop, is sliced and forwarded, or is held for buffer space. the next flit of broadcast `id` arrives at `core`. -/
  | chainFlit (id : Nat) (core : Nat)
  /-- CHAIN_TIMEOUT (R119): A hop held longer than SQ_CHAIN_TIMEOUT faults the holding slot. -/
  | chainTimeout (core : Nat)
  /-- PATROL_SCRUB (R80): The patrol scrubber visits core-store words and writes back corrected values. word: index of the 64-bit word visited. -/
  | patrolScrub (core : Nat) (word : Nat) (ecc : Ecc)
  /-- TAG_GRANT (R134): A transfer tag is granted in arrival order under the caps, and the transfer is issued. -/
  | tagGrant (cls : TagClass)
  /-- TRANSFER_COMPLETE (R131): A tagged transfer completes, its tag returns and fills are delivered. id: the transfer; status: what its completion reports. -/
  | transferComplete (id : Nat) (status : XferStatus)
  /-- HAUL_FAULT_MESSAGE (R147): A halt fault reaches the deciding die control core. -/
  | haulFaultMessage (core : Nat) (sc : Nat)
  /-- HAUL_RESUME (R148): The die control core resumes a halted haul from POS and pins the granule. -/
  | haulResume (core : Nat) (sc : Nat)
  /-- PIN_EXPIRE (R148): A resume pin ends after TG_PIN_TIME. -/
  | pinExpire (gran : Nat)
  /-- DESC_ENQUEUE (R128): A die control core puts a page descriptor into a DESC stream context's queue. -/
  | descEnqueue (core : Nat) (sc : Nat) (desc : BitVec 256)
  /-- PEER_GRANT (R129): A receiver's grant for a fill reaches the sending context. -/
  | peerGrant (core : Nat) (sc : Nat)
  /-- PEER_SEGMENT (R129): A PEER fill segment arrives at the receiving context. off: byte offset within the fill; last: the segment ends its fill. -/
  | peerSegment (core : Nat) (sc : Nat) (fill : Nat) (off : Nat) (last : Bool) (data : List Byte)
  /-- PEER_ABORT (R130): An abort from the partner context ends the haul. -/
  | peerAbort (core : Nat) (sc : Nat)
  /-- PEER_TIMEOUT (R130): A granted peer haul without progress for TG_PEER_TIMEOUT ends. -/
  | peerTimeout (core : Nat) (sc : Nat)
  /-- PAGE_WALK (R203): A home die control core walks page tables and emits descriptor lists for a layer. dst: a DESC stream context, or the quarry units. -/
  | pageWalk (ctx : Nat) (layer : Nat) (dst : WalkDest) (ecc : Ecc)
  /-- KV_CTX_SEL (R226): A write captures a context record into KV_CTX_DATA. -/
  | kvCtxSel (v : Word)
  /-- QU_DESC_ENQUEUE (R234): An emitter queues a descriptor at a quarry unit, waiting while the queue is full. -/
  | quDescEnqueue (qu : Nat) (desc : BitVec 256)
  /-- SKETCH_SCORE (R244): A quarry list scores sketch records and returns up to P ranked rows. quarry unit `qu` executes the list at the head of its descriptor queue. -/
  | sketchScore (qu : Nat) (ecc : Ecc)
  /-- SKETCH_UPD (R241): A quarry list computes new sketch records of a page. quarry unit `qu` executes the list at the head of its descriptor queue. -/
  | sketchUpd (qu : Nat) (ecc : Ecc)
  /-- BENCH (R180): A quarry list computes two-pass attention partials over dense pages. quarry unit `qu` executes the list at the head of its descriptor queue. -/
  | bench (qu : Nat) (ecc : Ecc)
  /-- BENCH_LAT (R245): A quarry list computes partials directly over latent pages. quarry unit `qu` executes the list at the head of its descriptor queue. -/
  | benchLat (qu : Nat) (ecc : Ecc)
  /-- DEQUANT (R250): A quarry list converts a dense page and delivers it to a terrace. quarry unit `qu` executes the list at the head of its descriptor queue. -/
  | dequant (qu : Nat) (ecc : Ecc)
  /-- EXPAND (R250): A quarry list expands a latent page to dense K and V in a terrace. quarry unit `qu` executes the list at the head of its descriptor queue. -/
  | expand (qu : Nat) (ecc : Ecc)
  /-- QUARRY_COPY (R252): A quarry COPY within one stack, reported to its issuer. quarry unit `qu` executes the list at the head of its descriptor queue. -/
  | quarryCopy (qu : Nat) (ecc : Ecc)
  /-- ZERO (R252): A quarry ZERO writes zeros over an extent. quarry unit `qu` executes the list at the head of its descriptor queue. -/
  | zero (qu : Nat) (ecc : Ecc)
  /-- MOVE (R252): A quarry MOVE copies a granule within a stack as a move's data phase. quarry unit `qu` executes the list at the head of its descriptor queue. -/
  | move (qu : Nat) (ecc : Ecc)
  /-- SEARCH_CENTROID (R334): A SEARCH descriptor offers centroid lists to each query's list heap. quarry unit `qu` executes the list at the head of its descriptor queue. -/
  | searchCentroid (qu : Nat) (ecc : Ecc)
  /-- SEARCH_LIST (R334): A SEARCH descriptor scans list blocks for the named queries. quarry unit `qu` executes the list at the head of its descriptor queue. -/
  | searchList (qu : Nat) (ecc : Ecc)
  /-- SEARCH_SIDE (R334): A SEARCH descriptor scans the committed side list for every query. quarry unit `qu` executes the list at the head of its descriptor queue. -/
  | searchSide (qu : Nat) (ecc : Ecc)
  /-- SEARCH_GATHER (R336): A SEARCH descriptor returns the neighbour ids of candidates. quarry unit `qu` executes the list at the head of its descriptor queue. -/
  | searchGather (qu : Nat) (ecc : Ecc)
  /-- SEARCH_SCORE (R336): A SEARCH descriptor checks and offers expansion candidates. quarry unit `qu` executes the list at the head of its descriptor queue. -/
  | searchScore (qu : Nat) (ecc : Ecc)
  /-- SEARCH_MERGE (R335): A SEARCH descriptor merges the eight units' heap outputs of a query. quarry unit `qu` executes the list at the head of its descriptor queue. -/
  | searchMerge (qu : Nat) (ecc : Ecc)
  /-- QUARRY_RESULT_DELIVER (R234): A quarry unit sends a finished list's results in start order. -/
  | quarryResultDeliver (qu : Nat)
  /-- PAGE_SELECTION (R244): The home die control core merges unit rankings with recent and sink rows into a selection. -/
  | pageSelection (ctx : Nat) (layer : Nat)
  /-- PARTIAL_FOLD (R248): A delivered bench partial is folded into the target's O and ST once gated and in order. n: position of the delivered partial among those waiting at `core`. -/
  | partialFold (core : Nat) (n : Nat)
  /-- HEAT_EPOCH (R267): Every 1 ms, heat counters halve and GRACE bits clear. -/
  | heatEpoch
  /-- MOVE_RESERVE (R271): A move takes its destination frame or is discarded by the migration lock. gran: a granule of the unit to move; frame: the frame number taken (spillway frame or stack frame) where the manual leaves it open. -/
  | moveReserve (gran : Nat) (frame : Nat)
  /-- MOVE_DATA_DONE (R271): A move's last byte arrives, its CRC is checked, and the move enters COMMIT_WAIT. -/
  | moveDataDone (gran : Nat) (status : XferStatus)
  /-- MOVE_COMMIT (R271): A move commits: the map is updated, caches are dropped and the old frame is freed. -/
  | moveCommit (gran : Nat)
  /-- BACKGROUND_ZERO (R266): The tier manager zeroes free frames of a stack that holds fewer than 1,024 zeroed frames. -/
  | backgroundZero (stack : Nat)
  /-- SPILL_READ_COMPLETE (R279): A spillway read completion arrives, is checked, and is used or retried. good: completion status; cipher: the ciphertext read. -/
  | spillReadComplete (gran : Nat) (good : Bool) (cipher : List Byte)
  /-- SPILL_READ_LATE (R279): A spillway read not completed within LATE_US is issued again. -/
  | spillReadLate (gran : Nat)
  /-- RESUPPLY_TIMEOUT (R282): No supply within TI_RESUPPLY_TIMEOUT fails the waiting model instances. -/
  | resupplyTimeout (gran : Nat)
  /-- TI_MAP_SEL_HI (R285): Completing the write captures a granule's map entry into TI_MAP_DATA. -/
  | tiMapSelHi (v : Word)
  /-- SLUICE_LAUNCH (R293): A die control core launches a KIND 2–4 collective execution. -/
  | sluiceLaunch (die : Nat) (opid : Launch)
  /-- CLAIM_TOKEN (R296): A claim token arrives, waits for budget, claims slots and passes on. -/
  | claimToken (opid : Nat) (exec : Nat)
  /-- START (R296): START reaches a member, which may then grant and send hops. -/
  | start (opid : Nat) (exec : Nat)
  /-- START_TIMEOUT (R297): A claim token held for SL_START_TIMEOUT aborts the execution. -/
  | startTimeout (opid : Nat)
  /-- SLUICE_GRANT (R301): A hop grant reaches the sender, which sends the chunk. -/
  | sluiceGrant (opid : Nat) (exec : Nat) (cidx : Nat) (pass : HopPass) (origin : Nat)
  /-- SLUICE_HOP (R302): A hop arrives, is checked, added or stored, and forwarded. hdr: the 64-byte hop header (R302). -/
  | sluiceHop (hdr : BitVec 512) (payload : List Byte)
  /-- HOP_TIMEOUT (R309): A hop timer reaches its deadline and starts a late probe. -/
  | hopTimeout (opid : Nat) (cidx : Nat) (pass : HopPass)
  /-- LATE_PROBE (R309): A late probe arrives and is answered or passed upstream. asker: logical rank of the detecting member. -/
  | lateProbe (opid : Nat) (exec : Nat) (cidx : Nat) (pass : HopPass) (asker : Nat)
  /-- PROBE_ANSWER (R309): A probe answer names or clears the late rank. rank: the member answering; waiting: it is itself waiting. -/
  | probeAnswer (opid : Nat) (rank : Nat) (waiting : Bool)
  /-- PROBE_TIMEOUT (R309): No probe answer within 50 µs names the late rank. -/
  | probeTimeout (opid : Nat) (rank : Nat)
  /-- ABORT_NOTICE (R311): An abort notice aborts an active execution at a member. -/
  | abortNotice (opid : Nat) (exec : Nat) (ring : Nat) (cause : Byte) (late : Nat) (detect : Nat)
  /-- ABORT_SETTLE (R311): The settle window closes, the kept notice is recorded and the step is ended. -/
  | abortSettle (opid : Nat)
  /-- SLOW_NOTICE (R307): A ring member's slow notice is received and extends its executions. -/
  | slowNotice (rank : Nat) (stands : Bool)
  /-- SLOW_NOTICE_HOLD_END (R307): HOLD_US after its condition ends, this chip's slow notice ends. -/
  | slowNoticeHoldEnd
  /-- SL_OP_SEL (R314): A write captures an operation record and its state into SL_OP_DATA. -/
  | slOpSel (v : Word)
  /-- FRAME_RECEIVE (R353): A flit frame is received and accepted, discarded or NAKed, and its ACK and credits are taken. -/
  | frameReceive (port : Nat) (frame : List Byte)
  /-- REPLAY_TIMEOUT (R354): The oldest unacknowledged frame exceeds CU_REPLAY_TIMEOUT and is replayed. -/
  | replayTimeout (port : Nat)
  /-- ACK_TIMER (R354): After 200 ns without a frame to send, an IDLE carrying the ACK is sent. -/
  | ackTimer (port : Nat)
  /-- CTRL_FRAME_TIMER (R353): A CTRL frame with the sideband word is sent at least every 100 µs. -/
  | ctrlFrameTimer (port : Nat)
  /-- PMD_TRAINING_DONE (R361): 802.3dj PMD training of a port completes. -/
  | pmdTrainingDone (port : Trained)
  /-- CAPABILITY_RECORD (R361): The partner's capability record arrives, the revision is chosen and the port enters UP. -/
  | capabilityRecord (port : Nat) (revs : BitVec 2) (role : BitVec 4) (gidx : BitVec 4) (rank : BitVec 16) (tgen : Word) (inst : Word)
  /-- LANE_LOCK_LOSS (R372): A lane loses lock and its port retrains. -/
  | laneLockLoss (port : Nat) (lane : Nat)
  /-- FEC_UNCORRECTABLE (R372): An uncorrectable FEC codeword is counted, and more than 4 in 1 ms causes a retrain. -/
  | fecUncorrectable (port : Nat) (lane : Nat)
  /-- LINK_SILENCE (R372): No valid frame for 10 µs on an UP port causes a retrain. -/
  | linkSilence (port : Nat)
  /-- RETRAIN_DONE (R372): A fast retrain ends, and the port resumes or escalates to full training. -/
  | retrainDone (port : Trained) (ok : Bool)
  /-- TRAINING_TIMEOUT (R375): Full training or a drain exceeds CU_DOWN_TIMEOUT, and the port goes DOWN. -/
  | trainingTimeout (port : Nat)
  /-- PORT_ENABLE (R379): Writing 1 to CU_CTRL.ENABLE starts training or latches the enable. -/
  | portEnable (port : Nat)
  /-- PORT_DISABLE (R379): Writing 0 to CU_CTRL.ENABLE puts the port in DRAINING. -/
  | portDisable (port : Nat)
  /-- PORT_DRAIN_DONE (R379): A draining port has no unacknowledged frame and enters OFF or retrains. -/
  | portDrainDone (port : Nat)
  /-- ETH_FRAME_RECEIVE (R366): An Ethernet frame is checked and its flits are taken on its tunnel. -/
  | ethFrameReceive (port : Nat) (frame : List Byte)
  /-- ETH_COALESCE (R366): COALESCE_NS after its first flit, a partial Ethernet frame is sent. -/
  | ethCoalesce (port : Nat)
  /-- TUNNEL_IDLE (R367): A tunnel idle for 10 ms with nothing unacknowledged closes. -/
  | tunnelIdle (port : Nat) (tun : Nat)
  /-- TUNNEL_RTO (R367): The tunnel replay timer expires, and after 16 in a row the tunnel goes DOWN. -/
  | tunnelRto (port : Nat) (tun : Nat)
  /-- CU_TUN_SEL (R380): A write captures a tunnel's state into CU_TUN_DATA. -/
  | cuTunSel (port : Nat) (v : Word)
  /-- SQ_TAIL (R388): A submission doorbell write records the queue's tail. -/
  | sqTail (q : Nat) (v : Word)
  /-- CQ_HEAD (R388): A completion-ring head doorbell frees completion entries. -/
  | cqHead (q : Nat) (v : Word)
  /-- TR_HEAD (R388): A token-ring head doorbell frees token entries. -/
  | trHead (q : Nat) (v : Word)
  /-- SNOOPED_DOORBELL (R392): An invalidating CXL snoop of the expected entry line acts as a doorbell. -/
  | snoopedDoorbell (q : Nat)
  /-- HI_QP_HANDSHAKE (R389): The host proposes a protocol version, which the D8 agrees or refuses. -/
  | hiQpHandshake (v : Word)
  /-- QUEUE_ENABLE (R390): Writing ENABLE = 1 to HI_Q_CTRL checks the configuration and turns the queue ON. -/
  | queueEnable (q : Nat) (v : Word)
  /-- QUEUE_DISABLE (R393): Writing ENABLE = 0 puts the queue in DRAINING. -/
  | queueDisable (q : Nat) (v : Word)
  /-- QUEUE_DRAINED (R393): A draining queue with nothing outstanding becomes OFF or returns to ON. -/
  | queueDrained (q : Nat)
  /-- EVENT_RING_ENABLE (R403): Writing HI_EV_CFG enables or disables the event ring. -/
  | eventRingEnable (v : Word)
  /-- ENTRY_FETCH (R391): The chip manager's round-robin turn fetches up to 8 entries of a queue. -/
  | entryFetch
  /-- ENTRY_ARRIVAL (R405): A fetched entry arrives and is checked at fetch, failing or passing to its home die. ok: the read of the entry succeeded; data: the request data read from the host; dataOk: that read succeeded. -/
  | entryArrival (q : Nat) (ok : Bool) (entry : BitVec 512) (data : List Byte) (dataOk : Bool)
  /-- CREATE (R196): Creates a context with a root and optional initial tokens. the request of queue `q` with command id `cid` takes effect. -/
  | create (q : Nat) (cid : BitVec 16)
  /-- APPEND (R396): Appends tokens to a context. the request of queue `q` with command id `cid` takes effect. -/
  | append (q : Nat) (cid : BitVec 16)
  /-- GENERATE (R397): Samples up to MAXTOK tokens, writing token entries. logits: the row z of R74 as FP32; tokenOk: the token-ring write is accepted. -/
  | generate (q : Nat) (cid : BitVec 16) (logits : List Word) (tokenOk : Bool)
  /-- FORK (R219): Forks a context into a child that shares its pages. the request of queue `q` with command id `cid` takes effect. -/
  | fork (q : Nat) (cid : BitVec 16)
  /-- TRUNCATE (R219): Truncates a context to n tokens. the request of queue `q` with command id `cid` takes effect. -/
  | truncate (q : Nat) (cid : BitVec 16)
  /-- DELETE (R219): Releases all rows and the root and frees the context. the request of queue `q` with command id `cid` takes effect. -/
  | delete (q : Nat) (cid : BitVec 16)
  /-- FINETUNE (R396): Runs a fine-tune step on a context. imm: the IMM of the model's completion EMIT. -/
  | finetune (q : Nat) (cid : BitVec 16) (imm : DWord)
  /-- SEARCH (R330): Submits a batch of sketch-search queries against an index. the request of queue `q` with command id `cid` takes effect. -/
  | search (q : Nat) (cid : BitVec 16)
  /-- INSERT (R326): Inserts items into an index's side list. the request of queue `q` with command id `cid` takes effect. -/
  | insert (q : Nat) (cid : BitVec 16)
  /-- REMOVE (R327): Tombstones ids of an index. the request of queue `q` with command id `cid` takes effect. -/
  | remove (q : Nat) (cid : BitVec 16)
  /-- ALLOW_LOAD (R328): Replaces an allow bitmap slot. the request of queue `q` with command id `cid` takes effect. -/
  | allowLoad (q : Nat) (cid : BitVec 16)
  /-- MERGE (R342): Requests a side-list merge of an index. the request of queue `q` with command id `cid` takes effect. -/
  | merge (q : Nat) (cid : BitVec 16)
  /-- RANK_TABLE (R369): Loads a job rank table, or refuses it. the request of queue `q` with command id `cid` takes effect. -/
  | rankTable (q : Nat) (cid : BitVec 16)
  /-- SPILL_REGISTER (R265): Registers spillway frames in host memory. the request of queue `q` with command id `cid` takes effect. -/
  | spillRegister (q : Nat) (cid : BitVec 16)
  /-- LOAD (R397): Writes host data to device addresses. the request of queue `q` with command id `cid` takes effect. -/
  | load (q : Nat) (cid : BitVec 16)
  /-- SUPPLY (R281): Supplies plaintext for a poisoned weight granule. the request of queue `q` with command id `cid` takes effect. -/
  | supply (q : Nat) (cid : BitVec 16)
  /-- ABORT (R406): Aborts a request of the same queue at the next cut. the request of queue `q` with command id `cid` takes effect. -/
  | abort (q : Nat) (cid : BitVec 16)
  /-- NOP (R396): Completes with HI_CLOCK. the request of queue `q` with command id `cid` takes effect. -/
  | nop (q : Nat) (cid : BitVec 16)
  /-- IRQ_AGGREGATION_TIMER (R402): AGG_US after the first unsignalled completion, the queue's MSI-X vector is sent. -/
  | irqAggregationTimer (q : Nat)
  /-- MSIX_UNMASK (R402): Unmasking a vector with its pending bit set sends it. -/
  | msixUnmask (vec : Nat)
  /-- FUNCTION_LEVEL_RESET (R384): An FLR stops fetching, disables queues and resets HI registers. -/
  | functionLevelReset
  /-- PE_PERST_N (R384): A conventional reset of the host port has the effects of a host reset. -/
  | pePerstN (level : Bool)
  /-- LINK_DOWN (R384): The host link going down has the effects of a host reset. -/
  | linkDown
  /-- D3HOT (R384): Entry to D3hot has the effects of a host reset. -/
  | d3hot
  /-- BAR_ACCESS (R12): A BAR0 access of bad size or alignment is refused or discarded and logged. -/
  | barAccess (off : Nat) (bytes : Nat) (write : Bool)
  /-- BAR2_READ (R387): A debug read of core store, terraces, tables or the device window. -/
  | bar2Read (off : Nat) (len : Nat) (ecc : Ecc)
  /-- BAR2_WRITE (R387): A debug write, carried out or discarded under HI_DBG_CTRL.WREN. -/
  | bar2Write (off : Nat) (data : List Byte)
  /-- PEER_WINDOW (R387): A peer-window access is sent as a message to another chip. -/
  | peerWindow (off : Nat) (len : Nat) (write : Bool) (data : List Byte)
  /-- PEER_WINDOW_TIMEOUT (R387): A peer-window access without an answer in 10 ms completes with Completer Abort. -/
  | peerWindowTimeout
  /-- LO_READ_CAPTURE (R11): A read of a _LO register captures all 64 bits for the following _HI read. -/
  | loReadCapture (off : Nat)
  /-- HI_WRITE_COMMIT (R11): A write of a _HI register makes the held 64-bit value take effect. -/
  | hiWriteCommit (off : Nat) (v : Word)
  /-- REGISTER_WRITE (R14): A write to any register without a row of its own acts by its access code. hwSet: bits hardware sets (W1C) or clears (W1S) in the same SCLK cycle (R15). -/
  | registerWrite (off : Nat) (v : Word) (hwSet : Word)
  /-- SF_STICKY (R75): Clearing SF_STICKY bits also clears them in every core. -/
  | sfSticky (v : Word)
  /-- SF_CORE_FLAG (R75): Clearing a core's flag bit clears all of that core's status bits. -/
  | sfCoreFlag (i : Nat) (v : Word)
  /-- POLDER_ENABLE (R436): Writing 1 to GL_POLDER_CTRL.ENABLE enables a polder or latches the enable. -/
  | polderEnable (p : Nat)
  /-- POLDER_DISABLE (R436): Writing 0 to GL_POLDER_CTRL.ENABLE drains a polder. -/
  | polderDisable (p : Nat)
  /-- POLDER_DRAINED (R435): A draining polder with nothing outstanding becomes OFF or returns to ON. -/
  | polderDrained (p : Nat)
  /-- EL_RD (R466): The host advances the log read index. -/
  | elRd (v : Word)
  /-- EL_TEST (R478): A keyed write records a TEST report. -/
  | elTest (v : Word)
  /-- EL_ALERT (R467): Clearing alert bits may release ALERT_N and re-arms EL_OVF_FIRST. -/
  | elAlert (v : Word)
  /-- EL_ALERT_EN (R467): Writing the alert enables sets or releases ALERT_N. -/
  | elAlertEn (v : Word)
  /-- WARM_START_REQUEST (R428): A keyed GL_RESET write with WARM = 1 requests a warm start, or is refused. -/
  | warmStartRequest (v : Word)
  /-- WARM_RESTART (R430): After the log drain, the dies reset and the warm-start phases begin. -/
  | warmRestart
  /-- RAISE_SVN (R440): IM_FUSE_CMD raises the fused SVN to the loaded image's SVN. -/
  | raiseSvn (v : Word) (fuseOk : Bool)
  /-- REVOKE_KEY (R440): IM_FUSE_CMD permanently revokes a key slot. -/
  | revokeKey (v : Word) (fuseOk : Bool)
  /-- RESET_N_RISE (R426): RESET_N rising with PWRGOOD high begins a cold start. -/
  | resetNRise
  /-- RESET_N_LOW (R426): RESET_N held low for 10 µs while powered begins a cold start. -/
  | resetNLow
  /-- START_PHASE_DONE (R427): A start phase completes, and the next phase begins. ms: duration of the phase; failed: physical cores (phase self-test/sparing) or pseudo-channels 64s+p (phase stacks) that failed; ok: the phase check passed. -/
  | startPhaseDone (ms : Nat) (failed : List Nat) (ok : Bool)
  /-- IMAGE_SLOT_CHECK (R422): A flash slot is read and checked, and on failure the other slot is tried. -/
  | imageSlotCheck (slot : Nat) (readable : Bool)
  /-- IMAGE_APPLY (R423): Apply writes the stores, computes IM_STORE_CRC and enters LOADED. -/
  | imageApply
  /-- PWRGOOD_RISE (R497): PWRGOOD rising with RESET_N high begins a cold start. -/
  | pwrgoodRise
  /-- PWRGOOD_FALL (R497): PWRGOOD falling resets the D8 within 1 µs. -/
  | pwrgoodFall
  /-- ERROR_REPORT (R463): A unit's report enters the intake queue, coalesces or overflows. -/
  | errorReport (code : BitVec 16) (source : BitVec 16) (phys : Bool) (data : DWord)
  /-- LOG_ENTRY_WRITE (R466): The writer records one queued report as a log entry. -/
  | logEntryWrite
  /-- PLATFORM_EVENT_ACK (R476): The event receiver acknowledges a PLDM event. -/
  | platformEventAck
  /-- ENTDAA (R473): I3C dynamic address assignment by ENTDAA. -/
  | entdaa (addr : BitVec 7)
  /-- SETDASA (R473): I3C dynamic address assignment by SETDASA. -/
  | setdasa (addr : BitVec 7)
  /-- SET_ENDPOINT_ID (R473): MCTP Set Endpoint ID. -/
  | setEndpointId (eid : Byte)
  /-- GET_ENDPOINT_ID (R473): MCTP Get Endpoint ID. -/
  | getEndpointId
  /-- GET_ENDPOINT_UUID (R473): MCTP Get Endpoint UUID. -/
  | getEndpointUuid
  /-- GET_MCTP_VERSION_SUPPORT (R473): MCTP Get MCTP Version Support. -/
  | getMctpVersionSupport (mtype : Byte)
  /-- GET_MESSAGE_TYPE_SUPPORT (R473): MCTP Get Message Type Support. -/
  | getMessageTypeSupport
  /-- GETTID (R474): PLDM GetTID. -/
  | gettid
  /-- SETTID (R474): PLDM SetTID. -/
  | settid (tid : Byte)
  /-- GETPLDMVERSION (R474): PLDM GetPLDMVersion. -/
  | getpldmversion (ptype : Byte)
  /-- GETPLDMTYPES (R474): PLDM GetPLDMTypes. -/
  | getpldmtypes
  /-- GETPLDMCOMMANDS (R474): PLDM GetPLDMCommands. -/
  | getpldmcommands (ptype : Byte)
  /-- GETPDRREPOSITORYINFO (R474): PLDM GetPDRRepositoryInfo. -/
  | getpdrrepositoryinfo
  /-- GETPDR (R475): PLDM GetPDR for the sensors and effecters. -/
  | getpdr (record : Nat)
  /-- GETSENSORREADING (R475): PLDM GetSensorReading of a numeric sensor. -/
  | getsensorreading (sensor : Nat)
  /-- GETSTATESENSORREADINGS (R475): PLDM GetStateSensorReadings. -/
  | getstatesensorreadings (sensor : Nat)
  /-- EFFECTER_WARM_START (R475): SetStateEffecterStates on effecter 1 requests a warm start. -/
  | effecterWarmStart (state : Nat)
  /-- EFFECTER_ALERT_CLEAR (R475): SetStateEffecterStates on effecter 2 clears EL_ALERT bits except FATAL. -/
  | effecterAlertClear (state : Nat)
  /-- SETEVENTRECEIVER (R474): PLDM SetEventReceiver. -/
  | seteventreceiver (eid : Byte)
  /-- POLLFORPLATFORMEVENTMESSAGE (R474): PLDM PollForPlatformEventMessage. -/
  | pollforplatformeventmessage
  /-- REQUESTUPDATE (R477): A PLDM firmware update begins, or is answered RETRY during a start. -/
  | requestupdate
  /-- FIRMWARE_DATA_TRANSFER (R477): A 4,096-byte transfer of update data arrives and is programmed into the inactive slot. -/
  | firmwareDataTransfer (off : Nat) (data : List Byte)
  /-- VERIFYCOMPLETE (R477): The written slot is checked against R422 checks 0x01–0x0C. -/
  | verifycomplete
  /-- ACTIVATEFIRMWARE (R477): Sets IM_BOOT_SEL.ONCE for the next start. -/
  | activatefirmware (selfContained : Bool)
  /-- THROTTLE_RUN (R485): Every 100 µs the throttle controller adjusts the CCLK divider. temps: what the 72 sensors read after factory trims, in 0.25 °C (R489). -/
  | throttleRun (temps : List (BitVec 12))
  /-- POWER_ESTIMATE (R485): Every 1 µs a power estimate above 2,100 W forces ÷6 as an excursion. -/
  | powerEstimate (watts : Nat)
  /-- FAST_THROT_N (R487): FAST_THROT_N low for 100 ns forces ÷6. -/
  | fastThrotN (level : Bool)
  /-- VOLTAGE_RAISE_TIMEOUT (R488): A VDD_CORE raise not confirmed within 1 ms is abandoned. -/
  | voltageRaiseTimeout
  /-- PMBUS_POLL (R493): Every 1 ms the regulators' outputs and status are read. -/
  | pmbusPoll (rail : Nat) (answer : Bool) (mv : Nat) (amps10mA : Nat) (watts : Nat) (status : BitVec 16)
  /-- PMB_ALERT_N (R493): PMB_ALERT_N falling causes a STATUS_WORD read and CLEAR_FAULTS. -/
  | pmbAlertN (rail : Nat) (answer : Bool) (status : BitVec 16)
  /-- THERMTRIP (R490): A sensor crossing the trip threshold drives THERMTRIP_N and stops the core clocks. -/
  | thermtrip (sensor : Nat) (temp : BitVec 12)
  /-- RAIL_FAULT (R494): A rail out of range raises a fatal RAIL_FAULT and stops the core clocks. -/
  | railFault (rail : Nat)
  /-- SYS_REFCLK_LOSS (R484): Loss of SYS_REFCLK or PLL lock stops every clock and holds the D8 in reset. -/
  | sysRefclkLoss
  /-- PE_REFCLK_LOSS (R484): Loss of PE_REFCLK takes the host link down. -/
  | peRefclkLoss
  /-- UNTAGGED_TRANSFER_COMPLETE (R135): A transfer of a TERRACE or XCORE haul completes under die-mesh and bridge credits and delivers its bytes towards a fill. -/
  | untaggedTransferComplete (core : Nat) (sc : Nat) (status : XferStatus)
  /-- PC_RANGE (R113): The sequencer meets a step beyond STEPS or of reserved TYPE at the current PC and faults the slot with PC_RANGE. the sequencer of logical core `core` reaches this step in task slot `slot`. -/
  | pcRange (core : Nat) (slot : Nat)
  /-- HOST_LINK_UP (R382): The PCI Express or CXL link to the host completes training and comes up. -/
  | hostLinkUp (cxl : Bool)
  /-- CONFIGURATION_REQUEST (R427): A host configuration request is answered with Configuration Request Retry Status before cold-start phase 2 ends and normally afterwards, including a return from D3hot to D0. -/
  | configurationRequest (toD0 : Bool)
  /-- PATROL_READ (R280): A patrol read of stack memory finds a corrected or uncorrectable error, reports it and may set POISON. -/
  | patrolRead (stack : Nat) (pc : Nat) (gran : Nat) (ecc : Ecc)
  /-- WATCHDOG (R461): A control watchdog expires and raises a class 5 WATCHDOG report. -/
  | watchdog (src : Nat)
  /-- STEP_MARK_FALL (R456): STEP_MARK falls 256 ns after it rose. -/
  | stepMarkFall
  /-- POSTPONED_BOUNDARY (R456): A boundary postponed because it came within 256 ns of STEP_MARK's previous fall is declared once that minimum low time has passed. -/
  | postponedBoundary
  /-- VOUT_COMMAND_STEP (R493): The D8 writes the next VOUT_COMMAND step of at most 5 mV to a VDD_CORE regulator, at most one step per 2 µs. -/
  | voutCommandStep (die : VoutStep)
  /-- TCK (R509): A TCK edge advances the JTAG TAP and carries out BYPASS, IDCODE, SAMPLE/PRELOAD, EXTEST, EXTEST_PULSE or EXTEST_TRAIN. -/
  | tck (tms : Bool) (tdi : Bool)
  /-- TRST_N (R509): TRST_N going low resets the JTAG port, which then has no effect on the D8. -/
  | trstN (level : Bool)
  /-- POWER_REMOVE (R496): The rails are removed after PWRGOOD falls, the stack contents are lost when VDD_STK falls, and THERMTRIP_N is released when VDD_IO is removed. -/
  | powerRemove (rail : Nat)
  deriving DecidableEq, Repr

end Sys2Proof
end

