-- ==== Sys2Proof/Machine/Maps.lean ====
section
/-! DEFINITION. Bit fields and byte order (R10, R86, R123), sparse tables in one canonical form, and byte memories. -/

namespace Sys2Proof.Machine

/-! ### Bit fields -/

/-- x[hi:lo] (R10). -/
def bitsOf (x hi lo : Nat) : Nat := x / 2 ^ lo % 2 ^ (hi + 1 - lo)

/-- Bit n of x. -/
def bitOf (x n : Nat) : Bool := x / 2 ^ n % 2 == 1

/-- x with the field [hi:lo] replaced by v. -/
def setBits (x hi lo v : Nat) : Nat := x - bitsOf x hi lo * 2 ^ lo + v % 2 ^ (hi + 1 - lo) * 2 ^ lo

/-- A signed field of w bits. -/
def signedOf (w x : Nat) : Int := if 2 ^ (w - 1) ≤ x % 2 ^ w then (x % 2 ^ w : Nat) - 2 ^ w else (x % 2 ^ w : Nat)

def b2n (b : Bool) : Nat := if b then 1 else 0

/-- n / k rounded up. -/
def ceilDiv (n k : Nat) : Nat := (n + k - 1) / k

/-- n rounded up to a multiple of k. -/
def roundUp (n k : Nat) : Nat := ceilDiv n k * k

/-! ### Byte order: little-endian throughout -/

/-- The n bytes of v, least significant first. -/
def leBytes : Nat → Nat → List Byte
  | 0, _ => []
  | n + 1, v => BitVec.ofNat 8 v :: leBytes n (v / 256)

/-- The number that bytes spell, least significant first. -/
def ofLe : List Byte → Nat
  | [] => 0
  | b :: t => b.toNat + 256 * ofLe t

/-- Field of n bytes at offset i of a byte list; bytes past its end read as 0. -/
def leField (l : List Byte) (i n : Nat) : Nat := ofLe ((l.drop i).take n)

/-! ### Sparse tables: key and value pairs with keys strictly rising -/

abbrev Map (α : Type) := List (Nat × α)

namespace Map

variable {α : Type}

def get? (m : Map α) (k : Nat) : Option α := (m.find? fun x => x.1 == k).map (·.2)

def getD (d : α) (m : Map α) (k : Nat) : α := (m.get? k).getD d

def del (m : Map α) (k : Nat) : Map α := m.filter fun x => x.1 != k

/-- The entry k set to v, in its place by key. -/
def put : Map α → Nat → α → Map α
  | [], k, v => [(k, v)]
  | (j, w) :: t, k, v =>
    if k < j then (k, v) :: (j, w) :: t
    else if k = j then (k, v) :: t
    else (j, w) :: put t k v

/-- The entry k set to v, where an unlisted key reads as d: setting d removes the entry. -/
def store [DecidableEq α] (d : α) (m : Map α) (k : Nat) (v : α) : Map α :=
  if v = d then m.del k else m.put k v

def keys (m : Map α) : List Nat := m.map (·.1)

/-- Keys strictly rising. -/
def sorted : Map α → Bool
  | [] => true
  | [_] => true
  | a :: b :: t => decide (a.1 < b.1) && sorted (b :: t)

end Map

/-! ### Byte memories -/

/-- A memory: listed bytes by address, addresses strictly rising, no entry equal to the fill byte an unlisted address reads as. -/
abbrev Memory := List Host.Cell

namespace Memory

/-- The canonical form, for a memory whose unlisted bytes read as `fill`. -/
def wf (fill : Byte) (m : Memory) : Bool := Map.sorted m && m.all fun c => c.2 != fill

def read (fill : Byte) (m : Memory) (a : Nat) : Byte := Map.getD fill m a

/-- The bytes from address a, walking cells that all lie at or above a. -/
def readCells (fill : Byte) : Memory → Nat → Nat → List Byte
  | _, _, 0 => []
  | [], a, n + 1 => fill :: readCells fill [] (a + 1) n
  | (k, b) :: t, a, n + 1 =>
    if k = a then b :: readCells fill t (a + 1) n
    else fill :: readCells fill ((k, b) :: t) (a + 1) n

/-- n bytes from address a. -/
def readBytes (fill : Byte) (m : Memory) (a n : Nat) : List Byte :=
  readCells fill (m.filter fun c => a ≤ c.1) a n

/-- The listed cells of bytes placed from address a. -/
def cells (fill : Byte) : Nat → List Byte → Memory
  | _, [] => []
  | a, b :: t => if b = fill then cells fill (a + 1) t else (a, b) :: cells fill (a + 1) t

/-- Bytes stored from address a. -/
def write (fill : Byte) (m : Memory) (a : Nat) (bs : List Byte) : Memory :=
  (m.filter fun c => c.1 < a) ++ cells fill a bs ++ (m.filter fun c => a + bs.length ≤ c.1)

end Memory

end Sys2Proof.Machine
end

