-- ==== Sys2Proof/Machine/Crypto.lean ====
section
/-! DEFINITION. The standard functions the manual names: CRC-32C (R278, R302, R423), CRC-32, SipHash-2-4 (R209), AES-256 with XTS (R277) and key wrap (R421), SHA-384 and ECDSA P-384 (R416). Their definitions come from the standards themselves (PRESUMED, entry 12). -/

namespace Sys2Proof.Machine

/-! ### Cyclic redundancy checks -/

/-- One bit of a reflected CRC. -/
def crcBits (poly : Nat) : Nat → Nat → Nat
  | 0, c => c
  | n + 1, c => crcBits poly n (if c % 2 = 1 then (c / 2) ^^^ poly else c / 2)

/-- A reflected 32-bit CRC with all-ones start and final complement. -/
def crc32With (poly : Nat) (l : List Byte) : Nat :=
  (l.foldl (fun c b => crcBits poly 8 (c ^^^ b.toNat)) 0xFFFFFFFF) ^^^ 0xFFFFFFFF

def crc32c (l : List Byte) : Nat := crc32With 0x82F63B78 l
def crc32 (l : List Byte) : Nat := crc32With 0xEDB88320 l

/-! ### 64-bit words -/

def wadd64 (a b : Nat) : Nat := (a + b) % 2 ^ 64
def rol64 (x n : Nat) : Nat := (x * 2 ^ n) % 2 ^ 64 ||| x / 2 ^ (64 - n)
def ror64 (x n : Nat) : Nat := rol64 x (64 - n)

/-! ### SipHash-2-4 -/

structure Sip where
  v0 : Nat
  v1 : Nat
  v2 : Nat
  v3 : Nat

def Sip.round (v : Sip) : Sip :=
  let a := wadd64 v.v0 v.v1
  let b := rol64 v.v1 13 ^^^ a
  let a := rol64 a 32
  let c := wadd64 v.v2 v.v3
  let d := rol64 v.v3 16 ^^^ c
  let a := wadd64 a d
  let d := rol64 d 21 ^^^ a
  let c := wadd64 c b
  let b := rol64 b 17 ^^^ c
  ⟨a, b, rol64 c 32, d⟩

def Sip.word (v : Sip) (m : Nat) : Sip :=
  let v := (Sip.round (Sip.round { v with v3 := v.v3 ^^^ m }))
  { v with v0 := v.v0 ^^^ m }

/-- Whole 8-byte words, then the rest. -/
def sipWords : Nat → List Byte → Sip → Sip × List Byte
  | 0, l, v => (v, l)
  | n + 1, l, v => sipWords n (l.drop 8) (v.word (ofLe (l.take 8)))

/-- SipHash-2-4 of l under the key halves k0, k1. -/
def sipHash (k0 k1 : Nat) (l : List Byte) : Nat :=
  let v : Sip := ⟨k0 ^^^ 0x736f6d6570736575, k1 ^^^ 0x646f72616e646f6d, k0 ^^^ 0x6c7967656e657261, k1 ^^^ 0x7465646279746573⟩
  let (v, r) := sipWords (l.length / 8) l v
  let v := v.word (ofLe r + l.length % 256 * 2 ^ 56)
  let v := Sip.round (Sip.round (Sip.round (Sip.round { v with v2 := v.v2 ^^^ 0xff })))
  v.v0 ^^^ v.v1 ^^^ v.v2 ^^^ v.v3

/-! ### AES-256 -/

def xtime (a : Nat) : Nat := if 128 ≤ a then (2 * a) ^^^ 0x11b else 2 * a

/-- The product in GF(2^8). -/
def gmulN : Nat → Nat → Nat → Nat
  | 0, _, _ => 0
  | n + 1, a, b => (if b % 2 = 1 then a else 0) ^^^ gmulN n (xtime a) (b / 2)

def gmul (a b : Nat) : Nat := gmulN 8 a b

/-- a^(2^n) products: a^254 is the inverse. -/
def ginv (a : Nat) : Nat :=
  let sq := fun x => gmul x x
  let a2 := sq a
  let a4 := sq a2
  let a8 := sq a4
  let a16 := sq a8
  let a32 := sq a16
  let a64 := sq a32
  gmul (gmul (gmul a2 a4) (gmul a8 a16)) (gmul (gmul a32 a64) (sq a64))

def rotl8 (x n : Nat) : Nat := (x * 2 ^ n) % 256 ||| x / 2 ^ (8 - n)

def sbox (a : Nat) : Nat :=
  let b := ginv a
  b ^^^ rotl8 b 1 ^^^ rotl8 b 2 ^^^ rotl8 b 3 ^^^ rotl8 b 4 ^^^ 0x63

def sboxInv (a : Nat) : Nat := ginv (rotl8 a 1 ^^^ rotl8 a 3 ^^^ rotl8 a 6 ^^^ 0x05)

def xorL (a b : List Nat) : List Nat := List.zipWith (fun x y => x ^^^ y) a b

/-- The rest of the key schedule: words so far, newest first. -/
def aesExpand : Nat → Nat → Nat → List (List Nat) → List (List Nat)
  | 0, _, _, ws => ws
  | n + 1, i, rcon, ws =>
    let t := ws.headD []
    let old := ws.getD 7 []
    if i % 8 = 0 then
      let r := ((t.drop 1) ++ t.take 1).map sbox
      aesExpand n (i + 1) (xtime rcon) (xorL old (xorL r [rcon, 0, 0, 0]) :: ws)
    else if i % 8 = 4 then aesExpand n (i + 1) rcon (xorL old (t.map sbox) :: ws)
    else aesExpand n (i + 1) rcon (xorL old t :: ws)

def groups (k : Nat) : Nat → List Nat → List (List Nat)
  | 0, _ => []
  | n + 1, l => l.take k :: groups k n (l.drop k)

/-- The 15 round keys of a 32-byte key. -/
def aesKeys (key : List Nat) : List (List Nat) :=
  groups 16 15 ((aesExpand 52 8 1 (groups 4 8 key).reverse).reverse.flatten)

def shiftRows (s : List Nat) : List Nat := (List.range 16).map fun i => s.getD ((i + 4 * (i % 4)) % 16) 0
def shiftRowsInv (s : List Nat) : List Nat := (List.range 16).map fun i => s.getD ((i + 12 * (i % 4)) % 16) 0

def mixWith (m : List Nat) (s : List Nat) : List Nat :=
  (List.range 16).map fun i =>
    ((List.range 4).map fun k => gmul (m.getD ((k + 4 - i % 4) % 4) 0) (s.getD (i / 4 * 4 + k) 0)).foldl (fun a b => a ^^^ b) 0

def aesEncrypt (ks : List (List Nat)) (b : List Nat) : List Nat :=
  let s := (ks.drop 1).take 13 |>.foldl (fun s k => xorL (mixWith [2, 3, 1, 1] (shiftRows (s.map sbox))) k) (xorL b (ks.headD []))
  xorL (shiftRows (s.map sbox)) (ks.getD 14 [])

def aesDecrypt (ks : List (List Nat)) (b : List Nat) : List Nat :=
  let s := ((ks.drop 1).take 13).reverse.foldl
    (fun s k => mixWith [14, 11, 13, 9] (xorL ((shiftRowsInv s).map sboxInv) k)) (xorL b (ks.getD 14 []))
  xorL ((shiftRowsInv s).map sboxInv) (ks.headD [])

/-- Little-endian bytes as numbers. -/
def leNats (n v : Nat) : List Nat := (leBytes n v).map (·.toNat)
def ofLeNats (l : List Nat) : Nat := ofLe (l.map (BitVec.ofNat 8))

/-! ### XTS-AES-256 (IEEE 1619), for data units of 4,096 B -/

/-- Doubling of the tweak. -/
def xtsDouble (t : Nat) : Nat := let d := 2 * t; if 2 ^ 128 ≤ d then (d % 2 ^ 128) ^^^ 0x87 else d

def xtsBlocks (f : List Nat → List Nat) : Nat → Nat → List Nat → List Nat
  | 0, _, _ => []
  | n + 1, t, l =>
    let k := leNats 16 t
    xorL (f (xorL (l.take 16) k)) k ++ xtsBlocks f n (xtsDouble t) (l.drop 16)

/-- One data unit under a 64-byte key, at data unit number `unit`. -/
def xtsUnit (dec : Bool) (key : List Nat) (unit : Nat) (l : List Nat) : List Nat :=
  let k1 := aesKeys (key.take 32)
  let t := ofLeNats (aesEncrypt (aesKeys (key.drop 32)) (leNats 16 unit))
  xtsBlocks (if dec then aesDecrypt k1 else aesEncrypt k1) 256 t l

def xtsUnits (dec : Bool) (key : List Nat) : Nat → Nat → List Nat → List Nat
  | 0, _, _ => []
  | n + 1, u, l => xtsUnit dec key u (l.take 4096) ++ xtsUnits dec key n (u + 1) (l.drop 4096)

/-- A granule of 65,536 B under a polder's key (R277): the tweak is the device address div 4,096. -/
def xtsGranule (dec : Bool) (key : List Byte) (gran : Nat) (l : List Byte) : List Byte :=
  (xtsUnits dec (key.map (·.toNat)) 16 (16 * gran) (l.map (·.toNat))).map (BitVec.ofNat 8)

/-! ### Key wrap with padding (SP 800-38F) -/

def beNats (n v : Nat) : List Nat := (leNats n v).reverse
def ofBeNats (l : List Nat) : Nat := ofLeNats l.reverse

/-- The inverse wrapping steps t, t − 1, …: A and the semiblocks. -/
def unwrapSteps (ks : List (List Nat)) (n : Nat) : Nat → Nat → List (List Nat) → Nat × List (List Nat)
  | 0, a, r => (a, r)
  | t + 1, a, r =>
    let i := t % n
    let b := aesDecrypt ks (beNats 8 (a ^^^ (t + 1)) ++ r.getD i [])
    unwrapSteps ks n t (ofBeNats (b.take 8)) (r.set i (b.drop 8))

/-- KWP-AD: the plaintext, or none where the check fails. -/
def keyUnwrap (kek : List Byte) (c : List Byte) : Option (List Byte) :=
  let ks := aesKeys (kek.map (·.toNat))
  let l := c.map (·.toNat)
  let n := l.length / 8 - 1
  if l.length % 8 ≠ 0 ∨ n = 0 then none
  else
    let (a, r) := if n = 1 then let b := aesDecrypt ks l; (ofBeNats (b.take 8), [b.drop 8])
      else unwrapSteps ks n (6 * n) (ofBeNats (l.take 8)) (groups 8 n (l.drop 8))
    let p := r.flatten
    let len := a % 2 ^ 32
    if a / 2 ^ 32 = 0xA65959A6 ∧ 8 * (n - 1) < len ∧ len ≤ 8 * n ∧ (p.drop len).all (· == 0) then
      some ((p.take len).map (BitVec.ofNat 8))
    else none

/-! ### SHA-384 -/

/-- The largest r < 2^(n) · … with r^k ≤ x, bit by bit from bit n − 1. -/
def rootBits (k x : Nat) : Nat → Nat → Nat
  | 0, r => r
  | n + 1, r => let t := r + 2 ^ n; rootBits k x n (if t ^ k ≤ x then t else r)

def isPrime (n : Nat) : Bool := decide (2 ≤ n) && (List.range n).all fun d => d < 2 || n % d != 0

/-- The first 80 primes. -/
def primes80 : List Nat := (List.range 410).filter isPrime

def sha512K : List Nat := primes80.map fun p => rootBits 3 (p * 2 ^ 192) 67 0 % 2 ^ 64
def sha384H : List Nat := ((primes80.drop 8).take 8).map fun p => rootBits 2 (p * 2 ^ 128) 69 0 % 2 ^ 64

/-- The message schedule, newest word first. -/
def shaExpand : Nat → List Nat → List Nat
  | 0, w => w
  | n + 1, w =>
    let a := w.getD 1 0
    let b := w.getD 14 0
    let s1 := ror64 a 19 ^^^ ror64 a 61 ^^^ a / 2 ^ 6
    let s0 := ror64 b 1 ^^^ ror64 b 8 ^^^ b / 2 ^ 7
    shaExpand n (wadd64 (wadd64 s1 (w.getD 6 0)) (wadd64 s0 (w.getD 15 0)) :: w)

def shaRound (h : List Nat) (kw : Nat) : List Nat :=
  match h with
  | [a, b, c, d, e, f, g, x] =>
    let s1 := ror64 e 14 ^^^ ror64 e 18 ^^^ ror64 e 41
    let ch := (e &&& f) ^^^ ((2 ^ 64 - 1 - e) &&& g)
    let t1 := wadd64 (wadd64 x s1) (wadd64 ch kw)
    let s0 := ror64 a 28 ^^^ ror64 a 34 ^^^ ror64 a 39
    let t2 := wadd64 s0 ((a &&& b) ^^^ (a &&& c) ^^^ (b &&& c))
    [wadd64 t1 t2, a, b, c, wadd64 d t1, e, f, g]
  | _ => h

def shaBlock (ks h block : List Nat) : List Nat :=
  let w := (shaExpand 64 ((groups 8 16 block).map ofBeNats).reverse).reverse
  List.zipWith wadd64 h ((List.zipWith wadd64 ks w).foldl shaRound h)

/-- SHA-384 of bytes: 48 bytes. -/
def sha384 (l : List Byte) : List Byte :=
  let m := l.map (·.toNat)
  let pad := (2 * 128 - 17 - m.length % 128) % 128
  let m' := m ++ [0x80] ++ List.replicate pad 0 ++ beNats 16 (8 * m.length)
  let h := (groups 128 (m'.length / 128) m').foldl (shaBlock sha512K) sha384H
  (((h.take 6).map (beNats 8)).flatten).map (BitVec.ofNat 8)

/-! ### ECDSA on P-384 (FIPS 186-5) -/

def p384P : Nat := 2 ^ 384 - 2 ^ 128 - 2 ^ 96 + 2 ^ 32 - 1
def p384N : Nat := 0xFFFFFFFFFFFFFFFFFFFFFFFFFFFFFFFFFFFFFFFFFFFFFFFFC7634D81F4372DDF581A0DB248B0A77AECEC196ACCC52973
def p384B : Nat := 0xB3312FA7E23EE7E4988E056BE3F82D19181D9C6EFE8141120314088F5013875AC656398D8A2ED19D2A85C8EDD3EC2AEF
def p384G : Nat × Nat :=
  (0xAA87CA22BE8B05378EB1C71EF320AD746E1D3B628BA79B9859F741E082542A385502F25DBF55296C3A545E3872760AB7,
   0x3617DE4A96262C6F5D9E98BF9292DC29F8F41DBD289A147CE9DA3113B5F0B8C00A60B1CE1D7E819D7A431D7C90EA0E5F)

/-- a^e mod m over the low n bits of e. -/
def powMod (m : Nat) : Nat → Nat → Nat → Nat → Nat
  | 0, _, _, r => r
  | n + 1, a, e, r => powMod m n (a * a % m) (e / 2) (if e % 2 = 1 then r * a % m else r)

def invMod (m a : Nat) : Nat := powMod m 384 (a % m) (m - 2) 1

/-- Addition of curve points; none is the point at infinity. -/
def ecAdd : Option (Nat × Nat) → Option (Nat × Nat) → Option (Nat × Nat)
  | none, q => q
  | p, none => p
  | some (x1, y1), some (x2, y2) =>
    let m := p384P
    if x1 = x2 ∧ (y1 + y2) % m = 0 then none
    else
      let l := if x1 = x2 then (3 * x1 * x1 + (m - 3)) * invMod m (2 * y1) % m else (y2 + m - y1) * invMod m (x2 + m - x1) % m
      let x3 := (l * l + 2 * m - x1 - x2) % m
      some (x3, (l * (x1 + m - x3) + m - y1) % m)

/-- k times a point over the low n bits of k. -/
def ecMulN : Nat → Nat → Option (Nat × Nat) → Option (Nat × Nat) → Option (Nat × Nat)
  | 0, _, _, r => r
  | n + 1, k, p, r => ecMulN n (k / 2) (ecAdd p p) (if k % 2 = 1 then ecAdd r p else r)

/-- Verification of (r, s) over a 384-bit digest e under the public key (x, y). -/
def ecdsaVerify (x y e r s : Nat) : Bool :=
  let m := p384P
  let n := p384N
  decide (x < m) && decide (y < m) && (y * y % m == (x * x * x + (m - 3) * x + p384B) % m)
    && decide (0 < r) && decide (r < n) && decide (0 < s) && decide (s < n)
    && (let w := invMod n s
        let a := ecMulN 384 (e * w % n) (some p384G) none
        let b := ecMulN 384 (r * w % n) (some (x, y)) none
        match ecAdd a b with
        | some (vx, _) => vx % n == r
        | none => false)

end Sys2Proof.Machine
end

