-- ==== Sys2Proof/Config.lean ====
section
/-! DEFINITION. The values the manual leaves open: each is a constant without a body, so that nothing can be proved of the value. -/

namespace Sys2Proof.Config

/-- The threshold that chooses among the results R64 allows a built-in special function: function code, output format code and candidate result name it, and the argument is compared with it, so that results stay monotone (R65). -/
opaque sfuSeam : Nat → Nat → Nat → Int

/-- The choice of a micro-program basic step within 1 ulp of the output format (R69): function, output format and FP32 argument fix it. -/
opaque sfuRaw : Nat → Nat → Nat → Nat

/-- The value of a choice that the manual leaves to chance or leaves unstated: the counter `State.free` names the draw. -/
opaque freeNat : Nat → Nat

/-- The result the manual does not state for an operation whose operands it leaves uncovered: an operation number and its operands name it. -/
opaque unstated : Nat → List Nat → Nat

/-- The JTAG instruction codes: the manual names the instructions of R509 and not their codes. `none` is an unassigned code, which selects BYPASS. -/
opaque jtagCode : Nat → Option Nat

/-- The length of the JTAG instruction register, which the manual does not give. -/
opaque jtagIrLength : Nat

/-- Cells of the boundary-scan chain beyond one for each of its 669 signals (R509 does not count them). -/
opaque jtagExtraCells : Nat

/-- The capture value of the JTAG instruction register. -/
opaque jtagIrCapture : Nat

/-- The record context that a model pairs with a DESC context of a core (R205): model, core, context. The manual does not say where the pairing stands. -/
opaque recordContext : Nat → Nat → Nat → Nat

/-- A value of the up-projections WK and WV that the image stores as KV INT8 blocks (R250): model, layer, whether WV, head, output column, latent column, and whether the block's scale is meant. The manual does not say where the image carries them. -/
opaque upProjection : Nat → Nat → Bool → Nat → Nat → Nat → Bool → Nat

/-- The stream context, as 32 · core + context, that writes a page of a layer (R207): model, context, layer, and the page's place among those that the context's step writes. The model's haul table fixes it. -/
opaque pageWriter : Nat → Nat → Nat → Nat → Nat

/-- The pattern of that stream (R207): bits 207:160 of the context, then 287:224, then the first 64-byte unit of the page; by model, layer, first slot and slots written. The model's haul table fixes it. -/
opaque pagePattern : Nat → Nat → Nat → Nat → Nat

end Sys2Proof.Config
end

