-- ==== Sys2Proof/Machine/Fp.lean ====
section
/-! DEFINITION. Number formats, exact values, rounding and conversion (R44–R50), the vector lanes (R58) and the arithmetic status bits (R59). -/

namespace Sys2Proof.Machine

/-! ### Arithmetic status (R59) -/

/-- What a result reports: the status bits of R59 and the three counts of R75. -/
structure Arith where
  bits    : Nat
  nans    : Nat
  sats    : Nat
  inexact : Nat
  deriving DecidableEq, Repr

namespace Arith

def none : Arith := ⟨0, 0, 0, 0⟩
/-- A NaN produced from inputs that are not NaN. -/
def invalid : Arith := ⟨0x01, 0, 0, 0⟩
def overflow : Arith := ⟨0x02, 0, 0, 0⟩
/-- A clamped value, counted as a saturated conversion (R75). -/
def saturated : Arith := ⟨0x04, 0, 1, 0⟩
def underflow : Arith := ⟨0x08, 0, 0, 0⟩
def nanSeen : Arith := ⟨0x10, 0, 0, 0⟩
/-- A tile that breaks the R54 condition, counted once (R75). -/
def windowInexact : Arith := ⟨0x20, 0, 0, 1⟩
def pwlClamp : Arith := ⟨0x40, 0, 0, 0⟩
/-- A canonical NaN produced (R75). -/
def nanOut : Arith := ⟨0, 1, 0, 0⟩

def add (a b : Arith) : Arith :=
  ⟨a.bits ||| b.bits, a.nans + b.nans, a.sats + b.sats, a.inexact + b.inexact⟩

/-- The report of a list of results. -/
def sum (l : List Arith) : Arith := l.foldl Arith.add Arith.none

/-- `x` if `c`, nothing otherwise. -/
def when (c : Bool) (x : Arith) : Arith := if c then x else Arith.none

end Arith

/-! ### Formats (R44, R45) -/

/-- The thirteen formats of R44. -/
inductive Fmt where
  | fp32 | bf16 | fp16 | e4m3 | e5m2 | mxE4m3 | mxE5m2 | mxE3m2 | mxE2m3 | mxE2m1 | mxInt8 | kvInt8 | kvInt4
  deriving DecidableEq, Repr

/-- The format of a 4-bit code: codes 0xD–0xF are reserved (R44). -/
def Fmt.ofCode : Nat → Option Fmt
  | 0x0 => some .fp32 | 0x1 => some .bf16 | 0x2 => some .fp16 | 0x3 => some .e4m3 | 0x4 => some .e5m2
  | 0x5 => some .mxE4m3 | 0x6 => some .mxE5m2 | 0x7 => some .mxE3m2 | 0x8 => some .mxE2m3 | 0x9 => some .mxE2m1
  | 0xA => some .mxInt8 | 0xB => some .kvInt8 | 0xC => some .kvInt4
  | _ => none

/-- The format of a code that the image check has accepted; a reserved code reads as FP32. -/
def fmtOf (c : Nat) : Fmt := (Fmt.ofCode c).getD .fp32

/-- The 4-bit code of a format (R44). -/
def Fmt.code : Fmt → Nat
  | .fp32 => 0 | .bf16 => 1 | .fp16 => 2 | .e4m3 => 3 | .e5m2 => 4 | .mxE4m3 => 5 | .mxE5m2 => 6 | .mxE3m2 => 7
  | .mxE2m3 => 8 | .mxE2m1 => 9 | .mxInt8 => 0xA | .kvInt8 => 0xB | .kvInt4 => 0xC

/-- Element bits (R44). -/
def Fmt.bits : Fmt → Nat
  | .fp32 => 32 | .bf16 => 16 | .fp16 => 16 | .e4m3 => 8 | .e5m2 => 8 | .mxE4m3 => 8 | .mxE5m2 => 8 | .mxE3m2 => 6
  | .mxE2m3 => 6 | .mxE2m1 => 4 | .mxInt8 => 8 | .kvInt8 => 8 | .kvInt4 => 4

/-- Block formats hold 32 elements and a scale byte (R46, R47). -/
def Fmt.isBlock (f : Fmt) : Bool := 5 ≤ f.code

/-- The FP8 class of R51: codes 0x3–0xC. -/
def Fmt.isFp8Class (f : Fmt) : Bool := 3 ≤ f.code

/-- The half class of R51: BF16 and FP16. -/
def Fmt.isHalfClass (f : Fmt) : Bool := f.code == 1 || f.code == 2

/-- Which codes of a floating-point layout are infinities and NaNs (R45). -/
inductive NanKind where
  | finite | ieee | e4m3
  deriving DecidableEq, Repr

/-- A floating-point element layout: exponent bits, mantissa bits, special codes. -/
structure Layout where
  eb   : Nat
  mb   : Nat
  kind : NanKind
  deriving DecidableEq, Repr

/-- The layout of a format's elements (R45); `none` for the integer elements. -/
def Fmt.layout : Fmt → Option Layout
  | .fp32 => some ⟨8, 23, .ieee⟩ | .bf16 => some ⟨8, 7, .ieee⟩ | .fp16 => some ⟨5, 10, .ieee⟩
  | .e4m3 => some ⟨4, 3, .e4m3⟩ | .e5m2 => some ⟨5, 2, .ieee⟩
  | .mxE4m3 => some ⟨4, 3, .e4m3⟩ | .mxE5m2 => some ⟨5, 2, .ieee⟩
  | .mxE3m2 => some ⟨3, 2, .finite⟩ | .mxE2m3 => some ⟨2, 3, .finite⟩ | .mxE2m1 => some ⟨2, 1, .finite⟩
  | _ => none

/-- The layout a scalar result is written in. -/
def Fmt.scalar : Fmt → Layout
  | .bf16 => ⟨8, 7, .ieee⟩ | .fp16 => ⟨5, 10, .ieee⟩ | .e4m3 => ⟨4, 3, .e4m3⟩ | .e5m2 => ⟨5, 2, .ieee⟩
  | _ => ⟨8, 23, .ieee⟩

def fp32L : Layout := ⟨8, 23, .ieee⟩

/-! ### Exact values -/

/-- A number as the arithmetic sees it: NaN, an infinity, or (−1)^neg · m · 2^e exactly (m = 0 is a signed zero). -/
inductive FVal where
  | nan
  | inf (neg : Bool)
  | fin (neg : Bool) (m : Nat) (e : Int)
  deriving DecidableEq, Repr

namespace Layout

/-- The exponent bias: 2^(eb − 1) − 1 (R45). -/
def bias (L : Layout) : Int := 2 ^ (L.eb - 1) - 1
/-- The exponent of the smallest subnormal. -/
def qmin (L : Layout) : Int := 1 - L.bias - L.mb
def signBit (L : Layout) : Nat := 2 ^ (L.eb + L.mb)
/-- The code of +Infinity where the layout has infinities. -/
def infCode (L : Layout) : Nat := (2 ^ L.eb - 1) * 2 ^ L.mb
/-- The code of the largest finite value. -/
def maxCode (L : Layout) : Nat :=
  match L.kind with
  | .finite => 2 ^ (L.eb + L.mb) - 1
  | .ieee => L.infCode - 1
  | .e4m3 => 2 ^ (L.eb + L.mb) - 2
/-- The canonical NaN (R50). -/
def nanCode (L : Layout) : Nat :=
  match L.kind with
  | .finite => 0
  | .ieee => L.infCode + 2 ^ (L.mb - 1)
  | .e4m3 => 2 ^ (L.eb + L.mb) - 1

/-- The value of a magnitude code: codes grow with the value, and codes beyond the largest finite one continue the scale. -/
def magnitude (L : Layout) (c : Nat) : Nat × Int :=
  if c < 2 ^ L.mb then (c, L.qmin) else (c % 2 ^ L.mb + 2 ^ L.mb, L.qmin + (c / 2 ^ L.mb : Nat) - 1)

/-- The value of an encoded element (R45). -/
def decode (L : Layout) (x : Nat) : FVal :=
  let neg := x / L.signBit % 2 == 1
  let c := x % L.signBit
  if c ≤ L.maxCode then
    let (m, e) := L.magnitude c
    .fin neg m e
  else if L.kind == .ieee && c == L.infCode then .inf neg
  else .nan

end Layout

/-! ### Rounding -/

/-- Nearest integer to a / b, ties to even. -/
def rne (a b : Nat) : Nat :=
  let q := a / b
  let r := a % b
  if 2 * r < b then q else if b < 2 * r then q + 1 else q + q % 2

/-- floor(log2 (a / b)) for positive a and b. -/
def flog2 (a b : Nat) : Int :=
  let l : Int := (a.log2 : Int) - b.log2
  if (if 0 ≤ l then b * 2 ^ l.toNat ≤ a else b ≤ a * 2 ^ (-l).toNat) then l else l - 1

/-- The fraction a / b · 2^e as numerator and denominator. -/
def scale2 (a b : Nat) (e : Int) : Nat × Nat :=
  if 0 ≤ e then (a * 2 ^ e.toNat, b) else (a, b * 2 ^ (-e).toNat)

/-- Integer square root, rounded down, bit by bit. -/
def isqrtAux (n : Nat) : Nat → Nat → Nat
  | 0, r => r
  | k + 1, r => let c := r + 2 ^ k; isqrtAux n k (if c * c ≤ n then c else r)

/-- Newton steps from above towards the square root. -/
def isqrtNewton (n : Nat) : Nat → Nat → Nat
  | 0, r => r
  | k + 1, r => let c := (r + n / r) / 2; if c < r then isqrtNewton n k c else r

/-- The square root of n rounded down: the Newton value where it checks, the bitwise one otherwise. -/
def isqrt (n : Nat) : Nat :=
  let r := isqrtNewton n 20 (2 ^ (n.log2 / 2 + 1))
  if r * r ≤ n ∧ n < (r + 1) * (r + 1) then r else isqrtAux n (n.log2 / 2 + 1) 0

namespace Layout

/-- The exponent of the last place at the value a / b · 2^e. -/
def quantum (L : Layout) (a b : Nat) (e : Int) : Int :=
  if a = 0 then L.qmin else max (flog2 a b + e - L.mb) L.qmin

def codeOf (L : Layout) (n : Nat) (q : Int) : Nat := (q - L.qmin).toNat * 2 ^ L.mb + n

/-- The magnitude code nearest to a / b · 2^e, ties to even, with no upper limit (R50). -/
def roundCode (L : Layout) (a b : Nat) (e : Int) : Nat :=
  let q := L.quantum a b e
  let (x, y) := scale2 a b (e - q)
  L.codeOf (rne x y) q

/-- The largest magnitude code whose value is at most a / b · 2^e. -/
def floorCode (L : Layout) (a b : Nat) (e : Int) : Nat :=
  let q := L.quantum a b e
  let (x, y) := scale2 a b (e - q)
  L.codeOf (x / y) q

/-- The smallest magnitude code whose value is at least a / b · 2^e. -/
def ceilCode (L : Layout) (a b : Nat) (e : Int) : Nat :=
  let q := L.quantum a b e
  let (x, y) := scale2 a b (e - q)
  L.codeOf ((x + y - 1) / y) q

/-- A magnitude code made a result: overflow follows R49, and a non-zero value that rounds to zero sets UNDERFLOW (R59). -/
def finish (L : Layout) (sat neg : Bool) (code : Nat) (nonzero : Bool) : Nat × Arith :=
  let s := if neg then L.signBit else 0
  if L.maxCode < code then
    if sat then (s + L.maxCode, .saturated)
    else match L.kind with
      | .e4m3 => (L.nanCode, Arith.overflow.add .nanOut)
      | _ => (s + L.infCode, .overflow)
  else (s + code, .when (nonzero && code == 0) .underflow)

/-- Conversion of an exact value to a scalar format (R49). A NaN source raises NAN_SEEN in the unit that read it, not here. -/
def convert (L : Layout) (sat : Bool) : FVal → Nat × Arith
  | .nan => (L.nanCode, .nanOut)
  | .inf neg =>
    match L.kind with
    | .e4m3 =>
      if sat then ((if neg then L.signBit else 0) + L.maxCode, .saturated)
      else (L.nanCode, Arith.invalid.add .nanOut)
    | _ => ((if neg then L.signBit else 0) + L.infCode, .none)
  | .fin neg m e => L.finish sat neg (L.roundCode m 1 e) (m != 0)

end Layout

/-! ### The vector lanes (R58): one rounding to FP32 for each operation -/

/-- An exact non-NaN result rounded once to FP32, as a value. -/
def roundFp32 (v : FVal) : FVal × Arith :=
  match v with
  | .fin neg m e =>
    let (c, st) := fp32L.finish false neg (fp32L.roundCode m 1 e) (m != 0)
    (fp32L.decode c, st)
  | v => (v, .none)

namespace FVal

def isNan : FVal → Bool
  | .nan => true
  | _ => false

def isInf : FVal → Bool
  | .inf _ => true
  | _ => false

def isZero : FVal → Bool
  | .fin _ m _ => m == 0
  | _ => false

def neg : FVal → FVal
  | .nan => .nan
  | .inf s => .inf (!s)
  | .fin s m e => .fin (!s) m e

def abs : FVal → FVal
  | .nan => .nan
  | .inf _ => .inf false
  | .fin _ m e => .fin false m e

def signOf : FVal → Bool
  | .nan => false
  | .inf s => s
  | .fin s _ _ => s

def zero : FVal := .fin false 0 0
def one : FVal := .fin false 1 0

/-- (−1)^neg · m as an integer. -/
def signed (neg : Bool) (m : Nat) : Int := if neg then -(m : Int) else m

/-- The exact sum of two values. A sum of zero is +0 unless both terms are −0. `true` marks a NaN made from values that are not NaN. -/
def exactAdd (a b : FVal) : FVal × Bool :=
  match a, b with
  | .nan, _ => (.nan, false)
  | _, .nan => (.nan, false)
  | .inf s, .inf t => if s == t then (.inf s, false) else (.nan, true)
  | .inf s, _ => (.inf s, false)
  | _, .inf t => (.inf t, false)
  | .fin s m e, .fin t n f =>
    let q := min e f
    let x := signed s (m * 2 ^ (e - q).toNat) + signed t (n * 2 ^ (f - q).toNat)
    if x = 0 then (.fin (s && t) 0 q, false) else (.fin (x < 0) x.natAbs q, false)

/-- The exact product of two values. -/
def exactMul (a b : FVal) : FVal × Bool :=
  match a, b with
  | .nan, _ => (.nan, false)
  | _, .nan => (.nan, false)
  | .inf s, .inf t => (.inf (s != t), false)
  | .inf s, .fin t n _ => if n = 0 then (.nan, true) else (.inf (s != t), false)
  | .fin s m _, .inf t => if m = 0 then (.nan, true) else (.inf (s != t), false)
  | .fin s m e, .fin t n f => (.fin (s != t) (m * n) (e + f), false)

def rounded (x : FVal × Bool) : FVal × Arith :=
  let (v, st) := roundFp32 x.1
  (v, st.add (.when x.2 .invalid))

def add (a b : FVal) : FVal × Arith := rounded (exactAdd a b)
def mul (a b : FVal) : FVal × Arith := rounded (exactMul a b)
/-- Fused multiply-add: one rounding (R58). A NaN among the inputs makes no INVALID (R59). -/
def fma (a b c : FVal) : FVal × Arith :=
  let p := exactMul a b
  let t := exactAdd p.1 c
  rounded (t.1, (p.2 && !c.isNan) || t.2)

/-- Order of two values that are not NaN: a < b. Zeros are equal (R58). -/
def lt (a b : FVal) : Bool :=
  match a, b with
  | .nan, _ => false
  | _, .nan => false
  | .inf s, .inf t => s && !t
  | .inf s, _ => s
  | _, .inf t => !t
  | .fin s m e, .fin t n f =>
    let q := min e f
    decide (signed s (m * 2 ^ (e - q).toNat) < signed t (n * 2 ^ (f - q).toNat))

/-- a ≥ b, false with a NaN operand (R58). -/
def ge (a b : FVal) : Bool := !a.isNan && !b.isNan && !a.lt b

/-- max orders −0 below +0 and returns NaN if either input is NaN (R58). -/
def max (a b : FVal) : FVal :=
  if a.isNan || b.isNan then .nan
  else if a.isZero && b.isZero then (if a.signOf then b else a)
  else if a.lt b then b else a

def min (a b : FVal) : FVal :=
  if a.isNan || b.isNan then .nan
  else if a.isZero && b.isZero then (if a.signOf then a else b)
  else if b.lt a then b else a

/-- SELGE (R58): SB if SA ≥ 0, else SC; a NaN compares false and gives SC. -/
def selge (a b c : FVal) : FVal := if a.ge .zero then b else c

end FVal

/-- The FP32 code of a value that is an FP32 value. -/
def FVal.code32 (v : FVal) : Nat := (fp32L.convert false v).1

/-! ### Block formats (R46–R48) -/

/-- A block element's exact integer-mantissa value, before the scale. -/
def Fmt.element (f : Fmt) (x : Nat) : FVal :=
  match f with
  | .mxInt8 => .fin (128 ≤ x % 256) (if 128 ≤ x % 256 then 256 - x % 256 else x % 256) (-6)
  | .kvInt8 => .fin (128 ≤ x % 256) (if 128 ≤ x % 256 then 256 - x % 256 else x % 256) 0
  | .kvInt4 => .fin (8 ≤ x % 16) (if 8 ≤ x % 16 then 16 - x % 16 else x % 16) 0
  | f => (f.layout.getD fp32L).decode x

/-- The value of a block element under its scale code: 0xFF marks the block as NaN (R46, R47). -/
def Fmt.blockValue (f : Fmt) (scale x : Nat) : FVal :=
  if scale = 0xFF then .nan
  else match f.element x with
    | .fin s m e => .fin s m (e + scale - 127)
    | v => v

/-- emax_elem of R48. -/
def Fmt.emaxElem : Fmt → Int
  | .mxE4m3 => 8 | .mxE5m2 => 15 | .mxE3m2 => 4 | .mxE2m3 => 2 | .mxE2m1 => 2 | .mxInt8 => 0 | .kvInt8 => 6 | .kvInt4 => 2
  | _ => 0

/-- The floor exponent f of R54. -/
def Fmt.floorExp : Fmt → Int
  | .e4m3 => -9 | .mxE4m3 => -9 | .e5m2 => -16 | .mxE5m2 => -16 | .mxE3m2 => -4 | .mxE2m3 => -3 | .mxE2m1 => -1
  | .mxInt8 => -6 | _ => 0

/-- One element of a block write: nearest even, then clamped to the element range of R48. -/
def Fmt.writeElement (f : Fmt) (neg : Bool) (m : Nat) (e : Int) : Nat × Arith :=
  let int (frac : Int) (maxPos maxNeg wrap : Nat) : Nat × Arith :=
    let (x, y) := scale2 m 1 (e - frac)
    let n := rne x y
    let lim := if neg then maxNeg else maxPos
    let k := if lim < n then lim else n
    ((if neg && k != 0 then wrap - k else k), .when (lim < n) .saturated)
  match f with
  | .mxInt8 => int (-6) 127 128 256
  | .kvInt8 => int 0 127 127 256
  | .kvInt4 => int 0 7 7 16
  | f =>
    let L := f.layout.getD fp32L
    let c := L.roundCode m 1 e
    let s := if neg then L.signBit else 0
    if L.maxCode < c then (s + L.maxCode, .saturated) else (s + c, .none)

/-- The exponent floor(log2 |v|) of a non-zero finite value. -/
def FVal.expo : FVal → Option Int
  | .fin _ m e => if m = 0 then none else some ((m.log2 : Int) + e)
  | _ => none

/-- The largest of some exponents. -/
def maxExpo (l : List FVal) : Option Int :=
  l.foldl (fun a v => match a, v.expo with
    | none, x => x
    | some y, none => some y
    | some y, some x => some (if y < x then x else y)) none

/-- The element codes of a block written as NaN: R48 gives only its scale code, so the elements are unstated values. -/
def Fmt.nanElements (f : Fmt) (xs : List FVal) : List Nat :=
  (List.range xs.length).map fun i => Config.unstated 1 (f.code :: i :: xs.map FVal.code32) % 2 ^ f.bits

/-- Writing a block of 32 values (R48): the scale code, the element codes, and the status. -/
def Fmt.writeBlock (f : Fmt) (xs : List FVal) : Nat × List Nat × Arith :=
  if xs.any FVal.isNan then (0xFF, f.nanElements xs, .none)
  else if xs.any FVal.isInf then (0xFF, f.nanElements xs, .invalid)
  else match maxExpo xs with
    | none => (0, xs.map fun _ => 0, .none)
    | some ex =>
      let d := ex - f.emaxElem
      let k : Int := if d < -127 then -127 else if 127 < d then 127 else d
      let es := xs.map fun v => match v with
        | .fin s m e => f.writeElement s m (e - k)
        | _ => (0, .none)
      ((k + 127).toNat, es.map (·.1), Arith.sum (es.map (·.2)))

end Sys2Proof.Machine
end

