-- ==== Sys2Proof/Machine/RegTable.lean ====
section
/-! DEFINITION. The register tables of the manual (R75, R120, R121, R152, R226, R257, R285, R314, R347, R380, R408, R438, R439, R458, R478, R510): offset, count, access code, reset value and writable bits of every register of BAR0. -/

namespace Sys2Proof.Machine

/-- Register access codes (R14). -/
inductive Access where
  | ro | rw | w1c | wo | rwl | rws
  deriving DecidableEq, Repr

/-- A row of a register table. The register's words lie at base + i·s1 + j·s2 + 4k, i < n1, j < n2, k < words (R18). `reset` is the value after cold start: the table's value, the image default (R17, R420), or 0 where hardware state or OTP shows. `mask` holds the bits that are not reserved (R13). -/
structure RegRow where
  base   : Nat
  words  : Nat
  n1     : Nat
  s1     : Nat
  n2     : Nat
  s2     : Nat
  access : Access
  reset  : Nat
  mask   : Nat
  /-- Reset column img (R17): the image sets it (R420). -/
  img    : Bool
  /-- Kept through warm start: RWS (R14), and what R76, R122, R153, R227, R258, R283, R286, R315, R348, R381, R409, R432, R459, R479 and R511 keep. -/
  keep   : Bool
  /-- 1 a _LO register, 2 a _HI register, 3 words that alternate, 0 none (R11). -/
  half   : Nat
  deriving DecidableEq, Repr

/-- Whether an offset is one of a row's words. -/
def RegRow.holds (r : RegRow) (off : Nat) : Bool :=
  let d := off - r.base
  let i := if r.s1 = 0 then 0 else d / r.s1
  let d1 := d - i * r.s1
  let j := if r.s2 = 0 then 0 else d1 / r.s2
  let d2 := d1 - j * r.s2
  r.base ≤ off && i < r.n1 && j < r.n2 && d2 < 4 * r.words && d2 % 4 == 0

namespace R

/-- SF_VERSION (R75). -/
abbrev SF_VERSION : Nat := 0xE00000
/-- SF_CTRL (R75). -/
abbrev SF_CTRL : Nat := 0xE00004
/-- SF_UPROG_STATUS (R75). -/
abbrev SF_UPROG_STATUS : Nat := 0xE00008
/-- SF_STICKY (R75). -/
abbrev SF_STICKY : Nat := 0xE00010
/-- SF_STICKY_LOG (R75). -/
abbrev SF_STICKY_LOG : Nat := 0xE00014
/-- SF_CORE_FLAG0–5 (R75). -/
abbrev SF_CORE_FLAG : Nat := 0xE00020
/-- SF_NAN_OUT_LO (R75). -/
abbrev SF_NAN_OUT_LO : Nat := 0xE00040
/-- SF_NAN_OUT_HI (R75). -/
abbrev SF_NAN_OUT_HI : Nat := 0xE00044
/-- SF_SAT_LO (R75). -/
abbrev SF_SAT_LO : Nat := 0xE00048
/-- SF_SAT_HI (R75). -/
abbrev SF_SAT_HI : Nat := 0xE0004C
/-- SF_INEXACT_LO (R75). -/
abbrev SF_INEXACT_LO : Nat := 0xE00050
/-- SF_INEXACT_HI (R75). -/
abbrev SF_INEXACT_HI : Nat := 0xE00054
/-- SF_FUNC_MAP0–127 (R75). -/
abbrev SF_FUNC_MAP : Nat := 0xE00100
/-- SF_PWL_TABLE (R75). -/
abbrev SF_PWL_TABLE : Nat := 0xE10000
/-- SF_UPROG (R75). -/
abbrev SF_UPROG : Nat := 0xE20000
/-- SQ_VERSION (R120). -/
abbrev SQ_VERSION : Nat := 0x400000
/-- SQ_DIE_STATUS (R120). -/
abbrev SQ_DIE_STATUS : Nat := 0x400004
/-- SQ_SPARE_MAP (R120). -/
abbrev SQ_SPARE_MAP : Nat := 0x400008
/-- SQ_DIKE_TIMEOUT (R120). -/
abbrev SQ_DIKE_TIMEOUT : Nat := 0x400010
/-- SQ_CHAIN_TIMEOUT (R120). -/
abbrev SQ_CHAIN_TIMEOUT : Nat := 0x400014
/-- SQ_DIKE_PEND_LO (R120). -/
abbrev SQ_DIKE_PEND_LO : Nat := 0x400020
/-- SQ_DIKE_PEND_HI (R120). -/
abbrev SQ_DIKE_PEND_HI : Nat := 0x400024
/-- SQ_DIKE_GEN_LO (R120). -/
abbrev SQ_DIKE_GEN_LO : Nat := 0x400028
/-- SQ_DIKE_GEN_HI (R120). -/
abbrev SQ_DIKE_GEN_HI : Nat := 0x40002C
/-- SQ_PDIKE_PEND (R120). -/
abbrev SQ_PDIKE_PEND : Nat := 0x400030
/-- SQ_PDIKE_GEN (R120). -/
abbrev SQ_PDIKE_GEN : Nat := 0x400034
/-- SQ_DIKE_MEMBERS (R120). -/
abbrev SQ_DIKE_MEMBERS : Nat := 0x402000
/-- SQ_DIKE_ARRIVED (R120). -/
abbrev SQ_DIKE_ARRIVED : Nat := 0x403000
/-- SQ_PDIKE_MEMBERS (R120). -/
abbrev SQ_PDIKE_MEMBERS : Nat := 0x404000
/-- SQ_PDIKE_ARRIVED (R120). -/
abbrev SQ_PDIKE_ARRIVED : Nat := 0x405000
/-- SQ_CORE_STATUS (R121). -/
abbrev SQ_CORE_STATUS : Nat := 0x410000
/-- SQ_CORE_ARITH (R121). -/
abbrev SQ_CORE_ARITH : Nat := 0x410004
/-- SQ_CORE_ERR (R121). -/
abbrev SQ_CORE_ERR : Nat := 0x410008
/-- SQ_CORE_CFG (R121). -/
abbrev SQ_CORE_CFG : Nat := 0x41000C
/-- SQ_SLOT_STATE0–7 (R121). -/
abbrev SQ_SLOT_STATE : Nat := 0x410020
/-- SQ_SLOT_LOOP0–7 (R121). -/
abbrev SQ_SLOT_LOOP : Nat := 0x410040
/-- SQ_SLOT_ALT0–7 (R121). -/
abbrev SQ_SLOT_ALT : Nat := 0x410060
/-- SQ_SLOT_WAIT0–7 (R121). -/
abbrev SQ_SLOT_WAIT : Nat := 0x410080
/-- SQ_FLAG_PAIR0–127 (R121). -/
abbrev SQ_FLAG_PAIR : Nat := 0x410100
/-- SQ_ISSUED_LO (R121). -/
abbrev SQ_ISSUED_LO : Nat := 0x410300
/-- SQ_ISSUED_HI (R121). -/
abbrev SQ_ISSUED_HI : Nat := 0x410304
/-- SQ_SWITCH_LO (R121). -/
abbrev SQ_SWITCH_LO : Nat := 0x410308
/-- SQ_SWITCH_HI (R121). -/
abbrev SQ_SWITCH_HI : Nat := 0x41030C
/-- SQ_IDLE_LO (R121). -/
abbrev SQ_IDLE_LO : Nat := 0x410310
/-- SQ_IDLE_HI (R121). -/
abbrev SQ_IDLE_HI : Nat := 0x410314
/-- SQ_QFULL_LO (R121). -/
abbrev SQ_QFULL_LO : Nat := 0x410318
/-- SQ_QFULL_HI (R121). -/
abbrev SQ_QFULL_HI : Nat := 0x41031C
/-- SQ_ECC_CORR (R121). -/
abbrev SQ_ECC_CORR : Nat := 0x410320
/-- SQ_OVERRUN (R121). -/
abbrev SQ_OVERRUN : Nat := 0x410324
/-- SQ_ATTN_CFG0–15 (R121). -/
abbrev SQ_ATTN_CFG : Nat := 0x410400
/-- TG_VERSION (R152). -/
abbrev TG_VERSION : Nat := 0x600000
/-- TG_STATUS (R152). -/
abbrev TG_STATUS : Nat := 0x600004
/-- TG_SPLIT_READ (R152). -/
abbrev TG_SPLIT_READ : Nat := 0x600010
/-- TG_SPLIT_WRITE (R152). -/
abbrev TG_SPLIT_WRITE : Nat := 0x600014
/-- TG_SPLIT_REMOTE (R152). -/
abbrev TG_SPLIT_REMOTE : Nat := 0x600018
/-- TG_HOST_CAP (R152). -/
abbrev TG_HOST_CAP : Nat := 0x60001C
/-- TG_CTX_CAP (R152). -/
abbrev TG_CTX_CAP : Nat := 0x600020
/-- TG_PUMP_CAP (R152). -/
abbrev TG_PUMP_CAP : Nat := 0x600024
/-- TG_SLOT_SPLIT (R152). -/
abbrev TG_SLOT_SPLIT : Nat := 0x600028
/-- TG_PIN_TIME (R152). -/
abbrev TG_PIN_TIME : Nat := 0x60002C
/-- TG_PEER_TIMEOUT (R152). -/
abbrev TG_PEER_TIMEOUT : Nat := 0x600030
/-- TG_INUSE_READ (R152). -/
abbrev TG_INUSE_READ : Nat := 0x600040
/-- TG_INUSE_WRITE (R152). -/
abbrev TG_INUSE_WRITE : Nat := 0x600044
/-- TG_INUSE_REMOTE (R152). -/
abbrev TG_INUSE_REMOTE : Nat := 0x600048
/-- TG_INUSE_HOST (R152). -/
abbrev TG_INUSE_HOST : Nat := 0x60004C
/-- TG_INUSE_PUMP (R152). -/
abbrev TG_INUSE_PUMP : Nat := 0x600050
/-- TG_HWM_READ (R152). -/
abbrev TG_HWM_READ : Nat := 0x600060
/-- TG_HWM_WRITE (R152). -/
abbrev TG_HWM_WRITE : Nat := 0x600064
/-- TG_HWM_REMOTE (R152). -/
abbrev TG_HWM_REMOTE : Nat := 0x600068
/-- TG_WAIT_READ_LO (R152). -/
abbrev TG_WAIT_READ_LO : Nat := 0x600070
/-- TG_WAIT_READ_HI (R152). -/
abbrev TG_WAIT_READ_HI : Nat := 0x600074
/-- TG_WAIT_WRITE_LO (R152). -/
abbrev TG_WAIT_WRITE_LO : Nat := 0x600078
/-- TG_WAIT_WRITE_HI (R152). -/
abbrev TG_WAIT_WRITE_HI : Nat := 0x60007C
/-- TG_WAIT_REMOTE_LO (R152). -/
abbrev TG_WAIT_REMOTE_LO : Nat := 0x600080
/-- TG_WAIT_REMOTE_HI (R152). -/
abbrev TG_WAIT_REMOTE_HI : Nat := 0x600084
/-- TG_SLOT_LENT_LO (R152). -/
abbrev TG_SLOT_LENT_LO : Nat := 0x600088
/-- TG_SLOT_LENT_HI (R152). -/
abbrev TG_SLOT_LENT_HI : Nat := 0x60008C
/-- TG_HALT_LO (R152). -/
abbrev TG_HALT_LO : Nat := 0x600090
/-- TG_HALT_HI (R152). -/
abbrev TG_HALT_HI : Nat := 0x600094
/-- TG_RESUME_LO (R152). -/
abbrev TG_RESUME_LO : Nat := 0x600098
/-- TG_RESUME_HI (R152). -/
abbrev TG_RESUME_HI : Nat := 0x60009C
/-- TG_REFETCH_LO (R152). -/
abbrev TG_REFETCH_LO : Nat := 0x6000A0
/-- TG_REFETCH_HI (R152). -/
abbrev TG_REFETCH_HI : Nat := 0x6000A4
/-- TG_PUMP_LATE_LO (R152). -/
abbrev TG_PUMP_LATE_LO : Nat := 0x6000A8
/-- TG_PUMP_LATE_HI (R152). -/
abbrev TG_PUMP_LATE_HI : Nat := 0x6000AC
/-- TG_ERR (R152). -/
abbrev TG_ERR : Nat := 0x6000B0
/-- TG_PUMP_STATE0–63 (R152). -/
abbrev TG_PUMP_STATE : Nat := 0x600100
/-- KV_VERSION (R226). -/
abbrev KV_VERSION : Nat := 0x700000
/-- KV_STATUS (R226). -/
abbrev KV_STATUS : Nat := 0x700004
/-- KV_EPOCH_LO (R226). -/
abbrev KV_EPOCH_LO : Nat := 0x700008
/-- KV_EPOCH_HI (R226). -/
abbrev KV_EPOCH_HI : Nat := 0x70000C
/-- KV_DRAINED_LO (R226). -/
abbrev KV_DRAINED_LO : Nat := 0x700010
/-- KV_DRAINED_HI (R226). -/
abbrev KV_DRAINED_HI : Nat := 0x700014
/-- KV_POOL_BASE_LO (R226). -/
abbrev KV_POOL_BASE_LO : Nat := 0x700018
/-- KV_POOL_BASE_HI (R226). -/
abbrev KV_POOL_BASE_HI : Nat := 0x70001C
/-- KV_POOL_PAGES (R226). -/
abbrev KV_POOL_PAGES : Nat := 0x700020
/-- KV_FREEBOARD (R226). -/
abbrev KV_FREEBOARD : Nat := 0x700024
/-- KV_PFT_BASE_LO (R226). -/
abbrev KV_PFT_BASE_LO : Nat := 0x700028
/-- KV_PFT_BASE_HI (R226). -/
abbrev KV_PFT_BASE_HI : Nat := 0x70002C
/-- KV_PARK_TIMEOUT (R226). -/
abbrev KV_PARK_TIMEOUT : Nat := 0x700030
/-- KV_SEAM_CTRL (R226). -/
abbrev KV_SEAM_CTRL : Nat := 0x700034
/-- KV_POLDER_SHARED_LO (R226). -/
abbrev KV_POLDER_SHARED_LO : Nat := 0x700038
/-- KV_POLDER_SHARED_HI (R226). -/
abbrev KV_POLDER_SHARED_HI : Nat := 0x70003C
/-- KV_FREE_PAGES (R226). -/
abbrev KV_FREE_PAGES : Nat := 0x700040
/-- KV_SPOIL_PAGES (R226). -/
abbrev KV_SPOIL_PAGES : Nat := 0x700044
/-- KV_SEAM_VALID (R226). -/
abbrev KV_SEAM_VALID : Nat := 0x700048
/-- KV_ERR (R226). -/
abbrev KV_ERR : Nat := 0x70004C
/-- KV_ALLOC_LO (R226). -/
abbrev KV_ALLOC_LO : Nat := 0x700050
/-- KV_ALLOC_HI (R226). -/
abbrev KV_ALLOC_HI : Nat := 0x700054
/-- KV_FB_ALLOC_LO (R226). -/
abbrev KV_FB_ALLOC_LO : Nat := 0x700058
/-- KV_FB_ALLOC_HI (R226). -/
abbrev KV_FB_ALLOC_HI : Nat := 0x70005C
/-- KV_COW_LO (R226). -/
abbrev KV_COW_LO : Nat := 0x700060
/-- KV_COW_HI (R226). -/
abbrev KV_COW_HI : Nat := 0x700064
/-- KV_PARK_LO (R226). -/
abbrev KV_PARK_LO : Nat := 0x700068
/-- KV_PARK_HI (R226). -/
abbrev KV_PARK_HI : Nat := 0x70006C
/-- KV_PREEMPT_LO (R226). -/
abbrev KV_PREEMPT_LO : Nat := 0x700070
/-- KV_PREEMPT_HI (R226). -/
abbrev KV_PREEMPT_HI : Nat := 0x700074
/-- KV_SWAPOUT_PAGES_LO (R226). -/
abbrev KV_SWAPOUT_PAGES_LO : Nat := 0x700078
/-- KV_SWAPOUT_PAGES_HI (R226). -/
abbrev KV_SWAPOUT_PAGES_HI : Nat := 0x70007C
/-- KV_SWAPIN_LO (R226). -/
abbrev KV_SWAPIN_LO : Nat := 0x700080
/-- KV_SWAPIN_HI (R226). -/
abbrev KV_SWAPIN_HI : Nat := 0x700084
/-- KV_SEAM_LOOKUP_LO (R226). -/
abbrev KV_SEAM_LOOKUP_LO : Nat := 0x700088
/-- KV_SEAM_LOOKUP_HI (R226). -/
abbrev KV_SEAM_LOOKUP_HI : Nat := 0x70008C
/-- KV_SEAM_HIT_LO (R226). -/
abbrev KV_SEAM_HIT_LO : Nat := 0x700090
/-- KV_SEAM_HIT_HI (R226). -/
abbrev KV_SEAM_HIT_HI : Nat := 0x700094
/-- KV_SEAM_VERIFY_FAIL_LO (R226). -/
abbrev KV_SEAM_VERIFY_FAIL_LO : Nat := 0x700098
/-- KV_SEAM_VERIFY_FAIL_HI (R226). -/
abbrev KV_SEAM_VERIFY_FAIL_HI : Nat := 0x70009C
/-- KV_SEAM_INSERT_LO (R226). -/
abbrev KV_SEAM_INSERT_LO : Nat := 0x7000A0
/-- KV_SEAM_INSERT_HI (R226). -/
abbrev KV_SEAM_INSERT_HI : Nat := 0x7000A4
/-- KV_SEAM_EVICT_LO (R226). -/
abbrev KV_SEAM_EVICT_LO : Nat := 0x7000A8
/-- KV_SEAM_EVICT_HI (R226). -/
abbrev KV_SEAM_EVICT_HI : Nat := 0x7000AC
/-- KV_REF_SAT_LO (R226). -/
abbrev KV_REF_SAT_LO : Nat := 0x7000B0
/-- KV_REF_SAT_HI (R226). -/
abbrev KV_REF_SAT_HI : Nat := 0x7000B4
/-- KV_LOST_PAGES_LO (R226). -/
abbrev KV_LOST_PAGES_LO : Nat := 0x7000B8
/-- KV_LOST_PAGES_HI (R226). -/
abbrev KV_LOST_PAGES_HI : Nat := 0x7000BC
/-- KV_CTX_SEL (R226). -/
abbrev KV_CTX_SEL : Nat := 0x7000C0
/-- KV_SEAM_PUB_LO (R226). -/
abbrev KV_SEAM_PUB_LO : Nat := 0x7000C8
/-- KV_SEAM_PUB_HI (R226). -/
abbrev KV_SEAM_PUB_HI : Nat := 0x7000CC
/-- KV_CTX_DATA0–15 (R226). -/
abbrev KV_CTX_DATA : Nat := 0x700100
/-- KV_MODEL0–255 (R226). -/
abbrev KV_MODEL : Nat := 0x700400
/-- QU_VERSION (R257). -/
abbrev QU_VERSION : Nat := 0x800000
/-- QU_STATUS (R257). -/
abbrev QU_STATUS : Nat := 0x800004
/-- QU_ERR (R257). -/
abbrev QU_ERR : Nat := 0x800008
/-- QU_SRAM_CORR (R257). -/
abbrev QU_SRAM_CORR : Nat := 0x80000C
/-- QU_PART0–5 (R257). -/
abbrev QU_PART : Nat := 0x800020
/-- QU_DESC_LO (R257). -/
abbrev QU_DESC_LO : Nat := 0x800040
/-- QU_DESC_HI (R257). -/
abbrev QU_DESC_HI : Nat := 0x800044
/-- QU_LISTS_LO (R257). -/
abbrev QU_LISTS_LO : Nat := 0x800048
/-- QU_LISTS_HI (R257). -/
abbrev QU_LISTS_HI : Nat := 0x80004C
/-- QU_READ_LO (R257). -/
abbrev QU_READ_LO : Nat := 0x800050
/-- QU_READ_HI (R257). -/
abbrev QU_READ_HI : Nat := 0x800054
/-- QU_MAC_LO (R257). -/
abbrev QU_MAC_LO : Nat := 0x800058
/-- QU_MAC_HI (R257). -/
abbrev QU_MAC_HI : Nat := 0x80005C
/-- QU_EXP_LO (R257). -/
abbrev QU_EXP_LO : Nat := 0x800060
/-- QU_EXP_HI (R257). -/
abbrev QU_EXP_HI : Nat := 0x800064
/-- QU_CMP_LO (R257). -/
abbrev QU_CMP_LO : Nat := 0x800068
/-- QU_CMP_HI (R257). -/
abbrev QU_CMP_HI : Nat := 0x80006C
/-- QU_PARTIAL_LO (R257). -/
abbrev QU_PARTIAL_LO : Nat := 0x800070
/-- QU_PARTIAL_HI (R257). -/
abbrev QU_PARTIAL_HI : Nat := 0x800074
/-- QU_RETURN_LO (R257). -/
abbrev QU_RETURN_LO : Nat := 0x800078
/-- QU_RETURN_HI (R257). -/
abbrev QU_RETURN_HI : Nat := 0x80007C
/-- QU_QFULL_LO (R257). -/
abbrev QU_QFULL_LO : Nat := 0x800080
/-- QU_QFULL_HI (R257). -/
abbrev QU_QFULL_HI : Nat := 0x800084
/-- QU_HOLD_LO (R257). -/
abbrev QU_HOLD_LO : Nat := 0x800088
/-- QU_HOLD_HI (R257). -/
abbrev QU_HOLD_HI : Nat := 0x80008C
/-- QU_MOVE_DEFER_LO (R257). -/
abbrev QU_MOVE_DEFER_LO : Nat := 0x800090
/-- QU_MOVE_DEFER_HI (R257). -/
abbrev QU_MOVE_DEFER_HI : Nat := 0x800094
/-- QU_UE_LO (R257). -/
abbrev QU_UE_LO : Nat := 0x800098
/-- QU_UE_HI (R257). -/
abbrev QU_UE_HI : Nat := 0x80009C
/-- QU_SEL0–255 (R257). -/
abbrev QU_SEL : Nat := 0x800400
/-- TI_VERSION (R285). -/
abbrev TI_VERSION : Nat := 0x900000
/-- TI_STATUS (R285). -/
abbrev TI_STATUS : Nat := 0x900004
/-- TI_ERR (R285). -/
abbrev TI_ERR : Nat := 0x900008
/-- TI_HEAT_CTRL (R285). -/
abbrev TI_HEAT_CTRL : Nat := 0x900010
/-- TI_MOVE_CTRL (R285). -/
abbrev TI_MOVE_CTRL : Nat := 0x900014
/-- TI_LOW_WATER (R285). -/
abbrev TI_LOW_WATER : Nat := 0x900018
/-- TI_SPILL_CTRL (R285). -/
abbrev TI_SPILL_CTRL : Nat := 0x90001C
/-- TI_RESUPPLY_TIMEOUT (R285). -/
abbrev TI_RESUPPLY_TIMEOUT : Nat := 0x900020
/-- TI_SPILL_GRANULES (R285). -/
abbrev TI_SPILL_GRANULES : Nat := 0x900024
/-- TI_SPILL_REG (R285). -/
abbrev TI_SPILL_REG : Nat := 0x900028
/-- TI_MAP_GRANULES (R285). -/
abbrev TI_MAP_GRANULES : Nat := 0x90002C
/-- TI_MAP_FRAMES (R285). -/
abbrev TI_MAP_FRAMES : Nat := 0x900030
/-- TI_STACK_FREE (R285). -/
abbrev TI_STACK_FREE : Nat := 0x900034
/-- TI_STACK_ZEROED (R285). -/
abbrev TI_STACK_ZEROED : Nat := 0x900038
/-- TI_SPILL_FREE (R285). -/
abbrev TI_SPILL_FREE : Nat := 0x90003C
/-- TI_MAP_SEL_LO (R285). -/
abbrev TI_MAP_SEL_LO : Nat := 0x900040
/-- TI_MAP_SEL_HI (R285). -/
abbrev TI_MAP_SEL_HI : Nat := 0x900044
/-- TI_MAP_DATA0–3 (R285). -/
abbrev TI_MAP_DATA : Nat := 0x900048
/-- TI_PROMOTE_LO (R285). -/
abbrev TI_PROMOTE_LO : Nat := 0x900100
/-- TI_PROMOTE_HI (R285). -/
abbrev TI_PROMOTE_HI : Nat := 0x900104
/-- TI_DEMAND_LO (R285). -/
abbrev TI_DEMAND_LO : Nat := 0x900108
/-- TI_DEMAND_HI (R285). -/
abbrev TI_DEMAND_HI : Nat := 0x90010C
/-- TI_DEMOTE_LO (R285). -/
abbrev TI_DEMOTE_LO : Nat := 0x900110
/-- TI_DEMOTE_HI (R285). -/
abbrev TI_DEMOTE_HI : Nat := 0x900114
/-- TI_EVAC_LO (R285). -/
abbrev TI_EVAC_LO : Nat := 0x900118
/-- TI_EVAC_HI (R285). -/
abbrev TI_EVAC_HI : Nat := 0x90011C
/-- TI_DISCARD_LO (R285). -/
abbrev TI_DISCARD_LO : Nat := 0x900120
/-- TI_DISCARD_HI (R285). -/
abbrev TI_DISCARD_HI : Nat := 0x900124
/-- TI_ZERO_LO (R285). -/
abbrev TI_ZERO_LO : Nat := 0x900128
/-- TI_ZERO_HI (R285). -/
abbrev TI_ZERO_HI : Nat := 0x90012C
/-- TI_SPILL_RETRY_LO (R285). -/
abbrev TI_SPILL_RETRY_LO : Nat := 0x900130
/-- TI_SPILL_RETRY_HI (R285). -/
abbrev TI_SPILL_RETRY_HI : Nat := 0x900134
/-- TI_SPILL_UE_LO (R285). -/
abbrev TI_SPILL_UE_LO : Nat := 0x900138
/-- TI_SPILL_UE_HI (R285). -/
abbrev TI_SPILL_UE_HI : Nat := 0x90013C
/-- TI_CRC_FAIL_LO (R285). -/
abbrev TI_CRC_FAIL_LO : Nat := 0x900140
/-- TI_CRC_FAIL_HI (R285). -/
abbrev TI_CRC_FAIL_HI : Nat := 0x900144
/-- TI_POISON_LO (R285). -/
abbrev TI_POISON_LO : Nat := 0x900148
/-- TI_POISON_HI (R285). -/
abbrev TI_POISON_HI : Nat := 0x90014C
/-- TI_RESUPPLY_REQ_LO (R285). -/
abbrev TI_RESUPPLY_REQ_LO : Nat := 0x900150
/-- TI_RESUPPLY_REQ_HI (R285). -/
abbrev TI_RESUPPLY_REQ_HI : Nat := 0x900154
/-- TI_RESUPPLY_OK_LO (R285). -/
abbrev TI_RESUPPLY_OK_LO : Nat := 0x900158
/-- TI_RESUPPLY_OK_HI (R285). -/
abbrev TI_RESUPPLY_OK_HI : Nat := 0x90015C
/-- TI_SPILL_OVER_LO (R285). -/
abbrev TI_SPILL_OVER_LO : Nat := 0x900160
/-- TI_SPILL_OVER_HI (R285). -/
abbrev TI_SPILL_OVER_HI : Nat := 0x900164
/-- TI_STACK_CORR_LO (R285). -/
abbrev TI_STACK_CORR_LO : Nat := 0x900168
/-- TI_STACK_CORR_HI (R285). -/
abbrev TI_STACK_CORR_HI : Nat := 0x90016C
/-- TI_PCFG0–63 (R285). -/
abbrev TI_PCFG : Nat := 0x900800
/-- TI_STALL (R285). -/
abbrev TI_STALL : Nat := 0x901000
/-- TI_REGION0–1023 (R285). -/
abbrev TI_REGION : Nat := 0x902000
/-- SL_VERSION (R314). -/
abbrev SL_VERSION : Nat := 0xA00000
/-- SL_STATUS (R314). -/
abbrev SL_STATUS : Nat := 0xA00004
/-- SL_ERR (R314). -/
abbrev SL_ERR : Nat := 0xA00008
/-- SL_ARITH (R314). -/
abbrev SL_ARITH : Nat := 0xA0000C
/-- SL_HOP_TIMEOUT (R314). -/
abbrev SL_HOP_TIMEOUT : Nat := 0xA00010
/-- SL_SLOW_CTRL (R314). -/
abbrev SL_SLOW_CTRL : Nat := 0xA00014
/-- SL_ABORT_SETTLE (R314). -/
abbrev SL_ABORT_SETTLE : Nat := 0xA00018
/-- SL_START_TIMEOUT (R314). -/
abbrev SL_START_TIMEOUT : Nat := 0xA0001C
/-- SL_OPS (R314). -/
abbrev SL_OPS : Nat := 0xA00020
/-- SL_LAST_ABORT0 (R314). -/
abbrev SL_LAST_ABORT0 : Nat := 0xA00030
/-- SL_LAST_ABORT1 (R314). -/
abbrev SL_LAST_ABORT1 : Nat := 0xA00034
/-- SL_LAST_ABORT2 (R314). -/
abbrev SL_LAST_ABORT2 : Nat := 0xA00038
/-- SL_LAST_ABORT_TIME_LO (R314). -/
abbrev SL_LAST_ABORT_TIME_LO : Nat := 0xA0003C
/-- SL_LAST_ABORT_TIME_HI (R314). -/
abbrev SL_LAST_ABORT_TIME_HI : Nat := 0xA00040
/-- SL_OP_SEL (R314). -/
abbrev SL_OP_SEL : Nat := 0xA00060
/-- SL_OP_DATA0–7 (R314). -/
abbrev SL_OP_DATA : Nat := 0xA00064
/-- SL_CHUNKS_LO (R314). -/
abbrev SL_CHUNKS_LO : Nat := 0xA00100
/-- SL_CHUNKS_HI (R314). -/
abbrev SL_CHUNKS_HI : Nat := 0xA00104
/-- SL_HOPS_OUT_LO (R314). -/
abbrev SL_HOPS_OUT_LO : Nat := 0xA00108
/-- SL_HOPS_OUT_HI (R314). -/
abbrev SL_HOPS_OUT_HI : Nat := 0xA0010C
/-- SL_BYTES_OUT_LO (R314). -/
abbrev SL_BYTES_OUT_LO : Nat := 0xA00110
/-- SL_BYTES_OUT_HI (R314). -/
abbrev SL_BYTES_OUT_HI : Nat := 0xA00114
/-- SL_EXECS_LO (R314). -/
abbrev SL_EXECS_LO : Nat := 0xA00118
/-- SL_EXECS_HI (R314). -/
abbrev SL_EXECS_HI : Nat := 0xA0011C
/-- SL_ABORTS_LO (R314). -/
abbrev SL_ABORTS_LO : Nat := 0xA00120
/-- SL_ABORTS_HI (R314). -/
abbrev SL_ABORTS_HI : Nat := 0xA00124
/-- SL_TIMEOUTS_LO (R314). -/
abbrev SL_TIMEOUTS_LO : Nat := 0xA00128
/-- SL_TIMEOUTS_HI (R314). -/
abbrev SL_TIMEOUTS_HI : Nat := 0xA0012C
/-- SL_CRC_FAIL_LO (R314). -/
abbrev SL_CRC_FAIL_LO : Nat := 0xA00130
/-- SL_CRC_FAIL_HI (R314). -/
abbrev SL_CRC_FAIL_HI : Nat := 0xA00134
/-- SL_START_WAIT_LO (R314). -/
abbrev SL_START_WAIT_LO : Nat := 0xA00138
/-- SL_START_WAIT_HI (R314). -/
abbrev SL_START_WAIT_HI : Nat := 0xA0013C
/-- SL_SLOW_RX_LO (R314). -/
abbrev SL_SLOW_RX_LO : Nat := 0xA00140
/-- SL_SLOW_RX_HI (R314). -/
abbrev SL_SLOW_RX_HI : Nat := 0xA00144
/-- SL_DROPS_LO (R314). -/
abbrev SL_DROPS_LO : Nat := 0xA00148
/-- SL_DROPS_HI (R314). -/
abbrev SL_DROPS_HI : Nat := 0xA0014C
/-- SL_TOPK_NAN_LO (R314). -/
abbrev SL_TOPK_NAN_LO : Nat := 0xA00150
/-- SL_TOPK_NAN_HI (R314). -/
abbrev SL_TOPK_NAN_HI : Nat := 0xA00154
/-- SL_BUDGET0–255 (R314). -/
abbrev SL_BUDGET : Nat := 0xA00400
/-- SL_RING0–255 (R314). -/
abbrev SL_RING : Nat := 0xA00800
/-- SK_VERSION (R347). -/
abbrev SK_VERSION : Nat := 0xB00000
/-- SK_STATUS (R347). -/
abbrev SK_STATUS : Nat := 0xB00004
/-- SK_ERR (R347). -/
abbrev SK_ERR : Nat := 0xB00008
/-- SK_LISTS (R347). -/
abbrev SK_LISTS : Nat := 0xB0000C
/-- SK_BATCH_LO (R347). -/
abbrev SK_BATCH_LO : Nat := 0xB00040
/-- SK_BATCH_HI (R347). -/
abbrev SK_BATCH_HI : Nat := 0xB00044
/-- SK_QUERY_LO (R347). -/
abbrev SK_QUERY_LO : Nat := 0xB00048
/-- SK_QUERY_HI (R347). -/
abbrev SK_QUERY_HI : Nat := 0xB0004C
/-- SK_TOMB_DROP_LO (R347). -/
abbrev SK_TOMB_DROP_LO : Nat := 0xB00050
/-- SK_TOMB_DROP_HI (R347). -/
abbrev SK_TOMB_DROP_HI : Nat := 0xB00054
/-- SK_FILTER_DROP_LO (R347). -/
abbrev SK_FILTER_DROP_LO : Nat := 0xB00058
/-- SK_FILTER_DROP_HI (R347). -/
abbrev SK_FILTER_DROP_HI : Nat := 0xB0005C
/-- SK_NEIGH_MISSING_LO (R347). -/
abbrev SK_NEIGH_MISSING_LO : Nat := 0xB00060
/-- SK_NEIGH_MISSING_HI (R347). -/
abbrev SK_NEIGH_MISSING_HI : Nat := 0xB00064
/-- SK_INSERT_LO (R347). -/
abbrev SK_INSERT_LO : Nat := 0xB00068
/-- SK_INSERT_HI (R347). -/
abbrev SK_INSERT_HI : Nat := 0xB0006C
/-- SK_DELETE_LO (R347). -/
abbrev SK_DELETE_LO : Nat := 0xB00070
/-- SK_DELETE_HI (R347). -/
abbrev SK_DELETE_HI : Nat := 0xB00074
/-- SK_REFUSED_LO (R347). -/
abbrev SK_REFUSED_LO : Nat := 0xB00078
/-- SK_REFUSED_HI (R347). -/
abbrev SK_REFUSED_HI : Nat := 0xB0007C
/-- SK_MERGE_LO (R347). -/
abbrev SK_MERGE_LO : Nat := 0xB00080
/-- SK_MERGE_HI (R347). -/
abbrev SK_MERGE_HI : Nat := 0xB00084
/-- SK_PURGED_LO (R347). -/
abbrev SK_PURGED_LO : Nat := 0xB00088
/-- SK_PURGED_HI (R347). -/
abbrev SK_PURGED_HI : Nat := 0xB0008C
/-- SK_IDX0–63 (R347). -/
abbrev SK_IDX : Nat := 0xB01000
/-- CU_VERSION (R380). -/
abbrev CU_VERSION : Nat := 0xC00000
/-- CU_STATUS (R380). -/
abbrev CU_STATUS : Nat := 0xC00004
/-- CU_ERR (R380). -/
abbrev CU_ERR : Nat := 0xC00008
/-- CU_CTRL (R380). -/
abbrev CU_CTRL : Nat := 0xC0000C
/-- CU_ROLE (R380). -/
abbrev CU_ROLE : Nat := 0xC00010
/-- CU_RETIRE_CTRL (R380). -/
abbrev CU_RETIRE_CTRL : Nat := 0xC00014
/-- CU_REPLAY_TIMEOUT (R380). -/
abbrev CU_REPLAY_TIMEOUT : Nat := 0xC00018
/-- CU_DOWN_TIMEOUT (R380). -/
abbrev CU_DOWN_TIMEOUT : Nat := 0xC0001C
/-- CU_LANES (R380). -/
abbrev CU_LANES : Nat := 0xC00020
/-- CU_PARTNER (R380). -/
abbrev CU_PARTNER : Nat := 0xC00024
/-- CU_CREDIT0 (R380). -/
abbrev CU_CREDIT0 : Nat := 0xC00028
/-- CU_CREDIT1 (R380). -/
abbrev CU_CREDIT1 : Nat := 0xC0002C
/-- CU_ETH_CTRL (R380). -/
abbrev CU_ETH_CTRL : Nat := 0xC00030
/-- CU_ETH_DSCP (R380). -/
abbrev CU_ETH_DSCP : Nat := 0xC00034
/-- CU_ETH_UDP (R380). -/
abbrev CU_ETH_UDP : Nat := 0xC00038
/-- CU_ETH_RTO (R380). -/
abbrev CU_ETH_RTO : Nat := 0xC0003C
/-- CU_MAC_LO (R380). -/
abbrev CU_MAC_LO : Nat := 0xC00040
/-- CU_MAC_HI (R380). -/
abbrev CU_MAC_HI : Nat := 0xC00044
/-- CU_IP0–3 (R380). -/
abbrev CU_IP : Nat := 0xC00048
/-- CU_TUN_SEL (R380). -/
abbrev CU_TUN_SEL : Nat := 0xC00060
/-- CU_TUN_DATA0 (R380). -/
abbrev CU_TUN_DATA0 : Nat := 0xC00064
/-- CU_TUN_DATA1 (R380). -/
abbrev CU_TUN_DATA1 : Nat := 0xC00068
/-- CU_LANE_RETRAIN0–7 (R380). -/
abbrev CU_LANE_RETRAIN : Nat := 0xC00080
/-- CU_LANE_FEC0–7 (R380). -/
abbrev CU_LANE_FEC : Nat := 0xC000A0
/-- CU_TX_FRAMES_LO (R380). -/
abbrev CU_TX_FRAMES_LO : Nat := 0xC00100
/-- CU_TX_FRAMES_HI (R380). -/
abbrev CU_TX_FRAMES_HI : Nat := 0xC00104
/-- CU_RX_FRAMES_LO (R380). -/
abbrev CU_RX_FRAMES_LO : Nat := 0xC00108
/-- CU_RX_FRAMES_HI (R380). -/
abbrev CU_RX_FRAMES_HI : Nat := 0xC0010C
/-- CU_CRC_ERR_LO (R380). -/
abbrev CU_CRC_ERR_LO : Nat := 0xC00110
/-- CU_CRC_ERR_HI (R380). -/
abbrev CU_CRC_ERR_HI : Nat := 0xC00114
/-- CU_REPLAY_LO (R380). -/
abbrev CU_REPLAY_LO : Nat := 0xC00118
/-- CU_REPLAY_HI (R380). -/
abbrev CU_REPLAY_HI : Nat := 0xC0011C
/-- CU_RETRAIN_LO (R380). -/
abbrev CU_RETRAIN_LO : Nat := 0xC00120
/-- CU_RETRAIN_HI (R380). -/
abbrev CU_RETRAIN_HI : Nat := 0xC00124
/-- CU_FEC_UNCORR_LO (R380). -/
abbrev CU_FEC_UNCORR_LO : Nat := 0xC00128
/-- CU_FEC_UNCORR_HI (R380). -/
abbrev CU_FEC_UNCORR_HI : Nat := 0xC0012C
/-- CU_TGEN_DROP_LO (R380). -/
abbrev CU_TGEN_DROP_LO : Nat := 0xC00130
/-- CU_TGEN_DROP_HI (R380). -/
abbrev CU_TGEN_DROP_HI : Nat := 0xC00134
/-- CU_RX_DROP_LO (R380). -/
abbrev CU_RX_DROP_LO : Nat := 0xC00138
/-- CU_RX_DROP_HI (R380). -/
abbrev CU_RX_DROP_HI : Nat := 0xC0013C
/-- CU_NOCREDIT_LO (R380). -/
abbrev CU_NOCREDIT_LO : Nat := 0xC00140
/-- CU_NOCREDIT_HI (R380). -/
abbrev CU_NOCREDIT_HI : Nat := 0xC00144
/-- CU_RT_STATUS (R380). -/
abbrev CU_RT_STATUS : Nat := 0xC00800
/-- CU_RT_TGEN (R380). -/
abbrev CU_RT_TGEN : Nat := 0xC00804
/-- CU_RT_JOB (R380). -/
abbrev CU_RT_JOB : Nat := 0xC00808
/-- CU_RT_DIM0 (R380). -/
abbrev CU_RT_DIM0 : Nat := 0xC0080C
/-- CU_RT_DIM1 (R380). -/
abbrev CU_RT_DIM1 : Nat := 0xC00810
/-- CU_RT_COORD0 (R380). -/
abbrev CU_RT_COORD0 : Nat := 0xC00814
/-- CU_RT_COORD1 (R380). -/
abbrev CU_RT_COORD1 : Nat := 0xC00818
/-- CU_RT_BASE_LO (R380). -/
abbrev CU_RT_BASE_LO : Nat := 0xC00820
/-- CU_RT_BASE_HI (R380). -/
abbrev CU_RT_BASE_HI : Nat := 0xC00824
/-- HI_VERSION (R408). -/
abbrev HI_VERSION : Nat := 0x0
/-- HI_STATUS (R408). -/
abbrev HI_STATUS : Nat := 0x4
/-- HI_ERR (R408). -/
abbrev HI_ERR : Nat := 0x8
/-- HI_QP_VERSION (R408). -/
abbrev HI_QP_VERSION : Nat := 0x10
/-- HI_QP_HANDSHAKE (R408). -/
abbrev HI_QP_HANDSHAKE : Nat := 0x14
/-- HI_QP_AGREED (R408). -/
abbrev HI_QP_AGREED : Nat := 0x18
/-- HI_EV_BASE_LO (R408). -/
abbrev HI_EV_BASE_LO : Nat := 0x20
/-- HI_EV_BASE_HI (R408). -/
abbrev HI_EV_BASE_HI : Nat := 0x24
/-- HI_EV_CFG (R408). -/
abbrev HI_EV_CFG : Nat := 0x28
/-- HI_EV_HEAD (R408). -/
abbrev HI_EV_HEAD : Nat := 0x2C
/-- HI_EV_TAIL (R408). -/
abbrev HI_EV_TAIL : Nat := 0x30
/-- HI_WIN_BASE_LO (R408). -/
abbrev HI_WIN_BASE_LO : Nat := 0x40
/-- HI_WIN_BASE_HI (R408). -/
abbrev HI_WIN_BASE_HI : Nat := 0x44
/-- HI_WIN_CTRL (R408). -/
abbrev HI_WIN_CTRL : Nat := 0x48
/-- HI_PEER_RANK (R408). -/
abbrev HI_PEER_RANK : Nat := 0x4C
/-- HI_DBG_CTRL (R408). -/
abbrev HI_DBG_CTRL : Nat := 0x50
/-- HI_CLOCK_LO (R408). -/
abbrev HI_CLOCK_LO : Nat := 0x60
/-- HI_CLOCK_HI (R408). -/
abbrev HI_CLOCK_HI : Nat := 0x64
/-- HI_FETCH_LO (R408). -/
abbrev HI_FETCH_LO : Nat := 0x100
/-- HI_FETCH_HI (R408). -/
abbrev HI_FETCH_HI : Nat := 0x104
/-- HI_COMPLETE_LO (R408). -/
abbrev HI_COMPLETE_LO : Nat := 0x108
/-- HI_COMPLETE_HI (R408). -/
abbrev HI_COMPLETE_HI : Nat := 0x10C
/-- HI_ERRCOMP_LO (R408). -/
abbrev HI_ERRCOMP_LO : Nat := 0x110
/-- HI_ERRCOMP_HI (R408). -/
abbrev HI_ERRCOMP_HI : Nat := 0x114
/-- HI_TOKENS_LO (R408). -/
abbrev HI_TOKENS_LO : Nat := 0x118
/-- HI_TOKENS_HI (R408). -/
abbrev HI_TOKENS_HI : Nat := 0x11C
/-- HI_IRQ_LO (R408). -/
abbrev HI_IRQ_LO : Nat := 0x120
/-- HI_IRQ_HI (R408). -/
abbrev HI_IRQ_HI : Nat := 0x124
/-- HI_SNOOP_DB_LO (R408). -/
abbrev HI_SNOOP_DB_LO : Nat := 0x128
/-- HI_SNOOP_DB_HI (R408). -/
abbrev HI_SNOOP_DB_HI : Nat := 0x12C
/-- HI_EV_LOST_LO (R408). -/
abbrev HI_EV_LOST_LO : Nat := 0x130
/-- HI_EV_LOST_HI (R408). -/
abbrev HI_EV_LOST_HI : Nat := 0x134
/-- HI_STATUS_CNT0–31 (R408). -/
abbrev HI_STATUS_CNT : Nat := 0x200
/-- GL_ID (R438). -/
abbrev GL_ID : Nat := 0x100000
/-- GL_VERSION (R438). -/
abbrev GL_VERSION : Nat := 0x100004
/-- GL_SERIAL_LO (R438). -/
abbrev GL_SERIAL_LO : Nat := 0x100008
/-- GL_SERIAL_HI (R438). -/
abbrev GL_SERIAL_HI : Nat := 0x10000C
/-- GL_START_STATUS (R438). -/
abbrev GL_START_STATUS : Nat := 0x100010
/-- GL_RESET (R438). -/
abbrev GL_RESET : Nat := 0x100014
/-- GL_START_CAUSE (R438). -/
abbrev GL_START_CAUSE : Nat := 0x100018
/-- GL_WARM_COUNT (R438). -/
abbrev GL_WARM_COUNT : Nat := 0x10001C
/-- GL_START_REFUSED (R438). -/
abbrev GL_START_REFUSED : Nat := 0x100020
/-- GL_RET_STATUS (R438). -/
abbrev GL_RET_STATUS : Nat := 0x100024
/-- GL_PHASE_MS0–8 (R438). -/
abbrev GL_PHASE_MS : Nat := 0x100040
/-- GL_VCORE0–3 (R438). -/
abbrev GL_VCORE : Nat := 0x100080
/-- GL_LIMITS (R438). -/
abbrev GL_LIMITS : Nat := 0x100090
/-- GL_POLDER_CTRL0–63 (R438). -/
abbrev GL_POLDER_CTRL : Nat := 0x100100
/-- GL_POLDER_STATUS0–63 (R438). -/
abbrev GL_POLDER_STATUS : Nat := 0x100200
/-- GL_OTP0–255 (R438). -/
abbrev GL_OTP : Nat := 0x101000
/-- GL_RET_STK (R438). -/
abbrev GL_RET_STK : Nat := 0x102000
/-- IM_VERSION (R439). -/
abbrev IM_VERSION : Nat := 0x200000
/-- IM_STATUS (R439). -/
abbrev IM_STATUS : Nat := 0x200004
/-- IM_ERR (R439). -/
abbrev IM_ERR : Nat := 0x200008
/-- IM_BOOT_SEL (R439). -/
abbrev IM_BOOT_SEL : Nat := 0x20000C
/-- IM_CAUSE0 (R439). -/
abbrev IM_CAUSE0 : Nat := 0x200010
/-- IM_DETAIL0 (R439). -/
abbrev IM_DETAIL0 : Nat := 0x200014
/-- IM_CAUSE1 (R439). -/
abbrev IM_CAUSE1 : Nat := 0x200018
/-- IM_DETAIL1 (R439). -/
abbrev IM_DETAIL1 : Nat := 0x20001C
/-- IM_SCHEMA (R439). -/
abbrev IM_SCHEMA : Nat := 0x200020
/-- IM_IMAGE_VER_LO (R439). -/
abbrev IM_IMAGE_VER_LO : Nat := 0x200024
/-- IM_IMAGE_VER_HI (R439). -/
abbrev IM_IMAGE_VER_HI : Nat := 0x200028
/-- IM_SVN (R439). -/
abbrev IM_SVN : Nat := 0x20002C
/-- IM_LAYOUT_LO (R439). -/
abbrev IM_LAYOUT_LO : Nat := 0x200030
/-- IM_LAYOUT_HI (R439). -/
abbrev IM_LAYOUT_HI : Nat := 0x200034
/-- IM_RWL_DISCARD (R439). -/
abbrev IM_RWL_DISCARD : Nat := 0x200038
/-- IM_SKIPPED (R439). -/
abbrev IM_SKIPPED : Nat := 0x20003C
/-- IM_DIGEST0–11 (R439). -/
abbrev IM_DIGEST : Nat := 0x200040
/-- IM_FLASH_ID (R439). -/
abbrev IM_FLASH_ID : Nat := 0x200070
/-- IM_FLASH_SIZE (R439). -/
abbrev IM_FLASH_SIZE : Nat := 0x200074
/-- IM_LOAD_MS (R439). -/
abbrev IM_LOAD_MS : Nat := 0x200078
/-- IM_STORE_CRC (R439). -/
abbrev IM_STORE_CRC : Nat := 0x20007C
/-- IM_FUSE_KEYS (R439). -/
abbrev IM_FUSE_KEYS : Nat := 0x200080
/-- IM_FUSE_CMD (R439). -/
abbrev IM_FUSE_CMD : Nat := 0x200084
/-- IM_FUSE_RESULT (R439). -/
abbrev IM_FUSE_RESULT : Nat := 0x200088
/-- DT_PLUMB0–7 (R458). -/
abbrev DT_PLUMB : Nat := 0xF00800
/-- DT_SYNC_CTRL (R458). -/
abbrev DT_SYNC_CTRL : Nat := 0xF00820
/-- DT_SYNC_STATUS (R458). -/
abbrev DT_SYNC_STATUS : Nat := 0xF00824
/-- DT_ERR (R458). -/
abbrev DT_ERR : Nat := 0xF00828
/-- DT_MARK_TIME_LO (R458). -/
abbrev DT_MARK_TIME_LO : Nat := 0xF00830
/-- DT_MARK_TIME_HI (R458). -/
abbrev DT_MARK_TIME_HI : Nat := 0xF00834
/-- DT_PULSE_TIME_LO (R458). -/
abbrev DT_PULSE_TIME_LO : Nat := 0xF00838
/-- DT_PULSE_TIME_HI (R458). -/
abbrev DT_PULSE_TIME_HI : Nat := 0xF0083C
/-- DT_MATCH_LO (R458). -/
abbrev DT_MATCH_LO : Nat := 0xF00840
/-- DT_MATCH_HI (R458). -/
abbrev DT_MATCH_HI : Nat := 0xF00844
/-- DT_IGNORED_LO (R458). -/
abbrev DT_IGNORED_LO : Nat := 0xF00848
/-- DT_IGNORED_HI (R458). -/
abbrev DT_IGNORED_HI : Nat := 0xF0084C
/-- DT_MISSED_LO (R458). -/
abbrev DT_MISSED_LO : Nat := 0xF00850
/-- DT_MISSED_HI (R458). -/
abbrev DT_MISSED_HI : Nat := 0xF00854
/-- DT_HOLD_LO (R458). -/
abbrev DT_HOLD_LO : Nat := 0xF00858
/-- DT_HOLD_HI (R458). -/
abbrev DT_HOLD_HI : Nat := 0xF0085C
/-- DT_PCHUNK0–255 (R458). -/
abbrev DT_PCHUNK : Nat := 0xF00900
/-- EL_VERSION (R478). -/
abbrev EL_VERSION : Nat := 0x300000
/-- EL_STATUS (R478). -/
abbrev EL_STATUS : Nat := 0x300004
/-- EL_ALERT (R478). -/
abbrev EL_ALERT : Nat := 0x300008
/-- EL_ALERT_EN (R478). -/
abbrev EL_ALERT_EN : Nat := 0x30000C
/-- EL_CTRL (R478). -/
abbrev EL_CTRL : Nat := 0x300010
/-- EL_WR (R478). -/
abbrev EL_WR : Nat := 0x300014
/-- EL_RD (R478). -/
abbrev EL_RD : Nat := 0x300018
/-- EL_RETIRE_PC (R478). -/
abbrev EL_RETIRE_PC : Nat := 0x30001C
/-- EL_RETIRE_CORE (R478). -/
abbrev EL_RETIRE_CORE : Nat := 0x300020
/-- EL_ESCALATE (R478). -/
abbrev EL_ESCALATE : Nat := 0x300024
/-- EL_TEST (R478). -/
abbrev EL_TEST : Nat := 0x300028
/-- EL_I3C (R478). -/
abbrev EL_I3C : Nat := 0x30002C
/-- EL_OVF_FIRST_LO (R478). -/
abbrev EL_OVF_FIRST_LO : Nat := 0x300030
/-- EL_OVF_FIRST_HI (R478). -/
abbrev EL_OVF_FIRST_HI : Nat := 0x300034
/-- EL_RECORDED_LO (R478). -/
abbrev EL_RECORDED_LO : Nat := 0x300040
/-- EL_RECORDED_HI (R478). -/
abbrev EL_RECORDED_HI : Nat := 0x300044
/-- EL_COALESCED_LO (R478). -/
abbrev EL_COALESCED_LO : Nat := 0x300048
/-- EL_COALESCED_HI (R478). -/
abbrev EL_COALESCED_HI : Nat := 0x30004C
/-- EL_OVERFLOW_LO (R478). -/
abbrev EL_OVERFLOW_LO : Nat := 0x300050
/-- EL_OVERFLOW_HI (R478). -/
abbrev EL_OVERFLOW_HI : Nat := 0x300054
/-- EL_WRAP_LOST_LO (R478). -/
abbrev EL_WRAP_LOST_LO : Nat := 0x300058
/-- EL_WRAP_LOST_HI (R478). -/
abbrev EL_WRAP_LOST_HI : Nat := 0x30005C
/-- EL_PLDM_LOST_LO (R478). -/
abbrev EL_PLDM_LOST_LO : Nat := 0x300060
/-- EL_PLDM_LOST_HI (R478). -/
abbrev EL_PLDM_LOST_HI : Nat := 0x300064
/-- EL_ALERTS_LO (R478). -/
abbrev EL_ALERTS_LO : Nat := 0x300068
/-- EL_ALERTS_HI (R478). -/
abbrev EL_ALERTS_HI : Nat := 0x30006C
/-- EL_CLASS_CNT0–5 (R478). -/
abbrev EL_CLASS_CNT : Nat := 0x300080
/-- EL_RETIRED0–511 (R478). -/
abbrev EL_RETIRED : Nat := 0x300400
/-- EL_ENTRY (R478). -/
abbrev EL_ENTRY : Nat := 0x310000
/-- PW_VERSION (R510). -/
abbrev PW_VERSION : Nat := 0xF00000
/-- PW_STATUS (R510). -/
abbrev PW_STATUS : Nat := 0xF00004
/-- PW_ERR (R510). -/
abbrev PW_ERR : Nat := 0xF00008
/-- PW_THROT_CTRL (R510). -/
abbrev PW_THROT_CTRL : Nat := 0xF0000C
/-- PW_PMB_CTRL (R510). -/
abbrev PW_PMB_CTRL : Nat := 0xF00010
/-- PW_TRIP_INFO (R510). -/
abbrev PW_TRIP_INFO : Nat := 0xF00014
/-- PW_CLK_STATUS (R510). -/
abbrev PW_CLK_STATUS : Nat := 0xF00018
/-- PW_POWER (R510). -/
abbrev PW_POWER : Nat := 0xF0001C
/-- PW_POWER_MAX (R510). -/
abbrev PW_POWER_MAX : Nat := 0xF00020
/-- PW_TEMP_MAX_DIE (R510). -/
abbrev PW_TEMP_MAX_DIE : Nat := 0xF00024
/-- PW_TEMP_MAX_STK (R510). -/
abbrev PW_TEMP_MAX_STK : Nat := 0xF00028
/-- PW_PMB_ADDR0–11 (R510). -/
abbrev PW_PMB_ADDR : Nat := 0xF00040
/-- PW_RAIL_V0–11 (R510). -/
abbrev PW_RAIL_V : Nat := 0xF00080
/-- PW_RAIL_I0–11 (R510). -/
abbrev PW_RAIL_I : Nat := 0xF000C0
/-- PW_TEMP0–71 (R510). -/
abbrev PW_TEMP : Nat := 0xF00100
/-- PW_DIV5_TIME_LO (R510). -/
abbrev PW_DIV5_TIME_LO : Nat := 0xF00300
/-- PW_DIV5_TIME_HI (R510). -/
abbrev PW_DIV5_TIME_HI : Nat := 0xF00304
/-- PW_DIV6_TIME_LO (R510). -/
abbrev PW_DIV6_TIME_LO : Nat := 0xF00308
/-- PW_DIV6_TIME_HI (R510). -/
abbrev PW_DIV6_TIME_HI : Nat := 0xF0030C
/-- PW_HELD_TIME_LO (R510). -/
abbrev PW_HELD_TIME_LO : Nat := 0xF00310
/-- PW_HELD_TIME_HI (R510). -/
abbrev PW_HELD_TIME_HI : Nat := 0xF00314
/-- PW_DIVCHG_LO (R510). -/
abbrev PW_DIVCHG_LO : Nat := 0xF00318
/-- PW_DIVCHG_HI (R510). -/
abbrev PW_DIVCHG_HI : Nat := 0xF0031C
/-- PW_EXCURSION_LO (R510). -/
abbrev PW_EXCURSION_LO : Nat := 0xF00320
/-- PW_EXCURSION_HI (R510). -/
abbrev PW_EXCURSION_HI : Nat := 0xF00324
/-- PW_PMB_ERR_LO (R510). -/
abbrev PW_PMB_ERR_LO : Nat := 0xF00328
/-- PW_PMB_ERR_HI (R510). -/
abbrev PW_PMB_ERR_HI : Nat := 0xF0032C
/-- HI_Q_CTRL (R408). -/
abbrev HI_Q_CTRL : Nat := 0x10000
/-- HI_Q_STATUS (R408). -/
abbrev HI_Q_STATUS : Nat := 0x10004
/-- HI_Q_CFG (R408). -/
abbrev HI_Q_CFG : Nat := 0x10008
/-- HI_Q_IRQ (R408). -/
abbrev HI_Q_IRQ : Nat := 0x1000C
/-- HI_Q_SQ_BASE (R408). -/
abbrev HI_Q_SQ_BASE : Nat := 0x10010
/-- HI_Q_CQ_BASE (R408). -/
abbrev HI_Q_CQ_BASE : Nat := 0x10018
/-- HI_Q_TR_BASE (R408). -/
abbrev HI_Q_TR_BASE : Nat := 0x10020
/-- HI_Q_SQ_HEAD (R408). -/
abbrev HI_Q_SQ_HEAD : Nat := 0x10028
/-- HI_Q_CQ_TAIL (R408). -/
abbrev HI_Q_CQ_TAIL : Nat := 0x1002C
/-- HI_Q_TR_TAIL (R408). -/
abbrev HI_Q_TR_TAIL : Nat := 0x10030
/-- HI_Q_ERRINFO (R408). -/
abbrev HI_Q_ERRINFO : Nat := 0x10034
/-- MSIX_ADDR_DATA (R408). -/
abbrev MSIX_ADDR_DATA : Nat := 0x80000
/-- MSIX_CTRL (R408). -/
abbrev MSIX_CTRL : Nat := 0x8000C
/-- MSIX_PBA (R408). -/
abbrev MSIX_PBA : Nat := 0x90000
/-- TI_PC_RETIRED (R285). -/
abbrev TI_PC_RETIRED : Nat := 0x900080
/-- TI_PQ_STACK (R285). -/
abbrev TI_PQ_STACK : Nat := 0x900400
/-- TI_PQ_SPILL (R285). -/
abbrev TI_PQ_SPILL : Nat := 0x900404
/-- TI_PU_STACK (R285). -/
abbrev TI_PU_STACK : Nat := 0x900408
/-- TI_PU_SPILL (R285). -/
abbrev TI_PU_SPILL : Nat := 0x90040C
/-- KV_FB_SIZE (R226). -/
abbrev KV_FB_SIZE : Nat := 0x700200
/-- KV_FB_FREE (R226). -/
abbrev KV_FB_FREE : Nat := 0x700204

end R

/-- Part 0 of the register tables. -/
def regRows0 : List RegRow := [
  ⟨R.SF_VERSION, 1, 1, 0x0, 1, 0x0, .ro, 0x100, 0xFFFFFFFF, false, false, 0⟩,
  ⟨R.SF_CTRL, 1, 1, 0x0, 1, 0x0, .rwl, 0x11, 0xF1, true, false, 0⟩,
  ⟨R.SF_UPROG_STATUS, 1, 1, 0x0, 1, 0x0, .ro, 0x0, 0x1FFF1FFF, true, false, 0⟩,
  ⟨R.SF_STICKY, 1, 1, 0x0, 1, 0x0, .w1c, 0x0, 0x7F, false, false, 0⟩,
  ⟨R.SF_STICKY_LOG, 1, 1, 0x0, 1, 0x0, .rw, 0x21, 0x7F, false, false, 0⟩,
  ⟨R.SF_CORE_FLAG, 6, 1, 0x0, 1, 0x0, .w1c, 0x0, 0xFFFFFFFF, false, false, 0⟩,
  ⟨R.SF_NAN_OUT_LO, 1, 1, 0x0, 1, 0x0, .ro, 0x0, 0xFFFFFFFF, false, true, 1⟩,
  ⟨R.SF_NAN_OUT_HI, 1, 1, 0x0, 1, 0x0, .ro, 0x0, 0xFFFFFFFF, false, true, 2⟩,
  ⟨R.SF_SAT_LO, 1, 1, 0x0, 1, 0x0, .ro, 0x0, 0xFFFFFFFF, false, true, 1⟩,
  ⟨R.SF_SAT_HI, 1, 1, 0x0, 1, 0x0, .ro, 0x0, 0xFFFFFFFF, false, true, 2⟩,
  ⟨R.SF_INEXACT_LO, 1, 1, 0x0, 1, 0x0, .ro, 0x0, 0xFFFFFFFF, false, true, 1⟩,
  ⟨R.SF_INEXACT_HI, 1, 1, 0x0, 1, 0x0, .ro, 0x0, 0xFFFFFFFF, false, true, 2⟩,
  ⟨R.SF_FUNC_MAP, 128, 1, 0x0, 1, 0x0, .ro, 0x0, 0x8F3F0FFF, true, false, 0⟩,
  ⟨R.SF_PWL_TABLE, 8192, 1, 0x0, 1, 0x0, .ro, 0x0, 0xFFFFFFFF, true, false, 0⟩,
  ⟨R.SF_UPROG, 8192, 1, 0x0, 1, 0x0, .ro, 0x0, 0xFFFFFFFF, true, false, 0⟩,
  ⟨R.SQ_VERSION, 1, 4, 0x40000, 1, 0x0, .ro, 0x100, 0xFFFFFFFF, false, false, 0⟩,
  ⟨R.SQ_DIE_STATUS, 1, 4, 0x40000, 1, 0x0, .ro, 0x0, 0xFFFFFFFF, false, false, 0⟩,
  ⟨R.SQ_SPARE_MAP, 1, 4, 0x40000, 1, 0x0, .ro, 0x0, 0xFFFFFFFF, false, false, 0⟩,
  ⟨R.SQ_DIKE_TIMEOUT, 1, 4, 0x40000, 1, 0x0, .rwl, 0x186A0, 0xFFFFFFFF, true, false, 0⟩,
  ⟨R.SQ_CHAIN_TIMEOUT, 1, 4, 0x40000, 1, 0x0, .rwl, 0x2710, 0xFFFFFFFF, true, false, 0⟩,
  ⟨R.SQ_DIKE_PEND_LO, 1, 4, 0x40000, 1, 0x0, .ro, 0x0, 0xFFFFFFFF, false, false, 1⟩,
  ⟨R.SQ_DIKE_PEND_HI, 1, 4, 0x40000, 1, 0x0, .ro, 0x0, 0xFFFFFFFF, false, false, 2⟩,
  ⟨R.SQ_DIKE_GEN_LO, 1, 4, 0x40000, 1, 0x0, .ro, 0x0, 0xFFFFFFFF, false, false, 1⟩,
  ⟨R.SQ_DIKE_GEN_HI, 1, 4, 0x40000, 1, 0x0, .ro, 0x0, 0xFFFFFFFF, false, false, 2⟩,
  ⟨R.SQ_PDIKE_PEND, 1, 1, 0x0, 1, 0x0, .ro, 0x0, 0xFFFFFFFF, false, false, 0⟩,
  ⟨R.SQ_PDIKE_GEN, 1, 1, 0x0, 1, 0x0, .ro, 0x0, 0xFFFFFFFF, false, false, 0⟩,
  ⟨R.SQ_DIKE_MEMBERS, 12, 4, 0x40000, 64, 0x40, .rwl, 0x0, 0xFFFFFFFF, true, false, 0⟩,
  ⟨R.SQ_DIKE_ARRIVED, 12, 4, 0x40000, 64, 0x40, .ro, 0x0, 0xFFFFFFFF, false, false, 0⟩,
  ⟨R.SQ_PDIKE_MEMBERS, 48, 16, 0x100, 1, 0x0, .rwl, 0x0, 0xFFFFFFFF, true, false, 0⟩,
  ⟨R.SQ_PDIKE_ARRIVED, 48, 16, 0x100, 1, 0x0, .ro, 0x0, 0xFFFFFFFF, false, false, 0⟩,
  ⟨R.SQ_CORE_STATUS, 1, 4, 0x40000, 48, 0x800, .ro, 0x0, 0xFFFFFFFF, false, false, 0⟩,
  ⟨R.SQ_CORE_ARITH, 1, 4, 0x40000, 48, 0x800, .w1c, 0x0, 0x7F, false, false, 0⟩,
  ⟨R.SQ_CORE_ERR, 1, 4, 0x40000, 48, 0x800, .w1c, 0x0, 0xF, false, false, 0⟩,
  ⟨R.SQ_CORE_CFG, 1, 4, 0x40000, 48, 0x800, .ro, 0x0, 0x77FFF, true, false, 0⟩,
  ⟨R.SQ_SLOT_STATE, 8, 4, 0x40000, 48, 0x800, .ro, 0x0, 0xFFFFFFFF, false, false, 0⟩,
  ⟨R.SQ_SLOT_LOOP, 8, 4, 0x40000, 48, 0x800, .ro, 0x0, 0xFFFFFFFF, false, false, 0⟩,
  ⟨R.SQ_SLOT_ALT, 8, 4, 0x40000, 48, 0x800, .rwl, 0x0, 0x1FFFF, true, false, 0⟩,
  ⟨R.SQ_SLOT_WAIT, 8, 4, 0x40000, 48, 0x800, .ro, 0x0, 0xFFFFFFFF, false, false, 0⟩,
  ⟨R.SQ_FLAG_PAIR, 128, 4, 0x40000, 48, 0x800, .ro, 0x0, 0xFFFFFFFF, false, false, 0⟩,
  ⟨R.SQ_ISSUED_LO, 1, 4, 0x40000, 48, 0x800, .ro, 0x0, 0xFFFFFFFF, false, true, 1⟩]

/-- Part 1 of the register tables. -/
def regRows1 : List RegRow := [
  ⟨R.SQ_ISSUED_HI, 1, 4, 0x40000, 48, 0x800, .ro, 0x0, 0xFFFFFFFF, false, true, 2⟩,
  ⟨R.SQ_SWITCH_LO, 1, 4, 0x40000, 48, 0x800, .ro, 0x0, 0xFFFFFFFF, false, true, 1⟩,
  ⟨R.SQ_SWITCH_HI, 1, 4, 0x40000, 48, 0x800, .ro, 0x0, 0xFFFFFFFF, false, true, 2⟩,
  ⟨R.SQ_IDLE_LO, 1, 4, 0x40000, 48, 0x800, .ro, 0x0, 0xFFFFFFFF, false, true, 1⟩,
  ⟨R.SQ_IDLE_HI, 1, 4, 0x40000, 48, 0x800, .ro, 0x0, 0xFFFFFFFF, false, true, 2⟩,
  ⟨R.SQ_QFULL_LO, 1, 4, 0x40000, 48, 0x800, .ro, 0x0, 0xFFFFFFFF, false, true, 1⟩,
  ⟨R.SQ_QFULL_HI, 1, 4, 0x40000, 48, 0x800, .ro, 0x0, 0xFFFFFFFF, false, true, 2⟩,
  ⟨R.SQ_ECC_CORR, 1, 4, 0x40000, 48, 0x800, .ro, 0x0, 0xFFFFFFFF, false, false, 0⟩,
  ⟨R.SQ_OVERRUN, 1, 4, 0x40000, 48, 0x800, .ro, 0x0, 0xFFFFFFFF, false, false, 0⟩,
  ⟨R.SQ_ATTN_CFG, 64, 4, 0x40000, 48, 0x800, .ro, 0x0, 0xFFFFFFFF, true, false, 0⟩,
  ⟨R.TG_VERSION, 1, 1, 0x0, 1, 0x0, .ro, 0x100, 0xFFFFFFFF, false, false, 0⟩,
  ⟨R.TG_STATUS, 1, 1, 0x0, 1, 0x0, .ro, 0x0, 0xFFFFFFFF, false, false, 0⟩,
  ⟨R.TG_SPLIT_READ, 1, 1, 0x0, 1, 0x0, .rwl, 0x10000, 0x3FFFF, true, false, 0⟩,
  ⟨R.TG_SPLIT_WRITE, 1, 1, 0x0, 1, 0x0, .rwl, 0x8000, 0x3FFFF, true, false, 0⟩,
  ⟨R.TG_SPLIT_REMOTE, 1, 1, 0x0, 1, 0x0, .rwl, 0x8000, 0x3FFFF, true, false, 0⟩,
  ⟨R.TG_HOST_CAP, 1, 1, 0x0, 1, 0x0, .rwl, 0x1000, 0x3FFFF, true, false, 0⟩,
  ⟨R.TG_CTX_CAP, 1, 1, 0x0, 1, 0x0, .rwl, 0x400, 0x3FFF, true, false, 0⟩,
  ⟨R.TG_PUMP_CAP, 1, 1, 0x0, 1, 0x0, .rwl, 0x4000, 0x3FFFF, true, false, 0⟩,
  ⟨R.TG_SLOT_SPLIT, 1, 1, 0x0, 1, 0x0, .rwl, 0x3050C, 0x1F1F1F, true, false, 0⟩,
  ⟨R.TG_PIN_TIME, 1, 1, 0x0, 1, 0x0, .rwl, 0x3E8, 0xFFFFFFFF, true, false, 0⟩,
  ⟨R.TG_PEER_TIMEOUT, 1, 1, 0x0, 1, 0x0, .rwl, 0xC350, 0xFFFFFFFF, true, false, 0⟩,
  ⟨R.TG_INUSE_READ, 1, 1, 0x0, 1, 0x0, .ro, 0x0, 0xFFFFFFFF, false, false, 0⟩,
  ⟨R.TG_INUSE_WRITE, 1, 1, 0x0, 1, 0x0, .ro, 0x0, 0xFFFFFFFF, false, false, 0⟩,
  ⟨R.TG_INUSE_REMOTE, 1, 1, 0x0, 1, 0x0, .ro, 0x0, 0xFFFFFFFF, false, false, 0⟩,
  ⟨R.TG_INUSE_HOST, 1, 1, 0x0, 1, 0x0, .ro, 0x0, 0xFFFFFFFF, false, false, 0⟩,
  ⟨R.TG_INUSE_PUMP, 1, 1, 0x0, 1, 0x0, .ro, 0x0, 0xFFFFFFFF, false, false, 0⟩,
  ⟨R.TG_HWM_READ, 1, 1, 0x0, 1, 0x0, .ro, 0x0, 0xFFFFFFFF, false, true, 0⟩,
  ⟨R.TG_HWM_WRITE, 1, 1, 0x0, 1, 0x0, .ro, 0x0, 0xFFFFFFFF, false, true, 0⟩,
  ⟨R.TG_HWM_REMOTE, 1, 1, 0x0, 1, 0x0, .ro, 0x0, 0xFFFFFFFF, false, true, 0⟩,
  ⟨R.TG_WAIT_READ_LO, 1, 1, 0x0, 1, 0x0, .ro, 0x0, 0xFFFFFFFF, false, true, 1⟩,
  ⟨R.TG_WAIT_READ_HI, 1, 1, 0x0, 1, 0x0, .ro, 0x0, 0xFFFFFFFF, false, true, 2⟩,
  ⟨R.TG_WAIT_WRITE_LO, 1, 1, 0x0, 1, 0x0, .ro, 0x0, 0xFFFFFFFF, false, true, 1⟩,
  ⟨R.TG_WAIT_WRITE_HI, 1, 1, 0x0, 1, 0x0, .ro, 0x0, 0xFFFFFFFF, false, true, 2⟩,
  ⟨R.TG_WAIT_REMOTE_LO, 1, 1, 0x0, 1, 0x0, .ro, 0x0, 0xFFFFFFFF, false, true, 1⟩,
  ⟨R.TG_WAIT_REMOTE_HI, 1, 1, 0x0, 1, 0x0, .ro, 0x0, 0xFFFFFFFF, false, true, 2⟩,
  ⟨R.TG_SLOT_LENT_LO, 1, 1, 0x0, 1, 0x0, .ro, 0x0, 0xFFFFFFFF, false, true, 1⟩,
  ⟨R.TG_SLOT_LENT_HI, 1, 1, 0x0, 1, 0x0, .ro, 0x0, 0xFFFFFFFF, false, true, 2⟩,
  ⟨R.TG_HALT_LO, 1, 1, 0x0, 1, 0x0, .ro, 0x0, 0xFFFFFFFF, false, true, 1⟩,
  ⟨R.TG_HALT_HI, 1, 1, 0x0, 1, 0x0, .ro, 0x0, 0xFFFFFFFF, false, true, 2⟩,
  ⟨R.TG_RESUME_LO, 1, 1, 0x0, 1, 0x0, .ro, 0x0, 0xFFFFFFFF, false, true, 1⟩]

/-- Part 2 of the register tables. -/
def regRows2 : List RegRow := [
  ⟨R.TG_RESUME_HI, 1, 1, 0x0, 1, 0x0, .ro, 0x0, 0xFFFFFFFF, false, true, 2⟩,
  ⟨R.TG_REFETCH_LO, 1, 1, 0x0, 1, 0x0, .ro, 0x0, 0xFFFFFFFF, false, true, 1⟩,
  ⟨R.TG_REFETCH_HI, 1, 1, 0x0, 1, 0x0, .ro, 0x0, 0xFFFFFFFF, false, true, 2⟩,
  ⟨R.TG_PUMP_LATE_LO, 1, 1, 0x0, 1, 0x0, .ro, 0x0, 0xFFFFFFFF, false, true, 1⟩,
  ⟨R.TG_PUMP_LATE_HI, 1, 1, 0x0, 1, 0x0, .ro, 0x0, 0xFFFFFFFF, false, true, 2⟩,
  ⟨R.TG_ERR, 1, 1, 0x0, 1, 0x0, .w1c, 0x0, 0xF, false, false, 0⟩,
  ⟨R.TG_PUMP_STATE, 64, 1, 0x0, 1, 0x0, .ro, 0x0, 0xFFFFFFFF, false, false, 0⟩,
  ⟨R.KV_VERSION, 1, 1, 0x0, 1, 0x0, .ro, 0x100, 0xFFFFFFFF, false, false, 0⟩,
  ⟨R.KV_STATUS, 1, 1, 0x0, 1, 0x0, .ro, 0x0, 0xFFFFFFFF, false, false, 0⟩,
  ⟨R.KV_EPOCH_LO, 1, 1, 0x0, 1, 0x0, .ro, 0x0, 0xFFFFFFFF, false, true, 1⟩,
  ⟨R.KV_EPOCH_HI, 1, 1, 0x0, 1, 0x0, .ro, 0x0, 0xFFFFFFFF, false, true, 2⟩,
  ⟨R.KV_DRAINED_LO, 1, 1, 0x0, 1, 0x0, .ro, 0x0, 0xFFFFFFFF, false, true, 1⟩,
  ⟨R.KV_DRAINED_HI, 1, 1, 0x0, 1, 0x0, .ro, 0x0, 0xFFFFFFFF, false, true, 2⟩,
  ⟨R.KV_POOL_BASE_LO, 1, 1, 0x0, 1, 0x0, .rwl, 0x0, 0xFFFFFFFF, true, false, 1⟩,
  ⟨R.KV_POOL_BASE_HI, 1, 1, 0x0, 1, 0x0, .rwl, 0x0, 0xFFFFF, true, false, 2⟩,
  ⟨R.KV_POOL_PAGES, 1, 1, 0x0, 1, 0x0, .rwl, 0x0, 0x1FFFFFFF, true, false, 0⟩,
  ⟨R.KV_FREEBOARD, 1, 1, 0x0, 1, 0x0, .rwl, 0x14, 0x7F, true, false, 0⟩,
  ⟨R.KV_PFT_BASE_LO, 1, 1, 0x0, 1, 0x0, .rwl, 0x0, 0xFFFFFFFF, true, false, 1⟩,
  ⟨R.KV_PFT_BASE_HI, 1, 1, 0x0, 1, 0x0, .rwl, 0x0, 0xFFFFF, true, false, 2⟩,
  ⟨R.KV_PARK_TIMEOUT, 1, 1, 0x0, 1, 0x0, .rwl, 0x2710, 0xFFFFFFFF, true, false, 0⟩,
  ⟨R.KV_SEAM_CTRL, 1, 1, 0x0, 1, 0x0, .rwl, 0x1, 0x1, true, false, 0⟩,
  ⟨R.KV_POLDER_SHARED_LO, 1, 1, 0x0, 1, 0x0, .rwl, 0x0, 0xFFFFFFFF, true, false, 1⟩,
  ⟨R.KV_POLDER_SHARED_HI, 1, 1, 0x0, 1, 0x0, .rwl, 0x0, 0xFFFFFFFF, true, false, 2⟩,
  ⟨R.KV_FREE_PAGES, 1, 1, 0x0, 1, 0x0, .ro, 0x0, 0xFFFFFFFF, false, false, 0⟩,
  ⟨R.KV_SPOIL_PAGES, 1, 1, 0x0, 1, 0x0, .ro, 0x0, 0xFFFFFFFF, false, false, 0⟩,
  ⟨R.KV_SEAM_VALID, 1, 1, 0x0, 1, 0x0, .ro, 0x0, 0xFFFFFFFF, false, false, 0⟩,
  ⟨R.KV_ERR, 1, 1, 0x0, 1, 0x0, .w1c, 0x0, 0xF, false, false, 0⟩,
  ⟨R.KV_ALLOC_LO, 1, 1, 0x0, 1, 0x0, .ro, 0x0, 0xFFFFFFFF, false, true, 1⟩,
  ⟨R.KV_ALLOC_HI, 1, 1, 0x0, 1, 0x0, .ro, 0x0, 0xFFFFFFFF, false, true, 2⟩,
  ⟨R.KV_FB_ALLOC_LO, 1, 1, 0x0, 1, 0x0, .ro, 0x0, 0xFFFFFFFF, false, true, 1⟩,
  ⟨R.KV_FB_ALLOC_HI, 1, 1, 0x0, 1, 0x0, .ro, 0x0, 0xFFFFFFFF, false, true, 2⟩,
  ⟨R.KV_COW_LO, 1, 1, 0x0, 1, 0x0, .ro, 0x0, 0xFFFFFFFF, false, true, 1⟩,
  ⟨R.KV_COW_HI, 1, 1, 0x0, 1, 0x0, .ro, 0x0, 0xFFFFFFFF, false, true, 2⟩,
  ⟨R.KV_PARK_LO, 1, 1, 0x0, 1, 0x0, .ro, 0x0, 0xFFFFFFFF, false, true, 1⟩,
  ⟨R.KV_PARK_HI, 1, 1, 0x0, 1, 0x0, .ro, 0x0, 0xFFFFFFFF, false, true, 2⟩,
  ⟨R.KV_PREEMPT_LO, 1, 1, 0x0, 1, 0x0, .ro, 0x0, 0xFFFFFFFF, false, true, 1⟩,
  ⟨R.KV_PREEMPT_HI, 1, 1, 0x0, 1, 0x0, .ro, 0x0, 0xFFFFFFFF, false, true, 2⟩,
  ⟨R.KV_SWAPOUT_PAGES_LO, 1, 1, 0x0, 1, 0x0, .ro, 0x0, 0xFFFFFFFF, false, true, 1⟩,
  ⟨R.KV_SWAPOUT_PAGES_HI, 1, 1, 0x0, 1, 0x0, .ro, 0x0, 0xFFFFFFFF, false, true, 2⟩,
  ⟨R.KV_SWAPIN_LO, 1, 1, 0x0, 1, 0x0, .ro, 0x0, 0xFFFFFFFF, false, true, 1⟩]

/-- Part 3 of the register tables. -/
def regRows3 : List RegRow := [
  ⟨R.KV_SWAPIN_HI, 1, 1, 0x0, 1, 0x0, .ro, 0x0, 0xFFFFFFFF, false, true, 2⟩,
  ⟨R.KV_SEAM_LOOKUP_LO, 1, 1, 0x0, 1, 0x0, .ro, 0x0, 0xFFFFFFFF, false, true, 1⟩,
  ⟨R.KV_SEAM_LOOKUP_HI, 1, 1, 0x0, 1, 0x0, .ro, 0x0, 0xFFFFFFFF, false, true, 2⟩,
  ⟨R.KV_SEAM_HIT_LO, 1, 1, 0x0, 1, 0x0, .ro, 0x0, 0xFFFFFFFF, false, true, 1⟩,
  ⟨R.KV_SEAM_HIT_HI, 1, 1, 0x0, 1, 0x0, .ro, 0x0, 0xFFFFFFFF, false, true, 2⟩,
  ⟨R.KV_SEAM_VERIFY_FAIL_LO, 1, 1, 0x0, 1, 0x0, .ro, 0x0, 0xFFFFFFFF, false, true, 1⟩,
  ⟨R.KV_SEAM_VERIFY_FAIL_HI, 1, 1, 0x0, 1, 0x0, .ro, 0x0, 0xFFFFFFFF, false, true, 2⟩,
  ⟨R.KV_SEAM_INSERT_LO, 1, 1, 0x0, 1, 0x0, .ro, 0x0, 0xFFFFFFFF, false, true, 1⟩,
  ⟨R.KV_SEAM_INSERT_HI, 1, 1, 0x0, 1, 0x0, .ro, 0x0, 0xFFFFFFFF, false, true, 2⟩,
  ⟨R.KV_SEAM_EVICT_LO, 1, 1, 0x0, 1, 0x0, .ro, 0x0, 0xFFFFFFFF, false, true, 1⟩,
  ⟨R.KV_SEAM_EVICT_HI, 1, 1, 0x0, 1, 0x0, .ro, 0x0, 0xFFFFFFFF, false, true, 2⟩,
  ⟨R.KV_REF_SAT_LO, 1, 1, 0x0, 1, 0x0, .ro, 0x0, 0xFFFFFFFF, false, true, 1⟩,
  ⟨R.KV_REF_SAT_HI, 1, 1, 0x0, 1, 0x0, .ro, 0x0, 0xFFFFFFFF, false, true, 2⟩,
  ⟨R.KV_LOST_PAGES_LO, 1, 1, 0x0, 1, 0x0, .ro, 0x0, 0xFFFFFFFF, false, true, 1⟩,
  ⟨R.KV_LOST_PAGES_HI, 1, 1, 0x0, 1, 0x0, .ro, 0x0, 0xFFFFFFFF, false, true, 2⟩,
  ⟨R.KV_CTX_SEL, 1, 1, 0x0, 1, 0x0, .rw, 0x0, 0x3FFF, false, false, 0⟩,
  ⟨R.KV_SEAM_PUB_LO, 1, 1, 0x0, 1, 0x0, .rwl, 0xFFFFFFFF, 0xFFFFFFFF, true, false, 1⟩,
  ⟨R.KV_SEAM_PUB_HI, 1, 1, 0x0, 1, 0x0, .rwl, 0xFFFFFFFF, 0xFFFFFFFF, true, false, 2⟩,
  ⟨R.KV_CTX_DATA, 16, 1, 0x0, 1, 0x0, .ro, 0x0, 0xFFFFFFFF, false, false, 0⟩,
  ⟨R.KV_MODEL, 256, 1, 0x0, 1, 0x0, .ro, 0x0, 0x800F1FFF, true, false, 0⟩,
  ⟨R.QU_VERSION, 1, 8, 0x10000, 1, 0x0, .ro, 0x100, 0xFFFFFFFF, false, false, 0⟩,
  ⟨R.QU_STATUS, 1, 8, 0x10000, 1, 0x0, .ro, 0x0, 0xFFFFFFFF, false, false, 0⟩,
  ⟨R.QU_ERR, 1, 8, 0x10000, 1, 0x0, .w1c, 0x0, 0x3F, false, false, 0⟩,
  ⟨R.QU_SRAM_CORR, 1, 8, 0x10000, 1, 0x0, .ro, 0x0, 0xFFFFFFFF, false, false, 0⟩,
  ⟨R.QU_PART, 6, 8, 0x10000, 1, 0x0, .ro, 0x0, 0xFFFFFFFF, false, false, 0⟩,
  ⟨R.QU_DESC_LO, 1, 8, 0x10000, 1, 0x0, .ro, 0x0, 0xFFFFFFFF, false, true, 1⟩,
  ⟨R.QU_DESC_HI, 1, 8, 0x10000, 1, 0x0, .ro, 0x0, 0xFFFFFFFF, false, true, 2⟩,
  ⟨R.QU_LISTS_LO, 1, 8, 0x10000, 1, 0x0, .ro, 0x0, 0xFFFFFFFF, false, true, 1⟩,
  ⟨R.QU_LISTS_HI, 1, 8, 0x10000, 1, 0x0, .ro, 0x0, 0xFFFFFFFF, false, true, 2⟩,
  ⟨R.QU_READ_LO, 1, 8, 0x10000, 1, 0x0, .ro, 0x0, 0xFFFFFFFF, false, true, 1⟩,
  ⟨R.QU_READ_HI, 1, 8, 0x10000, 1, 0x0, .ro, 0x0, 0xFFFFFFFF, false, true, 2⟩,
  ⟨R.QU_MAC_LO, 1, 8, 0x10000, 1, 0x0, .ro, 0x0, 0xFFFFFFFF, false, true, 1⟩,
  ⟨R.QU_MAC_HI, 1, 8, 0x10000, 1, 0x0, .ro, 0x0, 0xFFFFFFFF, false, true, 2⟩,
  ⟨R.QU_EXP_LO, 1, 8, 0x10000, 1, 0x0, .ro, 0x0, 0xFFFFFFFF, false, true, 1⟩,
  ⟨R.QU_EXP_HI, 1, 8, 0x10000, 1, 0x0, .ro, 0x0, 0xFFFFFFFF, false, true, 2⟩,
  ⟨R.QU_CMP_LO, 1, 8, 0x10000, 1, 0x0, .ro, 0x0, 0xFFFFFFFF, false, true, 1⟩,
  ⟨R.QU_CMP_HI, 1, 8, 0x10000, 1, 0x0, .ro, 0x0, 0xFFFFFFFF, false, true, 2⟩,
  ⟨R.QU_PARTIAL_LO, 1, 8, 0x10000, 1, 0x0, .ro, 0x0, 0xFFFFFFFF, false, true, 1⟩,
  ⟨R.QU_PARTIAL_HI, 1, 8, 0x10000, 1, 0x0, .ro, 0x0, 0xFFFFFFFF, false, true, 2⟩,
  ⟨R.QU_RETURN_LO, 1, 8, 0x10000, 1, 0x0, .ro, 0x0, 0xFFFFFFFF, false, true, 1⟩]

/-- Part 4 of the register tables. -/
def regRows4 : List RegRow := [
  ⟨R.QU_RETURN_HI, 1, 8, 0x10000, 1, 0x0, .ro, 0x0, 0xFFFFFFFF, false, true, 2⟩,
  ⟨R.QU_QFULL_LO, 1, 8, 0x10000, 1, 0x0, .ro, 0x0, 0xFFFFFFFF, false, true, 1⟩,
  ⟨R.QU_QFULL_HI, 1, 8, 0x10000, 1, 0x0, .ro, 0x0, 0xFFFFFFFF, false, true, 2⟩,
  ⟨R.QU_HOLD_LO, 1, 8, 0x10000, 1, 0x0, .ro, 0x0, 0xFFFFFFFF, false, true, 1⟩,
  ⟨R.QU_HOLD_HI, 1, 8, 0x10000, 1, 0x0, .ro, 0x0, 0xFFFFFFFF, false, true, 2⟩,
  ⟨R.QU_MOVE_DEFER_LO, 1, 8, 0x10000, 1, 0x0, .ro, 0x0, 0xFFFFFFFF, false, true, 1⟩,
  ⟨R.QU_MOVE_DEFER_HI, 1, 8, 0x10000, 1, 0x0, .ro, 0x0, 0xFFFFFFFF, false, true, 2⟩,
  ⟨R.QU_UE_LO, 1, 8, 0x10000, 1, 0x0, .ro, 0x0, 0xFFFFFFFF, false, true, 1⟩,
  ⟨R.QU_UE_HI, 1, 8, 0x10000, 1, 0x0, .ro, 0x0, 0xFFFFFFFF, false, true, 2⟩,
  ⟨R.QU_SEL, 256, 1, 0x0, 1, 0x0, .ro, 0x0, 0xFF7F07FF, true, false, 0⟩,
  ⟨R.TI_VERSION, 1, 1, 0x0, 1, 0x0, .ro, 0x100, 0xFFFFFFFF, false, false, 0⟩,
  ⟨R.TI_STATUS, 1, 1, 0x0, 1, 0x0, .ro, 0x0, 0xFFFFFFFF, false, false, 0⟩,
  ⟨R.TI_ERR, 1, 1, 0x0, 1, 0x0, .w1c, 0x0, 0x3F, false, false, 0⟩,
  ⟨R.TI_HEAT_CTRL, 1, 1, 0x0, 1, 0x0, .rwl, 0x20420, 0xFFFFF, true, false, 0⟩,
  ⟨R.TI_MOVE_CTRL, 1, 1, 0x0, 1, 0x0, .rwl, 0x100, 0xFFFF, true, false, 0⟩,
  ⟨R.TI_LOW_WATER, 1, 1, 0x0, 1, 0x0, .rwl, 0x10000, 0xFFFFFF, true, false, 0⟩,
  ⟨R.TI_SPILL_CTRL, 1, 1, 0x0, 1, 0x0, .rwl, 0x3E802, 0xFFFFFF07, true, false, 0⟩,
  ⟨R.TI_RESUPPLY_TIMEOUT, 1, 1, 0x0, 1, 0x0, .rwl, 0xFA, 0xFFFFFFFF, true, false, 0⟩,
  ⟨R.TI_SPILL_GRANULES, 1, 1, 0x0, 1, 0x0, .rwl, 0x0, 0x1FFFFFFF, true, false, 0⟩,
  ⟨R.TI_SPILL_REG, 1, 1, 0x0, 1, 0x0, .ro, 0x0, 0xFFFFFFFF, false, false, 0⟩,
  ⟨R.TI_MAP_GRANULES, 1, 1, 0x0, 1, 0x0, .ro, 0x0, 0xFFFFFFFF, true, false, 0⟩,
  ⟨R.TI_MAP_FRAMES, 1, 1, 0x0, 1, 0x0, .ro, 0x0, 0xFFFFFFFF, true, false, 0⟩,
  ⟨R.TI_STACK_FREE, 1, 1, 0x0, 1, 0x0, .ro, 0x0, 0xFFFFFFFF, false, false, 0⟩,
  ⟨R.TI_STACK_ZEROED, 1, 1, 0x0, 1, 0x0, .ro, 0x0, 0xFFFFFFFF, false, false, 0⟩,
  ⟨R.TI_SPILL_FREE, 1, 1, 0x0, 1, 0x0, .ro, 0x0, 0xFFFFFFFF, false, false, 0⟩,
  ⟨R.TI_MAP_SEL_LO, 1, 1, 0x0, 1, 0x0, .rw, 0x0, 0xFFFFFFFF, false, false, 1⟩,
  ⟨R.TI_MAP_SEL_HI, 1, 1, 0x0, 1, 0x0, .rw, 0x0, 0xF, false, false, 2⟩,
  ⟨R.TI_MAP_DATA, 4, 1, 0x0, 1, 0x0, .ro, 0x0, 0xFFFFFFFF, false, false, 0⟩,
  ⟨R.TI_PROMOTE_LO, 1, 1, 0x0, 1, 0x0, .ro, 0x0, 0xFFFFFFFF, false, true, 1⟩,
  ⟨R.TI_PROMOTE_HI, 1, 1, 0x0, 1, 0x0, .ro, 0x0, 0xFFFFFFFF, false, true, 2⟩,
  ⟨R.TI_DEMAND_LO, 1, 1, 0x0, 1, 0x0, .ro, 0x0, 0xFFFFFFFF, false, true, 1⟩,
  ⟨R.TI_DEMAND_HI, 1, 1, 0x0, 1, 0x0, .ro, 0x0, 0xFFFFFFFF, false, true, 2⟩,
  ⟨R.TI_DEMOTE_LO, 1, 1, 0x0, 1, 0x0, .ro, 0x0, 0xFFFFFFFF, false, true, 1⟩,
  ⟨R.TI_DEMOTE_HI, 1, 1, 0x0, 1, 0x0, .ro, 0x0, 0xFFFFFFFF, false, true, 2⟩,
  ⟨R.TI_EVAC_LO, 1, 1, 0x0, 1, 0x0, .ro, 0x0, 0xFFFFFFFF, false, true, 1⟩,
  ⟨R.TI_EVAC_HI, 1, 1, 0x0, 1, 0x0, .ro, 0x0, 0xFFFFFFFF, false, true, 2⟩,
  ⟨R.TI_DISCARD_LO, 1, 1, 0x0, 1, 0x0, .ro, 0x0, 0xFFFFFFFF, false, true, 1⟩,
  ⟨R.TI_DISCARD_HI, 1, 1, 0x0, 1, 0x0, .ro, 0x0, 0xFFFFFFFF, false, true, 2⟩,
  ⟨R.TI_ZERO_LO, 1, 1, 0x0, 1, 0x0, .ro, 0x0, 0xFFFFFFFF, false, true, 1⟩,
  ⟨R.TI_ZERO_HI, 1, 1, 0x0, 1, 0x0, .ro, 0x0, 0xFFFFFFFF, false, true, 2⟩]

/-- Part 5 of the register tables. -/
def regRows5 : List RegRow := [
  ⟨R.TI_SPILL_RETRY_LO, 1, 1, 0x0, 1, 0x0, .ro, 0x0, 0xFFFFFFFF, false, true, 1⟩,
  ⟨R.TI_SPILL_RETRY_HI, 1, 1, 0x0, 1, 0x0, .ro, 0x0, 0xFFFFFFFF, false, true, 2⟩,
  ⟨R.TI_SPILL_UE_LO, 1, 1, 0x0, 1, 0x0, .ro, 0x0, 0xFFFFFFFF, false, true, 1⟩,
  ⟨R.TI_SPILL_UE_HI, 1, 1, 0x0, 1, 0x0, .ro, 0x0, 0xFFFFFFFF, false, true, 2⟩,
  ⟨R.TI_CRC_FAIL_LO, 1, 1, 0x0, 1, 0x0, .ro, 0x0, 0xFFFFFFFF, false, true, 1⟩,
  ⟨R.TI_CRC_FAIL_HI, 1, 1, 0x0, 1, 0x0, .ro, 0x0, 0xFFFFFFFF, false, true, 2⟩,
  ⟨R.TI_POISON_LO, 1, 1, 0x0, 1, 0x0, .ro, 0x0, 0xFFFFFFFF, false, true, 1⟩,
  ⟨R.TI_POISON_HI, 1, 1, 0x0, 1, 0x0, .ro, 0x0, 0xFFFFFFFF, false, true, 2⟩,
  ⟨R.TI_RESUPPLY_REQ_LO, 1, 1, 0x0, 1, 0x0, .ro, 0x0, 0xFFFFFFFF, false, true, 1⟩,
  ⟨R.TI_RESUPPLY_REQ_HI, 1, 1, 0x0, 1, 0x0, .ro, 0x0, 0xFFFFFFFF, false, true, 2⟩,
  ⟨R.TI_RESUPPLY_OK_LO, 1, 1, 0x0, 1, 0x0, .ro, 0x0, 0xFFFFFFFF, false, true, 1⟩,
  ⟨R.TI_RESUPPLY_OK_HI, 1, 1, 0x0, 1, 0x0, .ro, 0x0, 0xFFFFFFFF, false, true, 2⟩,
  ⟨R.TI_SPILL_OVER_LO, 1, 1, 0x0, 1, 0x0, .ro, 0x0, 0xFFFFFFFF, false, true, 1⟩,
  ⟨R.TI_SPILL_OVER_HI, 1, 1, 0x0, 1, 0x0, .ro, 0x0, 0xFFFFFFFF, false, true, 2⟩,
  ⟨R.TI_STACK_CORR_LO, 1, 1, 0x0, 1, 0x0, .ro, 0x0, 0xFFFFFFFF, false, true, 1⟩,
  ⟨R.TI_STACK_CORR_HI, 1, 1, 0x0, 1, 0x0, .ro, 0x0, 0xFFFFFFFF, false, true, 2⟩,
  ⟨R.TI_PCFG, 64, 1, 0x0, 1, 0x0, .ro, 0x0, 0x80000001, true, false, 0⟩,
  ⟨R.TI_STALL, 1024, 1, 0x0, 1, 0x0, .ro, 0x0, 0xFFFFFFFF, false, true, 3⟩,
  ⟨R.TI_REGION, 4096, 1, 0x0, 1, 0x0, .ro, 0x0, 0xFFFFFFFF, true, false, 0⟩,
  ⟨R.SL_VERSION, 1, 1, 0x0, 1, 0x0, .ro, 0x100, 0xFFFFFFFF, false, false, 0⟩,
  ⟨R.SL_STATUS, 1, 1, 0x0, 1, 0x0, .ro, 0x0, 0xFFFFFFFF, false, false, 0⟩,
  ⟨R.SL_ERR, 1, 1, 0x0, 1, 0x0, .w1c, 0x0, 0x3F, false, false, 0⟩,
  ⟨R.SL_ARITH, 1, 1, 0x0, 1, 0x0, .w1c, 0x0, 0x7F, false, false, 0⟩,
  ⟨R.SL_HOP_TIMEOUT, 1, 1, 0x0, 1, 0x0, .rwl, 0x1F4, 0xFFFFFFFF, true, false, 0⟩,
  ⟨R.SL_SLOW_CTRL, 1, 1, 0x0, 1, 0x0, .rwl, 0x3E802, 0xFFFFFF0F, true, false, 0⟩,
  ⟨R.SL_ABORT_SETTLE, 1, 1, 0x0, 1, 0x0, .rwl, 0x64, 0xFFFFFFFF, true, false, 0⟩,
  ⟨R.SL_START_TIMEOUT, 1, 1, 0x0, 1, 0x0, .rwl, 0x64, 0xFFFFFFFF, true, false, 0⟩,
  ⟨R.SL_OPS, 1, 1, 0x0, 1, 0x0, .ro, 0x0, 0x1FFFF, true, false, 0⟩,
  ⟨R.SL_LAST_ABORT0, 1, 1, 0x0, 1, 0x0, .ro, 0x0, 0xFFFFFFFF, false, false, 0⟩,
  ⟨R.SL_LAST_ABORT1, 1, 1, 0x0, 1, 0x0, .ro, 0x0, 0xFFFFFFFF, false, false, 0⟩,
  ⟨R.SL_LAST_ABORT2, 1, 1, 0x0, 1, 0x0, .ro, 0x0, 0xFFFFFFFF, false, false, 0⟩,
  ⟨R.SL_LAST_ABORT_TIME_LO, 1, 1, 0x0, 1, 0x0, .ro, 0x0, 0xFFFFFFFF, false, false, 1⟩,
  ⟨R.SL_LAST_ABORT_TIME_HI, 1, 1, 0x0, 1, 0x0, .ro, 0x0, 0xFFFFFFFF, false, false, 2⟩,
  ⟨R.SL_OP_SEL, 1, 1, 0x0, 1, 0x0, .rw, 0x0, 0xFFFF, false, false, 0⟩,
  ⟨R.SL_OP_DATA, 8, 1, 0x0, 1, 0x0, .ro, 0x0, 0xFFFFFFFF, false, false, 0⟩,
  ⟨R.SL_CHUNKS_LO, 1, 1, 0x0, 1, 0x0, .ro, 0x0, 0xFFFFFFFF, false, true, 1⟩,
  ⟨R.SL_CHUNKS_HI, 1, 1, 0x0, 1, 0x0, .ro, 0x0, 0xFFFFFFFF, false, true, 2⟩,
  ⟨R.SL_HOPS_OUT_LO, 1, 1, 0x0, 1, 0x0, .ro, 0x0, 0xFFFFFFFF, false, true, 1⟩,
  ⟨R.SL_HOPS_OUT_HI, 1, 1, 0x0, 1, 0x0, .ro, 0x0, 0xFFFFFFFF, false, true, 2⟩,
  ⟨R.SL_BYTES_OUT_LO, 1, 1, 0x0, 1, 0x0, .ro, 0x0, 0xFFFFFFFF, false, true, 1⟩]

/-- Part 6 of the register tables. -/
def regRows6 : List RegRow := [
  ⟨R.SL_BYTES_OUT_HI, 1, 1, 0x0, 1, 0x0, .ro, 0x0, 0xFFFFFFFF, false, true, 2⟩,
  ⟨R.SL_EXECS_LO, 1, 1, 0x0, 1, 0x0, .ro, 0x0, 0xFFFFFFFF, false, true, 1⟩,
  ⟨R.SL_EXECS_HI, 1, 1, 0x0, 1, 0x0, .ro, 0x0, 0xFFFFFFFF, false, true, 2⟩,
  ⟨R.SL_ABORTS_LO, 1, 1, 0x0, 1, 0x0, .ro, 0x0, 0xFFFFFFFF, false, true, 1⟩,
  ⟨R.SL_ABORTS_HI, 1, 1, 0x0, 1, 0x0, .ro, 0x0, 0xFFFFFFFF, false, true, 2⟩,
  ⟨R.SL_TIMEOUTS_LO, 1, 1, 0x0, 1, 0x0, .ro, 0x0, 0xFFFFFFFF, false, true, 1⟩,
  ⟨R.SL_TIMEOUTS_HI, 1, 1, 0x0, 1, 0x0, .ro, 0x0, 0xFFFFFFFF, false, true, 2⟩,
  ⟨R.SL_CRC_FAIL_LO, 1, 1, 0x0, 1, 0x0, .ro, 0x0, 0xFFFFFFFF, false, true, 1⟩,
  ⟨R.SL_CRC_FAIL_HI, 1, 1, 0x0, 1, 0x0, .ro, 0x0, 0xFFFFFFFF, false, true, 2⟩,
  ⟨R.SL_START_WAIT_LO, 1, 1, 0x0, 1, 0x0, .ro, 0x0, 0xFFFFFFFF, false, true, 1⟩,
  ⟨R.SL_START_WAIT_HI, 1, 1, 0x0, 1, 0x0, .ro, 0x0, 0xFFFFFFFF, false, true, 2⟩,
  ⟨R.SL_SLOW_RX_LO, 1, 1, 0x0, 1, 0x0, .ro, 0x0, 0xFFFFFFFF, false, true, 1⟩,
  ⟨R.SL_SLOW_RX_HI, 1, 1, 0x0, 1, 0x0, .ro, 0x0, 0xFFFFFFFF, false, true, 2⟩,
  ⟨R.SL_DROPS_LO, 1, 1, 0x0, 1, 0x0, .ro, 0x0, 0xFFFFFFFF, false, true, 1⟩,
  ⟨R.SL_DROPS_HI, 1, 1, 0x0, 1, 0x0, .ro, 0x0, 0xFFFFFFFF, false, true, 2⟩,
  ⟨R.SL_TOPK_NAN_LO, 1, 1, 0x0, 1, 0x0, .ro, 0x0, 0xFFFFFFFF, false, true, 1⟩,
  ⟨R.SL_TOPK_NAN_HI, 1, 1, 0x0, 1, 0x0, .ro, 0x0, 0xFFFFFFFF, false, true, 2⟩,
  ⟨R.SL_BUDGET, 256, 1, 0x0, 1, 0x0, .ro, 0x0, 0x80001FFF, true, false, 0⟩,
  ⟨R.SL_RING, 512, 1, 0x0, 1, 0x0, .ro, 0x0, 0xFFFFFFFF, false, true, 0⟩,
  ⟨R.SK_VERSION, 1, 1, 0x0, 1, 0x0, .ro, 0x100, 0xFFFFFFFF, false, false, 0⟩,
  ⟨R.SK_STATUS, 1, 1, 0x0, 1, 0x0, .ro, 0x0, 0xFFFFFFFF, false, false, 0⟩,
  ⟨R.SK_ERR, 1, 1, 0x0, 1, 0x0, .w1c, 0x0, 0xF, false, false, 0⟩,
  ⟨R.SK_LISTS, 1, 1, 0x0, 1, 0x0, .ro, 0x0, 0x1FFFFF, true, false, 0⟩,
  ⟨R.SK_BATCH_LO, 1, 1, 0x0, 1, 0x0, .ro, 0x0, 0xFFFFFFFF, false, true, 1⟩,
  ⟨R.SK_BATCH_HI, 1, 1, 0x0, 1, 0x0, .ro, 0x0, 0xFFFFFFFF, false, true, 2⟩,
  ⟨R.SK_QUERY_LO, 1, 1, 0x0, 1, 0x0, .ro, 0x0, 0xFFFFFFFF, false, true, 1⟩,
  ⟨R.SK_QUERY_HI, 1, 1, 0x0, 1, 0x0, .ro, 0x0, 0xFFFFFFFF, false, true, 2⟩,
  ⟨R.SK_TOMB_DROP_LO, 1, 1, 0x0, 1, 0x0, .ro, 0x0, 0xFFFFFFFF, false, true, 1⟩,
  ⟨R.SK_TOMB_DROP_HI, 1, 1, 0x0, 1, 0x0, .ro, 0x0, 0xFFFFFFFF, false, true, 2⟩,
  ⟨R.SK_FILTER_DROP_LO, 1, 1, 0x0, 1, 0x0, .ro, 0x0, 0xFFFFFFFF, false, true, 1⟩,
  ⟨R.SK_FILTER_DROP_HI, 1, 1, 0x0, 1, 0x0, .ro, 0x0, 0xFFFFFFFF, false, true, 2⟩,
  ⟨R.SK_NEIGH_MISSING_LO, 1, 1, 0x0, 1, 0x0, .ro, 0x0, 0xFFFFFFFF, false, true, 1⟩,
  ⟨R.SK_NEIGH_MISSING_HI, 1, 1, 0x0, 1, 0x0, .ro, 0x0, 0xFFFFFFFF, false, true, 2⟩,
  ⟨R.SK_INSERT_LO, 1, 1, 0x0, 1, 0x0, .ro, 0x0, 0xFFFFFFFF, false, true, 1⟩,
  ⟨R.SK_INSERT_HI, 1, 1, 0x0, 1, 0x0, .ro, 0x0, 0xFFFFFFFF, false, true, 2⟩,
  ⟨R.SK_DELETE_LO, 1, 1, 0x0, 1, 0x0, .ro, 0x0, 0xFFFFFFFF, false, true, 1⟩,
  ⟨R.SK_DELETE_HI, 1, 1, 0x0, 1, 0x0, .ro, 0x0, 0xFFFFFFFF, false, true, 2⟩,
  ⟨R.SK_REFUSED_LO, 1, 1, 0x0, 1, 0x0, .ro, 0x0, 0xFFFFFFFF, false, true, 1⟩,
  ⟨R.SK_REFUSED_HI, 1, 1, 0x0, 1, 0x0, .ro, 0x0, 0xFFFFFFFF, false, true, 2⟩,
  ⟨R.SK_MERGE_LO, 1, 1, 0x0, 1, 0x0, .ro, 0x0, 0xFFFFFFFF, false, true, 1⟩]

/-- Part 7 of the register tables. -/
def regRows7 : List RegRow := [
  ⟨R.SK_MERGE_HI, 1, 1, 0x0, 1, 0x0, .ro, 0x0, 0xFFFFFFFF, false, true, 2⟩,
  ⟨R.SK_PURGED_LO, 1, 1, 0x0, 1, 0x0, .ro, 0x0, 0xFFFFFFFF, false, true, 1⟩,
  ⟨R.SK_PURGED_HI, 1, 1, 0x0, 1, 0x0, .ro, 0x0, 0xFFFFFFFF, false, true, 2⟩,
  ⟨R.SK_IDX, 8, 64, 0x40, 1, 0x0, .ro, 0x0, 0xFFFFFFFF, true, false, 0⟩,
  ⟨R.SK_IDX + 0x20, 2, 64, 0x40, 1, 0x0, .ro, 0x0, 0xFFFFFFFF, false, true, 3⟩,
  ⟨R.SK_IDX + 0x28, 6, 64, 0x40, 1, 0x0, .ro, 0x0, 0xFFFFFFFF, false, false, 0⟩,
  ⟨R.CU_VERSION, 1, 18, 0x10000, 1, 0x0, .ro, 0x1220, 0xFFFFFFFF, false, false, 0⟩,
  ⟨R.CU_STATUS, 1, 18, 0x10000, 1, 0x0, .ro, 0x0, 0xFFFFFFFF, false, false, 0⟩,
  ⟨R.CU_ERR, 1, 18, 0x10000, 1, 0x0, .w1c, 0x0, 0xFF, false, false, 0⟩,
  ⟨R.CU_CTRL, 1, 18, 0x10000, 1, 0x0, .rw, 0x0, 0x1, true, false, 0⟩,
  ⟨R.CU_ROLE, 1, 18, 0x10000, 1, 0x0, .rwl, 0x0, 0xF0F, true, false, 0⟩,
  ⟨R.CU_RETIRE_CTRL, 1, 18, 0x10000, 1, 0x0, .rwl, 0x3C08, 0xFFFFFF, true, false, 0⟩,
  ⟨R.CU_REPLAY_TIMEOUT, 1, 18, 0x10000, 1, 0x0, .rwl, 0x7D0, 0xFFFFFFFF, true, false, 0⟩,
  ⟨R.CU_DOWN_TIMEOUT, 1, 18, 0x10000, 1, 0x0, .rwl, 0x64, 0xFFFFFFFF, true, false, 0⟩,
  ⟨R.CU_LANES, 1, 18, 0x10000, 1, 0x0, .ro, 0x0, 0xFFFFFFFF, false, false, 0⟩,
  ⟨R.CU_PARTNER, 1, 18, 0x10000, 1, 0x0, .ro, 0x0, 0xFFFFFFFF, false, false, 0⟩,
  ⟨R.CU_CREDIT0, 1, 18, 0x10000, 1, 0x0, .ro, 0x0, 0xFFFFFFFF, false, false, 0⟩,
  ⟨R.CU_CREDIT1, 1, 18, 0x10000, 1, 0x0, .ro, 0x0, 0xFFFFFFFF, false, false, 0⟩,
  ⟨R.CU_ETH_CTRL, 1, 18, 0x10000, 1, 0x0, .rwl, 0x0, 0xFFF0077, true, false, 0⟩,
  ⟨R.CU_ETH_DSCP, 1, 18, 0x10000, 1, 0x0, .rwl, 0x0, 0x3F3F3F3F, true, false, 0⟩,
  ⟨R.CU_ETH_UDP, 1, 18, 0x10000, 1, 0x0, .rwl, 0xC8C4A0, 0xFFFFFFFF, true, false, 0⟩,
  ⟨R.CU_ETH_RTO, 1, 18, 0x10000, 1, 0x0, .rwl, 0x14, 0xFFFFFFFF, true, false, 0⟩,
  ⟨R.CU_MAC_LO, 1, 18, 0x10000, 1, 0x0, .rwl, 0x0, 0xFFFFFFFF, true, false, 1⟩,
  ⟨R.CU_MAC_HI, 1, 18, 0x10000, 1, 0x0, .rwl, 0x0, 0xFFFF, true, false, 2⟩,
  ⟨R.CU_IP, 4, 18, 0x10000, 1, 0x0, .rwl, 0x0, 0xFFFFFFFF, true, false, 0⟩,
  ⟨R.CU_TUN_SEL, 1, 18, 0x10000, 1, 0x0, .rw, 0x0, 0xFF, false, false, 0⟩,
  ⟨R.CU_TUN_DATA0, 1, 18, 0x10000, 1, 0x0, .ro, 0x0, 0xFFFFFFFF, false, false, 0⟩,
  ⟨R.CU_TUN_DATA1, 1, 18, 0x10000, 1, 0x0, .ro, 0x0, 0xFFFFFFFF, false, false, 0⟩,
  ⟨R.CU_LANE_RETRAIN, 8, 18, 0x10000, 1, 0x0, .ro, 0x0, 0xFFFFFFFF, true, false, 0⟩,
  ⟨R.CU_LANE_FEC, 8, 18, 0x10000, 1, 0x0, .ro, 0x0, 0xFFFFFFFF, false, false, 0⟩,
  ⟨R.CU_TX_FRAMES_LO, 1, 18, 0x10000, 1, 0x0, .ro, 0x0, 0xFFFFFFFF, false, true, 1⟩,
  ⟨R.CU_TX_FRAMES_HI, 1, 18, 0x10000, 1, 0x0, .ro, 0x0, 0xFFFFFFFF, false, true, 2⟩,
  ⟨R.CU_RX_FRAMES_LO, 1, 18, 0x10000, 1, 0x0, .ro, 0x0, 0xFFFFFFFF, false, true, 1⟩,
  ⟨R.CU_RX_FRAMES_HI, 1, 18, 0x10000, 1, 0x0, .ro, 0x0, 0xFFFFFFFF, false, true, 2⟩,
  ⟨R.CU_CRC_ERR_LO, 1, 18, 0x10000, 1, 0x0, .ro, 0x0, 0xFFFFFFFF, false, true, 1⟩,
  ⟨R.CU_CRC_ERR_HI, 1, 18, 0x10000, 1, 0x0, .ro, 0x0, 0xFFFFFFFF, false, true, 2⟩,
  ⟨R.CU_REPLAY_LO, 1, 18, 0x10000, 1, 0x0, .ro, 0x0, 0xFFFFFFFF, false, true, 1⟩,
  ⟨R.CU_REPLAY_HI, 1, 18, 0x10000, 1, 0x0, .ro, 0x0, 0xFFFFFFFF, false, true, 2⟩,
  ⟨R.CU_RETRAIN_LO, 1, 18, 0x10000, 1, 0x0, .ro, 0x0, 0xFFFFFFFF, false, true, 1⟩,
  ⟨R.CU_RETRAIN_HI, 1, 18, 0x10000, 1, 0x0, .ro, 0x0, 0xFFFFFFFF, false, true, 2⟩,
  ⟨R.CU_FEC_UNCORR_LO, 1, 18, 0x10000, 1, 0x0, .ro, 0x0, 0xFFFFFFFF, false, true, 1⟩,
  ⟨R.CU_FEC_UNCORR_HI, 1, 18, 0x10000, 1, 0x0, .ro, 0x0, 0xFFFFFFFF, false, true, 2⟩]

/-- Part 8 of the register tables. -/
def regRows8 : List RegRow := [
  ⟨R.CU_TGEN_DROP_LO, 1, 18, 0x10000, 1, 0x0, .ro, 0x0, 0xFFFFFFFF, false, true, 1⟩,
  ⟨R.CU_TGEN_DROP_HI, 1, 18, 0x10000, 1, 0x0, .ro, 0x0, 0xFFFFFFFF, false, true, 2⟩,
  ⟨R.CU_RX_DROP_LO, 1, 18, 0x10000, 1, 0x0, .ro, 0x0, 0xFFFFFFFF, false, true, 1⟩,
  ⟨R.CU_RX_DROP_HI, 1, 18, 0x10000, 1, 0x0, .ro, 0x0, 0xFFFFFFFF, false, true, 2⟩,
  ⟨R.CU_NOCREDIT_LO, 1, 18, 0x10000, 1, 0x0, .ro, 0x0, 0xFFFFFFFF, false, true, 1⟩,
  ⟨R.CU_NOCREDIT_HI, 1, 18, 0x10000, 1, 0x0, .ro, 0x0, 0xFFFFFFFF, false, true, 2⟩,
  ⟨R.CU_RT_STATUS, 1, 1, 0x0, 1, 0x0, .ro, 0x0, 0xFFFFFFFF, false, true, 0⟩,
  ⟨R.CU_RT_TGEN, 1, 1, 0x0, 1, 0x0, .ro, 0x0, 0xFFFFFFFF, false, true, 0⟩,
  ⟨R.CU_RT_JOB, 1, 1, 0x0, 1, 0x0, .ro, 0x0, 0xFFFFFFFF, false, true, 0⟩,
  ⟨R.CU_RT_DIM0, 1, 1, 0x0, 1, 0x0, .ro, 0x0, 0xFFFFFFFF, false, true, 0⟩,
  ⟨R.CU_RT_DIM1, 1, 1, 0x0, 1, 0x0, .ro, 0x0, 0xFFFFFFFF, false, true, 0⟩,
  ⟨R.CU_RT_COORD0, 1, 1, 0x0, 1, 0x0, .ro, 0x0, 0xFFFFFFFF, false, true, 0⟩,
  ⟨R.CU_RT_COORD1, 1, 1, 0x0, 1, 0x0, .ro, 0x0, 0xFFFFFFFF, false, true, 0⟩,
  ⟨R.CU_RT_BASE_LO, 1, 1, 0x0, 1, 0x0, .rwl, 0x0, 0xFFFFFFFF, true, true, 1⟩,
  ⟨R.CU_RT_BASE_HI, 1, 1, 0x0, 1, 0x0, .rwl, 0x0, 0xFFFFF, true, true, 2⟩,
  ⟨R.HI_VERSION, 1, 1, 0x0, 1, 0x0, .ro, 0x100, 0xFFFFFFFF, false, false, 0⟩,
  ⟨R.HI_STATUS, 1, 1, 0x0, 1, 0x0, .ro, 0x0, 0xFFFFFFFF, false, false, 0⟩,
  ⟨R.HI_ERR, 1, 1, 0x0, 1, 0x0, .w1c, 0x0, 0x3FF, false, false, 0⟩,
  ⟨R.HI_QP_VERSION, 1, 1, 0x0, 1, 0x0, .ro, 0x301, 0xFFFFFFFF, false, false, 0⟩,
  ⟨R.HI_QP_HANDSHAKE, 1, 1, 0x0, 1, 0x0, .rw, 0x0, 0xFFFF, false, false, 0⟩,
  ⟨R.HI_QP_AGREED, 1, 1, 0x0, 1, 0x0, .ro, 0x0, 0xFFFFFFFF, false, false, 0⟩,
  ⟨R.HI_EV_BASE_LO, 1, 1, 0x0, 1, 0x0, .rw, 0x0, 0xFFFFFFFF, false, false, 1⟩,
  ⟨R.HI_EV_BASE_HI, 1, 1, 0x0, 1, 0x0, .rw, 0x0, 0xFFFFFFFF, false, false, 2⟩,
  ⟨R.HI_EV_CFG, 1, 1, 0x0, 1, 0x0, .rw, 0x0, 0x7FF1F01, false, false, 0⟩,
  ⟨R.HI_EV_HEAD, 1, 1, 0x0, 1, 0x0, .rw, 0x0, 0xFFFF, false, false, 0⟩,
  ⟨R.HI_EV_TAIL, 1, 1, 0x0, 1, 0x0, .ro, 0x0, 0xFFFFFFFF, false, false, 0⟩,
  ⟨R.HI_WIN_BASE_LO, 1, 1, 0x0, 1, 0x0, .rw, 0x0, 0xFFFFFFFF, false, false, 1⟩,
  ⟨R.HI_WIN_BASE_HI, 1, 1, 0x0, 1, 0x0, .rw, 0x0, 0xFFFFF, false, false, 2⟩,
  ⟨R.HI_WIN_CTRL, 1, 1, 0x0, 1, 0x0, .rw, 0x0, 0xF, false, false, 0⟩,
  ⟨R.HI_PEER_RANK, 1, 1, 0x0, 1, 0x0, .rw, 0x0, 0xFFFF, false, false, 0⟩,
  ⟨R.HI_DBG_CTRL, 1, 1, 0x0, 1, 0x0, .rwl, 0x0, 0x1, true, false, 0⟩,
  ⟨R.HI_CLOCK_LO, 1, 1, 0x0, 1, 0x0, .ro, 0x0, 0xFFFFFFFF, false, true, 1⟩,
  ⟨R.HI_CLOCK_HI, 1, 1, 0x0, 1, 0x0, .ro, 0x0, 0xFFFFFFFF, false, true, 2⟩,
  ⟨R.HI_FETCH_LO, 1, 1, 0x0, 1, 0x0, .ro, 0x0, 0xFFFFFFFF, false, true, 1⟩,
  ⟨R.HI_FETCH_HI, 1, 1, 0x0, 1, 0x0, .ro, 0x0, 0xFFFFFFFF, false, true, 2⟩,
  ⟨R.HI_COMPLETE_LO, 1, 1, 0x0, 1, 0x0, .ro, 0x0, 0xFFFFFFFF, false, true, 1⟩,
  ⟨R.HI_COMPLETE_HI, 1, 1, 0x0, 1, 0x0, .ro, 0x0, 0xFFFFFFFF, false, true, 2⟩,
  ⟨R.HI_ERRCOMP_LO, 1, 1, 0x0, 1, 0x0, .ro, 0x0, 0xFFFFFFFF, false, true, 1⟩,
  ⟨R.HI_ERRCOMP_HI, 1, 1, 0x0, 1, 0x0, .ro, 0x0, 0xFFFFFFFF, false, true, 2⟩,
  ⟨R.HI_TOKENS_LO, 1, 1, 0x0, 1, 0x0, .ro, 0x0, 0xFFFFFFFF, false, true, 1⟩]

/-- Part 9 of the register tables. -/
def regRows9 : List RegRow := [
  ⟨R.HI_TOKENS_HI, 1, 1, 0x0, 1, 0x0, .ro, 0x0, 0xFFFFFFFF, false, true, 2⟩,
  ⟨R.HI_IRQ_LO, 1, 1, 0x0, 1, 0x0, .ro, 0x0, 0xFFFFFFFF, false, true, 1⟩,
  ⟨R.HI_IRQ_HI, 1, 1, 0x0, 1, 0x0, .ro, 0x0, 0xFFFFFFFF, false, true, 2⟩,
  ⟨R.HI_SNOOP_DB_LO, 1, 1, 0x0, 1, 0x0, .ro, 0x0, 0xFFFFFFFF, false, true, 1⟩,
  ⟨R.HI_SNOOP_DB_HI, 1, 1, 0x0, 1, 0x0, .ro, 0x0, 0xFFFFFFFF, false, true, 2⟩,
  ⟨R.HI_EV_LOST_LO, 1, 1, 0x0, 1, 0x0, .ro, 0x0, 0xFFFFFFFF, false, true, 1⟩,
  ⟨R.HI_EV_LOST_HI, 1, 1, 0x0, 1, 0x0, .ro, 0x0, 0xFFFFFFFF, false, true, 2⟩,
  ⟨R.HI_STATUS_CNT, 32, 1, 0x0, 1, 0x0, .ro, 0x0, 0xFFFFFFFF, false, false, 0⟩,
  ⟨R.GL_ID, 1, 1, 0x0, 1, 0x0, .ro, 0x0, 0xFFFFFFFF, false, false, 0⟩,
  ⟨R.GL_VERSION, 1, 1, 0x0, 1, 0x0, .ro, 0x100, 0xFFFFFFFF, false, false, 0⟩,
  ⟨R.GL_SERIAL_LO, 1, 1, 0x0, 1, 0x0, .ro, 0x0, 0xFFFFFFFF, false, false, 1⟩,
  ⟨R.GL_SERIAL_HI, 1, 1, 0x0, 1, 0x0, .ro, 0x0, 0xFFFFFFFF, false, false, 2⟩,
  ⟨R.GL_START_STATUS, 1, 1, 0x0, 1, 0x0, .ro, 0x0, 0xFFFFFFFF, false, false, 0⟩,
  ⟨R.GL_RESET, 1, 1, 0x0, 1, 0x0, .wo, 0x0, 0xFFFFFFFF, false, false, 0⟩,
  ⟨R.GL_START_CAUSE, 1, 1, 0x0, 1, 0x0, .ro, 0x0, 0xFFFFFFFF, false, false, 0⟩,
  ⟨R.GL_WARM_COUNT, 1, 1, 0x0, 1, 0x0, .ro, 0x0, 0xFFFFFFFF, false, true, 0⟩,
  ⟨R.GL_START_REFUSED, 1, 1, 0x0, 1, 0x0, .ro, 0x0, 0xFFFFFFFF, false, false, 0⟩,
  ⟨R.GL_RET_STATUS, 1, 1, 0x0, 1, 0x0, .rws, 0x0, 0x3, false, true, 0⟩,
  ⟨R.GL_PHASE_MS, 9, 1, 0x0, 1, 0x0, .ro, 0x0, 0xFFFFFFFF, false, false, 0⟩,
  ⟨R.GL_VCORE, 4, 1, 0x0, 1, 0x0, .ro, 0x0, 0xFFFFFFFF, false, false, 0⟩,
  ⟨R.GL_LIMITS, 1, 1, 0x0, 1, 0x0, .ro, 0x0, 0xFF0FFF, true, false, 0⟩,
  ⟨R.GL_POLDER_CTRL, 64, 1, 0x0, 1, 0x0, .rw, 0x0, 0x1, true, false, 0⟩,
  ⟨R.GL_POLDER_STATUS, 64, 1, 0x0, 1, 0x0, .ro, 0x0, 0xFFFFFFFF, false, false, 0⟩,
  ⟨R.GL_OTP, 512, 1, 0x0, 1, 0x0, .ro, 0x0, 0xFFFFFFFF, false, false, 0⟩,
  ⟨R.GL_RET_STK, 2048, 1, 0x0, 1, 0x0, .rws, 0x0, 0xFFFFFFFF, false, true, 0⟩,
  ⟨R.IM_VERSION, 1, 1, 0x0, 1, 0x0, .ro, 0x201, 0xFFFFFFFF, false, false, 0⟩,
  ⟨R.IM_STATUS, 1, 1, 0x0, 1, 0x0, .ro, 0x0, 0xFFFFFFFF, false, false, 0⟩,
  ⟨R.IM_ERR, 1, 1, 0x0, 1, 0x0, .w1c, 0x0, 0xF, false, false, 0⟩,
  ⟨R.IM_BOOT_SEL, 1, 1, 0x0, 1, 0x0, .rws, 0x0, 0x3, false, true, 0⟩,
  ⟨R.IM_CAUSE0, 1, 1, 0x0, 1, 0x0, .ro, 0x0, 0xFFFFFFFF, false, false, 0⟩,
  ⟨R.IM_DETAIL0, 1, 1, 0x0, 1, 0x0, .ro, 0x0, 0xFFFFFFFF, false, false, 0⟩,
  ⟨R.IM_CAUSE1, 1, 1, 0x0, 1, 0x0, .ro, 0x0, 0xFFFFFFFF, false, false, 0⟩,
  ⟨R.IM_DETAIL1, 1, 1, 0x0, 1, 0x0, .ro, 0x0, 0xFFFFFFFF, false, false, 0⟩,
  ⟨R.IM_SCHEMA, 1, 1, 0x0, 1, 0x0, .ro, 0x0, 0xFFFFFFFF, false, false, 0⟩,
  ⟨R.IM_IMAGE_VER_LO, 1, 1, 0x0, 1, 0x0, .ro, 0x0, 0xFFFFFFFF, false, false, 1⟩,
  ⟨R.IM_IMAGE_VER_HI, 1, 1, 0x0, 1, 0x0, .ro, 0x0, 0xFFFFFFFF, false, false, 2⟩,
  ⟨R.IM_SVN, 1, 1, 0x0, 1, 0x0, .ro, 0x0, 0xFFFFFFFF, false, false, 0⟩,
  ⟨R.IM_LAYOUT_LO, 1, 1, 0x0, 1, 0x0, .rws, 0x0, 0xFFFFFFFF, false, true, 1⟩,
  ⟨R.IM_LAYOUT_HI, 1, 1, 0x0, 1, 0x0, .rws, 0x0, 0xFFFFFFFF, false, true, 2⟩,
  ⟨R.IM_RWL_DISCARD, 1, 1, 0x0, 1, 0x0, .ro, 0x0, 0xFFFFFFFF, false, false, 0⟩]

/-- Part 10 of the register tables. -/
def regRows10 : List RegRow := [
  ⟨R.IM_SKIPPED, 1, 1, 0x0, 1, 0x0, .ro, 0x0, 0xFFFFFFFF, false, false, 0⟩,
  ⟨R.IM_DIGEST, 12, 1, 0x0, 1, 0x0, .rws, 0x0, 0xFFFFFFFF, false, true, 0⟩,
  ⟨R.IM_FLASH_ID, 1, 1, 0x0, 1, 0x0, .ro, 0x0, 0xFFFFFFFF, false, false, 0⟩,
  ⟨R.IM_FLASH_SIZE, 1, 1, 0x0, 1, 0x0, .ro, 0x0, 0xFFFFFFFF, false, false, 0⟩,
  ⟨R.IM_LOAD_MS, 1, 1, 0x0, 1, 0x0, .ro, 0x0, 0xFFFFFFFF, false, false, 0⟩,
  ⟨R.IM_STORE_CRC, 1, 1, 0x0, 1, 0x0, .rws, 0x0, 0xFFFFFFFF, false, true, 0⟩,
  ⟨R.IM_FUSE_KEYS, 1, 1, 0x0, 1, 0x0, .ro, 0x0, 0xFFFFFFFF, false, false, 0⟩,
  ⟨R.IM_FUSE_CMD, 1, 1, 0x0, 1, 0x0, .wo, 0x0, 0xFFFFFFFF, false, false, 0⟩,
  ⟨R.IM_FUSE_RESULT, 1, 1, 0x0, 1, 0x0, .ro, 0x0, 0xFFFFFFFF, false, false, 0⟩,
  ⟨R.DT_PLUMB, 8, 1, 0x0, 1, 0x0, .rwl, 0x0, 0xFFFFFFFF, true, false, 0⟩,
  ⟨R.DT_SYNC_CTRL, 1, 1, 0x0, 1, 0x0, .rwl, 0x1400, 0xFF01, true, false, 0⟩,
  ⟨R.DT_SYNC_STATUS, 1, 1, 0x0, 1, 0x0, .ro, 0x0, 0xFFFFFFFF, false, false, 0⟩,
  ⟨R.DT_ERR, 1, 1, 0x0, 1, 0x0, .w1c, 0x0, 0xF, false, false, 0⟩,
  ⟨R.DT_MARK_TIME_LO, 1, 1, 0x0, 1, 0x0, .ro, 0x0, 0xFFFFFFFF, false, true, 1⟩,
  ⟨R.DT_MARK_TIME_HI, 1, 1, 0x0, 1, 0x0, .ro, 0x0, 0xFFFFFFFF, false, true, 2⟩,
  ⟨R.DT_PULSE_TIME_LO, 1, 1, 0x0, 1, 0x0, .ro, 0x0, 0xFFFFFFFF, false, true, 1⟩,
  ⟨R.DT_PULSE_TIME_HI, 1, 1, 0x0, 1, 0x0, .ro, 0x0, 0xFFFFFFFF, false, true, 2⟩,
  ⟨R.DT_MATCH_LO, 1, 1, 0x0, 1, 0x0, .ro, 0x0, 0xFFFFFFFF, false, true, 1⟩,
  ⟨R.DT_MATCH_HI, 1, 1, 0x0, 1, 0x0, .ro, 0x0, 0xFFFFFFFF, false, true, 2⟩,
  ⟨R.DT_IGNORED_LO, 1, 1, 0x0, 1, 0x0, .ro, 0x0, 0xFFFFFFFF, false, true, 1⟩,
  ⟨R.DT_IGNORED_HI, 1, 1, 0x0, 1, 0x0, .ro, 0x0, 0xFFFFFFFF, false, true, 2⟩,
  ⟨R.DT_MISSED_LO, 1, 1, 0x0, 1, 0x0, .ro, 0x0, 0xFFFFFFFF, false, true, 1⟩,
  ⟨R.DT_MISSED_HI, 1, 1, 0x0, 1, 0x0, .ro, 0x0, 0xFFFFFFFF, false, true, 2⟩,
  ⟨R.DT_HOLD_LO, 1, 1, 0x0, 1, 0x0, .ro, 0x0, 0xFFFFFFFF, false, true, 1⟩,
  ⟨R.DT_HOLD_HI, 1, 1, 0x0, 1, 0x0, .ro, 0x0, 0xFFFFFFFF, false, true, 2⟩,
  ⟨R.DT_PCHUNK, 256, 1, 0x0, 1, 0x0, .rwl, 0x100, 0xFFF, true, false, 0⟩,
  ⟨R.EL_VERSION, 1, 1, 0x0, 1, 0x0, .ro, 0x100, 0xFFFFFFFF, false, false, 0⟩,
  ⟨R.EL_STATUS, 1, 1, 0x0, 1, 0x0, .ro, 0x0, 0xFFFFFFFF, false, false, 0⟩,
  ⟨R.EL_ALERT, 1, 1, 0x0, 1, 0x0, .w1c, 0x0, 0x1F, false, false, 0⟩,
  ⟨R.EL_ALERT_EN, 1, 1, 0x0, 1, 0x0, .rw, 0x1F, 0x1F, false, false, 0⟩,
  ⟨R.EL_CTRL, 1, 1, 0x0, 1, 0x0, .rwl, 0x3E84024, 0xFFFFFF77, true, false, 0⟩,
  ⟨R.EL_WR, 1, 1, 0x0, 1, 0x0, .ro, 0x0, 0xFFFFFFFF, false, true, 0⟩,
  ⟨R.EL_RD, 1, 1, 0x0, 1, 0x0, .rws, 0x0, 0x3FF, false, true, 0⟩,
  ⟨R.EL_RETIRE_PC, 1, 1, 0x0, 1, 0x0, .rwl, 0x18021000, 0x1F0FFFFF, true, false, 0⟩,
  ⟨R.EL_RETIRE_CORE, 1, 1, 0x0, 1, 0x0, .rwl, 0x18020100, 0x1F0FFFFF, true, false, 0⟩,
  ⟨R.EL_ESCALATE, 1, 1, 0x0, 1, 0x0, .rwl, 0x408, 0xF3F, true, false, 0⟩,
  ⟨R.EL_TEST, 1, 1, 0x0, 1, 0x0, .wo, 0x0, 0xFFFFFFFF, false, false, 0⟩,
  ⟨R.EL_I3C, 1, 1, 0x0, 1, 0x0, .ro, 0x0, 0xFFFFFFFF, false, false, 0⟩,
  ⟨R.EL_OVF_FIRST_LO, 1, 1, 0x0, 1, 0x0, .ro, 0x0, 0xFFFFFFFF, false, false, 1⟩,
  ⟨R.EL_OVF_FIRST_HI, 1, 1, 0x0, 1, 0x0, .ro, 0x0, 0xFFFFFFFF, false, false, 2⟩]

/-- Part 11 of the register tables. -/
def regRows11 : List RegRow := [
  ⟨R.EL_RECORDED_LO, 1, 1, 0x0, 1, 0x0, .ro, 0x0, 0xFFFFFFFF, false, true, 1⟩,
  ⟨R.EL_RECORDED_HI, 1, 1, 0x0, 1, 0x0, .ro, 0x0, 0xFFFFFFFF, false, true, 2⟩,
  ⟨R.EL_COALESCED_LO, 1, 1, 0x0, 1, 0x0, .ro, 0x0, 0xFFFFFFFF, false, true, 1⟩,
  ⟨R.EL_COALESCED_HI, 1, 1, 0x0, 1, 0x0, .ro, 0x0, 0xFFFFFFFF, false, true, 2⟩,
  ⟨R.EL_OVERFLOW_LO, 1, 1, 0x0, 1, 0x0, .ro, 0x0, 0xFFFFFFFF, false, true, 1⟩,
  ⟨R.EL_OVERFLOW_HI, 1, 1, 0x0, 1, 0x0, .ro, 0x0, 0xFFFFFFFF, false, true, 2⟩,
  ⟨R.EL_WRAP_LOST_LO, 1, 1, 0x0, 1, 0x0, .ro, 0x0, 0xFFFFFFFF, false, true, 1⟩,
  ⟨R.EL_WRAP_LOST_HI, 1, 1, 0x0, 1, 0x0, .ro, 0x0, 0xFFFFFFFF, false, true, 2⟩,
  ⟨R.EL_PLDM_LOST_LO, 1, 1, 0x0, 1, 0x0, .ro, 0x0, 0xFFFFFFFF, false, true, 1⟩,
  ⟨R.EL_PLDM_LOST_HI, 1, 1, 0x0, 1, 0x0, .ro, 0x0, 0xFFFFFFFF, false, true, 2⟩,
  ⟨R.EL_ALERTS_LO, 1, 1, 0x0, 1, 0x0, .ro, 0x0, 0xFFFFFFFF, false, true, 1⟩,
  ⟨R.EL_ALERTS_HI, 1, 1, 0x0, 1, 0x0, .ro, 0x0, 0xFFFFFFFF, false, true, 2⟩,
  ⟨R.EL_CLASS_CNT, 12, 1, 0x0, 1, 0x0, .ro, 0x0, 0xFFFFFFFF, false, true, 3⟩,
  ⟨R.EL_RETIRED, 512, 1, 0x0, 1, 0x0, .ro, 0x0, 0xFFFFFFFF, false, true, 0⟩,
  ⟨R.EL_ENTRY, 8192, 1, 0x0, 1, 0x0, .ro, 0x0, 0xFFFFFFFF, false, true, 0⟩,
  ⟨R.PW_VERSION, 1, 1, 0x0, 1, 0x0, .ro, 0x100, 0xFFFFFFFF, false, false, 0⟩,
  ⟨R.PW_STATUS, 1, 1, 0x0, 1, 0x0, .ro, 0x0, 0xFFFFFFFF, false, false, 0⟩,
  ⟨R.PW_ERR, 1, 1, 0x0, 1, 0x0, .w1c, 0x0, 0x3F, false, false, 0⟩,
  ⟨R.PW_THROT_CTRL, 1, 1, 0x0, 1, 0x0, .rwl, 0x10A03, 0x1FF0F, true, false, 0⟩,
  ⟨R.PW_PMB_CTRL, 1, 1, 0x0, 1, 0x0, .rwl, 0x1, 0x3, true, false, 0⟩,
  ⟨R.PW_TRIP_INFO, 1, 1, 0x0, 1, 0x0, .ro, 0x0, 0xFFFFFFFF, false, true, 0⟩,
  ⟨R.PW_CLK_STATUS, 1, 1, 0x0, 1, 0x0, .ro, 0x0, 0xFFFFFFFF, false, false, 0⟩,
  ⟨R.PW_POWER, 1, 1, 0x0, 1, 0x0, .ro, 0x0, 0xFFFFFFFF, false, false, 0⟩,
  ⟨R.PW_POWER_MAX, 1, 1, 0x0, 1, 0x0, .ro, 0x0, 0xFFFFFFFF, false, true, 0⟩,
  ⟨R.PW_TEMP_MAX_DIE, 1, 1, 0x0, 1, 0x0, .ro, 0x0, 0xFFFFFFFF, false, false, 0⟩,
  ⟨R.PW_TEMP_MAX_STK, 1, 1, 0x0, 1, 0x0, .ro, 0x0, 0xFFFFFFFF, false, false, 0⟩,
  ⟨R.PW_PMB_ADDR, 12, 1, 0x0, 1, 0x0, .rwl, 0x0, 0x8000FF7F, true, false, 0⟩,
  ⟨R.PW_RAIL_V, 12, 1, 0x0, 1, 0x0, .ro, 0x0, 0xFFFFFFFF, false, false, 0⟩,
  ⟨R.PW_RAIL_I, 12, 1, 0x0, 1, 0x0, .ro, 0x0, 0xFFFFFFFF, false, false, 0⟩,
  ⟨R.PW_TEMP, 72, 1, 0x0, 1, 0x0, .ro, 0x0, 0xFFFFFFFF, false, false, 0⟩,
  ⟨R.PW_DIV5_TIME_LO, 1, 1, 0x0, 1, 0x0, .ro, 0x0, 0xFFFFFFFF, false, true, 1⟩,
  ⟨R.PW_DIV5_TIME_HI, 1, 1, 0x0, 1, 0x0, .ro, 0x0, 0xFFFFFFFF, false, true, 2⟩,
  ⟨R.PW_DIV6_TIME_LO, 1, 1, 0x0, 1, 0x0, .ro, 0x0, 0xFFFFFFFF, false, true, 1⟩,
  ⟨R.PW_DIV6_TIME_HI, 1, 1, 0x0, 1, 0x0, .ro, 0x0, 0xFFFFFFFF, false, true, 2⟩,
  ⟨R.PW_HELD_TIME_LO, 1, 1, 0x0, 1, 0x0, .ro, 0x0, 0xFFFFFFFF, false, true, 1⟩,
  ⟨R.PW_HELD_TIME_HI, 1, 1, 0x0, 1, 0x0, .ro, 0x0, 0xFFFFFFFF, false, true, 2⟩,
  ⟨R.PW_DIVCHG_LO, 1, 1, 0x0, 1, 0x0, .ro, 0x0, 0xFFFFFFFF, false, true, 1⟩,
  ⟨R.PW_DIVCHG_HI, 1, 1, 0x0, 1, 0x0, .ro, 0x0, 0xFFFFFFFF, false, true, 2⟩,
  ⟨R.PW_EXCURSION_LO, 1, 1, 0x0, 1, 0x0, .ro, 0x0, 0xFFFFFFFF, false, true, 1⟩,
  ⟨R.PW_EXCURSION_HI, 1, 1, 0x0, 1, 0x0, .ro, 0x0, 0xFFFFFFFF, false, true, 2⟩]

/-- Part 12 of the register tables. -/
def regRows12 : List RegRow := [
  ⟨R.PW_PMB_ERR_LO, 1, 1, 0x0, 1, 0x0, .ro, 0x0, 0xFFFFFFFF, false, true, 1⟩,
  ⟨R.PW_PMB_ERR_HI, 1, 1, 0x0, 1, 0x0, .ro, 0x0, 0xFFFFFFFF, false, true, 2⟩,
  ⟨R.HI_Q_CTRL, 1, 1024, 0x40, 1, 0x0, .rw, 0x0, 0x7, false, false, 0⟩,
  ⟨R.HI_Q_STATUS, 1, 1024, 0x40, 1, 0x0, .ro, 0x0, 0xFFFFFFFF, false, false, 0⟩,
  ⟨R.HI_Q_CFG, 1, 1024, 0x40, 1, 0x0, .rw, 0x0, 0x1F1F1F7F, false, false, 0⟩,
  ⟨R.HI_Q_IRQ, 1, 1024, 0x40, 1, 0x0, .rw, 0x0, 0xFFFF07FF, false, false, 0⟩,
  ⟨R.HI_Q_SQ_BASE, 2, 1024, 0x40, 1, 0x0, .rw, 0x0, 0xFFFFFFFF, false, false, 3⟩,
  ⟨R.HI_Q_CQ_BASE, 2, 1024, 0x40, 1, 0x0, .rw, 0x0, 0xFFFFFFFF, false, false, 3⟩,
  ⟨R.HI_Q_TR_BASE, 2, 1024, 0x40, 1, 0x0, .rw, 0x0, 0xFFFFFFFF, false, false, 3⟩,
  ⟨R.HI_Q_SQ_HEAD, 1, 1024, 0x40, 1, 0x0, .ro, 0x0, 0xFFFFFFFF, false, false, 0⟩,
  ⟨R.HI_Q_CQ_TAIL, 1, 1024, 0x40, 1, 0x0, .ro, 0x0, 0xFFFFFFFF, false, false, 0⟩,
  ⟨R.HI_Q_TR_TAIL, 1, 1024, 0x40, 1, 0x0, .ro, 0x0, 0xFFFFFFFF, false, false, 0⟩,
  ⟨R.HI_Q_ERRINFO, 1, 1024, 0x40, 1, 0x0, .ro, 0x0, 0xFFFFFFFF, false, false, 0⟩,
  ⟨R.MSIX_ADDR_DATA, 3, 2048, 0x10, 1, 0x0, .rw, 0x0, 0xFFFFFFFF, false, false, 0⟩,
  ⟨R.MSIX_CTRL, 1, 2048, 0x10, 1, 0x0, .rw, 0x1, 0x1, false, false, 0⟩,
  ⟨R.MSIX_PBA, 64, 1, 0x0, 1, 0x0, .ro, 0x0, 0xFFFFFFFF, false, false, 0⟩,
  ⟨R.TI_PC_RETIRED, 16, 1, 0x0, 1, 0x0, .ro, 0x0, 0xFFFFFFFF, false, true, 3⟩,
  ⟨R.TI_PQ_STACK, 1, 64, 0x10, 1, 0x0, .rwl, 0x0, 0xFFFFFF, true, false, 0⟩,
  ⟨R.TI_PQ_SPILL, 1, 64, 0x10, 1, 0x0, .rwl, 0x0, 0x1FFFFFFF, true, false, 0⟩,
  ⟨R.TI_PU_STACK, 1, 64, 0x10, 1, 0x0, .ro, 0x0, 0xFFFFFFFF, false, false, 0⟩,
  ⟨R.TI_PU_SPILL, 1, 64, 0x10, 1, 0x0, .ro, 0x0, 0xFFFFFFFF, false, false, 0⟩,
  ⟨R.KV_FB_SIZE, 1, 64, 0x8, 1, 0x0, .ro, 0x0, 0xFFFFFFFF, false, false, 0⟩,
  ⟨R.KV_FB_FREE, 1, 64, 0x8, 1, 0x0, .ro, 0x0, 0xFFFFFFFF, false, false, 0⟩]

/-- The register tables. -/
def regTable : List RegRow :=
  regRows0 ++ regRows1 ++ regRows2 ++ regRows3 ++ regRows4 ++ regRows5 ++ regRows6 ++ regRows7 ++ regRows8 ++ regRows9 ++ regRows10 ++ regRows11 ++ regRows12

/-- The row of an offset; `none` for a reserved offset (R13). -/
def regRow (off : Nat) : Option RegRow := regTable.find? (·.holds off)

/-- The bits of a word that are not reserved (R13): the row's, but in the tables whose words differ: SQ_ATTN_CFG (R121), SF_PWL_TABLE (R75) and SK_IDX (R347). -/
def RegRow.maskAt (r : RegRow) (off : Nat) : Nat :=
  let w := (off - r.base) / 4
  if r.base = R.SQ_ATTN_CFG then (match w % 4 with | 0 => 0x7FF3 | 3 => 0xFFFF | _ => r.mask)
  else if r.base = R.SF_PWL_TABLE then (if w % 512 = 0 then 0x1FF0003 else r.mask)
  else if r.base = R.SK_IDX then [0x81F1F37F, 0xFF1F0FFF, 0x3F0FFFFF, 0x7FFF, 0x1FFFFFF, 0x1FFFFFF, 0x80FFFFFF, 0xFFFF].getD (w % 16) 0
  else r.mask

/-- The value of a register after cold start and before the image writes it (R14, R17). -/
def regReset (off : Nat) : Word :=
  match regRow off with
  | some r => BitVec.ofNat 32 r.reset
  | none => 0

end Sys2Proof.Machine
end

