-- ==== Sys2Proof/Machine/State.lean ====
section
/-! DEFINITION. The state of the D8 as plain data: one part for each unit, and the queue of waiting commands. -/

namespace Sys2Proof.Machine

/-! ### Messages that leave the block -/

/-- What the D8 sends out at its boundary, oldest first. -/
inductive Out where
  /-- A write to host memory: address and bytes (R401, R403). -/
  | hostWrite (addr : Nat) (data : List Byte)
  /-- A read requested from host memory (R391, R279). -/
  | hostRead (addr : Nat) (len : Nat)
  /-- The answer to a read of the D8 by the host. -/
  | readData (off : Nat) (data : List Byte)
  /-- A completion without data: 1 Unsupported Request, 2 Completer Abort, 3 Configuration Request Retry Status (R12, R387, R427). -/
  | completion (status : Nat) (off : Nat)
  /-- An MSI-X message (R402). -/
  | msix (vec : Nat)
  /-- A flit or Ethernet frame sent by a port (R353, R366). -/
  | frame (port : Nat) (data : List Byte)
  /-- A capability record sent by a port: revisions, ROLE, GIDX, rank, TGEN, link instance (R361). -/
  | capability (port : Nat) (fields : List Nat)
  /-- An MCTP or PLDM answer or event: message type, command, fields (R473–R477). -/
  | mctp (mtype : Nat) (command : Nat) (fields : List Nat) (data : List Byte)
  /-- A PMBus transaction on a rail: command code and value (R493). -/
  | pmbus (rail : Nat) (command : Nat) (value : Nat)
  /-- A message from a core to a die control core, as the model's control code sees it (R104). -/
  | control (die : Nat) (words : List Nat) (payload : List Byte)
  /-- A bit shifted out of TDO (R509). -/
  | tdo (bit : Bool)
  deriving DecidableEq, Repr

/-! ### Fault reports and the error log -/

/-- A report on its way to the chip manager (R461), with the address of the error where there is one (R470): it does not show in the log. -/
structure Report where
  code   : Nat
  source : Nat
  phys   : Bool
  data   : Nat
  addr   : Option Nat
  deriving DecidableEq, Repr

/-- A report in the intake queue, with the reports that coalesced into it (R462, R464). -/
structure Queued where
  rep   : Report
  count : Nat
  first : Nat
  last  : Nat
  deriving DecidableEq, Repr

/-- The error log's state beside its registers. -/
structure ElState where
  /-- Reports raised by units that ERROR_REPORT has yet to take. -/
  raised   : List Report
  /-- Reports of class 3–5 held by their units while the 16 reserved slots are full (R463). -/
  held     : List Report
  /-- The 16 reserved slots. -/
  high     : List Queued
  /-- The 256 slots of classes 0–2. -/
  low      : List Queued
  /-- The overflow record, with the number of queued ordinary reports that go before it (R465). -/
  ovf      : Option (Queued × Nat)
  ovfArmed : Bool
  fatal    : Bool
  degraded : Bool
  /-- A core was retired while running: no further steps are admitted (R38). -/
  coreLost : Bool
  unread   : Nat
  /-- Corrected and uncorrectable counts of a unit by hour: key kind · 65536 + unit (R470). -/
  corr     : Map (List (Nat × Nat))
  ue       : Map (List (Nat × Nat))
  /-- The hour at which a 64-byte address last counted, by unit (R470). -/
  ueSeen   : Map (List (Nat × Nat))
  /-- PLDM events sent and not acknowledged: the event class, then the event data (R476). -/
  pldm     : List (List Byte)
  deriving DecidableEq, Repr

def ElState.reset : ElState := ⟨[], [], [], [], none, true, false, false, false, 0, [], [], [], []⟩

/-! ### Cores -/

/-- Task slot states (R108), in the order of SQ_SLOT_STATE.STATE. -/
inductive SlotPhase where
  | idle | ready | current | waiting | draining | faulted
  deriving DecidableEq, Repr

/-- A loop of a slot (R112). -/
structure Loop where
  index  : Nat
  count  : Nat
  start  : Nat
  opened : Bool
  deriving DecidableEq, Repr

/-- A task slot (R108): phase, PC, fault cause (R113), loops, the model instance that launched it, and the condition of its last failed test (R121). -/
structure Slot where
  phase  : SlotPhase
  pc     : Nat
  cause  : Nat
  loop0  : Loop
  loop1  : Loop
  model  : Nat
  wfw    : Nat
  wmask  : Nat
  reason : Nat
  /-- A DRAINING slot's HALT: its SFW, its SMASK, and NOTIFY (R104). -/
  fin    : Option (Nat × Nat × Bool)
  deriving DecidableEq, Repr

def Loop.closed : Loop := ⟨0, 0, 0, false⟩
def Slot.idle : Slot := ⟨.idle, 0, 0, Loop.closed, Loop.closed, 0, 0, 0, 0, none⟩

/-- A step in a unit's queue (R77): its slot, its 32 bytes, ALT_OFFSET × 64 where the loop index is odd (R87), and whether FALT shifts its masks (R86). -/
structure QStep where
  slot : Nat
  word : BitVec 256
  alt  : Nat
  odd  : Bool
  deriving DecidableEq, Repr

/-- A STREAM step on its context (R100–R102, R126, R146). Offsets are pattern bytes from the position at issue. -/
structure StreamRun where
  slot    : Nat
  word    : BitVec 256
  alt     : Nat
  odd     : Bool
  /-- POS at issue, in bytes. -/
  base    : Nat
  /-- Fills whose buffer has been taken under R101. -/
  opened  : Nat
  /-- Bytes for which transfers have been requested. -/
  asked   : Nat
  /-- Bytes of the delivered prefix (R146). -/
  pre     : Nat
  /-- Pieces that have arrived beyond the prefix: offset and length. -/
  parts   : List (Nat × Nat)
  /-- Fills delivered or drained. -/
  fills   : Nat
  /-- A halt's cause and granule, while it drains and while it stands (R147). -/
  halt    : Option (Nat × Nat)
  /-- A stream error while its tags drain (R150). -/
  err     : Option Nat
  /-- Extents taken from the descriptor queue, and whether LAST was among them (R128). -/
  extents : List (Nat × Nat)
  ended   : Bool
  /-- Time of the last progress, in µs, for the peer limit (R130); none before the first grant. -/
  moved   : Option Nat
  /-- A near-end buffer has shown an uncorrectable error: the slot has faulted, and nothing more of the run moves (R79). -/
  stuck   : Bool
  /-- Batch step (epoch) in which the stream was issued (R215). -/
  epoch   : Nat
  deriving DecidableEq, Repr

/-- A bench partial delivered to a core and not yet folded (R248). -/
structure Partial where
  qaddr  : Nat
  head   : Nat
  pidx   : Nat
  data   : List Byte
  deriving DecidableEq, Repr

/-- A target served by bench partials (R238, R248): its query block, its places in core store, gate and done bits, and the partials folded by head. -/
structure BenchTarget where
  qaddr  : Nat
  ctx    : Nat
  model  : Nat
  rows   : Nat
  dim    : Nat
  heads  : Nat
  npart  : Nat
  obase  : Nat
  ostep  : Nat
  stbase : Nat
  ststep : Nat
  gfw    : Nat
  gbit   : Nat
  dfw    : Nat
  dbit   : Nat
  fin    : Bool
  folded : Map Nat
  deriving DecidableEq, Repr

/-- A core beside its registers and store. -/
structure CoreState where
  flags    : Map (BitVec 16)
  slots    : Map Slot
  cur      : Option Nat
  last     : Nat
  /-- Steps issued since the current slot became current (R109). -/
  run      : Nat
  mq       : List QStep
  vq       : List QStep
  sfq      : List QStep
  /-- An ATTN_TILE at the head of the matrix queue still waits for the running vector and SFU steps (R78). -/
  holdV    : Bool
  holdS    : Bool
  streams  : Map StreamRun
  /-- A flit held at this hop: its chain and the time the hold began in µs (R119). -/
  held     : Option (Nat × Nat)
  /-- Slots whose fault message is on its way (R113), and contexts whose halt fault is (R147). -/
  faults   : List Nat
  halts    : List Nat
  /-- A faulted slot: the core is reset at the next batch-step boundary (R113). -/
  resetDue : Bool
  partials : List Partial
  targets  : List BenchTarget
  deriving DecidableEq, Repr

def CoreState.fresh : CoreState := ⟨[], [], none, 7, 0, [], [], [], false, false, [], none, [], [], false, [], []⟩

/-- SIGNAL bits on their way (R105). -/
structure Signal where
  src  : Nat
  core : Nat
  fw   : Nat
  mask : Nat
  deriving DecidableEq, Repr

/-- An arrival at a dike (R114): core, slot, and the flag word and mask that release sets. -/
structure Arrival where
  core : Nat
  slot : Nat
  fw   : Nat
  mask : Nat
  deriving DecidableEq, Repr

/-- A dike (R115): arrivals of this generation, the generation bit, and the time of the first arrival in µs. -/
structure Dike where
  arrived : List Arrival
  gen     : Bool
  since   : Nat
  deriving DecidableEq, Repr

def Dike.fresh : Dike := ⟨[], false, 0⟩

/-- A message in a die control core's queue (R104). -/
structure EmitMsg where
  core    : Nat
  slot    : Nat
  code    : Nat
  imm     : Nat
  payload : List Byte
  rfw     : Nat
  rmask   : Nat
  deriving DecidableEq, Repr

/-- A chunk of an MMA_REDUCE tile in a berm (R106, R107, R294): where it came from, the operation, and whether the sluice engine has taken it. -/
structure BermChunk where
  core  : Nat
  berm  : Nat
  slot  : Nat
  opid  : Nat
  ring  : Nat
  cop   : Nat
  cidx  : Nat
  addr  : Nat
  rows  : Nat
  cols  : Nat
  cfw   : Nat
  bit   : Nat
  model : Nat
  /-- Entry of the berm it rests in, and the execution it belongs to. -/
  entry : Nat
  exec  : Nat
  taken : Bool
  deriving DecidableEq, Repr

/-- A weight-chain broadcast (R117–R119): injector and its context, cores of the span in order, the cores whose arm tokens have arrived, the flits past each position, and the bytes injected. -/
structure Chain where
  id    : Nat
  core  : Nat
  sc    : Nat
  span  : List Nat
  self  : Bool
  armed : List Nat
  past  : List Nat
  total : Nat
  data  : List Byte
  deriving DecidableEq, Repr

/-! ### Hauls, tags and the pump -/

/-- Who a tagged transfer belongs to (R132): a stream context 32 · core + context, a pump entry, a tier move of a granule, or a hop of the sluice engine by its number. -/
inductive Owner where
  | stream (ctx : Nat)
  | pump (prog : Nat) (entry : Nat) (layer : Nat)
  | move (gran : Nat)
  | sluice (hop : Nat)
  deriving DecidableEq, Repr

/-- A request for tags (R134, R136): pattern bytes [off, stop) of one owner, in arrival order. -/
structure TagReq where
  cls   : TagClass
  owner : Owner
  off   : Nat
  stop  : Nat
  deriving DecidableEq, Repr

/-- A transfer that holds a tag (R131): its number, class, owner, pattern offset, length and far address. -/
structure Xfer where
  id    : Nat
  cls   : TagClass
  owner : Owner
  off   : Nat
  len   : Nat
  addr  : Nat
  host  : Bool
  /-- The bytes of a read whose granule has left its home since the grant: they come from the old home (R144). -/
  data  : Option (List Byte)
  deriving DecidableEq, Repr

/-- A pump entry in progress (R141): the bytes asked for and delivered, pieces beyond, a halt, and issues of the same entry that wait for this one. -/
structure PumpRun where
  prog  : Nat
  entry : Nat
  layer : Nat
  pre   : Nat
  parts : List (Nat × Nat)
  halt  : Option (Nat × Nat)
  again : Nat
  deriving DecidableEq, Repr

/-- A pump program as the image loads it (R139, R140). -/
structure PumpProgram where
  model   : Nat
  die     : Nat
  dike    : Nat
  pkg     : Bool
  layers  : Nat
  depth   : Nat
  slots   : Nat
  stride  : Nat
  entries : List (BitVec 256)
  deriving DecidableEq, Repr

/-- A pin against demotion after a resume (R148): granule, the haul it serves, and the time it ends in µs. -/
structure Pin where
  gran  : Nat
  owner : Owner
  stop : Nat
  deriving DecidableEq, Repr

/-- Hauls, tags and the pump beside the TG registers. -/
structure TgState where
  /-- Stream contexts by 32 · core + context (R123). -/
  ctxs   : Map (BitVec 512)
  /-- Page-descriptor queues of DESC contexts, up to 16 each (R128). -/
  descs  : Map (List (BitVec 256))
  /-- Page descriptors that wait at their emitter for room in a queue (R128). -/
  descWait : Map (List (BitVec 256))
  reqs   : List TagReq
  xfers  : List Xfer
  nextId : Nat
  pumps  : List PumpProgram
  /-- Dike releases counted by each program (k of R141). -/
  pumpK  : Map Nat
  runs   : List PumpRun
  pins   : List Pin
  live   : Bool
  /-- What a DESC context keeps of its pattern between streams (R127, R128): extents not yet used, and whether LAST was among them. -/
  rest   : Map (List (Nat × Nat) × Bool)
  deriving DecidableEq, Repr

def TgState.reset : TgState := ⟨[], [], [], [], [], 0, [], [], [], [], false, []⟩

/-! ### Models (R189, R419) -/

/-- A model of the image: its header fields and the tokens per page (R190). -/
structure Model where
  hq     : Nat
  hkv    : Nat
  groups : Nat
  c      : Nat
  d      : Nat
  split  : Bool
  zigzag : Bool
  latent : Bool
  seam   : Bool
  select : Bool
  krec   : Bool
  sfmt   : Nat
  latw   : Nat
  ropew  : Nat
  layers : Nat
  p      : Nat
  recent : Nat
  sinkp  : Nat
  gcores : List Nat
  tpp    : Nat
  /-- The 256 rows of PROJ, W/8 bytes each (R241). -/
  proj   : List (List Byte)
  deriving DecidableEq, Repr

/-! ### Tiers -/

/-- A region (R261). -/
structure Region where
  base   : Nat
  count  : Nat
  polder : Nat
  shared : Bool
  ro     : Bool
  kind   : Nat
  place  : Nat
  deriving DecidableEq, Repr

/-- A map entry (R263), without MOVING and PIN, which the moves and pins hold. -/
structure MapEntry where
  spill  : Bool
  poison : Bool
  undef  : Bool
  grace  : Bool
  heat   : Nat
  polder : Nat
  stack  : Nat
  frame  : Nat
  crc    : Nat
  deriving DecidableEq, Repr

/-- A spillway home with UNDEF = 1 (R264): what a mapped granule has until something gives it a stack home. -/
def MapEntry.undefined : MapEntry := ⟨true, false, true, false, 0, 0, 0, 0, 0⟩

/-- What started a move (R268–R270, R225, R284). -/
inductive MoveKind where
  | heat | pump | demand | demote | exchange | swapOut | swapIn | evac
  deriving DecidableEq, Repr

/-- The states of a move (R271): decided and not yet in RESERVED, then the states of the table; COMMIT is the event itself. -/
inductive MovePhase where
  | decided | reserved | copying | commitWait
  deriving DecidableEq, Repr

/-- A move of a unit: one granule, or the four of a KV page (R187, R271). -/
structure Move where
  gran   : Nat
  size   : Nat
  kind   : MoveKind
  /-- Towards the stacks, with the stack chosen. -/
  up     : Bool
  dst    : Nat
  phase  : MovePhase
  /-- Destination frame of each granule that has one: a stack frame of `dst`, or a spillway frame. -/
  frames : Map Nat
  /-- Granules whose bytes stand at the destination, and granules past their checks (R278). -/
  got    : List Nat
  fin    : List Nat
  /-- CRC of the ciphertext written, by granule. -/
  crcs   : Map Nat
  /-- Re-issues of a spillway read (R279), and whether the commit has been deferred (R237). -/
  tries  : Map Nat
  late   : Bool
  defer  : Bool
  /-- A promotion of an exchange: the unit whose demotion starts first (R268). -/
  pair   : Option Nat
  deriving DecidableEq, Repr

/-- The tier manager beside the TI registers. -/
structure TiState where
  regions : List Region
  /-- Map entries by entry number (R263). -/
  map     : Map MapEntry
  /-- Free stack frames not zeroed: 2^20 · stack + frame, and the polder whose data they last held (R266). -/
  dirty   : Map Nat
  /-- Frames whose ZERO is queued. -/
  zeroing : List Nat
  /-- Host addresses of the registered spillway frames, and whether they are registered (R265). -/
  spill   : List Nat
  ready   : Bool
  /-- Map frames that R284 relocated, and the pseudo-channels retired when the map was built. -/
  moved   : Map Nat
  mask0   : List Nat
  /-- Pseudo-channels retired: 64 · stack + pc; those not yet empty are being evacuated (R284). -/
  retired : List Nat
  evac    : List Nat
  /-- Moves decided, in order, and moves in progress. -/
  moves   : List Move
  /-- Granules whose demand promotion found neither frame nor victim (R269). -/
  wanted  : List Nat
  /-- Weight granules notified to the host, and the end of their wait in µs (R281, R282). -/
  supply  : Map Nat
  /-- Granules whose wait has run out, and the model instances that failed (R282). -/
  expired : List Nat
  lost    : Map Nat
  /-- Writes to frames whose ZERO has not completed, oldest first: address in `stk` and bytes. They reach the frame behind it (R266). -/
  after   : List (Nat × List Byte)
  deriving DecidableEq, Repr

def TiState.reset : TiState := ⟨[], [], [], [], [], false, [], List.replicate 8 0, [], [], [], [], [], [], [], []⟩

/-! ### Pages, contexts and the seam table -/

/-- States of a context record (R194), in the order of STATE. -/
inductive CtxPhase where
  | free | active | parked | swappingOut | swapped | swappingIn | failed
  deriving DecidableEq, Repr

/-- A context record (R194). -/
structure Ctx where
  phase  : CtxPhase
  polder : Nat
  model  : Nat
  prio   : Nat
  home   : Nat
  multi  : Bool
  len    : Nat
  root   : Nat
  rootsz : Nat
  pos    : Nat
  sched  : Nat
  parked : Nat
  seq    : Nat
  deriving DecidableEq, Repr

def Ctx.empty : Ctx := ⟨.free, 0, 0, 0, 0, false, 0, 0, 0, 0, 0, 0, 0⟩

/-- A seam entry (R210). -/
structure SeamEntry where
  polder : Nat
  tag    : Nat
  row    : Nat
  age    : Nat
  /-- What the control core needs to release the seam row (R213, R217): its model, its pages by number, and its sketch block. -/
  model  : Nat
  pages  : List Nat
  sketch : Nat
  deriving DecidableEq, Repr

/-- What waits in a spoil list (R212): a page, or a table block of 2^size KiB. -/
structure Spoil where
  addr  : Nat
  size  : Nat
  block : Bool
  tag   : Nat
  /-- The die whose control core keeps the list. -/
  die   : Nat
  deriving DecidableEq, Repr

/-- A copy planned by R218: row, layer, fresh page, and whether its quarry COPY is queued. -/
structure CowCopy where
  row    : Nat
  layer  : Nat
  fresh  : Nat
  queued : Bool
  deriving DecidableEq, Repr

/-- Growth planned at a cut for a context (R221): the tokens to append with their position ids, the enlarged root with its size code, and the copies. -/
structure Growth where
  ctx    : Nat
  tokens : List (Nat × Nat)
  root   : Option (Nat × Nat)
  copies : List CowCopy
  /-- The batch step (epoch) it is for, and whether the step has run the request. -/
  epoch  : Nat
  ran    : Bool
  /-- Tokens of the sequence that the step adds on all positions of the rank group. -/
  span   : Nat
  deriving DecidableEq, Repr

/-- A SKETCH_UPD that a full row needs, whether it is queued, and the batch step (epoch) it belongs to (R242). -/
structure SketchJob where
  ctx    : Nat
  row    : Nat
  layer  : Nat
  queued : Bool
  epoch  : Nat
  deriving DecidableEq, Repr

/-- What the admission cut has allocated for a FORK (R217, R221): its queue and SQ index, the child, its root, and row blocks, sketch blocks and fresh pages for it. -/
structure ForkPlan where
  q      : Nat
  index  : Nat
  child  : Nat
  root   : Nat
  rows   : List Nat
  sketches : List Nat
  fresh  : List Nat
  /-- Home die of the parent, whose control core holds them. -/
  home   : Nat
  deriving DecidableEq, Repr

/-- A page list waiting for a promotion (R236). -/
structure WalkWait where
  ctx   : Nat
  layer : Nat
  dst   : WalkDest
  gran  : Nat
  deriving DecidableEq, Repr

/-- Pages and contexts beside the KV registers. -/
structure KvState where
  ctxs    : Map Ctx
  /-- Ring of a MULTI context, and the epoch clock in µs at which it was parked. -/
  rings   : Map Nat
  parkAt  : Map Nat
  /-- Seam entries by 4 · set + way (R208). -/
  seam    : Map SeamEntry
  spoil   : List Spoil
  /-- Freeboard pages in use by polder (R222). -/
  fbUsed  : Map Nat
  /-- Table blocks in use: address and size in KiB; table pages: address and polder (R200). -/
  blocks  : Map Nat
  tables  : Map Nat
  /-- Sequence tokens of MULTI contexts so far, on all positions (R156, R397). -/
  total   : Map Nat
  growth  : List Growth
  /-- Token ids of each context, which hashing and publishing a row need (R209, R213). -/
  toks    : Map (List Nat)
  /-- Page selections by 4096 · context + layer, and the ranks that wait for a selection (R244). -/
  chosen  : Map (List Nat)
  ranks   : Map (List (Nat × Nat))
  /-- Victims chosen, whose swap begins at the next boundary (R223), and the pages of swaps in progress. -/
  victims : List Nat
  swaps   : Map (List Nat)
  /-- Walks that wait for a page to be promoted (R236). -/
  walks   : List WalkWait
  /-- SKETCH_UPDs that have not completed (R242). -/
  updates : List SketchJob
  /-- Free pages that a LOAD is writing (R397). -/
  loading : List Nat
  forks   : List ForkPlan
  deriving DecidableEq, Repr

def KvState.reset : KvState := ⟨[], [], [], [], [], [], [], [], [], [], [], [], [], [], [], [], [], [], []⟩

/-! ### Quarry units -/

/-- Who queued a descriptor (R232): a die control core, the tier manager, the search scheduler. -/
inductive Emitter where
  | die (d : Nat)
  | tier
  | search
  deriving DecidableEq, Repr

/-- A queued descriptor: its 32 bytes, its emitter, and the stack frame that stands for an address which is not mapped (R266, R271). -/
structure QuDesc where
  word   : BitVec 256
  sender : Emitter
  frame  : Option Nat
  /-- Batch step (epoch) and model instance it belongs to, for R255. -/
  epoch  : Nat
  model  : Nat
  /-- Its step has ended on a fault: it is discarded at the queue head. -/
  dead   : Bool
  deriving DecidableEq, Repr

/-- A partial of a bench list (R180, R181): target and bytes. -/
structure BenchPart where
  head : Nat
  pidx : Nat
  data : List Byte
  deriving DecidableEq, Repr

/-- What a finished list returns (R232, R244, R254). -/
inductive QuResult where
  /-- Ranked rows: score bits and row, by unit; or BAD. -/
  | ranks (ctx layer : Nat) (rows : List (Nat × Nat)) (failed : Option Nat)
  /-- Partials to a target: query block address, context, whether the data failed. -/
  | parts (ctx qaddr : Nat) (parts : List BenchPart) (failed : Option Nat)
  /-- A delivered page: terrace address, bytes, and the notice core, flag word, bit. -/
  | page (ctx : Nat) (writes : List (Nat × List Byte)) (core fw bit : Nat) (failed : Option Nat)
  /-- New sketch records, with those that the unit could not write itself. -/
  | sketched (ctx row layer : Nat) (writes : List (Nat × List Byte)) (failed : Option Nat)
  | copied (ctx : Nat) (dst : Nat) (failed : Option Nat)
  | zeroed (frame : Nat) (ok : Bool)
  | moved (gran : Nat) (ok : Bool)
  | bad (ctx : Nat) (gran : Nat)
  /-- A finished search descriptor, with the neighbour ids of a GATHER: query and id. -/
  | search (batch : Nat) (rows : List (Nat × Nat))
  deriving DecidableEq, Repr

/-- A quarry unit. -/
structure QuState where
  /-- Up to 8,192 descriptors (R228), then those that wait at their emitters for room, and the descriptors taken so far modulo 8,192: where the queue begins in its partition. -/
  queue   : List QuDesc
  wait    : List QuDesc
  head    : Nat
  /-- Results of lists that have run, in start order (R234); model instance and epoch of a die control core's list (R255). -/
  results : List (QuResult × Option (Nat × Nat))
  /-- The rest of a list being discarded: until its LAST (R235). -/
  skip    : Bool
  deriving DecidableEq, Repr

def QuState.fresh : QuState := ⟨[], [], 0, [], false⟩

/-! ### Requests and queues -/

/-- Where a request stands (R391, R32, R401): its entry or data is being read, it waits for a cut, the cut has chosen it for the next step, it runs. -/
inductive ReqPhase where
  | fetching | waiting | chosen | admitted
  deriving DecidableEq, Repr

/-- A request that the chip manager has fetched. -/
structure Req where
  q      : Nat
  index  : Nat
  entry  : Nat
  data   : List Byte
  dataOk : Bool
  phase  : ReqPhase
  polder : Nat
  /-- The context that a CREATE has made, the tokens that a GENERATE has sampled, or the SQ index of an ABORT's target. Order of arrival is list order. -/
  tokens : List Nat
  /-- LEN of the context when the request was first admitted, from which its chunks are counted (R446), and the tokens it has handed to steps. -/
  start  : Option Nat
  given  : Nat
  /-- Tokens of its own that seam rows have supplied on this chip (R216). -/
  adopted : Nat
  /-- The queue is draining, or an ABORT or reset ends it after its current token. -/
  stop   : Option Nat
  /-- The error of the event that ended it: STATUS, DETAIL, RESULT (R405). -/
  err    : Option (Nat × Nat × Nat)
  /-- PCLK cycle of that event. -/
  errAt  : Nat
  /-- The step has carried out its part, and the request completes at the boundary: STATUS + 256 · DETAIL, and RESULT. -/
  done   : Option (Nat × Nat)
  deriving DecidableEq, Repr

/-- A queue pair beside its registers (R390–R394). -/
structure QPair where
  /-- 0 OFF, 1 ON, 2 DRAINING, 3 DISABLE_PENDING, 4 ERROR. -/
  phase  : Nat
  tail   : Nat
  cqHead : Nat
  trHead : Nat
  /-- Completions not yet signalled, and the time of the first in µs (R402). -/
  quiet  : Nat
  since  : Nat
  /-- A snooped doorbell is to be served: the queue's next entries are fetched by phase (R392). -/
  snoop  : Bool
  /-- The entry on its way is one that a snoop, and no SQ_TAIL, told of (R392). -/
  probe  : Bool
  deriving DecidableEq, Repr

def QPair.off : QPair := ⟨0, 0, 0, 0, 0, 0, false, false⟩

/-- The host port and the request queues beside the HI registers. -/
structure HiState where
  pairs  : Map QPair
  reqs   : List Req
  last   : Nat
  evOn   : Bool
  cxl    : Bool
  up     : Bool
  d3     : Bool
  perst  : Bool
  /-- Values captured for the following _HI read, and held for the following _HI write (R11). -/
  capt   : Map Nat
  held   : Map Nat
  /-- Peer-window accesses on their way, oldest first: offset, length, write. -/
  peer   : List (Nat × Nat × Bool)
  /-- Debug-window writes that wait for a granule's move to commit: device address and bytes (R387). -/
  waits  : List (Nat × List Byte)
  deriving DecidableEq, Repr

def HiState.reset : HiState := ⟨[], [], 1023, false, false, false, false, true, [], [], [], []⟩

/-! ### Culvert ports -/

/-- A message between chips (R359): lane, type, ranks, rank-table generation, the BODY of its header, and the bytes after the header. -/
structure Msg where
  lane  : Nat
  mtype : Nat
  src   : Nat
  dst   : Nat
  tgen  : Nat
  body  : List Byte
  data  : List Byte
  deriving DecidableEq, Repr

/-- A flit that waits for a frame slot: class, HEAD or DATA, EOM, bytes used, and the model instance that sent its message (R352, R376). -/
structure Flit where
  lane  : Nat
  cls   : Nat
  head  : Bool
  eom   : Bool
  data  : List Byte
  model : Option Nat
  /-- The flow of the message: lane · 2^32 + source rank · 2^16 + destination rank (R364). -/
  flow  : Nat
  /-- A CTRL flit of a tunnel, which carries the sideband word (R367). -/
  ctrl  : Bool
  /-- The receive frame that still holds a flit passed on: port, and 2 · lane + class (R355). -/
  held  : Option (Nat × Nat)
  deriving DecidableEq, Repr

/-- A sequenced frame in the replay buffer (R354): its number, flit, the times it was replayed, and when it was sent in µs. -/
structure TxFrame where
  seq   : Nat
  flit  : Flit
  tries : Nat
  sent  : Nat
  deriving DecidableEq, Repr

/-- An Ethernet frame of a tunnel that waits for its acknowledgement (R366, R367). -/
structure EthFrame where
  fseq  : Nat
  flits : List Flit
  deriving DecidableEq, Repr

/-- A tunnel (R367): remote rank, state (0 closed, 1 open, 2 DOWN), sender and receiver numbers, whether a NAK stands, expiries in a row, flits being gathered, frames unacknowledged, messages being received by lane, the partner's SLOW, the flow whose message has begun to leave by lane, and lanes whose partial frame is due (R366). -/
structure Tunnel where
  rank   : Nat
  phase  : Nat
  next   : Nat
  expect : Nat
  gap    : Bool
  rto    : Nat
  hold   : List Flit
  unacked : List EthFrame
  rx     : Map (List Byte)
  slow   : Bool
  begun  : Map Nat
  due    : List Nat
  deriving DecidableEq, Repr

def Tunnel.closed : Tunnel := ⟨0, 0, 0, 0, false, 0, [], [], [], false, [], []⟩

/-- A culvert port beside its registers. -/
structure Port where
  /-- CU_STATUS.STATE and EN_LATCHED (R380). -/
  phase   : Nat
  latched : Bool
  rev     : Nat
  slowRx  : Bool
  /-- The partner's capability record: rank, GIDX, ROLE, revisions. -/
  partner : Nat × Nat × Nat × Nat
  /-- The partner's link instance last recorded, and whether the port has trained since this side started (R361, R434). -/
  inst    : Option Nat
  trained : Bool
  /-- PMD training is done and the capability record is awaited; the training is a full one. -/
  pmd     : Bool
  full    : Bool
  /-- Flits that wait for a slot, oldest first; the lane that used the last slot (R356). -/
  queue   : List Flit
  lastVl  : Nat
  /-- The sender's number, unacknowledged frames, the receiver's number, and whether the NAK of a gap was sent (R353, R354). -/
  seq     : Nat
  unacked : List TxFrame
  expect  : Nat
  gap     : Bool
  /-- Frames first sent and frames the partner has freed, by 2 · lane + class; frames freed here (R355). -/
  used    : Map Nat
  seen    : Map Nat
  freed   : Map Nat
  /-- Bytes of messages being received, by lane and class. -/
  rx      : Map (List Byte)
  /-- Fast retrains failed in a row, lanes charged in the current retrain, a half to retire in it (1 lanes 0–3, 2 lanes 4–7). -/
  fails   : Nat
  charged : List Nat
  retire  : Nat
  /-- Charges by lane, in µs (R374); uncorrectable codewords by lane, in µs (R372). -/
  charges : Map (List Nat)
  fec     : Map (List Nat)
  /-- Locked lanes, and halves retired: bits 1 and 2 (R374). -/
  lock    : Nat
  gone    : Nat
  /-- Halves that the partner has retired, as the last training settled (R378). -/
  pgone   : Nat
  /-- Frames accepted since this side last sent one (R354), and the state that a retrain returns to. -/
  owe     : Nat
  back    : Nat
  tuns    : Map Tunnel
  /-- The flow whose message has begun to leave, by lane: its flits leave before any other of the lane (R357). -/
  begun   : Map Nat
  /-- Receive frames held, oldest first, by 2 · lane + class, and whether each is of a message passed on (R355). -/
  rbuf    : Map (List (Bool × List Byte))
  /-- Lanes on which a message for another chip arrives: its flow and class on the next hop; none where it is discarded (R357, R377). -/
  fwd     : Map (Option (Nat × Nat))
  /-- The training in progress is part of a retrain: flows wait for the port (R372). -/
  retrain : Bool
  deriving DecidableEq, Repr

def Port.off : Port :=
  ⟨0, false, 0, false, (0, 0, 0, 0), none, false, false, false, [], 3, 0, [], 0, false, [], [], [], [], 0, [], 0, [], [], 0, 0, 0, 0, 2, [], [], [], [], false⟩

/-- The ports together. -/
structure CuState where
  ports : Map Port
  /-- Messages that have arrived whole and wait for their engines' events. -/
  inbox : List Msg
  /-- This start's link instance number (R434). -/
  inst  : Nat
  /-- The slow notice of this chip, and the time its condition ended in µs while it is held (R307). -/
  slow  : Bool
  hold  : Option Nat
  /-- Ranks whose slow notice stands (R307). -/
  slowRanks : List Nat
  /-- Members of each ring in ring order (R368). -/
  rings : Map (List Nat)
  /-- Flows that use another port than their own (R364). -/
  flows : Map Nat
  /-- An accepted rank table that takes effect at the next boundary (R369). -/
  next  : Option (List Byte)
  /-- Header and rank entries of the table in effect, which survive a change of layout (R433). -/
  table : List Byte
  deriving DecidableEq, Repr

def CuState.reset : CuState := ⟨[], [], 0, false, none, [], [], [], none, []⟩

/-! ### The sluice engine -/

/-- A hop that waits for its grant (R301): chunk, pass, origin, hops made, payload and CRC. -/
structure SlHop where
  cidx   : Nat
  pass   : Nat
  origin : Nat
  hops   : Nat
  data   : List Byte
  crc    : Nat
  deriving DecidableEq, Repr

/-- A hop that this member has granted and waits for, with the time its timer started in µs, and whether the timer has expired (R309). -/
structure SlWait where
  cidx   : Nat
  pass   : Nat
  origin : Nat
  since  : Nat
  late   : Bool
  deriving DecidableEq, Repr

/-- An execution at this member (R291, R296, R311). -/
structure SlExec where
  exec    : Nat
  /-- SL_OP_DATA.STATE: 0 idle (not claimed yet), 1 claiming, 2 active, 3 settling. -/
  phase   : Nat
  slots   : Nat
  /-- The die control core that launched a KIND 2–4 execution here. -/
  die     : Option Nat
  ext     : Bool
  /-- Chunks contributed here, chunks that have entered the reduce pass here, and chunks finished here. -/
  mine    : List Nat
  begun   : List Nat
  fin     : List Nat
  /-- Hops waiting for a grant, grants held from the successor, hops granted and awaited, and hops received: chunk, pass, origin. -/
  out     : List SlHop
  grants  : List (Nat × Nat × Nat)
  waits   : List SlWait
  got     : List (Nat × Nat × Nat)
  /-- A late probe: chunk, pass and the rank asked last; and when it was asked, in µs. -/
  probe   : Option (Nat × Nat × Nat)
  asked   : Nat
  /-- Abort notices: cause, late rank, detecting rank; and the time of the first in µs. -/
  notices : List (Nat × Nat × Nat)
  since   : Nat
  deriving DecidableEq, Repr

/-- The sluice engine beside its registers. -/
structure SlState where
  /-- Operation records by OPID (R289), and EXEC counters. -/
  ops    : Map (BitVec 128)
  count  : Map Nat
  /-- Executions by 65536 · OPID + EXEC: the next one of an OPID may claim while the last is still active or settles. -/
  execs  : Map SlExec
  /-- Claim tokens waiting here: OPID, execution, and since when in µs (R297). -/
  tokens : List (Nat × Nat × Nat)
  /-- Entries of a top-k list at SRC, by 4096 times the execution's number and the chunk, where fewer than K (R293, R300). -/
  staged : Map Nat
  deriving DecidableEq, Repr

def SlState.reset : SlState := ⟨[], [], [], [], []⟩
/-! ### Sketch search -/

/-- A merge in progress (R342): the cut M and the ids whose tombstone bit was set at its start. -/
structure SkMerge where
  cut  : Nat
  dead : List Nat
  deriving DecidableEq, Repr

/-- A search index beside its SK_IDX words (R316, R323): the bases of its INDEXMAP record, GEN, HEAD, TAIL, a merge in progress, whether a merge is wanted, and block runs that wait for drain: address, granules, tag. -/
structure SkIdx where
  cent  : Nat
  dir   : Nat
  list  : Nat
  listg : Nat
  side  : Nat
  recs  : Nat
  vec   : Nat
  tomb  : Nat
  allow : Nat
  gen   : Nat
  head  : Nat
  tail  : Nat
  merge : Option SkMerge
  want  : Bool
  spoil : List (Nat × Nat × Nat)
  deriving DecidableEq, Repr

/-- A query of a batch (R330, R332): its number in the request, sketch, filter slot and exact vector; the lists to visit, the candidate keys, candidates dropped, and whether data it depends on failed. -/
structure SkQuery where
  num    : Nat
  sketch : Nat
  slot   : Nat
  vec    : List Byte
  lists  : List Nat
  cand   : List Nat
  tomb   : Nat
  filt   : Nat
  failed : Bool
  deriving DecidableEq, Repr

/-- A batch (R331): number, index, generation, parameters, its requests with their ranges of queries (queue, SQ index, first, count), phase, descriptors not yet returned, heaps by 4096 · unit + query, neighbour ids found, visit entries by number, and whether it waits for promotions. -/
structure SkBatch where
  num    : Nat
  index  : Nat
  gen    : Nat
  k      : Nat
  nprobe : Nat
  cand   : Nat
  rerank : Nat
  expand : Nat
  parts  : List (Nat × Nat × Nat × Nat)
  queries : List SkQuery
  phase  : Nat
  left   : Nat
  heaps  : Map (List Nat)
  neigh  : List (Nat × Nat)
  visits : Map (List Nat)
  wait   : Bool
  /-- Its search has been started in the step. -/
  begun  : Bool
  /-- The execution of OPID that merges the shards (R338), and its merged lists once it has completed. -/
  exec   : Nat
  merged : List (List (Nat × Nat))
  deriving DecidableEq, Repr

/-- An update request admitted (R325): its queue, SQ index, index and generation, whether it has run, and whether its step has ended. -/
structure SkUpdate where
  q     : Nat
  slot  : Nat
  index : Nat
  gen   : Nat
  ran   : Bool
  due   : Bool
  deriving DecidableEq, Repr

/-- The search scheduler. -/
structure SkState where
  idx     : Map SkIdx
  batches : List SkBatch
  updates : List SkUpdate
  next    : Nat
  /-- The local ids whose record has VALID = 1, for each index (R321): what LIVE counts, wherever the records lie (R347). -/
  valid   : Map (List Nat)
  deriving DecidableEq, Repr

def SkState.reset : SkState := ⟨[], [], [], 0, []⟩


/-! ### Step sync (R31, R453–R457) -/

/-- Step boundaries: the die reports of the running step, the latched pulse and the hold of R455, a declared boundary whose work the next STEP_BOUNDARY does, and STEP_MARK. Times are in PCLK cycles. -/
structure DtState where
  reported : List Nat
  latched  : Option Nat
  /-- Ready point and deadline of a hold. -/
  hold     : Option (Nat × Nat)
  /-- A boundary declared at this edge. -/
  declared : Option Nat
  /-- A boundary that waits for STEP_MARK's minimum low time: its ready point. -/
  postponed : Option Nat
  /-- STEP_MARK is high, and when it last changed. -/
  mark     : Bool
  markAt   : Nat
  /-- The admission cut of the running step has passed. -/
  cut      : Bool
  deriving DecidableEq, Repr

def DtState.reset : DtState := ⟨[], none, none, none, none, false, 0, false⟩

/-! ### Image, start, fuses and flash -/

/-- The start sequence (R426–R430): kind (0 cold, 1 warm), phase, whether it runs, cause of the last start, physical cores and pseudo-channels that failed in it, and whether the log drain that ends a quiesce is still to come. -/
structure GlState where
  kind    : Nat
  phase   : Nat
  running : Bool
  cause   : Nat
  badCores : List Nat
  badPcs  : List Nat
  quiesced : Bool
  /-- A start that cannot complete (R37, R424). -/
  stuck   : Bool
  /-- Logical id held by each physical core beside the default map: spares and unusable cores (R34–R36): physical core to logical core + 1, 0 for out of service. -/
  spares  : Map Nat
  /-- OTP words (R424). -/
  otp     : Map Nat
  /-- Security fuses: key digests by slot, revoked slots, key-encryption key, fused SVN (R421, R422, R440). -/
  fuseKeys : Map (List Byte)
  revoked : List Nat
  kek     : Option (List Byte)
  svn     : Nat
  /-- Polders that the image defines, and their enable states: 0 OFF, 1 ON, 2 DRAINING, 3 DISABLE_PENDING (R435, R436). -/
  polders : Map Nat
  defined : List Nat
  deriving DecidableEq, Repr

/-- The image loader (R413, R422, R423, R439): IM_STATUS fields, slots tried in this start, whether the slot was chosen by ONCE, the slot that passed every check, and the fields of the loaded image. -/
structure ImState where
  /-- 0 IDLE, 1 READING, 2 VERIFYING, 3 APPLYING, 4 LOADED, 5 FAILED. -/
  phase   : Nat
  slot    : Nat
  reused  : Bool
  discarded : Bool
  tried   : List Nat
  byOnce  : Bool
  good    : Option Nat
  /-- Loaded image: SCHEMA, version, SVN, signing key slot, sections skipped. -/
  schema  : Nat
  version : Nat
  imgSvn  : Nat
  key     : Nat
  skipped : Nat
  /-- Flash contents, where they are not FFH, its capacity in bytes, and the JEDEC id (R411). -/
  flash   : Memory
  capacity : Nat
  flashId : Nat
  /-- Registers that the image filled (R420), and the shadow stream contexts (R431). -/
  regs    : Map Word
  shadow  : Map (BitVec 512)
  /-- User calibration: item · 65536 + instance to its signed offset (R425). -/
  ucal    : Map Int
  deriving DecidableEq, Repr

/-! ### Management over I3C (R473–R477) -/

/-- A firmware update session (R477): the slot written, and its state: 1 transfer, 2 verified, 3 applied. -/
structure Update where
  slot  : Nat
  phase : Nat
  deriving DecidableEq, Repr

/-- The I3C target: dynamic address, EID, TID, event receiver, update session, and the sensor states last sent. -/
structure MgState where
  daddr    : Nat
  eid      : Nat
  eidValid : Bool
  tid      : Nat
  receiver : Nat
  update   : Option Update
  sent     : Map Nat
  deriving DecidableEq, Repr

def MgState.reset : MgState := ⟨0, 0, false, 0, 0, none, []⟩

/-! ### Power, clocks and thermal (R481–R497) -/

/-- A VDD_CORE raise in progress (R488): the divider it leads to and its limit in µs. -/
structure Raise where
  div  : Nat
  stop : Nat
  deriving DecidableEq, Repr

/-- The power unit beside the PW registers. -/
structure PwState where
  div     : Nat
  /-- Cool time so far in µs (R485). -/
  calm    : Nat
  /-- When the divider became ÷6 with a hot sensor, in µs (R486), and the hold. -/
  at6     : Option Nat
  held    : Bool
  hot     : Bool
  above    : Bool
  excursion : Bool
  /-- FAST_THROT_N is low (R487). -/
  pin     : Bool
  /-- Package power estimates of the last 10 ms, newest first, in W (R485). -/
  watts   : List Nat
  raise   : Option Raise
  /-- Voltage in mV last commanded to each die's VDD_CORE plane, its target, and the time of the last step in µs (R488, R493). -/
  vout    : Map Nat
  target  : Map Nat
  vstep   : Map Nat
  /-- THERMTRIP_N is low; CCLK, MCLK and SCLK are stopped (R490, R494). -/
  trip    : Bool
  stopped : Bool
  /-- Rails in range, by rail number (R492). -/
  rails   : List Nat
  pwrgood : Bool
  resetN  : Bool
  sysRef  : Bool
  pll     : Bool
  peRef   : Bool
  /-- Every clock is stopped and the D8 holds itself in reset (R484), or PWRGOOD is low (R497). -/
  held0   : Bool
  /-- Regulators whose VOUT_MODE has been read (R493). -/
  moded   : List Nat
  deriving DecidableEq, Repr

def PwState.reset : PwState :=
  ⟨4, 0, none, false, false, false, false, false, [], none, [], [], [], false, false, List.range 12, true, true, true, true, true, false, []⟩

/-! ### JTAG (R509) -/

/-- The states of the IEEE 1149.1 TAP controller. -/
inductive Tap where
  | reset | idle
  | selectDr | captureDr | shiftDr | exit1Dr | pauseDr | exit2Dr | updateDr
  | selectIr | captureIr | shiftIr | exit1Ir | pauseIr | exit2Ir | updateIr
  deriving DecidableEq, Repr

/-- The instructions of R509. -/
inductive JtagInstr where
  | bypass | idcode | sample | extest | extestPulse | extestTrain
  deriving DecidableEq, Repr

/-- The JTAG port: TRST_N level, TAP state, instruction, shift registers, the boundary register's update stage, and the levels of the pins it captures. -/
structure JtState where
  trstN  : Bool
  tap    : Tap
  instr  : JtagInstr
  ir     : List Bool
  dr     : List Bool
  update : List Bool
  deriving DecidableEq, Repr

def JtState.reset : JtState := ⟨false, .reset, .idcode, [], [], []⟩
/-! ### The whole state -/

/-- The D8. -/
structure State where
  /-- Commands that wait, first in first out. -/
  pending : List Instr
  /-- PCLK cycles since cold start (R458): 250 in a microsecond. -/
  clk     : Nat
  /-- The number of the next free value: `Config.freeNat free` (the model's own field). -/
  free    : Nat
  /-- Registers of BAR0 by offset, where they differ from `regReset`. -/
  regs    : Map Word
  /-- Core stores, terraces and base-die SRAM, by BAR2 offset (R386). -/
  mem     : Memory
  /-- 64-bit words of `mem` (offset div 8) whose SECDED code shows a double-bit error (R80). -/
  bad     : List Nat
  /-- 64-bit words of `mem` (offset div 8) with a single-bit error, corrected at each read (R80). -/
  soft    : List Nat
  /-- Messages sent, oldest first. -/
  out     : List Out
  el      : ElState
  cores   : Map CoreState
  signals : List Signal
  /-- Dikes: 64 · die + DID, and 256 + DID for package-wide ones (R114). -/
  dikes   : Map Dike
  /-- Messages queued at each die control core (R104). -/
  emits   : Map (List EmitMsg)
  chains  : List Chain
  berm    : List BermChunk
  tg      : TgState
  /-- Models of the image, by model instance (R189). -/
  models  : Map Model
  ti      : TiState
  /-- Contents of the stacks: stack · 2^36 + frame · 65536 + byte (R260); an unwritten byte reads as 0. -/
  stk     : Memory
  kv      : KvState
  /-- Quarry units by number. -/
  qus     : Map QuState
  sl      : SlState
  cu      : CuState
  sk      : SkState
  hi      : HiState
  dt      : DtState
  gl      : GlState
  im      : ImState
  mg      : MgState
  pw      : PwState
  jt      : JtState
  /-- Keys unwrapped from the image: the seam key's halves and the spill keys by polder (R421). -/
  seamKey : Nat × Nat
  keys    : Map (List Byte)
  deriving DecidableEq, Repr

/-- The start state machine as RESET_N rises: a cold start in phase 1 (R426, R427). OTP word 0 holds the identity of R410; the other factory words stand at the values of a part without defects, and the security fuses are blank. -/
def GlState.reset : GlState :=
  { kind := 0, phase := 1, running := true, cause := 0, badCores := [], badPcs := [], quiesced := false, stuck := false
    spares := [], otp := [(0, 0xD80512B0), (2, 0xFFFFFFFFFFFFFFFF), (3, 0xFFFFFFFFFFFFFFFF), (12, 0x2EE), (13, 0x2BC), (14, 0x2A8), (15, 0x28A), (16, 0x2EE), (17, 0x2BC), (18, 0x2A8), (19, 0x28A), (20, 0x2EE), (21, 0x2BC), (22, 0x2A8), (23, 0x28A), (24, 0x2EE), (25, 0x2BC), (26, 0x2A8), (27, 0x28A), (255, 0xF45C61D6)]
    fuseKeys := [], revoked := [], kek := none, svn := 0, polders := [], defined := [] }

/-- The image loader as a cold start begins, with an erased flash of 64 MiB. -/
def ImState.reset : ImState :=
  { phase := 0, slot := 0, reused := false, discarded := false, tried := [], byOnce := false, good := none
    schema := 0, version := 0, imgSvn := 0, key := 0, skipped := 0
    flash := [], capacity := 0x4000000, flashId := 0, regs := [], shadow := [], ucal := [] }

/-- The D8 right after reset: RESET_N has just risen with PWRGOOD high and a cold start begins (R426). Every register that no entry of `regs` names reads as `regReset`. -/
def State.reset : State :=
  { pending := [], clk := 0, free := 0, regs := [], mem := [], bad := [], soft := [], out := []
    el := ElState.reset, cores := [], signals := [], dikes := [], emits := [], chains := [], berm := []
    tg := TgState.reset, models := [], ti := TiState.reset, stk := [], kv := KvState.reset, qus := []
    sl := SlState.reset, cu := CuState.reset, sk := SkState.reset, hi := HiState.reset
    dt := DtState.reset, gl := GlState.reset, im := ImState.reset, mg := MgState.reset, pw := PwState.reset, jt := JtState.reset
    seamKey := (0, 0), keys := [] }

/-! ### Faults and refusals -/

/-- How a command can stop the model. -/
inductive Fault where
  /-- Raised by a command whose operand names a core, die, stack, port, queue or other unit that the D8 does not have (R4, R22, R41). Safe: no such event occurs. -/
  | noSuchUnit
  deriving DecidableEq, Repr

/-- Why a command has no meaning. -/
inductive Refusal where
  /-- Raised by the dispatcher for a command that has no meaning yet. Safe. -/
  | notModelled (mnemonic : String)
  deriving DecidableEq, Repr

end Sys2Proof.Machine
end

