-- ==== Sys2Proof/Machine/Ops.lean ====
section
/-! DEFINITION. The named operations over registers, memories, messages and reports. -/

namespace Sys2Proof.Machine

/-- An outcome of a command. -/
abbrev Outcome := Host.Outcome State Fault Refusal

/-- A command on a unit the D8 has; a fault by name where it has none. -/
def onUnit (c : Bool) (s : State) : Outcome := if c then .next s else .fault .noSuchUnit

/-- The BLOCK of a core's reports (R461). -/
def coreBlock (c : Nat) : Nat := 0x0C + c / 48

namespace State

/-! ### Registers (R10, R13, R14) -/

/-- The stored value of a register word. -/
def reg (s : State) (off : Nat) : Nat := (Map.getD (regReset off) s.regs off).toNat

/-- A register word set by hardware. -/
def setReg (s : State) (off v : Nat) : State :=
  { s with regs := Map.store (regReset off) s.regs off (BitVec.ofNat 32 v) }

/-- Bits set in a register by hardware. -/
def orReg (s : State) (off v : Nat) : State := s.setReg off (s.reg off ||| v)

/-- A register pair as 64 bits, the low half at `off` (R11). -/
def reg64 (s : State) (off : Nat) : Nat := s.reg off + 2 ^ 32 * s.reg (off + 4)

def setReg64 (s : State) (off v : Nat) : State := (s.setReg off (v % 2 ^ 32)).setReg (off + 4) (v / 2 ^ 32)

/-- A 64-bit counter pair counts n, saturating at 2^64 − 1 (R76, R122, R153). -/
def count (s : State) (off n : Nat) : State := if n = 0 then s else s.setReg64 off (min (s.reg64 off + n) (2 ^ 64 - 1))

/-- A 32-bit counter counts n, saturating. -/
def count32 (s : State) (off n : Nat) : State := s.setReg off (min (s.reg off + n) (2 ^ 32 - 1))

/-! ### Time -/

/-- Microseconds since cold start (HI_CLOCK, R408). -/
def now (s : State) : Nat := s.clk / 250

/-! ### Messages and reports -/

def send (s : State) (m : Out) : State := { s with out := s.out ++ [m] }

def raise (s : State) (r : Report) : State := { s with el := { s.el with raised := s.el.raised ++ [r] } }

/-- A report by class, block and cause (R461). -/
def report (s : State) (cls blk cause source data : Nat) : State :=
  s.raise ⟨cls * 4096 + blk * 64 + cause, source, false, data, none⟩

/-- A report of an error at an address, which R470 counts by; DATA is 0 (R462). -/
def reportAt (s : State) (cls blk cause source addr : Nat) : State :=
  s.raise ⟨cls * 4096 + blk * 64 + cause, source, false, 0, some addr⟩

def reports (s : State) : Nat → (State → State) → State
  | 0, _ => s
  | n + 1, f => reports (f s) n f

/-! ### Free values -/

/-- The next free value and the state after it is drawn. -/
def draw (s : State) : Nat × State := (Config.freeNat s.free, { s with free := s.free + 1 })

/-- A 64-byte line of the n bytes from an address: where an error stands that a command does not place. -/
def freeLine (s : State) (a n : Nat) : Nat × State := let (v, s) := s.draw; (a + v % max 1 (n / 64) * 64, s)

/-! ### Tags (R131–R134) -/

/-- Tags of a class's pool (R133). -/
def poolSize (s : State) (c : TagClass) : Nat :=
  match c with
  | .read => bitsOf (s.reg R.TG_SPLIT_READ) 17 0
  | .write => bitsOf (s.reg R.TG_SPLIT_WRITE) 17 0
  | .remote => bitsOf (s.reg R.TG_SPLIT_REMOTE) 17 0

/-- Reads of submission entries on their way: the chip manager's transfers, each of which holds a remote tag until its entry arrives (R131, R132). -/
def entryReads (s : State) : Nat := (s.hi.reqs.filter fun r => r.phase == .fetching).length

/-- Tags of a class that transfers hold. -/
def inUse (s : State) (c : TagClass) : Nat :=
  (s.tg.xfers.filter fun x => x.cls == c).length + (match c with | .remote => s.entryReads | _ => 0)

/-- Remote tags that host transfers hold (R134). -/
def hostHeld (s : State) : Nat := (s.tg.xfers.filter fun x => x.host).length + s.entryReads

def hwmReg (c : TagClass) : Nat := match c with | .read => R.TG_HWM_READ | .write => R.TG_HWM_WRITE | .remote => R.TG_HWM_REMOTE

/-- The high-water mark of a class reaches n (R152). -/
def markTags (s : State) (c : TagClass) (n : Nat) : State := if s.reg (hwmReg c) < n then s.setReg (hwmReg c) n else s

/-- A transfer that one command starts and ends: its tag is taken and returned within it, and only the high-water mark shows it.

DESIGN CHOICE: the table has no command that ends a page-table access or a posted write of a ring, so each ends within the command that starts it and waits for no tag. -/
def tagPulse (s : State) (c : TagClass) : State := s.markTags c (min (s.inUse c + 1) (max (s.inUse c) (s.poolSize c)))

/-- A write to host memory by the chip manager (R132): a host transfer, which holds a remote tag. -/
def hostTx (s : State) (a : Nat) (bs : List Byte) : State := (s.tagPulse .remote).send (.hostWrite a bs)

/-- A read of host memory that one command starts and ends. -/
def hostRx (s : State) (a n : Nat) : State := (s.tagPulse .remote).send (.hostRead a n)

/-- FACTOR of SL_SLOW_CTRL (R307, R308). -/
def slowFactor (s : State) : Nat := max 1 (bitsOf (s.reg R.SL_SLOW_CTRL) 3 0)

/-! ### On-chip memory -/

/-- Bytes of core stores, terraces and base-die SRAM; an unwritten byte reads as 0. -/
def readMem (s : State) (a n : Nat) : List Byte := Memory.readBytes 0 s.mem a n

/-- A write also renews the SECDED code of every 64-bit word it covers whole (R80). -/
def writeMem (s : State) (a : Nat) (bs : List Byte) : State :=
  { s with
    mem := Memory.write 0 s.mem a bs
    bad := s.bad.filter fun w => !(decide (a ≤ 8 * w) && decide (8 * w + 8 ≤ a + bs.length))
    soft := s.soft.filter fun w => !(decide (a ≤ 8 * w) && decide (8 * w + 8 ≤ a + bs.length)) }

/-- A double-bit error stands in the bytes [a, a + n) (R80). -/
def badIn (s : State) (a n : Nat) : Bool := s.bad.any fun w => decide (a < 8 * w + 8) && decide (8 * w < a + n)

/-- BAR2 offset of a 64-bit word with a double-bit error in the bytes [a, a + n). -/
def badWord (s : State) (a n : Nat) : Option Nat :=
  (s.bad.find? fun w => decide (a < 8 * w + 8) && decide (8 * w < a + n)).map (8 * ·)

/-- 64-bit words with a single-bit error in the bytes [a, a + n). -/
def softIn (s : State) (a n : Nat) : Nat := (s.soft.filter fun w => decide (a < 8 * w + 8) && decide (8 * w < a + n)).length

/-! ### Cores -/

def core (s : State) (c : Nat) : CoreState := Map.getD CoreState.fresh s.cores c

def setCore (s : State) (c : Nat) (x : CoreState) : State := { s with cores := Map.store CoreState.fresh s.cores c x }

def updCore (s : State) (c : Nat) (f : CoreState → CoreState) : State := s.setCore c (f (s.core c))

/-- Offset of a core's register window word (R121). -/
def coreReg (c off : Nat) : Nat := 0x410000 + c / 48 * 0x40000 + c % 48 * 0x800 + off

/-- Offset of a die-wide SQ register (R120). -/
def dieReg (d off : Nat) : Nat := 0x400000 + d * 0x40000 + off

/-- BAR2 offset of byte a of a core's store (R386). -/
def storeAt (c a : Nat) : Nat := c * 0x800000 + a

def readStore (s : State) (c a n : Nat) : List Byte := s.readMem (storeAt c a) n
def writeStore (s : State) (c a : Nat) (bs : List Byte) : State := s.writeMem (storeAt c a) bs

/-- A double-bit error of a core's store is met: SQ_CORE_ERR.STORE_UE and a breach (R80). Without a known word, its line is free. -/
def storeUe (s : State) (c blk : Nat) (word : Option Nat) : State :=
  let (a, s) := match word with | some a => (a, s) | none => s.freeLine (storeAt c 0) 0x600000
  (s.orReg (coreReg c 8) 4).reportAt 4 blk 0x11 c a

/-- A single-bit error of a core's store is corrected on a read: SQ_ECC_CORR counts it, and it is reported as seepage (R80). -/
def storeCe (s : State) (c : Nat) : State :=
  (((s.orReg (coreReg c 8) 2).count32 (coreReg c 0x320) 1)).report 1 (coreBlock c) 0x10 c 0

/-- Bytes [a, a + n) of a core's store are read: every single-bit error met is corrected (R80). The word keeps its error until it is written or scrubbed. -/
def seep (s : State) (c a n : Nat) : State := s.reports (s.softIn (storeAt c a) n) fun s => s.storeCe c

/-- Bytes [a, a + n) of a core's store are read, beside a step's operands: single-bit errors seep, and a double-bit error is a breach (R80). -/
def meetStore (s : State) (c a n : Nat) : State :=
  let t := s.seep c a n
  if s.badIn (storeAt c a) n then t.storeUe c (coreBlock c) (s.badWord (storeAt c a) n) else t

/-- Offset of a terrace byte and of a base-die SRAM byte (R386). -/
def terraceAt (d a : Nat) : Nat := 0x80000000 + d * 0x8000000 + a
def sramAt (q a : Nat) : Nat := 0xA0000000 + q * 0x2000000 + a

end State

namespace CoreState

def slot (c : CoreState) (i : Nat) : Slot := Map.getD Slot.idle c.slots i
def setSlot (c : CoreState) (i : Nat) (x : Slot) : CoreState := { c with slots := Map.store Slot.idle c.slots i x }
def flag (c : CoreState) (fw : Nat) : Nat := (Map.getD 0 c.flags fw).toNat
def setFlag (c : CoreState) (fw v : Nat) : CoreState := { c with flags := Map.store 0 c.flags fw (BitVec.ofNat 16 v) }

end CoreState

/-- The population count of a 16-bit mask. -/
def popcount16 (x : Nat) : Nat := ((List.range 16).filter fun i => bitOf x i).length

/-- The block-wide status of R59 set for a core: SQ_CORE_ARITH, SF_CORE_FLAG, SF_STICKY, and one INFO report for each bit that goes from 0 to 1 in SF_STICKY and that SF_STICKY_LOG selects; the counts of R75. -/
def State.arith (s : State) (c : Nat) (a : Arith) : State :=
  let s := if a.bits = 0 then s else
    let new := (List.range 7).filter fun n =>
      bitOf a.bits n && !bitOf (s.reg R.SF_STICKY) n && bitOf (s.reg R.SF_STICKY_LOG) n
    let s := (s.orReg (State.coreReg c 4) a.bits).orReg R.SF_STICKY a.bits
    let s := s.orReg (R.SF_CORE_FLAG + c / 32 * 4) (2 ^ (c % 32))
    new.foldl (fun s n => s.report 0 0x05 n 0 0) s
  ((s.count R.SF_NAN_OUT_LO a.nans).count R.SF_SAT_LO a.sats).count R.SF_INEXACT_LO a.inexact

/-- Status bits that stand in a core, in its flag and in SF_STICKY, without an entry. -/
def State.setArith (s : State) (c bits : Nat) : State :=
  ((s.orReg (State.coreReg c 4) bits).orReg R.SF_STICKY bits).orReg (R.SF_CORE_FLAG + c / 32 * 4) (2 ^ (c % 32))

/-- A clearing of status bits in the cycle in which core c raises `bits`: they are raised as R59 raises them, and setting wins (R15). -/
def State.raisedOver (s : State) (c bits : Nat) (clear : State → State) : State :=
  if bits % 128 = 0 then clear s else (clear (s.arith c ⟨bits % 128, 0, 0, 0⟩)).setArith c (bits % 128)

end Sys2Proof.Machine
end

