-- ==== Sys2Proof/Machine/Rings.lean ====
section
/-! DEFINITION. The rings in host memory: completion, token and event entries, and MSI-X (R399–R403). -/

namespace Sys2Proof.Machine

/-- Offset of a word in the window of queue q (R408). -/
def qReg (q off : Nat) : Nat := 0x10000 + 0x40 * q + off

namespace State

def pair (s : State) (q : Nat) : QPair := Map.getD QPair.off s.hi.pairs q
def setPair (s : State) (q : Nat) (x : QPair) : State := { s with hi := { s.hi with pairs := Map.store QPair.off s.hi.pairs q x } }

/-- Ring sizes of a queue: 2^LOG, 0 for none (R390). -/
def ringSize (log : Nat) : Nat := if log = 0 then 0 else 2 ^ log
def sqSize (s : State) (q : Nat) : Nat := ringSize (bitsOf (s.reg (qReg q 8)) 12 8)
def cqSize (s : State) (q : Nat) : Nat := ringSize (bitsOf (s.reg (qReg q 8)) 20 16)
def trSize (s : State) (q : Nat) : Nat := ringSize (bitsOf (s.reg (qReg q 8)) 28 24)

/-- An index register INDEX[15:0], PHASE[16] moved on by one: the phase flips on each wrap (R399). -/
def bump (v size : Nat) : Nat :=
  let i := v % 65536 + 1
  if size ≤ i then (1 - bitsOf v 16 16) * 65536 else bitsOf v 16 16 * 65536 + i

/-- MSI-X vector v (R402): sent, or pending while its entry is masked. -/
def msix (s : State) (v : Nat) : State :=
  if bitOf (s.reg (0x80000 + 16 * v + 12)) 0 then s.orReg (0x90000 + v / 32 * 4) (2 ^ (v % 32))
  else (s.send (.msix v)).count R.HI_IRQ_LO 1

/-- An entry of queue q counts towards its interrupt (R402). -/
def signalIrq (s : State) (q : Nat) (irqNow : Bool) : State :=
  let irq := s.reg (qReg q 0xC)
  let x := s.pair q
  let n := x.quiet + 1
  if irqNow || decide (max 1 (bitsOf irq 23 16) ≤ n) || bitsOf irq 31 24 == 0 then
    (s.setPair q { x with quiet := 0 }).msix (bitsOf irq 10 0)
  else s.setPair q { x with quiet := n, since := if x.quiet = 0 then s.now else x.since }

/-- An event entry (R403), or the count of a lost one. The ring holds one entry fewer than its size. -/
def postEvent (s : State) (ty data : Nat) : State :=
  if !s.hi.evOn then s
  else
    let cfg := s.reg R.HI_EV_CFG
    let size := 2 ^ bitsOf cfg 12 8
    let tail := s.reg R.HI_EV_TAIL
    if (tail % 65536 + 1) % size = s.reg R.HI_EV_HEAD % size then
      (s.count R.HI_EV_LOST_LO 1).orReg R.HI_ERR 0x40
    else
      let phase := bitsOf tail 16 16
      let e := leBytes 2 (ty + 256 * phase) ++ leBytes 2 0 ++ leBytes 4 (s.now % 2 ^ 32) ++ leBytes 8 data
      let s := s.hostTx (s.reg64 R.HI_EV_BASE_LO + 16 * (tail % 65536)) e
      (s.setReg R.HI_EV_TAIL (bump tail size)).msix (bitsOf cfg 26 16)

/-- Host rings may be written for this queue: it is neither OFF nor in ERROR (R384, R394). -/
def ringOk (s : State) (q : Nat) : Bool := let p := (s.pair q).phase; p == 1 || p == 2 || p == 3

/-- Requests of a queue that have been fetched and not completed. -/
def outstanding (s : State) (q : Nat) : Nat := (s.hi.reqs.filter fun r => r.q == q).length

end State

namespace Req

def opcode (r : Req) : Nat := bitsOf r.entry 7 0
def flags (r : Req) : Nat := bitsOf r.entry 15 8
def cid (r : Req) : Nat := bitsOf r.entry 31 16
def ctx (r : Req) : Nat := bitsOf r.entry 45 32
/-- Field of n bytes at byte i of the entry. -/
def field (r : Req) (i n : Nat) : Nat := bitsOf r.entry (8 * i + 8 * n - 1) (8 * i)

end Req

namespace State

/-- A request leaves, and its completion entry is written (R399, R401). -/
def complete (s : State) (r : Req) (status detail result : Nat) : State :=
  let s : State := { s with hi := { s.hi with reqs := s.hi.reqs.filter fun x => !(x.q == r.q && x.index == r.index && x.cid == r.cid) } }
  if !s.ringOk r.q then s
  else
    let tail := s.reg (qReg r.q 0x2C)
    let phase := bitsOf tail 16 16
    let e := leBytes 2 r.cid ++ leBytes 2 (s.reg (qReg r.q 0x28) % 65536) ++ leBytes 1 status ++ leBytes 1 phase
      ++ leBytes 2 detail ++ leBytes 8 result
    let s := s.hostTx (s.reg64 (qReg r.q 0x18) + 16 * (tail % 65536)) e
    let s := s.setReg (qReg r.q 0x2C) (bump tail (s.cqSize r.q))
    let s := (s.count R.HI_COMPLETE_LO 1).count R.HI_ERRCOMP_LO (b2n (status != 0))
    let s := s.count32 (R.HI_STATUS_CNT + 4 * status) 1
    s.signalIrq r.q (bitOf r.flags 1)

/-- A request replaced by another state of it. -/
def updReq (s : State) (r : Req) (f : Req → Req) : State :=
  { s with hi := { s.hi with reqs := s.hi.reqs.map fun x => if x.q = r.q ∧ x.index = r.index then f x else x } }

/-- The order of R405 among events of one cycle. -/
def rankErr (status : Nat) : Nat :=
  ([0x11, 0x15, 0x10, 0x14, 0x13, 0x12, 0x18, 0x16, 0x19, 0x1A].idxOf? status).getD 99

/-- An admitted request gets the error of the event that ended it: the first one, and of several at one time the earliest in the list of R405.

DESIGN CHOICE: R405 compares events of one SCLK cycle, of which a PCLK cycle holds four; the model's time is in PCLK cycles, and events of one PCLK cycle count as of one SCLK cycle. -/
def failReq (s : State) (r : Req) (status detail result : Nat) : State :=
  s.updReq r fun x =>
    let x' := { x with err := some (status, detail, result), errAt := s.clk }
    match x.err with
    | some (e, _, _) => if x.errAt = s.clk ∧ rankErr status < rankErr e then x' else x
    | none => x'

end State

end Sys2Proof.Machine
end

