-- ==== Sys2Proof/Machine/Tiers.lean ====
section
/-! DEFINITION. Homes, frames, charges and moves (R259–R284). -/

namespace Sys2Proof.Machine

/-- Units of the device address range: granules of 64 KiB. -/
def granOf (a : Nat) : Nat := a / 65536

namespace State

/-! ### Regions and map entries (R261–R263) -/

/-- The region that holds a granule, with the number of its first entry. -/
def findRegion (g : Nat) : Nat → List Region → Option (Region × Nat)
  | _, [] => none
  | e, r :: t => if r.base ≤ g ∧ g < r.base + r.count then some (r, e + (g - r.base)) else findRegion g (e + r.count) t

def region (s : State) (g : Nat) : Option Region := (findRegion g 0 s.ti.regions).map (·.1)
def entryNo (s : State) (g : Nat) : Option Nat := (findRegion g 0 s.ti.regions).map (·.2)

/-- The granule of an entry number. -/
def findGran (e : Nat) : List Region → Option Nat
  | [] => none
  | r :: t => if e < r.count then some (r.base + e) else findGran (e - r.count) t

def entry (s : State) (g : Nat) : MapEntry :=
  match s.entryNo g with
  | some e => Map.getD MapEntry.undefined s.ti.map e
  | none => MapEntry.undefined

def setEntry (s : State) (g : Nat) (x : MapEntry) : State :=
  match s.entryNo g with
  | some e => { s with ti := { s.ti with map := Map.store MapEntry.undefined s.ti.map e x } }
  | none => s

def updEntry (s : State) (g : Nat) (f : MapEntry → MapEntry) : State := s.setEntry g (f (s.entry g))

/-- Total granules G, and the map and frame-table frames per stack (R263, R265). -/
def mapGranules (s : State) : Nat := (s.ti.regions.map (·.count)).sum
def mapF (s : State) : Nat := ceilDiv (2 * s.mapGranules) 65536
def spF (s : State) : Nat := ceilDiv (s.reg R.TI_SPILL_GRANULES) 65536

def isWeight (s : State) (g : Nat) : Bool := match s.region g with | some r => r.kind == 1 | none => false
def isIndex (s : State) (g : Nat) : Bool := match s.region g with | some r => r.kind == 3 | none => false
def isKv (s : State) (g : Nat) : Bool := match s.region g with | some r => r.kind == 2 | none => false

/-- The unit that moves with a granule: itself, or the four granules of its KV page (R187). -/
def unitStart (s : State) (g : Nat) : Nat := if s.isKv g then g / 4 * 4 else g
def unitSize (s : State) (g : Nat) : Nat := if s.isKv g then 4 else 1
def unitGrans (s : State) (g : Nat) : List Nat := (List.range (s.unitSize g)).map (s.unitStart g + ·)

def upd (s : State) (f : TiState → TiState) : State := { s with ti := f s.ti }

def Move.covers (m : Move) (g : Nat) : Bool := Nat.ble m.gran g && Nat.blt g (m.gran + m.size)

/-- The move in progress of a granule, from RESERVED onward. -/
def moveOf (s : State) (g : Nat) : Option Move := s.ti.moves.find? fun m => Move.covers m g && m.phase != .decided
/-- A move of the granule is decided or in progress. -/
def planned (s : State) (g : Nat) : Bool := s.ti.moves.any fun m => Move.covers m g
/-- A decision of one of some kinds stands for the granule. -/
def decided (s : State) (g : Nat) (ks : List MoveKind) : Bool := s.ti.moves.any fun m => Move.covers m g && ks.contains m.kind
/-- MOVING (R263, R271): set from COPYING onward. -/
def moving (s : State) (g : Nat) : Bool := match s.moveOf g with | some m => m.phase != .reserved | none => false
/-- PIN (R148). -/
def pinned (s : State) (g : Nat) : Bool := s.tg.pins.any fun p => p.gran == g

/-- The 128 bits of a map entry (R263). -/
def entryWord (s : State) (g : Nat) : Nat :=
  let x := s.entry g
  b2n x.spill + 2 * b2n (s.moving g) + 4 * b2n x.poison + 8 * b2n (s.pinned g) + 16 * b2n x.undef + 32 * b2n x.grace
    + x.heat * 2 ^ 8 + x.polder * 2 ^ 16 + x.stack * 2 ^ 24 + x.frame * 2 ^ 32 + x.crc * 2 ^ 64

/-! ### Stack bytes (R260) -/

/-- Key of byte a of a stack frame. -/
def frameKey (stack frame : Nat) : Nat := stack * 2 ^ 36 + frame * 65536

def readFrame (s : State) (stack frame off n : Nat) : List Byte := Memory.readBytes 0 s.stk (frameKey stack frame + off) n
def writeFrame (s : State) (stack frame off : Nat) (bs : List Byte) : State :=
  { s with stk := Memory.write 0 s.stk (frameKey stack frame + off) bs }

/-- A device extent cut at granules: granule, offset, length. -/
def pieces : Nat → Nat → Nat → List (Nat × Nat × Nat)
  | 0, _, _ => []
  | _ + 1, _, 0 => []
  | k + 1, a, n => let m := min n (65536 - a % 65536); (granOf a, a % 65536, m) :: pieces k (a + m) (n - m)

def extent (a n : Nat) : List (Nat × Nat × Nat) := pieces (n / 65536 + 2) a n

/-- Byte k of the given bytes with a write of `bs` at `a` over them, where they start at `base`. -/
def overlay (base : Nat) (l : List Byte) (a : Nat) (bs : List Byte) : List Byte :=
  l.zipIdx.map fun x => if a ≤ base + x.2 ∧ base + x.2 < a + bs.length then bs.getD (base + x.2 - a) 0 else x.1

/-- Bytes of a stack frame as a reader finds them, who waits for a ZERO of the frame and for the writes behind it (R266). -/
def readHome (s : State) (st f off n : Nat) : List Byte :=
  if s.ti.zeroing.contains (st * 2 ^ 20 + f) then
    let base := frameKey st f + off
    (s.ti.after.filter fun w => decide (w.1 < base + n) && decide (base < w.1 + w.2.length)).foldl
      (fun l w => overlay base l w.1 w.2) (List.replicate n 0)
  else s.readFrame st f off n

/-- A write to a stack frame: behind the ZERO of the frame where one has not completed (R266). -/
def writeHome (s : State) (st f off : Nat) (bs : List Byte) : State :=
  if s.ti.zeroing.contains (st * 2 ^ 20 + f) then { s with ti := { s.ti with after := s.ti.after ++ [(frameKey st f + off, bs)] } }
  else s.writeFrame st f off bs

/-- A frame's ZERO has completed: the writes that waited for it reach the frame (R266). -/
def zeroDone (s : State) (key : Nat) : State :=
  let mine := fun (w : Nat × List Byte) => w.1 / 65536 == key
  { s with
    stk := (s.ti.after.filter mine).foldl (fun k w => Memory.write 0 k w.1 w.2) s.stk
    ti := { s.ti with zeroing := s.ti.zeroing.filter (· != key), after := s.ti.after.filter fun w => !mine w } }

/-- Bytes of device addresses whose homes are stacks; a byte without a stack home reads as 0. -/
def devRead (s : State) (a n : Nat) : List Byte :=
  ((extent a n).map fun (g, o, m) =>
    let x := s.entry g
    if x.spill then List.replicate m 0 else s.readHome x.stack x.frame o m).flatten

def devWriteList (s : State) : List (Nat × Nat × Nat) → List Byte → State
  | [], _ => s
  | (g, o, m) :: t, bs =>
    let x := s.entry g
    devWriteList (if x.spill then s else s.writeHome x.stack x.frame o (bs.take m)) t (bs.drop m)

def devWrite (s : State) (a : Nat) (bs : List Byte) : State := devWriteList s (extent a bs.length) bs

/-- An access of [a, a + n) heats its granules: one for each last 64-byte unit of a 1 KiB block (R267). -/
def heat (s : State) (a n : Nat) : State :=
  (extent a n).foldl (fun s (g, o, m) =>
    let k := (o + m + 63) / 1024 - (o + 63) / 1024
    if k = 0 ∨ s.entryNo g = none then s else s.updEntry g fun x => { x with heat := min 255 (x.heat + k) }) s

/-! ### Frames (R260, R263, R266) -/

/-- Pseudo-channels of a stack that were usable when the map was built. -/
def goodPcs (s : State) (st : Nat) : List Nat := (List.range 64).filter fun p => !bitOf (s.ti.mask0.getD st 0) p

/-- MF_s[i]: the frame that holds logical map frame i of stack st. -/
def mapFrame (s : State) (st i : Nat) : Nat :=
  match s.ti.moved.get? (st * 2 ^ 20 + i) with
  | some f => f
  | none => let g := s.goodPcs st; i / max 1 g.length * 64 + g.getD (i % max 1 g.length) 0

/-- Logical map frames of a stack that stand at rank order and have not been relocated. -/
def isMapFrame (s : State) (st f : Nat) : Bool :=
  let g := s.goodPcs st
  let atRank := match g.idxOf? (f % 64) with
    | some k => let i := f / 64 * g.length + k; decide (i < s.mapF + s.spF) && (s.ti.moved.get? (st * 2 ^ 20 + i)).isNone
    | none => false
  atRank || s.ti.moved.any fun x => x.1 / 2 ^ 20 == st && x.2 == f

def pcGone (s : State) (st f : Nat) : Bool := s.ti.retired.contains (64 * st + f % 64) || s.ti.evac.contains (64 * st + f % 64)

/-- Frames of a stack that map entries and moves hold. -/
def heldFrames (s : State) (st : Nat) : List Nat :=
  (s.ti.map.filterMap fun e => if !e.2.spill && e.2.stack == st then some e.2.frame else none)
    ++ ((s.ti.moves.filter fun m => m.up && m.dst == st).map fun m => m.frames.map (·.2)).flatten

/-- A free stack frame that may take a new home. -/
def frameFree (s : State) (st f : Nat) : Bool :=
  decide (f < 2 ^ 20) && !s.pcGone st f && !s.isMapFrame st f && !(s.heldFrames st).contains f

/-- Free frames of a stack. -/
def freeFrames (s : State) (st : Nat) : Nat :=
  let gone := (List.range 64).filter fun p => s.pcGone st p
  let usable := 16384 * (64 - gone.length)
  let held := ((s.heldFrames st).filter fun f => !s.pcGone st f).length
  let tbl := ((List.range (s.mapF + s.spF)).filter fun i => !s.pcGone st (s.mapFrame st i)).length
  usable - tbl - held

/-- Free frames of a stack, less those that moves still have to take. -/
def stackFree (s : State) (st : Nat) : Nat :=
  s.freeFrames st - ((s.ti.moves.filter fun m => m.up && m.dst == st).map fun m => m.size - m.frames.length).sum

def freeTotal (s : State) : Nat := ((List.range 8).map s.stackFree).sum

/-- Usable frames U (R264). -/
def usableFrames (s : State) : Nat :=
  ((List.range 8).map fun st =>
    16384 * (64 - ((List.range 64).filter fun p => s.ti.retired.contains (64 * st + p)).length) - (s.mapF + s.spF)).sum

/-- Free frames of a stack with a polder's data in them, and free frames whose ZERO is queued (R266). -/
def dirtyFree (s : State) (st : Nat) : Map Nat := s.ti.dirty.filter fun x => x.1 / 2 ^ 20 == st && s.frameFree st (x.1 % 2 ^ 20)
def zeroingFree (s : State) (st : Nat) : List Nat := s.ti.zeroing.filter fun k => k / 2 ^ 20 == st && s.frameFree st (k % 2 ^ 20)

/-- Zeroed free frames that a stack holds ready. -/
def zeroedFree (s : State) (st : Nat) : Nat := min 1024 (s.freeFrames st - (s.dirtyFree st).length - (s.zeroingFree st).length)

/-- A stack has a free frame that a move for polder p may take now (R266). -/
def frameReady (s : State) (st p : Nat) : Bool := s.zeroedFree st != 0 || (s.dirtyFree st).any fun x => x.2 == p

/-- Spillway frames in use (R265). -/
def heldSpill (s : State) : List Nat :=
  (s.ti.map.filterMap fun e => if e.2.spill && !e.2.undef then some e.2.frame else none)
    ++ ((s.ti.moves.filter fun m => !m.up).map fun m => m.frames.map (·.2)).flatten

/-- Free spillway frames, and those that moves have not been promised. -/
def openSpill (s : State) : Nat := s.ti.spill.length - s.heldSpill.length
def spillFree (s : State) : Nat := s.openSpill - ((s.ti.moves.filter fun m => !m.up).map fun m => m.size - m.frames.length).sum

/-! ### Charges (R271, R275) -/

def quotaStack (s : State) (p : Nat) : Nat := s.reg (R.TI_PQ_STACK + 16 * p)
def quotaSpill (s : State) (p : Nat) : Nat := s.reg (R.TI_PQ_SPILL + 16 * p)

/-- The polder that a granule is charged to, or will be: an UNDEF granule is charged to nobody until it has a home (R275). -/
def granPolder (s : State) (g : Nat) : Nat :=
  let x := s.entry g
  if x.undef then (match s.region g with | some r => r.polder | none => 0) else x.polder

/-- Granules of units that moves bring to polder p in a tier, each unit once. -/
def incoming (s : State) (spill : Bool) (p : Nat) (which : Move → Bool) : Nat :=
  ((((s.ti.moves.filter fun m => which m && m.up != spill && (s.entry m.gran).spill != spill && s.granPolder m.gran == p).map (·.gran)).eraseDups).map s.unitSize).sum

/-- Granules charged to polder p in a tier. A move to a stack charges it from RESERVED onward (R271). -/
def charged (s : State) (spill : Bool) (p : Nat) : Nat :=
  (s.ti.map.filter fun e => e.2.spill == spill && !e.2.undef && e.2.polder == p).length
    + (if spill then 0 else s.incoming false p fun m => m.phase != .decided)

/-- What a decision counts as polder p's share of a tier: what is charged, and what moves decided or in progress will add to it. -/
def claimed (s : State) (spill : Bool) (p : Nat) : Nat :=
  (s.ti.map.filter fun e => e.2.spill == spill && !e.2.undef && e.2.polder == p).length + s.incoming spill p fun _ => true

/-- Freeboard of a polder in pages, and what is unused (R222). -/
def fbSize (s : State) (p : Nat) : Nat := s.reg R.KV_FREEBOARD * s.quotaStack p / 4000
def fbFree (s : State) (p : Nat) : Nat := s.fbSize p - Map.getD 0 s.kv.fbUsed p
def fbReserved (s : State) : Nat := 4 * ((List.range 64).map s.fbFree).sum

/-- Stack frames free beyond every polder's unused freeboard. -/
def freeBeyond (s : State) : Nat := s.freeTotal - s.fbReserved

/-- The stack with the most free frames, ties to the lowest number. -/
def roomiest (s : State) : Nat :=
  (List.range 8).foldl (fun b st => if s.stackFree b < s.stackFree st then st else b) 0

/-! ### Units and candidates (R267, R268) -/

def unitHeat (s : State) (g : Nat) : Nat := ((s.unitGrans g).map fun h => (s.entry h).heat).foldl max 0

/-- A granule lies inside the window of a pump program (R270). -/
def inPumpWindow (s : State) (g : Nat) : Bool :=
  (List.range s.tg.pumps.length).any fun i =>
    match s.tg.pumps[i]? with
    | some p =>
      let k := Map.getD 0 s.tg.pumpK i
      let ahead := bitsOf (s.reg R.TI_HEAT_CTRL) 19 16
      p.entries.any fun e =>
        let w := e.toNat
        let lay := bitsOf w 159 144
        (List.range (p.depth + ahead + 1)).any (fun j => (k + j) % max 1 p.layers == lay)
          && decide (granOf (bitsOf w 51 0) ≤ g) && decide (g * 65536 < bitsOf w 51 0 + (bitsOf w 122 103 + 1) * 64)
    | none => false

/-- The extents of memory that a quarry descriptor names (R232, R233): none for the ZERO of a frame, and for SKETCH_UPD, COPY and MOVE the destination too. -/
def quExtents (s : State) (d : QuDesc) : List (Nat × Nat) :=
  let w := d.word.toNat
  let op := bitsOf w 79 72
  let len := (bitsOf w 63 52 + 1) * 64
  let src := (bitsOf w 51 0, len)
  let dst := bitsOf w 221 176 * 64
  if op = 0x41 ∧ d.frame.isSome then []
  else if op = 0x11 then [src, (dst, 64 * max 1 (match s.models.get? (bitsOf w 167 160) with | some m => m.hkv | none => 1))]
  else if (op = 0x40 ∨ op = 0x42) ∧ d.frame.isNone then [src, (dst, len)]
  else [src]

/-- A queued or waiting quarry descriptor, or the records that its result still has to write, name a granule (R237). -/
def quNames (s : State) (g : Nat) : Bool :=
  let hits := fun (e : Nat × Nat) => decide (granOf e.1 ≤ g) && decide (g * 65536 < e.1 + e.2)
  s.qus.any fun q => ((q.2.queue ++ q.2.wait).any fun d => (s.quExtents d).any hits)
    || q.2.results.any fun r => match r.1 with | .sketched _ _ _ ws _ => ws.any fun w => hits (w.1, w.2.length) | _ => false

/-- R268: a unit whose home is a stack and that may be demoted. -/
def demotable (s : State) (g : Nat) : Bool :=
  (s.unitGrans g).all fun h =>
    let x := s.entry h
    !x.spill && !s.moving h && !s.pinned h && !x.grace && !s.quNames h
      && (match s.region h with
          | some r => r.place != 1 && !(r.place == 2 && s.inPumpWindow h)
          | none => false)

/-- Units with a listed map entry, each once, in ascending granule number. -/
def units (s : State) : List Nat :=
  (s.ti.map.filterMap fun e => findGran e.1 s.ti.regions).filter fun g => s.unitStart g == g

/-- The coldest of some units, ties to the lowest granule number. -/
def coldest (s : State) (l : List Nat) : Option Nat :=
  l.foldl (fun b g => match b with
    | none => some g
    | some c => if s.unitHeat g < s.unitHeat c ∨ (s.unitHeat g = s.unitHeat c ∧ g < c) then some g else b) none

/-- The die that decides for a granule (R29). -/
def deciderOf (s : State) (g : Nat) : Nat := let x := s.entry g; if x.spill then x.polder % 4 else x.stack / 2

/-! ### Decisions -/

def newMove (s : State) (g : Nat) (kind : MoveKind) (up : Bool) (dst : Nat) : Move :=
  ⟨s.unitStart g, s.unitSize g, kind, up, dst, .decided, [], [], [], [], [], false, false, none⟩

def plan (s : State) (m : Move) : State := s.upd fun t => { t with moves := t.moves ++ [m] }

/-- A demotion of this unit leaves its polder within its spillway quota (R268, R276). -/
def inQuota (s : State) (g : Nat) : Bool :=
  let p := (s.entry g).polder
  Nat.ble (s.claimed true p + s.unitSize g) (s.quotaSpill p)

/-- May a pass start a demotion of this unit: the spillway is registered, a frame is free, and the quota holds (R265, R268). -/
def mayDemote (s : State) (g : Nat) : Bool := s.ti.ready && Nat.ble (s.unitSize g) s.spillFree && s.inQuota g

def demote (s : State) (g : Nat) (kind : MoveKind) : State := s.plan (s.newMove g kind false 0)

/-- The coldest units of a list, until they free `short` frames. -/
def coldestOf (s : State) : Nat → Nat → List Nat → Option (List Nat)
  | _, 0, _ => some []
  | 0, _ + 1, _ => none
  | n + 1, short, l =>
    match s.coldest l with
    | none => none
    | some v => (coldestOf s n (short - s.unitSize v) (l.filter (· != v))).map (v :: ·)

/-- A demand promotion (R269). Where the polder is at its quota or no frame is free, the coldest units are demoted first; where they do not suffice, the granule waits for the next pass.

DEDUCED: units are demoted until the promoted unit has its frames, one KV page taking four; a demotion that would take its polder above its spillway quota is no candidate (R276), and none starts before the spillway is registered (R265). It waits for a spillway frame where none is free. -/
def demandAny (s : State) (g : Nat) : State :=
  let x := s.entry g
  let u := s.unitStart g
  let under := s.ti.moves.any fun m => Move.covers m g && (m.phase != .decided || m.kind == .demand)
  if !x.spill || under || (s.entryNo g).isNone then s
  else
    let p := s.granPolder g
    let size := s.unitSize g
    let cand := if s.ti.ready then s.units.filter fun v => s.demotable v && s.inQuota v && !s.decided v [.demote] else []
    let excess := s.claimed false p + size - s.quotaStack p
    let victims : Option (List Nat) :=
      if excess ≠ 0 then s.coldestOf 4 (min size excess) (cand.filter fun v => (s.entry v).polder == p)
      else s.coldestOf 4 (size - s.freeBeyond) cand
    match victims with
    | none => s.upd fun t => { t with wanted := if t.wanted.contains u then t.wanted else t.wanted ++ [u] }
    | some l =>
      let s := l.foldl (fun s v => s.demote v .demote) (s.upd fun t => { t with wanted := t.wanted.filter (· != u) })
      s.plan (s.newMove g .demand true s.roomiest)

/-- A demand promotion for a read: none of a poisoned granule (R280). -/
def demand (s : State) (g : Nat) : State := if (s.entry g).poison then s else s.demandAny g

/-! ### The placement pass (R268) -/

/-- Demotions for space: budget and free frames left. -/
def passDown (d : Nat) : Nat → Nat → State → Nat × Nat × State
  | 0, free, s => (0, free, s)
  | b + 1, free, s =>
    if s.reg R.TI_LOW_WATER ≤ free then (b + 1, free, s)
    else
      let lim := bitsOf (s.reg R.TI_HEAT_CTRL) 15 8
      let c := s.units.filter fun g => s.demotable g && !s.decided g [.heat, .exchange] && s.deciderOf g == d && Nat.ble (s.unitHeat g) lim && s.mayDemote g
      match s.coldest c with
      | none => (b + 1, free, s)
      | some v => passDown d b (free + s.unitSize v) (s.demote v .heat)

/-- Promotions by heat over the listed candidates. -/
def passUp (d : Nat) : List Nat → Nat → Nat → State → State
  | [], _, _, s => s
  | u :: t, b, free, s =>
    if b = 0 then s
    else
      let x := s.entry u
      let p := x.polder
      let size := s.unitSize u
      let up := fun (s : State) (b : Nat) (v : Option Nat) =>
        if free < size then passUp d t b free s
        else if b = 0 then s
        else passUp d t (b - 1) (free - size) (s.plan { s.newMove u .heat true s.roomiest with pair := v })
      if s.quotaStack p < s.claimed false p + size then
        match s.coldest (s.units.filter fun g => s.demotable g && !s.decided g [.heat, .exchange] && s.deciderOf g == d && (s.entry g).polder == p) with
        | none => passUp d t b free s
        | some v =>
          if s.unitHeat u ≤ s.unitHeat v ∨ !s.mayDemote v then passUp d t b free s
          else up (s.demote v .exchange) (b - 1) (some v)
      else up s b none

/-- Spillway units that a die may promote, hottest first. -/
def upList (s : State) (d : Nat) : List Nat :=
  let c := s.units.filter fun g =>
    let x := s.entry g
    x.spill && !x.undef && (s.unitGrans g).all (fun h => !(s.entry h).poison) && !s.moving g && !s.decided g [.heat, .exchange]
      && s.deciderOf g == d && Nat.ble (bitsOf (s.reg R.TI_HEAT_CTRL) 7 0) (s.unitHeat g)
  c.mergeSort fun a b => decide (s.unitHeat b < s.unitHeat a) || (s.unitHeat a == s.unitHeat b && Nat.ble a b)

def pass (s : State) (d : Nat) : State :=
  let budget := s.reg R.TI_MOVE_CTRL
  let ups := s.upList d
  let (b, free, s) := passDown d budget s.freeBeyond s
  passUp d ups b free s

/-! ### Errors (R279–R282) -/

/-- The granule's first uncorrectable error (R280, R281): POISON, and for a weight granule one notice to the host. -/
def notify (s : State) (g : Nat) : State :=
  if (s.ti.supply.get? g).isSome || s.ti.expired.contains g then s
  else
    let p := (s.entry g).polder
    let s := (s.count R.TI_RESUPPLY_REQ_LO 1).postEvent 1 (g % 2 ^ 36 + p * 2 ^ 40)
    s.upd fun t => { t with supply := t.supply.put g (s.now + 1000 * s.reg R.TI_RESUPPLY_TIMEOUT) }

def poison (s : State) (g : Nat) : State :=
  let x := s.entry g
  if x.poison || (s.entryNo g).isNone then s
  else
    let s := s.setEntry g { x with poison := true }
    let s := (s.count R.TI_POISON_LO 1).report 4 0x08 0x03 x.polder 0
    if s.isWeight g then s.notify g else s

/-- An uncorrectable stack error in the n bytes from device address a: TI_ERR.STACK_UE and a breach of the stack (R259, R461). -/
def stackUe (s : State) (a n : Nat) : State :=
  let x := s.entry (granOf a)
  let (l, s) := s.freeLine a n
  ((s.orReg R.TI_ERR 0x20).reportAt 4 (0x18 + x.stack) 0x02 (x.frame % 64) l).poison (granOf a)

/-- A corrected stack error: seepage (R259). -/
def stackCorr (s : State) (st pc : Nat) : State := (s.count R.TI_STACK_CORR_LO 1).report 1 (0x18 + st) 0x01 pc 0

/-! ### Homes given and taken by a map update alone (R264, R266) -/

/-- The first number below `size` from `cur` on, wrapping, that has a property, within the given number of tries. -/
def searchFrom (p : Nat → Bool) (size : Nat) : Nat → Nat → Option Nat
  | 0, _ => none
  | n + 1, cur => if p cur then some cur else searchFrom p size n (if cur + 1 < size then cur + 1 else 0)

/-- The first free frame of stack st from frame `start` on, with no ZERO pending. -/
def pickFrame (s : State) (st start : Nat) : Option Nat :=
  let held := s.heldFrames st
  searchFrom (fun f => !s.pcGone st f && !s.isMapFrame st f && !held.contains f && !s.ti.zeroing.contains (st * 2 ^ 20 + f)) (2 ^ 20) (2 ^ 20) start

/-- A descriptor ends its list (R232). -/
def QuDescEnds (d : QuDesc) : Bool := bitOf d.word.toNat 64

/-- The descriptors queued and waiting, with all past the 8,192 places waiting at their emitters (R228, R234). -/
def quFill (q : QuState) (l : List QuDesc) : QuState := { q with queue := l.take 8192, wait := l.drop 8192 }

/-- The first n descriptors leave the queue, and waiting ones enter it. -/
def quDrop (q : QuState) (n : Nat) : QuState := { quFill q ((q.queue ++ q.wait).drop n) with head := (q.head + n) % 8192 }

/-- A descriptor joins the queue of the unit of stack st, or waits for room (R234); the rest of a bad list is discarded (R235). -/
def quPush (s : State) (st : Nat) (d : QuDesc) : State :=
  let q := Map.getD QuState.fresh s.qus st
  { s with qus := s.qus.put st (if q.skip then { q with skip := !QuDescEnds d } else quFill q (q.queue ++ q.wait ++ [d])) }

/-- The quarry ZERO of a free frame (R232, R266), which no address names. -/
def zeroDesc (f : Nat) : QuDesc := ⟨BitVec.ofNat 256 (1023 * 2 ^ 52 + 2 ^ 64 + 0x41 * 2 ^ 72), .tier, some f, 0, 0, false⟩

/-- A frame is taken by polder p (R266): where it last held another polder's data, its ZERO is queued at once. -/
def claimFrame (s : State) (st f p : Nat) : State :=
  match s.ti.dirty.get? (st * 2 ^ 20 + f) with
  | none => s
  | some q =>
    if q = p then s.upd fun t => { t with dirty := t.dirty.del (st * 2 ^ 20 + f) }
    else
      let s := s.upd fun t => { t with zeroing := t.zeroing ++ [st * 2 ^ 20 + f], dirty := t.dirty.del (st * 2 ^ 20 + f) }
      s.quPush st (zeroDesc f)

/-- A stack home by a map update alone: frame f of stack st, charged to p. A granule of an INDEX region reads as zero where nothing was written (R323). -/
def giveHome (s : State) (g st f p : Nat) : State :=
  let s := (s.claimFrame st f p).updEntry g fun x => { x with spill := false, undef := false, poison := false, stack := st, frame := f, polder := p, crc := 0 }
  if s.isIndex g then s.devWrite (g * 65536) (List.replicate 65536 0) else s

/-- A stack frame is freed: it last held data of p (R266). -/
def freeFrame (s : State) (st f p : Nat) : State :=
  s.upd fun t => { t with
    dirty := t.dirty.put (st * 2 ^ 20 + f) p
    zeroing := t.zeroing.filter (· != st * 2 ^ 20 + f)
    after := t.after.filter fun w => w.1 / 65536 != st * 2 ^ 20 + f }

/-- A granule becomes UNDEF (R264); decisions for it that have not begun fall away. -/
def dropHome (s : State) (g : Nat) : State :=
  let x := s.entry g
  let s := if x.spill then s else s.freeFrame x.stack x.frame x.polder
  let s := s.upd fun t => { t with moves := t.moves.filter fun m => !(Move.covers m g && m.phase == .decided) }
  s.updEntry g fun x => { x with spill := true, undef := true, frame := 0, stack := 0, polder := 0, crc := 0 }

/-- Undefined granules of an extent get stack homes, in stacks and frames that the manual leaves open: free values choose the stack and where the search for a free frame starts. All granules of a unit share one stack. -/
def giveHomes (s : State) (grans : List Nat) (p : Nat) : State :=
  let (r, s) := s.draw
  let open_ := (List.range 8).filter fun st => Nat.ble grans.length (s.stackFree st)
  let st := open_.getD (r % max 1 open_.length) s.roomiest
  grans.foldl (fun s g =>
    let (r, s) := s.draw
    match s.pickFrame st (r % 2 ^ 20) with
    | some f => s.giveHome g st f p
    | none => s) s

/-- A stack frame's ZERO is still queued (R266): no access reaches the granule before it completes. -/
def awaitsZero (s : State) (g : Nat) : Bool := let x := s.entry g; !x.spill && s.ti.zeroing.contains (x.stack * 2 ^ 20 + x.frame)

/-! ### Bitmap copies of the search indexes (R322, R323) -/

/-- Word k of SK_IDX x (R347), FILTERS and CAP. -/
def skWord (s : State) (x k : Nat) : Nat := s.reg (R.SK_IDX + 64 * x + 4 * k)
def skFilters (s : State) (x : Nat) : Nat := bitsOf (s.skWord x 1) 20 16
def skCap (s : State) (x : Nat) : Nat := bitsOf (s.skWord x 3) 14 0 * 65536
/-- Bytes from one copy of a bitmap to the next. -/
def skStride (s : State) (x : Nat) : Nat := roundUp (s.skCap x / 8) 65536

/-- The stack in which the bitmap copies of the indexes place a granule (R323). -/
def bitmapStack (s : State) (g : Nat) : Option Nat :=
  s.sk.idx.findSome? fun e =>
    let st := s.skStride e.1
    let at_ := fun (base n : Nat) =>
      if base ≤ 65536 * g ∧ 65536 * g < base + n * st then some ((65536 * g - base) / max 1 st % 8) else none
    (at_ e.2.tomb 8).orElse fun _ => at_ e.2.allow (8 * s.skFilters e.1)

/-! ### Ciphertext of the spillway (R277, R278) -/

def spillKey (s : State) (p : Nat) : List Byte := Map.getD (List.replicate 64 0) s.keys p
def encrypt (s : State) (g : Nat) (l : List Byte) : List Byte := xtsGranule false (s.spillKey (s.entry g).polder) g l
def decrypt (s : State) (g : Nat) (l : List Byte) : List Byte := xtsGranule true (s.spillKey (s.entry g).polder) g l

end State

end Sys2Proof.Machine
end

