-- ==== Sys2Proof/Machine/Link.lean ====
section
/-! DEFINITION. Messages between chips and how they leave a port: routes (R364), flits and frames (R352–R359), tunnels and Ethernet frames (R365–R367). -/

namespace Sys2Proof.Machine

/-- Offset of a register of port n (R380). -/
def cuReg (n off : Nat) : Nat := 0xC00000 + n * 0x10000 + off

/-- Frames of a lane's buffer for one class (R355). -/
def laneCap (lane : Nat) : Nat := [64, 384, 384, 192].getD lane 0

/-- The dimension (0 X, 1 Y, 2 Z) and sign of a torus role. -/
def roleOf (dim : Nat) (plus : Bool) : Nat := 1 + 2 * dim + (if plus then 0 else 1)

namespace State

def port (s : State) (n : Nat) : Port := Map.getD Port.off s.cu.ports n
def setPort (s : State) (n : Nat) (p : Port) : State := { s with cu := { s.cu with ports := Map.store Port.off s.cu.ports n p } }
def updPort (s : State) (n : Nat) (f : Port → Port) : State := s.setPort n (f (s.port n))
def portRole (s : State) (n : Nat) : Nat := bitsOf (s.reg (cuReg n 0x10)) 3 0
def portGidx (s : State) (n : Nat) : Nat := bitsOf (s.reg (cuReg n 0x10)) 11 8

/-! ### The rank table (R368) -/

def rankLoaded (s : State) : Bool := bitOf (s.reg R.CU_RT_STATUS) 0
def topo (s : State) : Nat := bitsOf (s.reg R.CU_RT_STATUS) 2 1
def ownRank (s : State) : Nat := bitsOf (s.reg R.CU_RT_STATUS) 31 16
def nrank (s : State) : Nat := bitsOf (s.reg R.CU_RT_JOB) 31 16 + 1
def tgen (s : State) : Nat := s.reg R.CU_RT_TGEN

/-- The rank entry of r in the rank-table area, after the table's 64-byte header. -/
def rankEntry (s : State) (r : Nat) : List Byte := s.devRead (s.reg64 R.CU_RT_BASE_LO + 64 + 32 * r) 32
def rankIsland (s : State) (r : Nat) : Nat := leField (s.rankEntry r) 0 2
def rankCoord (s : State) (r dim : Nat) : Nat := leField (s.rankEntry r) (2 + 2 * dim) 2
def dimSize (s : State) (dim : Nat) : Nat :=
  1 + (if dim = 0 then bitsOf (s.reg R.CU_RT_DIM0) 15 0 else if dim = 1 then bitsOf (s.reg R.CU_RT_DIM0) 31 16 else bitsOf (s.reg R.CU_RT_DIM1) 15 0)
def ownCoord (s : State) (dim : Nat) : Nat :=
  if dim = 0 then bitsOf (s.reg R.CU_RT_COORD0) 15 0 else if dim = 1 then bitsOf (s.reg R.CU_RT_COORD0) 31 16 else bitsOf (s.reg R.CU_RT_COORD1) 15 0
def ownIsland (s : State) : Nat := bitsOf (s.reg R.CU_RT_DIM1) 31 16

/-- Charges of a lane that count at this time under R374. -/
def laneCharges (s : State) (n lane : Nat) : List Nat :=
  let span := bitsOf (s.reg (cuReg n 0x14)) 23 8 * 1000000
  (Map.getD [] (s.port n).charges lane).filter fun t => Nat.blt s.now (t + span)

/-! ### Routes (R364) -/

/-- The ports of a group in ascending GIDX. -/
def groupPorts (s : State) (role : Nat) : List Nat :=
  ((List.range 18).filter fun n => s.portRole n == role).mergeSort fun a b => decide (s.portGidx a ≤ s.portGidx b)

/-- A port that carries its flows or makes them wait: UP, in a retrain, its full training included, or draining (R372, R379). -/
def portServes (s : State) (n : Nat) : Bool := [2, 3, 6, 7].contains (s.port n).phase || ((s.port n).phase == 1 && (s.port n).retrain)

/-- The group towards rank t from here; none when this is t. -/
def groupTo (s : State) (t : Nat) : Option Nat :=
  if s.topo = 1 ∨ s.rankIsland t ≠ s.ownIsland then (if t = s.ownRank then none else some 7)
  else
    let off (d : Nat) : Nat := (s.rankCoord t d + s.dimSize d - s.ownCoord d % s.dimSize d) % s.dimSize d
    match ([0, 1, 2].find? fun d => off d != 0) with
    | none => none
    | some d => some (roleOf d (decide (2 * off d ≤ s.dimSize d)))

/-- The port's tunnel to a rank is DOWN: for that rank the port counts as DOWN (R367). -/
def tunnelLost (s : State) (n rank : Nat) : Bool := (s.port n).tuns.any fun t => t.2.rank == rank && t.2.phase == 2

/-- The port of a flow: the one it fell back to while that serves, else its own, or the first that is UP after its own. -/
def portTo (s : State) (flow role : Nat) : Option Nat :=
  let ps := s.groupPorts role
  let i := (bitsOf flow 31 16 + bitsOf flow 15 0 + 7 * (flow / 2 ^ 32)) % max 1 ps.length
  let serves := fun (p : Nat) => s.portServes p && !s.tunnelLost p (flow % 65536)
  match (s.cu.flows.get? flow).filter fun p => serves p && s.portRole p == role, ps.drop i ++ ps.take i with
  | some p, _ => some p
  | none, [] => none
  | none, p :: t => if serves p then some p else t.find? fun q => (s.port q).phase == 2 && !s.tunnelLost q (flow % 65536)

/-- The port that a flow uses when all are UP. -/
def ownPort (s : State) (flow role : Nat) : Option Nat :=
  let ps := s.groupPorts role
  ps[(bitsOf flow 31 16 + bitsOf flow 15 0 + 7 * (flow / 2 ^ 32)) % max 1 ps.length]?

/-! ### Frames (R352, R353) -/

/-- The 270 bytes of a flit frame. -/
def frameOf (vl kind cls : Nat) (eom : Bool) (seq ack ackv nak crvl crcls crcnt : Nat) (data : List Byte) : List Byte :=
  let h := vl % 4 + kind % 4 * 4 + cls % 2 * 16 + b2n eom * 32 + seq % 4096 * 2 ^ 8 + ack % 4096 * 2 ^ 20 + ackv * 2 ^ 32
    + nak * 2 ^ 33 + crvl % 4 * 2 ^ 34 + crcls % 2 * 2 ^ 36 + crcnt % 2048 * 2 ^ 37 + (data.length - 1) % 256 * 2 ^ 48
  let b := leBytes 10 h ++ ((data ++ List.replicate 256 0).take 256)
  b ++ leBytes 4 (crc32 b)

/-- The culvert transmitters, which are quiet once a trip or a rail fault has stopped the clocks (R490, R494). -/
def transmit (s : State) (n : Nat) (b : List Byte) : State := if s.pw.stopped then s else s.send (.frame n b)

/-- A frame sent on a port, with its acknowledgement and one credit count, which lane's being left open. -/
def sendFrame (s : State) (n vl kind cls : Nat) (eom : Bool) (seq : Nat) (nak : Bool) (data : List Byte) : State :=
  let (r, s) := s.draw
  let p := s.port n
  let k := r % 8
  (s.setPort n { p with owe := 0 }).transmit n (frameOf vl kind cls eom seq (p.expect + 4095) 1 (b2n nak) (k / 2) (k % 2) (Map.getD 0 p.freed k) data)

/-- A frame of a flit. -/
def sendFlit (s : State) (n seq : Nat) (f : Flit) : State :=
  s.sendFrame n f.lane (if f.head then 2 else 3) f.cls f.eom seq false f.data

/-- Credits held for a lane and class (R355). -/
def credits (p : Port) (lane cls : Nat) : Nat :=
  laneCap lane - (Map.getD 0 p.used (2 * lane + cls) + 2048 - Map.getD 0 p.seen (2 * lane + cls) % 2048) % 2048

/-- The flit of a lane that may leave next: of the message that has begun to leave, and else the lane's first HEAD; a draining port starts no message (R357, R379). -/
def laneNext (drain : Bool) (begun : Map Nat) (l : List Flit) (vl : Nat) : Option Flit :=
  l.find? fun f => f.lane == vl && (f.ctrl || match begun.get? vl with
    | some flow => !f.head && f.flow == flow
    | none => f.head && !drain)

/-- The messages that have begun to leave, by lane, once a flit has left. -/
def begunBy (begun : Map Nat) (f : Flit) : Map Nat :=
  if f.ctrl then begun else if f.eom then begun.del f.lane else begun.put f.lane f.flow

/-- The flit of the next slot: of the first lane after the last one that has a flit and a credit for it (R356). -/
def nextFlit (p : Port) : Option Flit :=
  ((List.range 4).map fun k => (p.lastVl + 1 + k) % 4).findSome? fun vl =>
    (laneNext (p.phase != 2) p.begun p.queue vl).filter fun f => Nat.blt 0 (credits p vl f.cls)

/-- A flit is ready and lacks a credit (R356). -/
def starved (p : Port) : Bool :=
  (List.range 4).any fun vl => match laneNext (p.phase != 2) p.begun p.queue vl with
    | some f => credits p vl f.cls == 0
    | none => false

/-- A receive frame counted as freed (R355). -/
def freeRx (p : Port) (key n : Nat) : Port := { p with freed := p.freed.put key ((Map.getD 0 p.freed key + n) % 2048) }

/-- The receive frame that held a flit passed on is free once the flit has left, or is discarded (R355). -/
def release (s : State) (f : Flit) : State :=
  match f.held with
  | none => s
  | some (n, key) =>
    let p := s.port n
    let l := Map.getD [] p.rbuf key
    let its := fun (x : Bool × List Byte) => x.1 && (x.2.drop 10).take f.data.length == f.data
    if l.any its then s.setPort n (freeRx { p with rbuf := Map.store [] p.rbuf key (l.eraseP its) } key 1) else s

/-- Frame slots of a culvert-mode port, until nothing can be sent; CU_NOCREDIT counts those in which a flit lacked a credit. -/
def portRun (n : Nat) : Nat → State → State
  | 0, s => s
  | k + 1, s =>
    let p := s.port n
    if s.pw.stopped || !([2, 6, 7].contains p.phase) || Nat.ble 1024 p.unacked.length then s
    else
      let s := if starved p then s.count (cuReg n 0x140) 1 else s
      match nextFlit p with
      | none => s
      | some f =>
        let key := 2 * f.lane + f.cls
        let p := { p with
          queue := p.queue.erase f, begun := begunBy p.begun f, lastVl := f.lane, seq := (p.seq + 1) % 4096
          unacked := p.unacked ++ [⟨p.seq, { f with held := none }, 0, s.now⟩]
          used := p.used.put key ((Map.getD 0 p.used key + 1) % 2048) }
        let s := ((s.setPort n p).release f).sendFlit n ((p.seq + 4095) % 4096) f
        portRun n k (s.count (cuReg n 0x100) 1)

/-! ### Ethernet mode (R365–R367) -/

/-- The ones'-complement sum of 16-bit big-endian words. -/
def inetSum : List Byte → Nat
  | a :: b :: t => a.toNat * 256 + b.toNat + inetSum t
  | [a] => a.toNat * 256
  | [] => 0

def inetFold (x : Nat) : Nat := let y := x % 65536 + x / 65536; let z := y % 65536 + y / 65536; 65535 - (z % 65536 + z / 65536)

def beBytes (n v : Nat) : List Byte := (leBytes n v).reverse

/-- The Ethernet frame of some flits of one lane on tunnel `tun` of a port. -/
def ethBytes (s : State) (n tun rank lane ack fseq : Nat) (nak : Bool) (flits : List Flit) : List Byte :=
  let ctl := s.reg (cuReg n 0x30)
  let v4 := bitOf ctl 1
  let e := s.rankEntry rank
  let udp := s.reg (cuReg n 0x38)
  let dscp := bitsOf (s.reg (cuReg n 0x34)) (8 * lane + 5) (8 * lane)
  let own (k : Nat) : Nat := s.reg (cuReg n (0x48 + 4 * k))
  let shim := leBytes 1 0x20 ++ leBytes 1 (lane % 4 + 4 + b2n nak * 8) ++ leBytes 1 flits.length ++ leBytes 1 0
    ++ leBytes 2 s.ownRank ++ leBytes 2 rank ++ leBytes 4 fseq ++ leBytes 4 ack
  let body := shim ++ (flits.map fun f => frameOf f.lane (if f.ctrl then 1 else if f.head then 2 else 3) f.cls f.eom 0 0 0 0 0 0 0 f.data).flatten
  let ulen := 8 + body.length
  let ports := beBytes 2 (49152 + tun) ++ beBytes 2 (bitsOf udp 15 0) ++ beBytes 2 ulen
  let mac := beBytes 6 (leField e 8 6) ++ beBytes 6 (s.reg (cuReg n 0x40) + 2 ^ 32 * (s.reg (cuReg n 0x44) % 65536))
    ++ (if bitOf ctl 2 then beBytes 2 0x8100 ++ beBytes 2 (bitsOf ctl 6 4 * 8192 + bitsOf ctl 27 16) else [])
  let packet :=
    if v4 then
      let h (c : Nat) := beBytes 1 0x45 ++ beBytes 1 (dscp * 4) ++ beBytes 2 (20 + ulen) ++ beBytes 2 0 ++ beBytes 2 0x4000
        ++ beBytes 1 64 ++ beBytes 1 17 ++ beBytes 2 c ++ beBytes 4 (own 0) ++ beBytes 4 (leField e 16 4)
      beBytes 2 0x0800 ++ h (inetFold (inetSum (h 0))) ++ ports ++ beBytes 2 0 ++ body
    else
      let src := beBytes 16 (own 0 + 2 ^ 32 * own 1 + 2 ^ 64 * own 2 + 2 ^ 96 * own 3)
      let dst := beBytes 16 (leField e 16 16)
      let c := inetFold (inetSum (src ++ dst ++ beBytes 4 ulen ++ beBytes 4 17 ++ ports ++ beBytes 2 0 ++ body))
      beBytes 2 0x86DD ++ beBytes 4 (6 * 2 ^ 28 + dscp * 2 ^ 22) ++ beBytes 2 ulen ++ beBytes 1 17 ++ beBytes 1 64 ++ src ++ dst
        ++ ports ++ beBytes 2 (if c = 0 then 65535 else c) ++ body
  let f := mac ++ packet
  f ++ leBytes 4 (crc32 f)

/-- An Ethernet frame's bytes in the replay store. -/
def ethSize (f : EthFrame) : Nat := 16 + 270 * f.flits.length
def ethStored (p : Port) : Nat := ((p.tuns.map fun t => (t.2.unacked.map ethSize).sum)).sum

def tunnel (p : Port) (tun : Nat) : Tunnel := Map.getD Tunnel.closed p.tuns tun

/-- Up to k flits of a lane that may leave a hold one after the other, what the hold keeps, and what has begun then. -/
def takeLane (drain : Bool) (vl : Nat) : Nat → List Flit → Map Nat → List Flit × List Flit × Map Nat
  | 0, hold, begun => ([], hold, begun)
  | k + 1, hold, begun =>
    match laneNext drain begun hold vl with
    | none => ([], hold, begun)
    | some f =>
      let (l, hold, begun) := takeLane drain vl k (hold.erase f) (begunBy begun f)
      (f :: l, hold, begun)

/-- The flits of a tunnel's next Ethernet frame of a lane, at most 32, what its hold keeps, and what has begun then. -/
def ethNext (p : Port) (t : Tunnel) (vl : Nat) : List Flit × List Flit × Map Nat := takeLane (p.phase != 2) vl 32 t.hold t.begun

/-- A tunnel has a frame of a lane ready: 32 flits, or fewer once COALESCE_NS is over (R366), while it may send (R367). -/
def ethReady (p : Port) (t : Tunnel) (vl : Nat) : Bool :=
  let k := (ethNext p t vl).1.length
  t.phase == 1 && Nat.blt t.unacked.length 1024 && (Nat.ble 32 k || (Nat.blt 0 k && t.due.contains vl))

/-- The replay store has room for that frame (R367). -/
def ethRoom (p : Port) (t : Tunnel) (vl : Nat) : Bool := Nat.ble (ethStored p + 16 + 270 * (ethNext p t vl).1.length) 16777216

/-- A frame is ready, and the replay store of its port has no room for it (R367). -/
def ethFull (p : Port) : Bool := p.tuns.any fun t => (List.range 4).any fun vl => ethReady p t.2 vl && !ethRoom p t.2 vl

/-- The tunnel and lane of the next frame slot: the first lane after the last one that has a frame ready and room for it (R356, R367). -/
def ethSlot (p : Port) : Option (Nat × Nat) :=
  ((List.range 4).map fun k => (p.lastVl + 1 + k) % 4).findSome? fun vl =>
    (p.tuns.find? fun t => ethReady p t.2 vl && ethRoom p t.2 vl).map fun t => (t.1, vl)

/-- One Ethernet frame of a lane of a tunnel. -/
def ethSend (s : State) (n tun vl : Nat) : State :=
  let p := s.port n
  let t := tunnel p tun
  let (l, hold, begun) := ethNext p t vl
  let due := if l.length = 32 ∧ (hold.any fun f => f.lane == vl) then t.due else t.due.filter (· != vl)
  let t' := { t with hold := hold, begun := begun, due := due, next := (t.next + 1) % 2 ^ 32, unacked := t.unacked ++ [⟨t.next, l.map fun f => { f with held := none }⟩] }
  let s := s.setPort n { p with tuns := p.tuns.put tun t', lastVl := vl }
  l.foldl release ((s.transmit n (s.ethBytes n tun t.rank vl (t.expect + 2 ^ 32 - 1) t.next false l)).count (cuReg n 0x100) 1)

/-- Frame slots of an Ethernet port, until no frame is ready that the replay store has room for; CU_NOCREDIT counts those in which one waited for room. -/
def ethRun (n : Nat) : Nat → State → State
  | 0, s => s
  | k + 1, s =>
    let p := s.port n
    if s.pw.stopped || !([2, 6, 7].contains p.phase) then s
    else
      let s := if ethFull p then s.count (cuReg n 0x140) 1 else s
      match ethSlot p with
      | none => s
      | some (tun, vl) => ethRun n k (s.ethSend n tun vl)

/-- Flits that wait at a port, and in its tunnels. -/
def waitingFlits (p : Port) : List Flit := p.queue ++ (p.tuns.map fun t => t.2.hold).flatten

/-- The frame slots that a port can use now. -/
def runPort (s : State) (n : Nat) : State :=
  let k := (waitingFlits (s.port n)).length
  if s.portRole n = 7 then ethRun n (k + 1) s else portRun n k s

/-- The tunnel of a port to a rank, opened if none is (R367); none when all 256 are open. -/
def openTunnel (s : State) (n rank : Nat) : Option (Nat × State) :=
  let p := s.port n
  match p.tuns.find? fun t => t.2.rank == rank && t.2.phase != 0 with
  | some (k, _) => some (k, s)
  | none =>
    match (List.range 256).find? fun k => (tunnel p k).phase == 0 with
    | some k => some (k, s.setPort n { p with tuns := p.tuns.put k { Tunnel.closed with rank := rank, phase := 1 } })
    | none => none

/-! ### Messages (R359, R360) -/

/-- A message's flits. -/
def cutFlits (lane cls : Nat) (model : Option Nat) (flow : Nat) : Nat → Bool → List Byte → List Flit
  | 0, _, _ => []
  | k + 1, head, l =>
    let rest := l.drop 256
    ⟨lane, cls, head, rest.isEmpty, l.take 256, model, flow, false, none⟩ :: (if rest.isEmpty then [] else cutFlits lane cls model flow k false rest)

def msgBytes (m : Msg) : List Byte :=
  leBytes 1 m.mtype ++ leBytes 1 0 ++ leBytes 2 m.src ++ leBytes 2 m.dst ++ leBytes 2 0 ++ leBytes 4 m.tgen ++ leBytes 4 m.data.length
    ++ ((m.body ++ List.replicate 16 0).take 16) ++ m.data

/-- Flits handed to a port or one of its tunnels. -/
def putFlits (s : State) (n rank : Nat) (fs : List Flit) : State :=
  if s.portRole n = 7 then
    match s.openTunnel n rank with
    | some (t, s) => (s.updPort n fun p => { p with tuns := p.tuns.put t { tunnel p t with hold := (tunnel p t).hold ++ fs } }).runPort n
    | none => s.updPort n fun p => { p with queue := p.queue ++ fs }
  else (s.updPort n fun p => { p with queue := p.queue ++ fs }).runPort n

/-- Flits of a flow handed to the port that R364 gives; false where there is none. A flow keeps the port it falls back to until it uses its own again. -/
def putFlow (s : State) (flow role : Nat) (fs : List Flit) : State × Bool :=
  match s.portTo flow role with
  | none => (s, false)
  | some n =>
    let s : State := { s with cu := { s.cu with flows := if s.ownPort flow role = some n then s.cu.flows.del flow else s.cu.flows.put flow n } }
    (s.putFlits n (flow % 65536) fs, true)

/-- A message sent towards its rank in class `cls` of its first hop; false where it has no route (R377). -/
def forward (s : State) (m : Msg) (cls : Nat) (model : Option Nat) : State × Bool :=
  match s.groupTo m.dst with
  | none => ({ s with cu := { s.cu with inbox := s.cu.inbox ++ [m] } }, true)
  | some role =>
    let flow := m.lane * 2 ^ 32 + m.src * 2 ^ 16 + m.dst
    let l := msgBytes m
    s.putFlow flow role (cutFlits m.lane cls model flow (l.length / 256 + 1) true l)

/-- A message of this chip. -/
def sendMsg (s : State) (dst lane mtype : Nat) (body data : List Byte) (model : Option Nat) : State × Bool :=
  if !s.rankLoaded then (s, false)
  else s.forward ⟨lane, mtype, s.ownRank, dst, s.tgen, body, data⟩ 0 model

/-- The model instance that a sluice message serves: its body begins with the OPID (R289, R376). -/
def opModel (s : State) (mtype : Nat) (body : List Byte) : Option Nat :=
  if 0x11 ≤ mtype ∧ mtype ≤ 0x16 then some (bitsOf (Map.getD 0 s.sl.ops (leField body 0 2)).toNat 19 12) else none

/-- A control message: one that has no route is discarded. -/
def sendControl (s : State) (dst mtype : Nat) (body : List Byte) : State := (s.sendMsg dst 0 mtype body [] (s.opModel mtype body)).1

/-! ### The sideband word (R353, R367) -/

def sideband (s : State) (n : Nat) : List Byte :=
  leBytes 4 (b2n s.cu.slow + 2 * b2n ((s.port n).phase == 6 || (s.port n).phase == 7))

/-- A port that runs sends its sideband word: in a CTRL frame, or in a CTRL flit on each open tunnel. Revision 1.2 has none (R362). -/
def sendCtrl (s : State) (n : Nat) : State :=
  let p := s.port n
  if !([2, 6, 7].contains p.phase) || p.rev != 0x20 then s
  else if s.portRole n = 7 then
    p.tuns.foldl (fun s t => if t.2.phase = 1 then s.putFlits n t.2.rank [⟨0, 0, false, false, s.sideband n, none, 0, true, none⟩] else s) s
  else s.sendFrame n 0 1 0 false 0 false (s.sideband n)

/-- An engine takes a message that arrived for it, if one of this type, source and body stands in the inbox. -/
def takeMsg (s : State) (mtype : Nat) (p : Msg → Bool) : State :=
  match s.cu.inbox.find? fun m => m.mtype == mtype && p m with
  | some m => { s with cu := { s.cu with inbox := s.cu.inbox.erase m } }
  | none => s

end State

end Sys2Proof.Machine
end

