-- ==== Sys2Proof/Machine/Sfu.lean ====
section
/-! DEFINITION. The special-function unit: the built-in functions (R60–R66), user PWL tables (R67) and micro-programs (R68, R69).

The manual fixes a built-in result to less than 1 ulp (R64) and to monotone order (R65), and not to a bit. Each function is enclosed by exact rational bounds; the representable results that R64 allows are then the candidates, and `Config.sfuSeam` chooses among them, in an order that R65 holds for. -/

namespace Sys2Proof.Machine

/-- The built-in functions of R60. -/
inductive SfuFn where
  | exp2 | log2 | rcp | rsqrt | geluErf | geluTanh | erf
  deriving DecidableEq, Repr

/-- The function codes of R60. -/
def SfuFn.code : SfuFn → Nat
  | .exp2 => 1 | .log2 => 2 | .rcp => 3 | .rsqrt => 4 | .geluErf => 8 | .geluTanh => 9 | .erf => 0xA

/-- Bounds of a positive function value: lo ≤ v ≤ hi as fractions times 2^e; `exact` where the two are the value itself. `region` and `key` order the arguments of one monotone piece so that the magnitude grows with the key. `loose` allows the third candidate just above a power of two. -/
structure Bound where
  neg    : Bool
  loN    : Nat
  loD    : Nat
  hiN    : Nat
  hiD    : Nat
  e      : Int
  exact  : Bool
  loose  : Bool
  region : Nat
  key    : Int
  deriving DecidableEq, Repr

/-- What a built-in function gives: a special or exact value (R66), or bounds of an inexact one. -/
inductive SfuVal where
  | special (v : FVal) (st : Arith)
  | bound (b : Bound)
  deriving DecidableEq, Repr

/-- The order of an FP32 argument as an integer. -/
def FVal.key (v : FVal) : Int :=
  let c := v.code32
  if c < 2 ^ 31 then c else -((c - 2 ^ 31 : Nat) : Int)

/-! ### Mathematical constants, rounded down -/

/-- 2/√π · 2^680. -/
def cErf : Nat := 0x120dd750429b6d11ae3a914fed7fd8688281341d7587cea2e7342b06199cc416180eb39f0b24e1e2281806c12d98f35d77a3e9ddc91c394f0e9eedf0efffd84a2a4ac3b98489b8cbd3845e8fef6ff6af92a45e5f27c
/-- √(2/π) · 2^680. -/
def cGelu : Nat := 0xcc42299ea1b284687e59e2805d5c717fa7053e60a24e0db1808e369004c73a5d3bf158aa88fa7b6e47eba75766e9d11bd6284ef2e17c2a264f1d32688be119ff30505c3fb28f9c969d9b7adccb84672b9596a89bcd
/-- log2 e · 2^680. -/
def cLog2e : Nat := 0x171547652b82fe1777d0ffda0d23a7d11d6aef551bad2b4b1164a2cd9a342648fbc3887eeaa2ed9ac49b25eeb82d7c167d52173cc1895213f897f5e06a7be73665fc529264c2fb3ab643687aaf3ab440c16bd777e75

/-! ### Enclosures -/

/-- 2^(2^−i) for i = 1 … n at scale 2^256, each rounded down and short by less than 3 units. -/
def exp2Roots : Nat → Nat → List Nat
  | 0, _ => []
  | n + 1, r => let s := isqrt (r * 2 ^ 256); s :: exp2Roots n s

def exp2Table : List Nat := exp2Roots 120 (2 ^ 257)

/-- Bounds at scale 2^256 of 2^f for f = num / 2^120, 0 ≤ num < 2^120. -/
def exp2Frac (num : Nat) : Nat × Nat :=
  let go := fun (acc : Nat) (ib : Nat × Nat) => if num / 2 ^ (119 - ib.1) % 2 = 1 then acc * ib.2 / 2 ^ 256 else acc
  let lo := ((List.range 120).zip exp2Table).foldl go (2 ^ 256)
  (lo, if num = 0 then lo else lo + 4096)

/-- Bounds at scale 2^256 of 2^f for f ∈ [a, b] / 2^p, with the integer parts taken out: 2^(z) for z ∈ [a, b]/2^p as (lo, hi, exponent). -/
def exp2Encl (a b : Int) (p : Nat) : Nat × Nat × Int :=
  let n := a / 2 ^ p
  let top (x : Int) (up : Bool) : Nat :=
    let y := x * 2 ^ 120
    ((if up then (y + 2 ^ p - 1) / 2 ^ p else y / 2 ^ p) - n * 2 ^ 120).toNat
  let hiTop := top b true
  let lo := (exp2Frac (top a false)).1
  let hi := if hiTop < 2 ^ 120 then (exp2Frac hiTop).2 else (exp2Frac (hiTop - 2 ^ 120)).2 * 2
  (lo, hi, n)

/-- The first k binary digits of log2 m, m at scale 2^256 in [1, 2), squaring with the given rounding. -/
def log2Bits (up : Bool) : Nat → Nat → Nat → Nat
  | 0, _, acc => acc
  | k + 1, m, acc =>
    let s := if up then (m * m + 2 ^ 256 - 1) / 2 ^ 256 else m * m / 2 ^ 256
    if 2 ^ 257 ≤ s then log2Bits up k (if up then (s + 1) / 2 else s / 2) (2 * acc + 1)
    else log2Bits up k s (2 * acc)

/-- Σ (−1)^n u^n / (n! (2n + 1)) at scale 2^640, u at the same scale: the terms left to add, the index, the current u^n / n! and the sum so far. -/
def erfSum (u : Nat) : Nat → Nat → Nat → Int → Int
  | 0, _, _, s => s
  | k + 1, n, t, s =>
    let d : Int := (t / (2 * n + 1) : Nat)
    erfSum u k (n + 1) (t * u / 2 ^ 640 / (n + 1)) (if n % 2 = 0 then s + d else s - d)

/-- Bounds of x · c · Σ at scale 2^640 · 2^(40), for |x| = m · 2^e with erf-like factor c at scale 2^680: the fraction of R60's erf. The series error is far below 2^−400. -/
def erfEncl (m : Nat) (e : Int) (uN : Nat) (uE : Int) (c : Nat) : Nat × Nat × Int :=
  let (a, b) := scale2 uN 1 (uE + 640)
  let s := (erfSum (a / b) 800 0 (2 ^ 640) 0).toNat
  let lo := (s - 2 ^ 220) * c * m
  let hi := (s + 2 ^ 220) * (c + 1) * m
  (lo, hi, e - 640 - 680)

/-- An enclosure brought to scale 2^−600, outwards. -/
def at600 (lo hi : Nat) (e : Int) : Nat × Nat :=
  let (a, b) := scale2 lo 1 (e + 600)
  let (c, d) := scale2 hi 1 (e + 600)
  (a / b, (c + d - 1) / d)

/-! ### The functions at their arguments (R60, R66) -/

/-- An exact positive or negative result. -/
def SfuVal.exactly (neg : Bool) (a b : Nat) (e : Int) (region : Nat) (key : Int) : SfuVal :=
  .bound ⟨neg, a, b, a, b, e, true, false, region, key⟩

def sfuExp2 (x : FVal) : SfuVal :=
  match x with
  | .nan => .special .nan .none
  | .inf s => .special (if s then .zero else .inf false) .none
  | .fin s m e =>
    let v := FVal.signed s m
    if 0 ≤ e ∨ m % 2 ^ (-e).toNat = 0 then
      let n : Int := if 0 ≤ e then v * 2 ^ e.toNat else v / 2 ^ (-e).toNat
      .exactly false 1 1 (if 4096 < n then 4096 else if n < -4096 then -4096 else n) 0 x.key
    else
      let (lo, hi, n) := exp2Encl v v (-e).toNat
      .bound ⟨false, lo, 1, hi, 1, n - 256, false, false, 0, x.key⟩

/-- LOG2. Its values at powers of two are exact (R64), so a result next to such a value must not fall below it (R65): the third candidate is allowed only where the magnitude is below 1. -/
def sfuLog2 (x : FVal) : SfuVal :=
  match x with
  | .nan => .special .nan .none
  | .inf s => if s then .special .nan .invalid else .special (.inf false) .none
  | .fin s m e =>
    if m = 0 then .special (.inf true) .none
    else if s then .special .nan .invalid
    else
      let n : Int := m.log2 + e
      let f := m * 2 ^ (256 - m.log2)
      if f = 2 ^ 256 then .exactly (n < 0) n.natAbs 1 0 (if n < 0 then 1 else 0) (if n < 0 then -x.key else x.key)
      else
        let lo := log2Bits false 100 f 0
        let hi := log2Bits true 100 f 0 + 1
        if 0 ≤ n then .bound ⟨false, n.toNat * 2 ^ 100 + lo, 1, n.toNat * 2 ^ 100 + hi, 1, -100, false, n = 0, 0, x.key⟩
        else .bound ⟨true, (-n).toNat * 2 ^ 100 - hi, 1, (-n).toNat * 2 ^ 100 - lo, 1, -100, false, n = -1, 1, -x.key⟩

def sfuRcp (x : FVal) : SfuVal :=
  match x with
  | .nan => .special .nan .none
  | .inf s => .special (.fin s 0 0) .none
  | .fin s m e =>
    if m = 0 then .special (.inf s) .none
    else .exactly s 1 m (-e) (if s then 1 else 0) (if s then x.key else -x.key)

def sfuRsqrt (x : FVal) : SfuVal :=
  match x with
  | .nan => .special .nan .none
  | .inf s => if s then .special .nan .invalid else .special .zero .none
  | .fin s m e =>
    if m = 0 then .special (.inf s) .none
    else if s then .special .nan .invalid
    else
      let (m, e) := if e % 2 = 0 then (m, e) else (2 * m, e - 1)
      let t := isqrt (2 ^ 400 / m)
      let hi := if t * t * m = 2 ^ 400 then t else t + 1
      .bound ⟨false, t, 1, hi, 1, -200 - e / 2, hi == t, false, 0, -x.key⟩

def sfuErf (x : FVal) : SfuVal :=
  match x with
  | .nan => .special .nan .none
  | .inf s => .special (.fin s 1 0) .none
  | .fin s m e =>
    if m = 0 then .special x .none
    else if !x.abs.lt (.fin false 4 0) then .special (.fin s 1 0) .none
    else
      let (lo, hi, q) := erfEncl m e (m * m) (2 * e) cErf
      .bound ⟨s, lo, 1, hi, 1, q, false, true, if s then 1 else 0, x.abs.key⟩

/-- The monotone pieces of the GELU functions (R65): the region, and the key along which the magnitude grows. -/
def geluPiece (x : FVal) : Nat × Int :=
  if !x.signOf then (0, x.key)
  else if x.abs.key ≤ 0x3F404189 then (1, -x.key)
  else if 0x3F40C49C ≤ x.abs.key then (2, x.key)
  else (3, x.key)

def sfuGeluErf (x : FVal) : SfuVal :=
  match x with
  | .nan => .special .nan .none
  | .inf s => .special (if s then .fin true 0 0 else .inf false) .none
  | .fin s m e =>
    let (region, key) := geluPiece x
    let (u, uE) := (m * m, 2 * e - 1)
    if m = 0 then .special x .none
    else if !s ∧ !(FVal.fin false u uE).lt (.fin false 16 0) then .exactly false m 1 e region key
    else if !(FVal.fin false u uE).lt (.fin false 200 0) then .bound ⟨true, 0, 1, 1, 1, -200, false, true, region, key⟩
    else
      let (lo, hi, q) := erfEncl m e u uE cGelu
      let (lo, hi) := at600 lo hi q
      if s then .bound ⟨true, m * (2 ^ 600 - hi), 1, m * (2 ^ 600 - lo), 1, e - 601, false, true, region, key⟩
      else .bound ⟨false, m * (2 ^ 600 + lo), 1, m * (2 ^ 600 + hi), 1, e - 601, false, true, region, key⟩

def sfuGeluTanh (x : FVal) : SfuVal :=
  match x with
  | .nan => .special .nan .none
  | .inf s => .special (if s then .fin true 0 0 else .inf false) .none
  | .fin s m e =>
    let (region, key) := geluPiece x
    if m = 0 then .special x .none
    else if !x.abs.lt (.fin false 200 0) then
      if s then .bound ⟨true, 0, 1, 1, 1, -200, false, true, region, key⟩
      else .bound ⟨false, m * (2 ^ 400 - 1), 1, m * 2 ^ 400, 1, e - 400, false, true, region, key⟩
    else
      -- z = 2 y log2 e with y = √(2/π) (|x| + 0.044715 |x|³), bounded at scale 2^−700
      let (pa, pb) := scale2 (m * 1000000) 1000000 (e + 700)
      let (qa, qb) := scale2 (m * m * m * 44715) 1000000 (3 * e + 700)
      let plo : Nat := pa / pb + qa / qb
      let phi : Nat := plo + 2
      let zlo : Nat := 2 * (plo * cGelu / 2 ^ 680) * cLog2e / 2 ^ 680
      let zhi : Nat := 2 * (phi * (cGelu + 1) / 2 ^ 680 + 1) * (cLog2e + 1) / 2 ^ 680 + 1
      let (elo, ehi, n) := exp2Encl (-(zhi : Int)) (-(zlo : Int)) 700
      -- E = 2^(−z) at scale 2^−256 · 2^n; v = |x| / (1 + E) for x > 0 and |x| E / (1 + E) for x < 0
      let k := (-n).toNat
      let one := 2 ^ (256 + k)
      if s then .bound ⟨true, m * elo, one + elo, m * ehi, one + ehi, e, false, true, region, key⟩
      else .bound ⟨false, m * one, one + ehi, m * one, one + elo, e, false, true, region, key⟩

/-- The function at an argument. -/
def SfuFn.eval : SfuFn → FVal → SfuVal
  | .exp2, x => sfuExp2 x
  | .log2, x => sfuLog2 x
  | .rcp, x => sfuRcp x
  | .rsqrt, x => sfuRsqrt x
  | .erf, x => sfuErf x
  | .geluErf, x => sfuGeluErf x
  | .geluTanh, x => sfuGeluTanh x

/-! ### Results -/

/-- The magnitude codes that R64 allows for a bounded value: from the first to the second.

DESIGN CHOICE: R65 has the results in the excluded band of the GELU functions lie within 1 ulp of the minimum value; near the band's edges in FP32 no result meets both that and R64's 1 ulp at the exact value, and the results follow R64. -/
def Bound.candidates (b : Bound) (L : Layout) : Nat × Nat :=
  let dn := L.floorCode b.loN b.loD b.e
  let up := L.ceilCode b.hiN b.hiD b.e
  let (m, q) := L.magnitude dn
  let (a, c) := scale2 b.hiN b.hiD (b.e - q + 2)
  -- the candidate below a power of two, while the value lies within half a last place above it
  if b.loose ∧ dn % 2 ^ L.mb = 0 ∧ 2 ^ (L.mb + 1) ≤ dn ∧ a < (4 * m + 2) * c then (dn - 1, up) else (dn, up)

/-- The choice among the candidates dn … dn + n: the largest whose threshold the key has reached, or the first. -/
def sfuPick (seam : Nat) (fmt : Nat) (key : Int) (dn : Nat) : Nat → Nat
  | 0 => dn
  | n + 1 => if Config.sfuSeam seam fmt (dn + n + 1) ≤ key then dn + n + 1 else sfuPick seam fmt key dn n

/-- The worked example of R71 fixes one result: RSQRT(2.25) in FP32 is the value nearest 2/3. -/
def sfuFixed (fn : SfuFn) (f : Fmt) (x : FVal) : Option Nat :=
  if fn = .rsqrt ∧ f = .fp32 ∧ x.code32 = 0x40100000 then some 0x3F2AAAAB else none

/-- The magnitude code of a bounded result in an output format, beyond its range too. -/
def SfuFn.pick (fn : SfuFn) (f : Fmt) (x : FVal) (b : Bound) : Nat :=
  let (dn, up) := b.candidates f.scalar
  (sfuFixed fn f x).getD (sfuPick (fn.code * 4 + b.region) f.code b.key dn (up - dn))

/-- A built-in function with its result in an output format (R60, R64–R66; beyond the range R49). -/
def SfuFn.result (fn : SfuFn) (f : Fmt) (sat : Bool) (x : FVal) : Nat × Arith :=
  let L := f.scalar
  match fn.eval x with
  | .special v st => let (c, t) := L.convert sat v; (c, st.add t)
  | .bound b => L.finish sat b.neg (fn.pick f x b) (b.hiN != 0)

/-- An FP32 magnitude that rounds to code c of a layout: c's own value, and for c = 0 the given value where it lies under half the smallest magnitude, else that half. -/
def Layout.within (L : Layout) (c mid : Nat) : Nat :=
  if c = 0 then min mid (fp32L.roundCode 1 1 (L.qmin - 1))
  else let (m, q) := L.magnitude c; fp32L.roundCode m 1 q

/-- A basic step inside a micro-program (R69): the FP32 result of the method of the output format before its conversion, so an FP32 value within 1 ulp of the output format which that conversion takes to the built-in function's result; exact in the cases of R64, +0 or −0 below the FP32 range, and otherwise chosen by `Config.sfuRaw` among the values that do so. For FP32 it is the function's own result. -/
def SfuFn.raw (fn : SfuFn) (f : Fmt) (x : FVal) : FVal × Arith :=
  let L := f.scalar
  match fn.eval x with
  | .special v st => let (w, t) := roundFp32 v; (w, st.add t)
  | .bound b =>
    let exactIn (M : Layout) := b.exact && M.floorCode b.loN b.loD b.e == M.ceilCode b.hiN b.hiD b.e
    let power := b.exact && (fn = .exp2 || fn = .log2 || fn = .rsqrt || b.loD.isPowerOfTwo)
    let q := L.quantum b.loN b.loD b.e
    let (a, d) := scale2 1 1 (q - b.e)
    let lo := if b.loN * d ≤ a * b.loD then 0 else fp32L.ceilCode (b.loN * d - a * b.loD) (b.loD * d) b.e
    let hi := fp32L.floorCode (b.hiN * d + a * b.hiD) (b.hiD * d) b.e
    let mid := fp32L.roundCode b.loN b.loD b.e
    let c := if (power && exactIn fp32L) || exactIn L then mid
      else if fp32L.roundCode b.hiN b.hiD b.e = 0 then 0
      else
        let r := lo + Config.sfuRaw fn.code f.code x.code32 % (hi - lo + 1)
        let (m, p) := fp32L.magnitude r
        let want := fn.pick f x b
        if r ≠ 0 ∧ L.roundCode m 1 p = want then r else L.within want mid
    let (code, st) := fp32L.finish false b.neg c (b.hiN != 0)
    (fp32L.decode code, st)

/-! ### User PWL tables (R67) -/

/-- A user PWL table as the image holds it: mode 0 LINEAR, 1 UNIT, 2 OCTAVE; N; x₀, 1/w and the N + 1 values as FP32 codes. -/
structure PwlTable where
  mode   : Nat
  n      : Nat
  x0     : Nat
  invW   : Nat
  values : List Nat
  deriving DecidableEq, Repr

/-- floor of a finite non-negative value. -/
def FVal.floorNat : FVal → Nat
  | .fin false m e => let (a, b) := scale2 m 1 e; a / b
  | _ => 0

/-- floor of a finite value as an integer. -/
def FVal.floorInt : FVal → Int
  | .fin s m e => if 0 ≤ e then FVal.signed s m * 2 ^ e.toNat else FVal.signed s m / 2 ^ (-e).toNat
  | _ => 0

/-- The argument t of a table before its range test, with the post-scale exponent of UNIT and OCTAVE modes; `none` for a case R67 clamps outright, with the clamped end. The Bool is the end: N if set.

DESIGN CHOICE: R67 states the roundings of LINEAR mode only; in UNIT and OCTAVE modes frac is rounded once to FP32 and the product with N once more, so a tiny negative x in UNIT mode gives t = N and PWL_CLAMP. -/
def PwlTable.argument (T : PwlTable) (x : FVal) : (FVal × Arith × Int) ⊕ Bool :=
  match T.mode with
  | 0 =>
    let (d, s1) := FVal.add x (fp32L.decode T.x0).neg
    let (t, s2) := FVal.mul d (fp32L.decode T.invW)
    .inl (t, s1.add s2, 0)
  | 1 =>
    match x with
    | .fin _ _ _ =>
      let n := x.floorInt
      let (fr, s1) := FVal.add x (.fin (0 ≤ n) n.natAbs 0)
      let (t, s2) := FVal.mul fr (.fin false T.n 0)
      .inl (t, s1.add s2, n)
    | .inf s => .inr (!s)
    | .nan => .inr false
  | _ =>
    match x with
    | .fin s m e =>
      if m = 0 ∨ s then .inr false
      else
        let n : Int := m.log2 + e
        let (fr, s1) := FVal.add (.fin false m (e - n)) (.fin true 1 0)
        let (t, s2) := FVal.mul fr (.fin false T.n 0)
        .inl (t, s1.add s2, n)
    | .inf s => .inr (!s)
    | .nan => .inr false

def PwlTable.value (T : PwlTable) (i : Nat) : FVal := fp32L.decode (T.values.getD i 0)

/-- y = fma(v[i+1] − v[i], r, v[i]) at t (R67). -/
def PwlTable.interpolate (T : PwlTable) (t : FVal) : FVal × Arith :=
  let i := min t.floorNat (T.n - 1)
  let (r, s0) := FVal.add t (.fin true i 0)
  let (d, s1) := FVal.add (T.value (i + 1)) (T.value i).neg
  let (y, s2) := FVal.fma d r (T.value i)
  (y, s0.add (s1.add s2))

/-- A table's FP32 result at an argument, with the post-scale exponent (R67). `neg` tests t < 0 and includes no −0. -/
def PwlTable.eval (T : PwlTable) (x : FVal) : FVal × Arith × Int :=
  match x with
  | .nan => (.nan, .none, 0)
  | _ =>
    let atEnd (up : Bool) (st : Arith) :=
      let (y, s) := T.interpolate (.fin false (if up then T.n else 0) 0)
      (y, st.add (s.add .pwlClamp), (0 : Int))
    match T.argument x with
    | .inr up => atEnd up .none
    | .inl (.nan, st, _) => (fp32L.decode (Config.unstated 2 [x.code32, T.x0, T.invW] % 2 ^ 32), st, 0)
    | .inl (t, st, n) =>
      if t.lt .zero then let (y, s, _) := atEnd false st; (y, s, n)
      else if !t.lt (.fin false T.n 0) then let (y, s, _) := atEnd true st; (y, s, n)
      else let (y, s) := T.interpolate t; (y, st.add s, n)

/-! ### Micro-programs (R68, R69) -/

/-- The value of an operation of R68, over the eight temporaries. `tables` holds the loaded user tables. -/
def uprogOp (tables : List (Nat × PwlTable)) (f : Fmt) (op imm tbl : Nat) (a b c : FVal) : FVal × Arith :=
  let k := fp32L.decode imm
  match op with
  | 0x01 => SfuFn.exp2.raw f a
  | 0x02 => SfuFn.log2.raw f a
  | 0x03 => SfuFn.rcp.raw f a
  | 0x04 => SfuFn.rsqrt.raw f a
  | 0x05 =>
    match tables.lookup tbl with
    | some T => let (y, st, _) := T.eval a; (y, st)
    | none => (.zero, .none)
  | 0x06 => SfuFn.erf.raw f a
  | 0x10 => FVal.add a b
  | 0x11 => FVal.mul a b
  | 0x12 => FVal.fma a b c
  | 0x13 => FVal.add a k
  | 0x14 => FVal.mul a k
  | 0x15 => FVal.fma a k b
  | 0x16 => (FVal.max a b, .none)
  | 0x17 => (FVal.min a b, .none)
  | 0x18 => (a.abs, .none)
  | 0x19 => (a.neg, .none)
  | 0x1A => ((if b.signOf then a.abs.neg else a.abs), .none)
  | 0x1B => (FVal.selge a b c, .none)
  | _ => (a, .none)

/-- The operands that a step reads: MOV consumes none (DEDUCED: a NaN that a step only copies is not consumed). -/
def uprogReads (op imm : Nat) (a b c : FVal) : List FVal :=
  let k := fp32L.decode imm
  match op with
  | 0x10 | 0x11 | 0x16 | 0x17 | 0x1A => [a, b]
  | 0x12 | 0x1B => [a, b, c]
  | 0x13 | 0x14 => [a, k]
  | 0x15 => [a, k, b]
  | 0x01 | 0x02 | 0x03 | 0x04 | 0x05 | 0x06 | 0x18 | 0x19 => [a]
  | _ => []

/-- The temporaries after a run of steps, the last result and the status. -/
def uprogRun (tables : List (Nat × PwlTable)) (f : Fmt) : List Nat → List FVal → FVal → Arith → FVal × Arith
  | [], _, last, st => (last, st)
  | w :: ws, ts, _, st =>
    let t (i : Nat) := ts.getD (w / 2 ^ i % 8) .zero
    let op := w / 2 ^ 58
    let imm := w % 2 ^ 32
    let (v, s) := uprogOp tables f op imm (w / 2 ^ 40 % 16) (t 52) (t 49) (t 46)
    let seen := Arith.when ((uprogReads op imm (t 52) (t 49) (t 46)).any FVal.isNan) .nanSeen
    uprogRun tables f ws (ts.set (w / 2 ^ 55 % 8) v) v (st.add (s.add seen))

/-- A micro-program function at an input, converted to its output format (R68). -/
def uprogEval (tables : List (Nat × PwlTable)) (steps : List Nat) (f : Fmt) (sat : Bool) (x : FVal) : Nat × Arith :=
  let (v, st) := uprogRun tables f steps (x :: List.replicate 7 .zero) .zero .none
  let (c, s) := f.scalar.convert sat v
  (c, st.add s)

end Sys2Proof.Machine
end

