-- ==== Sys2Proof/Machine/Norm.lean ====
section
/-! DEFINITION. Lane reductions (R58), root-mean-square normalisation (R71), random draws (R72, R73) and sampling (R74). -/

namespace Sys2Proof.Machine

/-! ### Fixed pairwise trees (R58) -/

/-- One level of a pairwise tree: neighbours are combined, an odd last value is combined with the identity. -/
def treeLevel (op : FVal → FVal → FVal × Arith) (ident : FVal) : List FVal → List FVal × Arith
  | [] => ([], .none)
  | [a] => let (v, st) := op a ident; ([v], st)
  | a :: b :: t =>
    let (v, st) := op a b
    let (vs, s) := treeLevel op ident t
    (v :: vs, st.add s)

/-- A tree of n levels. -/
def treeReduce (op : FVal → FVal → FVal × Arith) (ident : FVal) : Nat → List FVal → Arith → FVal × Arith
  | 0, l, st => (l.headD ident, st)
  | n + 1, l, st => let (l', s) := treeLevel op ident l; treeReduce op ident n l' (st.add s)

/-- `l` cut into pieces of k, by fuel. -/
def chunksOf {α : Type} (k : Nat) : Nat → List α → List (List α)
  | 0, _ => []
  | n + 1, l => if l.isEmpty then [] else l.take k :: chunksOf k n (l.drop k)

/-- A reduction across lanes (R58): passes of 256 lane values, the last padded with the identity, each by the tree; then the same tree over the per-pass results in pass order, until one value remains. -/
def laneReduce (op : FVal → FVal → FVal × Arith) (ident : FVal) : Nat → List FVal → FVal × Arith
  | 0, l => (l.headD ident, .none)
  | fuel + 1, l =>
    let passes := (chunksOf 256 (l.length / 256 + 1) l).map fun p =>
      treeReduce op ident 8 (p ++ List.replicate (256 - p.length) ident) .none
    let st := Arith.sum (passes.map (·.2))
    match passes with
    | [] => (ident, st)
    | [(v, _)] => (v, st)
    | ps => let (v, s) := laneReduce op ident fuel (ps.map (·.1)); (v, st.add s)

/-! ### Root-mean-square normalisation (R71) -/

/-- sqrt rounded once to FP32, for a non-negative value. -/
def sqrtFp32 (x : FVal) : FVal :=
  match x with
  | .fin _ m e =>
    if m = 0 then .zero
    else
      let (m, e) := if e % 2 = 0 then (m, e) else (2 * m, e - 1)
      let t := isqrt (m * 2 ^ 200)
      let sticky := if t * t = m * 2 ^ 200 then 0 else 1
      fp32L.decode (fp32L.roundCode (2 * t + sticky) 1 (e / 2 - 101))
  | v => v

/-- RN(1/n) in FP32. -/
def invN (n : Nat) : FVal := fp32L.decode (fp32L.roundCode 1 n 0)

/-- The product with a power of two, rounded once to FP32. -/
def FVal.scaled (v : FVal) (k : Int) : FVal × Arith :=
  match v with
  | .fin s m e => roundFp32 (.fin s m (e + k))
  | v => (v, .none)

/-- The least k with n ≤ 2^k. -/
def ceilLog2 (n : Nat) : Nat := if n ≤ 1 then 0 else (n - 1).log2 + 1

/-- A NORM row (R71): the FP32 results y before conversion, the saved rms, and the status. NAN_SEEN is raised by the unit that reads the row. -/
def normRow (xs gs : List FVal) (eps : FVal) : List FVal × FVal × Arith :=
  if xs.any FVal.isNan || xs.any FVal.isInf then
    (xs.map fun _ => .nan, .nan, .when (!xs.any FVal.isNan) .invalid)
  else match maxExpo xs with
    | none => (xs.map fun _ => .zero, .zero, .none)
    | some e =>
      let ss := xs.map fun v => v.scaled (-e)
      let qs := ss.map fun v => FVal.mul v.1 v.1
      let k := ceilLog2 xs.length
      let (q0, s3) := treeReduce FVal.add .zero k (qs.map (·.1) ++ List.replicate (2 ^ k - xs.length) .zero) .none
      let (mean, s4) := FVal.mul q0 (invN xs.length)
      let (epsS, s5) := eps.scaled (-2 * e)
      let (a, s6) := FVal.add mean epsS
      let (r, s7) := SfuFn.rsqrt.result .fp32 false a
      let ys := (ss.zip gs).map fun vg =>
        let (t, s) := FVal.mul vg.1.1 (fp32L.decode r)
        let (y, u) := FVal.mul t vg.2
        (y, s.add u)
      let (rms, s8) := (sqrtFp32 a).scaled e
      (ys.map (·.1), rms,
        Arith.sum (ss.map (·.2) ++ qs.map (·.2) ++ [s3, s4, s5, s6, ⟨s7.bits, 0, 0, 0⟩] ++ ys.map (·.2) ++ [s8]))

/-! ### Random draws (R72, R73) -/

def w64 : Nat := 2 ^ 64

def rotl64 (x r : Nat) : Nat := (x * 2 ^ r + x / 2 ^ (64 - r)) % w64

/-- The rounds of R72: rotations left, the round index, and the words a and b. -/
def mixRounds (k0 k1 : Nat) : List Nat → Nat → Nat → Nat → Nat
  | [], _, a, b => a ^^^ b
  | rot :: rest, r, a, b =>
    let a := (a + b) * 0xB7E10F4D2C963A8B % w64
    let b := rotl64 b rot ^^^ a
    let b := ((b ^^^ (if r % 2 = 0 then k1 else k0)) + r) % w64
    mixRounds k0 k1 rest (r + 1) a b

/-- The 64-bit output of R72 for seed words k0, k1 and counter c. -/
def mix (k0 k1 c : Nat) : Nat :=
  mixRounds (k0 % w64) (k1 % w64) [13, 29, 41, 7, 53, 19, 37, 3, 47, 23] 0 (c % w64) (k0 % w64 ^^^ 0x6A3D51C98E27F0B5)

/-- u = out[63:40] · 2^−24 (R72). -/
def uniformDraw (k0 k1 c : Nat) : FVal := .fin false (mix k0 k1 c / 2 ^ 40) (-24)

/-- The counter of a token draw (R73). -/
def tokenCounter (token drawIdx : Nat) : Nat := token % 2 ^ 39 * 2 ^ 24 + drawIdx % 2 ^ 24

/-- The counter of a dropout draw (R73). -/
def dropoutCounter (token layer site element : Nat) : Nat :=
  2 ^ 63 + token % 2 ^ 27 * 2 ^ 36 + layer % 2 ^ 12 * 2 ^ 24 + site % 16 * 2 ^ 20 + element % 2 ^ 20

/-! ### Sampling (R74) -/

/-- The outcome of sampling a row: the invalid-logits error, or a token. -/
inductive Sample where
  | invalidLogits
  | token (id : Nat)
  deriving DecidableEq, Repr

/-- Insertion into a list ordered by descending value, ascending token id among equals, of at most k entries. Earlier ids are inserted first. -/
def topInsert (k : Nat) (x : FVal × Nat) : List (FVal × Nat) → List (FVal × Nat)
  | [] => if k = 0 then [] else [x]
  | y :: t => if k = 0 then [] else if y.1.lt x.1 then x :: (y :: t).take (k - 1) else y :: topInsert (k - 1) x t

/-- The k largest values with their ids (the list C of R74). -/
def topK (k : Nat) (zs : List FVal) : List (FVal × Nat) :=
  zs.zipIdx.foldl (fun acc x => topInsert k x acc) []

/-- RN(log2 e) in FP32. -/
def log2eFp32 : FVal := fp32L.decode 0x3FB8AA3B

/-- Running FP32 sums S[j]. -/
def runningSums : FVal → List FVal → List FVal
  | _, [] => []
  | s, w :: ws => let t := (FVal.add s w).1; t :: runningSums t ws

/-- Sampling over a logits row (R74), with temperature and top-p as FP32 values, and the draw u.

DESIGN CHOICE: the manual does not say whether the arithmetic of sampling, which no step of a core runs, sets arithmetic status bits; it sets none. -/
def sample (zs : List FVal) (temp : FVal) (k : Nat) (p u : FVal) : Sample :=
  if zs.any FVal.isNan || zs.all (fun v => v == .inf true) then .invalidLogits
  else
    let rt : FVal := match temp with
      | .fin s m e => if m = 0 then .inf false else fp32L.decode (fp32L.finish false s (fp32L.roundCode 1 m (-e)) true).1
      | .inf s => .fin s 0 0
      | .nan => .nan
    if temp.isZero || rt == .inf false then .token ((topK 1 zs).map (·.2) |>.headD 0)
    else
      let cs := topK k (zs.map fun z => (FVal.mul z rt).1)
      let m := (cs.map (·.1)).headD .zero
      let ws := cs.map fun c =>
        if m == .inf false then (if c.1 == .inf false then FVal.one else .zero)
        else fp32L.decode (SfuFn.exp2.result .fp32 false (FVal.mul (FVal.add c.1 m.neg).1 log2eFp32).1).1
      let ss := runningSums .zero ws
      let last := ss.getLastD .zero
      let bar := (FVal.mul p last).1
      match ss.findIdx? (fun s => s.ge bar) with
      | none => .token ((cs.getD (Config.unstated 3 (zs.map FVal.code32) % cs.length) (.zero, 0)).2)
      | some j =>
        let t := (FVal.mul u (ss.getD j .zero)).1
        match (ss.take (j + 1)).findIdx? (fun s => t.lt s) with
        | some i => .token ((cs.getD i (.zero, 0)).2)
        | none => .token ((cs.getD (Config.unstated 3 (zs.map FVal.code32) % cs.length) (.zero, 0)).2)

end Sys2Proof.Machine
end

