-- ==== Sys2Proof/Machine/Matrix.lean ====
section
/-! DEFINITION. Operand layouts (R91, R94), the matrix window (R51–R57), element-wise vector operations (R94), dropout (R73) and the rotary evaluator (R96). -/

namespace Sys2Proof.Machine

/-! ### Packed elements -/

/-- The n elements of w bits packed from the first byte, lowest bit first. -/
def unpack (w n : Nat) (bs : List Byte) : List Nat :=
  let x := ofLe bs
  (List.range n).map fun i => x / 2 ^ (w * i) % 2 ^ w

/-- Elements of w bits packed, lowest bit first, into whole bytes. -/
def pack (w : Nat) (es : List Nat) : List Byte :=
  leBytes (ceilDiv (w * es.length) 8) (es.zipIdx.foldl (fun a x => a + x.1 % 2 ^ w * 2 ^ (w * x.2)) 0)

/-- The value of a scalar element. -/
def Fmt.value (f : Fmt) (x : Nat) : FVal := f.scalar.decode x

/-- Values of n packed scalar elements. -/
def Fmt.values (f : Fmt) (n : Nat) (bs : List Byte) : List FVal := (unpack f.bits n bs).map f.value

/-- Bytes of n packed scalar elements, or of n / 32 blocks back to back (R94). -/
def Fmt.vecBytes (f : Fmt) (n : Nat) : Nat :=
  if f.isBlock then n / 32 * (4 * f.bits + 1) else ceilDiv (n * f.bits) 8

/-- Values of a VEC operand of n elements (R94): blocks hold 32 elements and then the scale byte. -/
def Fmt.vecValues (f : Fmt) (n : Nat) (bs : List Byte) : List FVal :=
  if f.isBlock then
    ((List.range (n / 32)).map fun k =>
      let blk := (bs.drop (k * (4 * f.bits + 1))).take (4 * f.bits + 1)
      let sc := leField blk (4 * f.bits) 1
      (unpack f.bits 32 blk).map (f.blockValue sc)).flatten
  else f.values n bs

/-- A VEC result of FP32 values written in a format under R49 or R48. -/
def Fmt.vecWrite (f : Fmt) (sat : Bool) (vs : List FVal) : List Byte × Arith :=
  if f.isBlock then
    let blks := (chunksOf 32 (vs.length / 32 + 1) vs).map fun c =>
      let (sc, es, st) := f.writeBlock c
      (pack f.bits es ++ [BitVec.ofNat 8 sc], st)
    ((blks.map (·.1)).flatten, Arith.sum (blks.map (·.2)))
  else
    let cs := vs.map (f.scalar.convert sat)
    (pack f.bits (cs.map (·.1)), Arith.sum (cs.map (·.2)))

/-! ### Native layout (R91) -/

/-- 32 consecutive values of K of one row: the block-scale exponent (none for a NaN block) and the elements before scaling. -/
structure KBlock where
  scale : Option Int
  elems : List FVal
  deriving DecidableEq, Repr

/-- Bytes of one K-block of `rows` rows, padded to 64. -/
def Fmt.blockBytes (f : Fmt) (rows : Nat) : Nat := roundUp (rows * (4 * f.bits) + (if f.isBlock then rows else 0)) 64

/-- Bytes of an operand in native layout. -/
def Fmt.nativeBytes (f : Fmt) (rows k : Nat) : Nat := ceilDiv k 32 * f.blockBytes rows

/-- The rows of an operand in native layout: for each row its K-blocks. -/
def Fmt.nativeRows (f : Fmt) (rows k : Nat) (bs : List Byte) : List (List KBlock) :=
  (List.range rows).map fun r =>
    (List.range (ceilDiv k 32)).map fun b =>
      let blk := bs.drop (b * f.blockBytes rows)
      let es := unpack f.bits 32 ((blk.drop (r * (4 * f.bits))).take (4 * f.bits))
      let es := es.take (min 32 (k - 32 * b))
      if f.isBlock then
        let sc := leField blk (rows * (4 * f.bits) + r) 1
        ⟨if sc = 0xFF then none else some ((sc : Int) - 127), es.map f.element⟩
      else ⟨some 0, es.map f.value⟩

/-- The exact values of a row, scales applied. -/
def rowValues (r : List KBlock) : List FVal :=
  (r.map fun b => b.elems.map fun v =>
    match b.scale, v with
    | none, _ => .nan
    | some s, .fin n m e => .fin n m (e + s)
    | _, v => v).flatten

/-! ### The window (R53–R56) -/

/-- x · 2^e as an integer of units 2^q, to nearest with ties to even. -/
def toUnits (neg : Bool) (m : Nat) (e q : Int) : Int :=
  let (a, b) := scale2 m 1 (e - q)
  FVal.signed neg (rne a b)

/-- The units of each finite product at quantum q, summed. -/
def sumUnits (q : Int) (ps : List FVal) : Int :=
  (ps.map fun p => match p with
    | .fin s m e => toUnits s m e q
    | _ => 0).sum

/-- A window value W · 2^q rounded once to FP32 (R56 step 4). -/
def windowResult (w q : Int) : FVal × Arith := roundFp32 (.fin (w < 0) w.natAbs q)

/-- The products of one output element, K-block by K-block, with s_k. -/
def blockProducts (a b : List KBlock) : List (Int × List FVal) :=
  (a.zip b).map fun ab =>
    ((ab.1.scale.getD 0) + (ab.2.scale.getD 0), (ab.1.elems.zip ab.2.elems).map fun xy => (FVal.exactMul xy.1 xy.2).1)

/-- The FP8-class window (R53, R54): the FP32 result and whether a block breaks the R54 condition. -/
def fp8Window (fa fb : Fmt) (ps : List (Int × List FVal)) : FVal × Arith × Bool :=
  let top := ps.foldl (fun (m : Int) p => if m < p.1 then p.1 else m) ((ps.headD (0, [])).1)
  let w := (ps.map fun p => sumUnits (top - 49) (p.2.map fun v => match v with
    | .fin s m e => .fin s m (e + p.1)
    | v => v)).sum
  let (v, st) := windowResult w (top - 49)
  (v, st, ps.any fun p => 49 + fa.floorExp + fb.floorExp < top - p.1)

/-- The half-class window (R55). -/
def halfWindow (ps : List (Int × List FVal)) : FVal × Arith :=
  match maxExpo ((ps.map Prod.snd).flatten) with
  | none => (.zero, .none)
  | some top =>
    let w := (ps.map fun p => match maxExpo p.2 with
      | none => (0 : Int)
      | some g =>
        let q := max (g - 30) (top - 80)
        sumUnits q p.2 * 2 ^ (q - (top - 80)).toNat).sum
    windowResult w (top - 80)

/-- One output element of a tile (R53–R56): the FP32 value, the status, and the WINDOW_INEXACT condition.

DESIGN CHOICE: the manual does not say whether an element that steps 1 to 3 of R56 settle (a NaN or an infinity) can set WINDOW_INEXACT when one of its blocks breaks the condition of R54; it does not. -/
def dotTile (fa fb : Fmt) (a b : List KBlock) : FVal × Arith × Bool :=
  let nan := (a ++ b).any fun k => k.scale.isNone || k.elems.any FVal.isNan
  let ps := blockProducts a b
  let all := (ps.map Prod.snd).flatten
  if nan then (.nan, .none, false)
  else if all.any FVal.isNan || (all.any (· == .inf true) && all.any (· == .inf false)) then (.nan, .invalid, false)
  else match all.find? FVal.isInf with
    | some v => (v, .none, false)
    | none =>
      if fa.isHalfClass then let (v, st) := halfWindow ps; (v, st, false) else fp8Window fa fb ps

/-- Whether a NaN element or NaN block stands in an operand. -/
def hasNan (rows : List (List KBlock)) : Bool := rows.any fun r => r.any fun k => k.scale.isNone || k.elems.any FVal.isNan

/-- A matrix tile (R53–R57): row-major FP32 results added to `acc` where given, converted to the output format. -/
def mmaTile (fa fb fc : Fmt) (sat : Bool) (as bs : List (List KBlock)) (acc : Option (List (List FVal))) : List (List Byte) × Arith :=
  let rows : List (List Byte × Arith × Bool) := as.zipIdx.map fun ai =>
    let outs : List (FVal × Arith × Bool) := bs.zipIdx.map fun bj =>
      let (v, st, inx) := dotTile fa fb ai.1 bj.1
      match acc with
      | none => (v, st, inx)
      | some c =>
        let old := (c.getD ai.2 []).getD bj.2 .zero
        let (r, s) := FVal.add old v
        (r, (st.add s).add (.when old.isNan .nanSeen), inx)
    let (bytes, cs) := fc.vecWrite sat (outs.map (·.1))
    (bytes, cs.add (Arith.sum (outs.map fun o => o.2.1)), outs.any fun o => o.2.2)
  (rows.map (·.1),
    ((Arith.sum (rows.map fun o => o.2.1)).add (.when (rows.any fun o => o.2.2) .windowInexact)).add (.when (hasNan as || hasNan bs) .nanSeen))

/-! ### Element-wise vector operations (R94) -/

/-- VOP codes 0x01–0x09 on one element. -/
def vecElem (vop : Nat) (imm a b c : FVal) : FVal × Arith :=
  match vop with
  | 0x01 => FVal.add a b
  | 0x02 => FVal.mul a b
  | 0x03 => FVal.fma a b c
  | 0x04 => FVal.add a imm
  | 0x05 => FVal.mul a imm
  | 0x06 => (FVal.max a b, .none)
  | 0x07 => (FVal.min a b, .none)
  | 0x08 => ((if a.ge b then FVal.one else .zero), .none)
  | _ => (FVal.selge a b c, .none)

/-- RN(1 / (1 − rate)) (R73). -/
def dropScale (rate : FVal) : FVal :=
  match (FVal.exactAdd .one rate.neg).1 with
  | .fin s m e => if m = 0 then .inf false else fp32L.decode (fp32L.finish false s (fp32L.roundCode 1 m (-e)) true).1
  | .inf s => .fin s 0 0
  | .nan => .nan

/-- DROPOUT of one element (R73): kept and scaled when u ≥ rate, else +0. -/
def dropElem (rate scale u x : FVal) : FVal × Arith := if u.ge rate then FVal.mul x scale else (.zero, .none)

/-! ### The rotary evaluator (R96) -/

/-- 2π · 2^800, rounded down. -/
def cTwoPi : Nat := 0x6487ed5110b4611a62633145c06e0e68948127044533e63a0105df531d89cd9128a5043cc71a026ef7ca8cd9e69d218d98158536f92f8a1ba7f09ab6b6a8e122f242dabb312f3f637a262174d31bf6b585ffae5b7a035bf6f71c35fdad44cfd2d74f9208b

/-- Σ (−1)^n r^(2n) / (2n + odd)! at scale 2^640, r² at the same scale: terms left, n, the current term, the sum. -/
def trigSum (odd : Nat) (r2 : Nat) : Nat → Nat → Nat → Int → Int
  | 0, _, _, s => s
  | k + 1, n, t, s =>
    trigSum odd r2 k (n + 1) (t * r2 / 2 ^ 640 / ((2 * n + 1 + odd) * (2 * n + 2 + odd))) (if n % 2 = 0 then s + t else s - t)

/-- sin (odd = 1) or cos (odd = 0) of a non-negative angle m · 2^e, at scale 2^640, exact to within 2^140 units. -/
def trigVal (odd : Nat) (m : Nat) (e : Int) : Int :=
  let (a, b) := scale2 m 1 (e + 800)
  let r := a / b % cTwoPi / 2 ^ 160
  let s := trigSum odd (r * r / 2 ^ 640) 120 0 (2 ^ 640) 0
  if odd = 1 then s * r / 2 ^ 640 else s

/-- An FP32 value within 1 ulp of the exact sine or cosine of an angle (R96), chosen by `Config.sfuRaw`; a non-finite angle gives NaN. -/
def trig (odd : Nat) (x : FVal) : FVal × Arith :=
  match x with
  | .nan => (.nan, .none)
  | .inf _ => (.nan, .invalid)
  | .fin s m e =>
    let v := if m = 0 then (if odd = 1 then 0 else 2 ^ 640) else trigVal odd m e
    let n := v.natAbs
    let q := fp32L.quantum n 1 (-640)
    let (u, d) := scale2 1 1 (q + 640)
    let lo := fp32L.ceilCode (n * d - u) d (-640)
    let hi := fp32L.floorCode (n * d + u) d (-640)
    let c := lo + Config.sfuRaw (0x40 + odd) 0 x.code32 % (hi - lo + 1)
    (fp32L.decode ((if (v < 0) != (s && odd == 1) then 2 ^ 31 else 0) + c), .none)

/-- Rotation of one pair by an angle (R96). -/
def rotatePair (pos f xa xb : FVal) : FVal × FVal × Arith :=
  let (ang, s0) := FVal.mul (roundFp32 pos).1 f
  let (c, s1) := trig 0 ang
  let (s, s2) := trig 1 ang
  let (u, s3) := FVal.mul xb s
  let (ya, s4) := FVal.fma xa c u.neg
  let (v, s5) := FVal.mul xb c
  let (yb, s6) := FVal.fma xa s v
  (ya, yb, Arith.sum [s0, s1, s2, s3, s4, s5, s6])

/-- One head of ROPE: pr pairs, (2i, 2i + 1) for style 0 and (i, i + pr) for style 1; other elements are copied (R96). -/
def rotateHead (style pr : Nat) (pos : FVal) (fs xs : List FVal) : List FVal × Arith :=
  (List.range pr).foldl (fun acc i =>
    let ia := if style = 0 then 2 * i else i
    let ib := if style = 0 then 2 * i + 1 else i + pr
    let (ya, yb, st) := rotatePair pos (fs.getD i .zero) (xs.getD ia .zero) (xs.getD ib .zero)
    ((acc.1.set ia ya).set ib yb, acc.2.add st)) (xs, .none)

end Sys2Proof.Machine
end

