-- ==== Sys2Proof/Machine/Operands.lean ====
section
/-! DEFINITION. The regions of a core store (R81), the fields of steps (R86–R106), effective addresses (R87) and operand extents (R82). -/

namespace Sys2Proof.Machine

/-! ### Regions of the core store (R81) -/

/-- STEPS, BERMS and PLUMB of a core; a core that no CORECFG element names has STEPS = 1. -/
def State.steps (s : State) (c : Nat) : Nat := let v := bitsOf (s.reg (State.coreReg c 0xC)) 14 0; if v = 0 then 1 else v
def State.berms (s : State) (c : Nat) : Nat := bitsOf (s.reg (State.coreReg c 0xC)) 17 16
def State.plumbOn (s : State) (c : Nat) : Bool := bitOf (s.reg (State.coreReg c 0xC)) 18

/-- First byte of the berms, of the Plumb staging and of the data region, for STEPS, BERMS and PLUMB. -/
def bermStart (steps : Nat) : Nat := roundUp (steps * 32) 0x10000
def plumbStart (steps berms : Nat) : Nat := bermStart steps + berms * 0x40000
def dataStart (steps berms : Nat) (plumb : Bool) : Nat := plumbStart steps berms + (if plumb then 0x200000 else 0)
def dataEnd : Nat := 0x5FFE00

def State.dataStart (s : State) (c : Nat) : Nat := Machine.dataStart (s.steps c) (s.berms c) (s.plumbOn c)
def State.bermAt (s : State) (c b : Nat) : Nat := bermStart (s.steps c) + b * 0x40000
def State.plumbAt (s : State) (c : Nat) : Nat := plumbStart (s.steps c) (s.berms c)

/-- First byte of a slot's argument block (R81). -/
def argAt (slot : Nat) : Nat := 0x5FFE00 + 64 * slot

/-! ### Header fields (R86) -/

def stType (w : Nat) : Nat := bitsOf w 7 0
def stWfw (w : Nat) : Nat := bitsOf w 15 8
def stSfw (w : Nat) : Nat := bitsOf w 39 32
def stClr (w : Nat) : Bool := bitOf w 56
def stLoop (w : Nat) : Nat := bitsOf w 58 57
def stSatm (w : Nat) : Nat := bitsOf w 60 59
def stFalt (w : Nat) : Bool := bitOf w 61

/-- WMASK and SMASK shifted left where FALT is set and bit 0 of the loop index is 1. -/
def stWmask (w : Nat) (odd : Bool) : Nat := (bitsOf w 31 16 * (if stFalt w && odd then 2 else 1)) % 2 ^ 16
def stSmask (w : Nat) (odd : Bool) : Nat := (bitsOf w 55 40 * (if stFalt w && odd then 2 else 1)) % 2 ^ 16

/-- The SAT bit of a step (R49, R86). -/
def State.satOf (s : State) (w : Nat) : Bool :=
  match stSatm w with
  | 2 => false
  | 3 => true
  | _ => bitOf (s.reg R.SF_CTRL) 0

/-- The effective byte address of the operand field at bit `lo` (R87); `alt` is ALT_OFFSET × 64 while the loop index is odd, else 0. -/
def operandAt (w lo alt : Nat) : Nat := bitsOf w (lo + 16) lo * 64 + (if bitOf w (lo + 17) then alt else 0)

/-- ALT_OFFSET × 64 of a slot (R121). -/
def State.altOffset (s : State) (c slot : Nat) : Nat := bitsOf (s.reg (State.coreReg c (0x60 + 4 * slot))) 16 0 * 64

/-! ### Attention configurations (R98) -/

/-- Word k of attention configuration n of a core (R121). -/
def State.attnWord (s : State) (c n k : Nat) : Nat := s.reg (State.coreReg c (0x400 + 16 * n + 4 * k))

/-- Head dimension of a configuration. -/
def attnDim (w0 : Nat) : Nat := 64 * 2 ^ bitsOf w0 1 0

/-- SF_CTRL.EXP_FMT (R62). -/
def State.expFmt (s : State) : Fmt := fmtOf (bitsOf (s.reg R.SF_CTRL) 7 4)

/-! ### Operand extents (R82) -/

/-- An operand: the bit where its field starts, its bytes, and whether the step writes it. -/
structure Extent where
  lo    : Nat
  bytes : Nat
  out   : Bool
  deriving DecidableEq, Repr

/-- Bytes of rows of n elements of w bits, each row padded to 64 B. -/
def rowBytes (n w : Nat) : Nat := roundUp (ceilDiv (n * w) 8) 64

def mmaExtents (w : Nat) : List Extent :=
  let m := bitsOf w 124 118 + 1
  let n := bitsOf w 131 125 + 1
  let k := bitsOf w 144 132 + 1
  [⟨64, (fmtOf (bitsOf w 148 145)).nativeBytes m k, false⟩, ⟨82, (fmtOf (bitsOf w 152 149)).nativeBytes n k, false⟩,
   ⟨100, m * rowBytes n (fmtOf (bitsOf w 156 153)).bits, true⟩]

def vecExtents (w : Nat) : List Extent :=
  let vop := bitsOf w 71 64
  let n := bitsOf w 159 144 + 1
  let src := (fmtOf (bitsOf w 163 160)).vecBytes n
  let df := fmtOf (bitsOf w 167 164)
  [⟨72, src, false⟩] ++ (if [1, 2, 3, 6, 7, 8, 9].contains vop then [⟨90, src, false⟩] else [])
    ++ (if vop == 3 || vop == 9 then [⟨108, src, false⟩] else [])
    ++ [⟨126, if vop == 0x18 || vop == 0x19 then df.vecBytes 1 else df.vecBytes n, true⟩]

def sfuExtents (w : Nat) : List Extent :=
  let n := bitsOf w 123 108 + 1
  [⟨72, (fmtOf (bitsOf w 127 124)).vecBytes n, false⟩, ⟨90, (fmtOf (bitsOf w 131 128)).vecBytes n, true⟩]

def normExtents (w : Nat) : List Extent :=
  let n := bitsOf w 151 136 + 1
  let rows := bitsOf w 163 152 + 1
  [⟨64, rows * rowBytes n (fmtOf (bitsOf w 167 164)).bits, false⟩, ⟨82, rows * rowBytes n (fmtOf (bitsOf w 171 168)).bits, true⟩,
   ⟨100, ceilDiv (n * (fmtOf (bitsOf w 175 172)).bits) 8, false⟩] ++ (if bitOf w 176 then [⟨118, 4 * rows, true⟩] else [])

def ropeExtents (w : Nat) : List Extent :=
  let tok := bitsOf w 147 136 + 1
  let row := rowBytes ((bitsOf w 153 148 + 1) * (2 * (bitsOf w 160 154 + 1))) (fmtOf (bitsOf w 172 169)).bits
  [⟨64, tok * row, false⟩, ⟨82, tok * row, true⟩, ⟨100, 4 * tok, false⟩, ⟨118, 4 * (bitsOf w 167 161 + 1), false⟩]

/-- ATTN_TILE (R97, R185), for word 0 of its configuration and the exponential format. -/
def attnExtents (w w0 : Nat) (ef : Fmt) : List Extent :=
  let qr := bitsOf w 196 190 + 1
  let kn := bitsOf w 204 197 + 1
  let d := attnDim w0
  let kf := fmtOf (bitsOf w0 11 8)
  let q : Extent := ⟨64, (fmtOf (bitsOf w0 7 4)).nativeBytes qr d, false⟩
  let k : Extent := ⟨82, kf.nativeBytes kn d, false⟩
  let rec_ : List Extent := [⟨154, roundUp (8 * qr) 64, false⟩, ⟨172, roundUp (8 * kn) 64, false⟩]
  if bitOf w0 14 then [q, k, ⟨118, qr * rowBytes kn ef.bits, true⟩, ⟨136, roundUp (8 * qr) 64, false⟩] ++ rec_
  else [q, k, ⟨100, kf.nativeBytes kn d, false⟩, ⟨118, qr * 4 * d, true⟩, ⟨136, roundUp (8 * qr) 64, true⟩] ++ rec_

def streamExtents (w : Nat) : List Extent :=
  let n := (bitsOf w 123 108 + 1) * 64
  [⟨72, n, false⟩, ⟨90, n, false⟩]

/-- The operand extents of a step on a core, for the check of R82. -/
def State.extents (s : State) (c w : Nat) : List Extent :=
  match stType w with
  | 0x01 => streamExtents w
  | 0x02 => mmaExtents w
  | 0x03 => mmaExtents w
  | 0x04 => vecExtents w
  | 0x05 => sfuExtents w
  | 0x06 => normExtents w
  | 0x07 => ropeExtents w
  | 0x08 => attnExtents w (s.attnWord c (bitsOf w 208 205) 0) s.expFmt
  | 0x13 => if bitOf w 93 then [⟨75, 64, false⟩] else []
  | _ => []

/-- R82: every operand lies with its whole extent in the data region. -/
def State.inRange (s : State) (c w alt : Nat) : Bool :=
  (s.extents c w).all fun e =>
    decide (s.dataStart c ≤ operandAt w e.lo alt) && decide (operandAt w e.lo alt + e.bytes ≤ dataEnd)

end Sys2Proof.Machine
end

