-- ==== Sys2Proof/Machine/StreamCtx.lean ====
section
/-! DEFINITION. Stream contexts (R123–R128), what a stream may fetch or send (R101, R129, R136), halts and errors (R144–R151), and slot faults (R113). -/

namespace Sys2Proof.Machine

/-! ### Fields of a context (R123) -/

def scFar (w : Nat) : Nat := bitsOf w 63 0
def scSpace (w : Nat) : Nat := bitsOf w 67 64
def scClass (w : Nat) : Nat := bitsOf w 69 68
def scPolder (w : Nat) : Nat := bitsOf w 75 70
def scRank (w : Nat) : Nat := bitsOf w 95 80
def scPeer (w : Nat) : Nat := bitsOf w 108 96
def scChain (w : Nat) : Nat := bitsOf w 123 112
def scRun (w : Nat) : Nat := (bitsOf w 175 160 + 1) * 64
def scCnt1 (w : Nat) : Nat := bitsOf w 191 176 + 1
def scCnt2 (w : Nat) : Nat := bitsOf w 207 192 + 1
def scGrants (w : Nat) : Nat := bitsOf w 463 448

/-- Length of the pattern in bytes (R126). -/
def scLen (w : Nat) : Nat := scRun w * scCnt1 w * scCnt2 w

/-- Distance of pattern byte p from FAR_ADDR, and the bytes left in its run (R126). -/
def scWalk (w p : Nat) : Int × Nat :=
  let k := p / scRun w
  let r1 : Nat := k % scCnt1 w
  let r2 : Nat := k / scCnt1 w
  (((r1 : Int) * signedOf 32 (bitsOf w 255 224) + (r2 : Int) * signedOf 32 (bitsOf w 287 256)) * 64 + (p % scRun w : Nat), scRun w - p % scRun w)

namespace StreamRun

def w (r : StreamRun) : Nat := r.word.toNat
def mode (r : StreamRun) : Nat := bitsOf r.w 71 69
def sc (r : StreamRun) : Nat := bitsOf r.w 68 64
def chunk (r : StreamRun) : Nat := (bitsOf r.w 123 108 + 1) * 64
def fillCount (r : StreamRun) : Nat := bitsOf r.w 139 124 + 1
def stop (r : StreamRun) : Nat := r.fillCount * r.chunk
/-- The flag word and bit to wait for before fill i, and those to set after it (R101). -/
def before (r : StreamRun) (i : Nat) : Nat × Nat :=
  if r.mode % 2 = 0 then (bitsOf r.w 159 152, bitsOf r.w 163 160 + i % 2) else (bitsOf r.w 147 140, bitsOf r.w 151 148 + i % 2)
def after (r : StreamRun) (i : Nat) : Nat × Nat :=
  if r.mode % 2 = 0 then (bitsOf r.w 147 140, bitsOf r.w 151 148 + i % 2) else (bitsOf r.w 159 152, bitsOf r.w 163 160 + i % 2)
/-- Core-store address of pattern byte o. -/
def near (r : StreamRun) (o : Nat) : Nat := operandAt r.w (if o / r.chunk % 2 = 0 then 72 else 90) r.alt + o % r.chunk
def have_ (r : StreamRun) : Nat := (r.extents.map (·.2)).sum

end StreamRun

/-- Pieces in order joined to a prefix: the prefix grows over every piece that meets it. -/
def joinPieces : Nat → Nat → List (Nat × Nat) → Nat × List (Nat × Nat)
  | 0, pre, l => (pre, l)
  | n + 1, pre, l =>
    match l.find? fun p => Nat.ble p.1 pre && Nat.blt pre (p.1 + p.2) with
    | some p => joinPieces n (p.1 + p.2) (l.erase p)
    | none => (pre, l.filter fun p => Nat.blt pre (p.1 + p.2))

namespace State

/-! ### Contexts and runs, by 32 · core + context -/

def sctx (s : State) (k : Nat) : Nat := (Map.getD 0 s.tg.ctxs k).toNat
def setSctx (s : State) (k v : Nat) : State := { s with tg := { s.tg with ctxs := Map.store 0 s.tg.ctxs k (BitVec.ofNat 512 v) } }
def setScField (s : State) (k hi lo v : Nat) : State := s.setSctx k (setBits (s.sctx k) hi lo v)

def run? (s : State) (k : Nat) : Option StreamRun := (s.core (k / 32)).streams.get? (k % 32)
def setRun (s : State) (k : Nat) (r : StreamRun) : State := s.updCore (k / 32) fun c => { c with streams := c.streams.put (k % 32) r }
def delRun (s : State) (k : Nat) : State := s.updCore (k / 32) fun c => { c with streams := c.streams.del (k % 32) }

def tgUpd (s : State) (f : TgState → TgState) : State := { s with tg := f s.tg }

/-- POS and FILL as the engine keeps them. -/
def setPos (s : State) (k : Nat) (r : StreamRun) : State :=
  (s.setScField k 355 320 ((r.base + r.pre) / 64)).setScField k 371 356 (min r.fills (r.fillCount - 1))

/-- A control message to the partner of a PEER context: its PEER_SC and a fill index; it is of the model instance of the haul's slot (R376). -/
def tellPeer (s : State) (k mtype fill : Nat) : State :=
  let w := s.sctx k
  (s.sendMsg (scRank w) 0 mtype (leBytes 8 (scPeer w + fill % 65536 * 65536)) [] ((s.run? k).map fun r => ((s.core (k / 32)).slot r.slot).model)).1

/-! ### Far addresses (R124, R125) -/

/-- The combination or address form that R124 and R125 forbid. -/
def spaceBad (w mode : Nat) : Bool :=
  let sp := scSpace w
  let cl := scClass w
  let far := scFar w
  let combo := match mode with
    | 0 => ((sp == 3 || sp == 5) && cl == 0) || ((sp == 1 || sp == 2) && cl == 3) || (sp == 4 && cl == 2)
    | 1 => (sp == 3 && cl == 1) || ((sp == 1 || sp == 2) && cl == 3) || (sp == 4 && cl == 2)
    | 2 => sp == 6 && cl == 3
    | 3 => ((sp == 3 || sp == 5) && cl == 0) || (sp == 1 && cl == 3)
    | _ => false
  let form := match sp with
    | 1 => bitsOf far 55 27 != 0 || bitsOf far 63 58 != 0 || far % 64 != 0
    | 2 => bitsOf far 55 23 != 0 || Nat.ble 192 (bitsOf far 63 56) || far % 64 != 0
    | 3 => bitsOf far 63 52 != 0 || far % 64 != 0
    | 6 => bitsOf far 63 52 != 0 || far % 64 != 0 || scCnt2 w != 1
    | _ => false
  !combo || form

/-- The extent that holds byte o of a list of extents: its address there and the bytes left. -/
def inExtents : Nat → List (Nat × Nat) → Option (Nat × Nat)
  | _, [] => none
  | o, (a, n) :: t => if o < n then some (a + o, n - o) else inExtents (o - n) t

/-- The far address of pattern byte o of a run and the bytes left in its run; none outside the space (R124). -/
def farAt (s : State) (k : Nat) (r : StreamRun) (o : Nat) : Option (Nat × Nat) :=
  let w := s.sctx k
  if scSpace w = 5 then inExtents o r.extents
  else
    let (d, left) := scWalk w (r.base + o)
    let at_ (base lo hi : Nat) : Option (Nat × Nat) :=
      let a : Int := base + d
      if (lo : Int) ≤ a ∧ a + 64 ≤ hi then some (a.toNat, left) else none
    match scSpace w with
    | 1 => at_ (bitsOf (scFar w) 26 0) 0 (2 ^ 27)
    | 2 => let c := bitsOf (scFar w) 63 56; at_ (bitsOf (scFar w) 22 0) (s.dataStart c) dataEnd
    | 3 => at_ (scFar w) 0 (2 ^ 52)
    | 6 => at_ (scFar w) 0 (2 ^ 52)
    | _ => some (0, r.stop - o)

/-- Length of the next transfer from byte o: within a 256-byte block of the far address, its run, its fill, and the bytes allowed (R126). -/
def cutAt (r : StreamRun) (o a left limit : Nat) : Nat := min (min (256 - a % 256) left) (min (r.chunk - o % r.chunk) (limit - o))

/-! ### The end of a stream (R127, R147, R150) -/

/-- What a context keeps of its DESC pattern. -/
def keepRest (s : State) (k : Nat) (r : StreamRun) (used : Nat) : State :=
  let rec drop_ : Nat → List (Nat × Nat) → List (Nat × Nat)
    | _, [] => []
    | o, (a, n) :: t => if n ≤ o then drop_ (o - n) t else (a + o, n - o) :: t
  s.tgUpd fun t => { t with rest := if scSpace (s.sctx k) = 5 then t.rest.put k (drop_ used r.extents, r.ended) else t.rest.del k }

/-- A broadcast that its CHAIN_SEND has not injected whole ends: no hop holds a flit of it any more.

DESIGN CHOICE: the manual does not say what becomes of the flits in flight when a CHAIN_SEND is cancelled or ends in error; the whole broadcast ends with it. -/
def endChain (s : State) (k : Nat) : State :=
  match s.chains.find? fun c => 32 * c.core + c.sc == k && Nat.blt (256 * c.past.getD 0 0) c.total with
  | none => s
  | some ch =>
    let s : State := { s with chains := s.chains.erase ch }
    if ch.armed.isEmpty then s
    else ch.span.foldl (fun s c => s.updCore c fun x =>
      { x with held := match x.held with | some (id, t) => if id = ch.id then none else some (id, t) | none => none }) s

/-- The context no longer belongs to a step, and a broadcast that it has not injected whole ends with it.

DESIGN CHOICE: the manual does not say what becomes of GRANTS of a PEER context whose haul ends early; the count stays for the next stream. -/
def freeCtx (s : State) (k : Nat) (r : StreamRun) (used : Nat) : State :=
  let s := s.endChain k
  (((((s.setPos k r).keepRest k r used).delRun k).setScField k 373 372 0).tgUpd fun t =>
    { t with reqs := t.reqs.filter fun q => q.owner != .stream k })

/-- A stream cancelled with its core (R113, R149, R166): a PEER context tells its partner. -/
def cancelRun (s : State) (k : Nat) : State :=
  match s.run? k with
  | none => s
  | some r =>
    let s := if scSpace (s.sctx k) = 4 then s.tellPeer k 0x03 r.fills else s
    (s.freeCtx k r r.pre).tgUpd fun t =>
      { t with xfers := t.xfers.map fun x => if x.owner = .stream k then { x with owner := .stream 6144 } else x }

/-! ### Slot faults -/

/-- A slot fault (R113): the cause is kept, SQ_CORE_ERR.SLOT_FAULT is set, the breach is reported, and the message to the die control core is on its way. Halted hauls of the slot are cancelled (R149).

DESIGN CHOICE: the manual does not say what a further cause does to a slot that is FAULTED already; the first cause stands, and there is no second entry. -/
def faultAny (s : State) (c i cause data : Nat) : State :=
  let k := s.core c
  let x := k.slot i
  if x.phase = .faulted then s
  else
    let dead := (k.streams.filter fun r => r.2.slot == i && r.2.halt.isSome).map fun r => 32 * c + r.1
    let k := k.setSlot i { x with phase := .faulted, cause := cause, fin := none }
    let k := { k with cur := (if k.cur = some i then none else k.cur), faults := k.faults ++ [i], resetDue := true }
    let s := ((s.setCore c k).orReg (State.coreReg c 8) 8).report 4 (coreBlock c) cause c data
    dead.foldl cancelRun s

/-- A fault met while the slot runs a program. -/
def faultSlotWith (s : State) (c i cause data : Nat) : State :=
  if ((s.core c).slot i).phase = .idle then s else s.faultAny c i cause data

def faultSlot (s : State) (c i cause : Nat) : State := s.faultSlotWith c i cause 0

/-! ### Errors and halts (R147, R150) -/

/-- A stream error takes effect once every tag of the context has completed: HCAUSE, the report, and the fault of the slot (R150). -/
def endErr (s : State) (k : Nat) (r : StreamRun) (cause : Nat) : State :=
  let s := if scSpace (s.sctx k) = 4 && cause != 0x16 then s.tellPeer k 0x03 r.fills else s
  let s := (s.freeCtx k r r.pre).setScField k 383 376 cause
  let s := (s.orReg R.TG_ERR (if cause = 0x15 then 9 else 1)).report (if cause < 0x14 then 4 else 2) 0x06 cause k 0
  s.faultSlot (k / 32) r.slot 0x09

/-- A halt takes effect once every tag has completed (R147). -/
def endHalted (s : State) (k : Nat) (r : StreamRun) (cause g : Nat) : State :=
  let s := (((s.setPos k r).setScField k 373 373 1).setScField k 383 376 cause).setScField k 419 384 g
  (s.updCore (k / 32) fun c => { c with halts := c.halts ++ [k % 32] }).count R.TG_HALT_LO 1

/-- Tags that a context holds. -/
def held (s : State) (o : Owner) : Nat := (s.tg.xfers.filter fun x => x.owner == o).length

def drainEnd (s : State) (k : Nat) : State :=
  match s.run? k with
  | none => s
  | some r =>
    if s.held (.stream k) != 0 then s
    else match r.err, r.halt with
      | some e, _ => s.endErr k r e
      | none, some (cause, g) => if bitOf (s.sctx k) 373 then s else s.endHalted k r cause g
      | none, none => s

def dropReqs (s : State) (o : Owner) : State := s.tgUpd fun t => { t with reqs := t.reqs.filter fun q => q.owner != o }

/-- A stream error met by a run; the first stands. -/
def streamErr (s : State) (k cause : Nat) : State :=
  match s.run? k with
  | none => s
  | some r => ((s.setRun k { r with err := r.err.orElse fun _ => some cause }).dropReqs (.stream k)).drainEnd k

/-- A halt met by a run (R147). -/
def streamHalt (s : State) (k cause g : Nat) : State :=
  match s.run? k with
  | none => s
  | some r =>
    if r.halt.isSome || r.err.isSome then s.drainEnd k
    else ((s.setRun k { r with halt := some (cause, g) }).dropReqs (.stream k)).drainEnd k

/-! ### Buffers taken and transfers asked for (R101, R128, R129, R136) -/

/-- The buffer of the next fill is taken where its flag allows; a receiving PEER context grants the fill.

DESIGN CHOICE: the limit of R130 runs once the sender has received its first grant, which the receiver cannot see; on the receiver's side it runs from the first grant sent. -/
def takeFills (k : Nat) : Nat → State → State
  | 0, s => s
  | n + 1, s =>
    match s.run? k with
    | none => s
    | some r =>
      let c := k / 32
      if r.fillCount ≤ r.opened then s
      else
        let (fw, b) := r.before r.opened
        let free := r.mode % 2 == 0 && decide (r.opened < 2)
        if !free && !bitOf ((s.core c).flag fw) b then s
        else
          let s := if free then s else s.updCore c fun x => x.setFlag fw (x.flag fw &&& (2 ^ 16 - 1 - 2 ^ b))
          let s := s.setRun k { r with opened := r.opened + 1 }
          let s := if r.mode = 0 ∧ scSpace (s.sctx k) = 4 then
              let s := s.setRun k { r with opened := r.opened + 1, moved := r.moved.orElse fun _ => some s.now }
              (s.tellPeer k 0x02 r.opened).setScField k 463 448 (scGrants (s.sctx k) + 1)
            else s
          takeFills k n s

/-- Descriptors that wait at their emitter enter a context's queue while it holds fewer than 16 (R128). -/
def feedDescs (s : State) (k : Nat) : State :=
  let q := Map.getD [] s.tg.descs k
  let w := Map.getD [] s.tg.descWait k
  let n := min w.length (16 - q.length)
  if n = 0 then s
  else s.tgUpd fun g => { g with
    descs := g.descs.put k (q ++ w.take n)
    descWait := if w.length ≤ n then g.descWait.del k else g.descWait.put k (w.drop n) }

/-- Descriptors for a DESC context in order: into its queue, or waiting behind those that wait (R128). -/
def pushDescs (s : State) (k : Nat) (l : List (BitVec 256)) : State :=
  if l = [] then s
  else (s.tgUpd fun g => { g with descWait := g.descWait.put k (Map.getD [] g.descWait k ++ l) }).feedDescs k

/-- Descriptors of a DESC context are taken while the opened fills need them; a LAST too early is an error (R128). -/
def takeDescs (k : Nat) : Nat → State → State
  | 0, s => s
  | n + 1, s =>
    match s.run? k with
    | none => s
    | some r =>
      if r.ended || decide (r.opened * r.chunk ≤ r.have_) then s
      else match Map.getD [] s.tg.descs k with
        | [] => s
        | d :: t =>
          let w := d.toNat
          let s := (s.tgUpd fun g => { g with descs := if t.isEmpty then g.descs.del k else g.descs.put k t }).feedDescs k
          let r := { r with extents := r.extents ++ [(bitsOf w 51 0, (bitsOf w 63 52 + 1) * 64)], ended := bitOf w 64 }
          let s := s.setRun k r
          if r.ended && decide (r.have_ < r.stop) then s.streamErr k 0x10 else takeDescs k n s

/-- Grants used, one for each fill that a PEER sender may transmit (R129). -/
def takeGrants (k : Nat) : Nat → State → State
  | 0, s => s
  | n + 1, s =>
    match s.run? k with
    | none => s
    | some r =>
      let g := scGrants (s.sctx k)
      if g = 0 ∨ r.opened * r.chunk ≤ r.asked then s
      else
        let q : TagReq := ⟨.remote, .stream k, r.asked, r.asked + r.chunk⟩
        let s := (s.setScField k 463 448 (g - 1)).setRun k { r with asked := r.asked + r.chunk }
        takeGrants k n (s.tgUpd fun t => { t with reqs := t.reqs ++ [q] })

/-- A stream goes on as far as flags, descriptors and grants allow. -/
def advanceStream (s : State) (k : Nat) : State :=
  match s.run? k with
  | none => s
  | some r =>
    if r.halt.isSome || r.err.isSome || r.stuck then s
    else
      let s := takeFills k (r.fillCount - r.opened) s
      let sp := scSpace (s.sctx k)
      let s := if sp = 5 then takeDescs k ((Map.getD [] s.tg.descs k).length + (Map.getD [] s.tg.descWait k).length) s else s
      match s.run? k with
      | none => s
      | some r =>
        if r.err.isSome then s
        else if sp = 3 ∨ sp = 5 then
          let upto := if sp = 5 then min (r.opened * r.chunk) r.have_ else r.opened * r.chunk
          if upto ≤ r.asked then s
          else
            let q : TagReq := ⟨if r.mode = 1 then .write else .read, .stream k, r.asked, upto⟩
            (s.setRun k { r with asked := upto }).tgUpd fun t => { t with reqs := t.reqs ++ [q] }
        else if sp = 4 ∧ r.mode = 1 then takeGrants k r.fillCount s
        else s

def advanceStreams (s : State) (c : Nat) : State :=
  (s.core c).streams.keys.foldl (fun s sc => s.advanceStream (32 * c + sc)) s

end State

end Sys2Proof.Machine
end

