-- ==== Sys2Proof/Machine/Flags.lean ====
section
/-! DEFINITION. Flag words (R84, R85), the tests before a step issues (R104, R108, R110), and what follows a change of flags, queues or contexts. -/

namespace Sys2Proof.Machine

/-! ### Units and queues (R77, R78) -/

/-- The unit queue a step type goes to. -/
def unitOf (ty : Nat) : Option UnitId :=
  match ty with
  | 0x02 | 0x03 | 0x08 => some .matrix
  | 0x04 | 0x06 | 0x07 => some .vector
  | 0x05 => some .sfu
  | _ => none

/-- The types of R88. -/
def knownType (ty : Nat) : Bool := [0x01, 0x02, 0x03, 0x04, 0x05, 0x06, 0x07, 0x08, 0x10, 0x11, 0x12, 0x13, 0x1F].contains ty

namespace CoreState

/-- An ATTN_TILE is at the head of the matrix queue. -/
def attnHead (c : CoreState) : Bool :=
  match c.mq with
  | q :: _ => stType q.word.toNat == 0x08
  | [] => false

/-- Whether the step at the head of a unit's queue is running: behind an ATTN_TILE only what ran before it goes on (R78). -/
def running (c : CoreState) : UnitId → Bool
  | .matrix => !c.mq.isEmpty && !(c.attnHead && (c.holdV || c.holdS))
  | .vector => !c.vq.isEmpty && (!c.attnHead || c.holdV)
  | .sfu => !c.sfq.isEmpty && (!c.attnHead || c.holdS)

def queue (c : CoreState) : UnitId → List QStep
  | .matrix => c.mq
  | .vector => c.vq
  | .sfu => c.sfq

def setQueue (c : CoreState) (u : UnitId) (q : List QStep) : CoreState :=
  match u with
  | .matrix => { c with mq := q }
  | .vector => { c with vq := q }
  | .sfu => { c with sfq := q }

/-- Four steps wait in a unit's queue behind the running one (R77). -/
def queueFull (c : CoreState) (u : UnitId) : Bool := 4 + b2n (c.running u) ≤ (c.queue u).length

/-- Steps of a slot at the matrix, vector and SFU units that have not completed. -/
def unitSteps (c : CoreState) (slot : Nat) : Bool := (c.mq ++ c.vq ++ c.sfq).any fun q => q.slot == slot

/-- STREAM steps of a slot that have not completed. -/
def streamSteps (c : CoreState) (slot : Nat) : Bool := c.streams.any fun r => r.2.slot == slot

/-- A step that reaches the head of the matrix queue and is an ATTN_TILE waits for the vector and SFU steps that run then (R78). -/
def claimAttn (c : CoreState) (wasV wasS : Bool) : CoreState :=
  if c.attnHead then { c with holdV := wasV, holdS := wasS } else { c with holdV := false, holdS := false }

end CoreState

/-! ### Tests before issue -/

/-- The step at a slot's PC. -/
def State.stepWord (s : State) (c pc : Nat) : Nat := ofLe (s.readStore c (32 * pc) 32)

/-- Bit 0 of I0 (R86, R87). -/
def Slot.odd (x : Slot) : Bool := bitOf x.loop0.index 0

/-- The die that an EMIT goes to (R103): DIE, or HOME_DIE of the argument block. -/
def State.emitDie (s : State) (c slot w : Nat) : Nat :=
  if bitOf w 66 then ((s.readStore c (argAt slot) 1).headD 0).toNat % 4 else bitsOf w 65 64

/-- The condition that keeps a step from issuing, by REASON code of SQ_SLOT_WAIT (R121); a SIGNAL's fence shows as 0.

DESIGN CHOICE: R107 counts the chunks that a berm holds and says nothing of MMA_REDUCE steps that have issued and not completed; those of the same berm still queued at the matrix unit are counted with them. -/
def State.blocked (s : State) (c i : Nat) : Option Nat :=
  let k := s.core c
  let x := k.slot i
  let w := s.stepWord c x.pc
  let m := stWmask w x.odd
  if s.steps c ≤ x.pc ∨ !knownType (stType w) then none
  else if k.flag (stWfw w) &&& m ≠ m then some 0
  else match stType w with
    | 0x11 => if k.flag (bitsOf w 71 64) &&& bitsOf w 87 72 ≠ bitsOf w 87 72 then some 0 else none
    | 0x12 => if k.unitSteps i then some 0 else none
    | 0x13 => if 4096 ≤ (Map.getD [] s.emits (s.emitDie c i w)).length then some 4 else none
    | 0x01 => if (k.streams.get? (bitsOf w 68 64)).isSome then some 2 else none
    | ty =>
      match unitOf ty with
      | none => none
      | some u =>
        if k.queueFull u then some 1
        else if ty = 0x03 then
          let b := bitsOf w 169 169
          let queued := (k.mq.filter fun q => stType q.word.toNat == 0x03 && bitsOf q.word.toNat 169 169 == b).length
          if 4 ≤ (s.berm.filter fun x => x.core == c && x.berm == b && !x.taken).length + queued then some 3 else none
        else none

/-- Each WAITING slot whose condition now holds becomes READY (R109). -/
def State.wake (s : State) (c : Nat) : State :=
  (List.range 8).foldl (fun s i =>
    let k := s.core c
    let x := k.slot i
    if x.phase = .waiting ∧ (s.blocked c i).isNone then s.setCore c (k.setSlot i { x with phase := .ready }) else s) s

/-- The bits of a flag word set by any source but a clear in the same cycle (R84, R85); a bit already 1 is an event lost. -/
def State.orFlags (s : State) (c fw mask : Nat) : State :=
  let m := mask % 2 ^ 16
  let k := s.core c
  let lost := popcount16 (k.flag fw &&& m)
  let s := s.setCore c (k.setFlag fw (k.flag fw ||| m))
  if lost = 0 then s
  else
    let s := (s.orReg (State.coreReg c 8) 1).count32 (State.coreReg c 0x324) lost
    (List.range lost).foldl (fun s _ => s.report 0 (coreBlock c) 0x12 c 0) s

/-- A HALT whose earlier steps have all completed (R104): header bits, notice, IDLE. The slot keeps its loops and the instance that launched it.

DESIGN CHOICE: the manual does not say when a DIKE step completes; for the fences of SIGNAL and HALT it is complete once it has issued, so that a slot may reach IDLE with its dike unreleased. -/
def State.endHalt (s : State) (c i : Nat) : State :=
  let k := s.core c
  let x := k.slot i
  match x.fin with
  | some (fw, mask, notify) =>
    if x.phase = .draining ∧ !k.unitSteps i ∧ !k.streamSteps i then
      let s := s.setCore c (k.setSlot i { Slot.idle with loop0 := x.loop0, loop1 := x.loop1, model := x.model })
      let s := s.orFlags c fw mask
      if notify then s.send (.control (c / 48) [0x1F, c, i] []) else s
    else s
  | none => s

/-- HALTs end, and streams take the buffers and grants they wait for; where a stream ends in error there, once more. -/
def State.settleLoop (c : Nat) : Nat → State → State
  | 0, s => s
  | n + 1, s =>
    let s := (List.range 8).foldl (fun s i => s.endHalt c i) s
    let t := s.advanceStreams c
    if (t.core c).streams.length < (s.core c).streams.length then settleLoop c n t else t

/-- What follows a change in a core: HALTs end, streams take the buffers and grants they wait for, and slots whose condition holds wake. A core has 32 contexts. -/
def State.settle (s : State) (c : Nat) : State := (State.settleLoop c 33 s).wake c

/-- `t` follows `s`: where fewer streams run in core c, a context has become free and steps have ended, and the core settles (R104, R109). -/
def State.followEnd (t s : State) (c : Nat) : State := if (t.core c).streams.length < (s.core c).streams.length then t.settle c else t

/-- A stream error (R150), with what follows. -/
def State.failStream (s : State) (k cause : Nat) : State := (s.streamErr k cause).followEnd s (k / 32)

/-- A slot fault (R113), with what follows. -/
def State.slotFault (s : State) (c i cause : Nat) : State := (s.faultSlot c i cause).followEnd s c

/-- A slot is given up with its hauls (R149): its streams are cancelled, its queued steps go, and it is IDLE. -/
def State.cancelSlot (s : State) (c i : Nat) : State :=
  let k := s.core c
  let dead := (k.streams.filter fun r => r.2.slot == i).map (·.1)
  let keep := fun (l : List QStep) => l.filter fun q => q.slot != i
  let lost := match k.mq with | q :: _ => q.slot == i | [] => false
  let s := dead.foldl (fun s sc => s.cancelRun (32 * c + sc)) s
  let s := s.updCore c fun k =>
    { k.setSlot i { Slot.idle with model := (k.slot i).model } with
      cur := if k.cur = some i then none else k.cur, mq := keep k.mq, vq := keep k.vq, sfq := keep k.sfq
      holdV := k.holdV && !lost, holdS := k.holdS && !lost, halts := k.halts.filter fun sc => !dead.contains sc }
  s.settle c

/-- Flag bits set in a core, with what follows. -/
def State.setFlags (s : State) (c fw mask : Nat) : State := if mask % 2 ^ 16 = 0 then s else (s.orFlags c fw mask).settle c

/-- Flag bits cleared. -/
def State.clearFlags (s : State) (c fw mask : Nat) : State :=
  s.updCore c fun k => k.setFlag fw (k.flag fw &&& (2 ^ 16 - 1 - mask % 2 ^ 16))

end Sys2Proof.Machine
end

