-- ==== Sys2Proof/Machine/Units.lean ====
section
/-! DEFINITION. What the matrix, vector and special-function units do with a step (R90–R96): operands are read and results written when the step completes (R79). -/

namespace Sys2Proof.Machine

/-- Rows of scalar values, each row padded to 64 B. -/
def State.readRows (s : State) (c a rows n : Nat) (f : Fmt) : List (List FVal) :=
  (List.range rows).map fun r => f.values n (s.readStore c (a + r * rowBytes n f.bits) (ceilDiv (n * f.bits) 8))

/-- Rows written, each at its padded place; the padding keeps its bytes. -/
def State.writeRows (s : State) (c a pitch : Nat) (rows : List (List Byte)) : State :=
  rows.zipIdx.foldl (fun s r => s.writeStore c (a + r.2 * pitch) r.1) s

/-! ### MMA (R90–R92) -/

/-- The tile of an MMA or MMA_REDUCE step, written to C. -/
def State.runMma (s : State) (c : Nat) (q : QStep) : State :=
  let w := q.word.toNat
  let m := bitsOf w 124 118 + 1
  let n := bitsOf w 131 125 + 1
  let k := bitsOf w 144 132 + 1
  let fa := fmtOf (bitsOf w 148 145)
  let fb := fmtOf (bitsOf w 152 149)
  let fc := fmtOf (bitsOf w 156 153)
  let as := fa.nativeRows m k (s.readStore c (operandAt w 64 q.alt) (fa.nativeBytes m k))
  let bs := fb.nativeRows n k (s.readStore c (operandAt w 82 q.alt) (fb.nativeBytes n k))
  let acc := if bitOf w 157 then some (s.readRows c (operandAt w 100 q.alt) m n .fp32) else none
  let (rows, st) := mmaTile fa fb fc (s.satOf w) as bs acc
  (s.writeRows c (operandAt w 100 q.alt) (rowBytes n fc.bits) rows).arith c st

/-! ### VEC (R94) -/

/-- A field of a slot's argument block (R83). -/
def State.argField (s : State) (c slot off n : Nat) : Nat := ofLe (s.readStore c (argAt slot + off) n)

/-- The result values of a VEC step, before conversion, with the status of the operation. -/
def State.vecResult (s : State) (c : Nat) (q : QStep) : List FVal × Arith :=
  let w := q.word.toNat
  let vop := bitsOf w 71 64
  let n := bitsOf w 159 144 + 1
  let f := fmtOf (bitsOf w 163 160)
  let src (lo : Nat) : List FVal := f.vecValues n (s.readStore c (operandAt w lo q.alt) (f.vecBytes n))
  let imm := fp32L.decode (bitsOf w 199 168)
  let a := src 72
  if vop ≤ 0x09 then
    let b := if [1, 2, 3, 6, 7, 8, 9].contains vop then src 90 else a.map fun _ => .zero
    let d := if vop = 3 ∨ vop = 9 then src 108 else a.map fun _ => .zero
    let rs := (a.zip (b.zip d)).map fun x => vecElem vop imm x.1 x.2.1 x.2.2
    let k := if vop = 4 ∨ vop = 5 then [imm] else []
    (rs.map (·.1), (Arith.sum (rs.map (·.2))).add (.when ((a ++ b ++ d ++ k).any FVal.isNan) .nanSeen))
  else
    let seen := Arith.when (a.any FVal.isNan) .nanSeen
    match vop with
    | 0x18 => let (v, st) := laneReduce FVal.add .zero 3 a; ([v], st.add seen)
    | 0x19 => let (v, st) := laneReduce (fun x y => (FVal.max x y, .none)) (.inf true) 3 a; ([v], st.add seen)
    | 0x20 =>
      let k0 := s.argField c q.slot 8 8
      let k1 := s.argField c q.slot 16 8
      let tok := s.argField c q.slot 24 4
      let lay := s.argField c q.slot 28 2
      let sc := dropScale imm
      let rs := a.zipIdx.map fun x => dropElem imm sc (uniformDraw k0 k1 (dropoutCounter tok lay (bitsOf w 203 200) x.2)) x.1
      (rs.map (·.1), (Arith.sum (rs.map (·.2))).add (.when ((imm :: a).any FVal.isNan) .nanSeen))
    | _ => (a, seen)

/-- A VEC step. COPY moves its elements unchanged. -/
def State.runVec (s : State) (c : Nat) (q : QStep) : State :=
  let w := q.word.toNat
  let n := bitsOf w 159 144 + 1
  let d := operandAt w 126 q.alt
  if bitsOf w 71 64 = 0x11 then
    s.writeStore c d (s.readStore c (operandAt w 72 q.alt) ((fmtOf (bitsOf w 163 160)).vecBytes n))
  else
    let (vs, st) := s.vecResult c q
    let (bytes, cs) := (fmtOf (bitsOf w 167 164)).vecWrite (s.satOf w) vs
    (s.writeStore c d bytes).arith c (st.add cs)

/-! ### SFU (R95, R60–R69) -/

/-- A user PWL table as SF_PWL_TABLE shows it (R75). -/
def State.pwlTable (s : State) (t : Nat) : PwlTable :=
  let at_ (k : Nat) := s.reg (R.SF_PWL_TABLE + t * 0x800 + 4 * k)
  let n := bitsOf (at_ 0) 24 16
  ⟨bitsOf (at_ 0) 1 0, n, at_ 1, at_ 2, (List.range (n + 1)).map fun i => at_ (3 + i)⟩

/-- The user tables that the image loads. -/
def State.pwlTables (s : State) : List (Nat × PwlTable) :=
  (List.range 16).filterMap fun t => if bitsOf (s.reg (R.SF_PWL_TABLE + t * 0x800)) 24 16 = 0 then none else some (t, s.pwlTable t)

/-- The steps of micro-program n (R68, R75). -/
def State.uprogSteps (s : State) (n : Nat) : List Nat :=
  let m := s.reg (R.SF_FUNC_MAP + 4 * n)
  (List.range (bitsOf m 21 16 + 1)).map fun i => s.reg64 (R.SF_UPROG + 8 * (bitsOf m 11 0 + i))

/-- The built-in function of a code (R60). -/
def sfuOf (code : Nat) : Option SfuFn :=
  match code with
  | 1 => some .exp2 | 2 => some .log2 | 3 => some .rcp | 4 => some .rsqrt
  | 8 => some .geluErf | 9 => some .geluTanh | 0xA => some .erf
  | _ => none

/-- A PWL step at an input, with its post-scale (R67), converted once. -/
def pwlResult (T : PwlTable) (post : Bool) (f : Fmt) (sat : Bool) (x : FVal) : Nat × Arith :=
  let (y, st, n) := T.eval x
  let y := match y with
    | .fin s m e => FVal.fin s m (if post then e + n else e)
    | v => v
  let (c, s) := f.scalar.convert sat y
  (c, st.add s)

/-- The result of an SFU function code on one input. A reserved code never passes the image check (R89). -/
def State.sfuElem (s : State) (func tbl : Nat) (post : Bool) (f : Fmt) (sat : Bool) (x : FVal) : Nat × Arith :=
  if 0x80 ≤ func then uprogEval s.pwlTables (s.uprogSteps (func - 0x80)) f sat x
  else match sfuOf func with
    | some fn => fn.result f sat x
    | none => pwlResult (s.pwlTable tbl) post f sat x

def State.runSfu (s : State) (c : Nat) (q : QStep) : State :=
  let w := q.word.toNat
  let n := bitsOf w 123 108 + 1
  let fi := fmtOf (bitsOf w 127 124)
  let fo := fmtOf (bitsOf w 131 128)
  let xs := fi.values n (s.readStore c (operandAt w 72 q.alt) (fi.vecBytes n))
  let rs := xs.map (s.sfuElem (bitsOf w 71 64) (bitsOf w 135 132) (bitOf w 136) fo (s.satOf w))
  let nans := (rs.filter fun r => (fo.value r.1).isNan).length
  let st := Arith.sum (rs.map (·.2))
  (s.writeStore c (operandAt w 90 q.alt) (pack fo.bits (rs.map (·.1)))).arith c
    (⟨st.bits ||| (if xs.any FVal.isNan then 0x10 else 0), nans, st.sats, 0⟩)

/-! ### NORM and ROPE (R95, R96) -/

def State.runNorm (s : State) (c : Nat) (q : QStep) : State :=
  let w := q.word.toNat
  let n := bitsOf w 151 136 + 1
  let rows := bitsOf w 163 152 + 1
  let fi := fmtOf (bitsOf w 167 164)
  let fo := fmtOf (bitsOf w 171 168)
  let fg := fmtOf (bitsOf w 175 172)
  let gs := fg.values n (s.readStore c (operandAt w 100 q.alt) (fg.vecBytes n))
  let outs : List (List Byte × FVal × Arith) := (s.readRows c (operandAt w 64 q.alt) rows n fi).map fun xs =>
    let (ys, rms, st) := normRow xs gs (fp32L.decode (bitsOf w 208 177))
    let (bytes, cs) := fo.vecWrite (s.satOf w) ys
    (bytes, rms, (st.add cs).add (.when ((fp32L.decode (bitsOf w 208 177) :: xs ++ gs).any FVal.isNan) .nanSeen))
  let s := s.writeRows c (operandAt w 82 q.alt) (rowBytes n fo.bits) (outs.map (·.1))
  let stat := Fmt.fp32.vecWrite false (outs.map fun o => o.2.1)
  let s := if bitOf w 176 then s.writeStore c (operandAt w 118 q.alt) stat.1 else s
  s.arith c ((Arith.sum (outs.map fun o => o.2.2)).add (.when (bitOf w 176) stat.2))

/-- The codes of one head after ROPE: rotated elements, which are the first 2 · PR in either style, are converted; the others keep their codes (R96). -/
def ropeHead (f : Fmt) (sat : Bool) (style pr : Nat) (pos : FVal) (fs : List FVal) (codes : List Nat) : List Nat × Arith :=
  let xs := codes.map f.value
  let (ys, st) := rotateHead style pr pos fs xs
  let outs : List (Nat × Arith) := (ys.take (2 * pr)).map (f.scalar.convert sat)
  (outs.map (·.1) ++ codes.drop (2 * pr),
    (st.add (Arith.sum (outs.map (·.2)))).add (.when ((xs.take (2 * pr) ++ fs).any FVal.isNan) .nanSeen))

def State.runRope (s : State) (c : Nat) (q : QStep) : State :=
  let w := q.word.toNat
  let tok := bitsOf w 147 136 + 1
  let heads := bitsOf w 153 148 + 1
  let d := 2 * (bitsOf w 160 154 + 1)
  let pr := bitsOf w 167 161 + 1
  let f := fmtOf (bitsOf w 172 169)
  let fs := Fmt.fp32.values pr (s.readStore c (operandAt w 118 q.alt) (4 * pr))
  let outs : List (List Byte × Arith) := (List.range tok).map fun t =>
    let pos := s.readStore c (operandAt w 100 q.alt + 4 * t) 4
    let row := unpack f.bits (heads * d) (s.readStore c (operandAt w 64 q.alt + t * rowBytes (heads * d) f.bits) (ceilDiv (heads * d * f.bits) 8))
    let hs := (chunksOf d heads row).map (ropeHead f (s.satOf w) (bitsOf w 168 168) pr (.fin false (ofLe pos) 0) fs)
    (pack f.bits (hs.map (·.1)).flatten, Arith.sum (hs.map (·.2)))
  (s.writeRows c (operandAt w 82 q.alt) (rowBytes (heads * d) f.bits) (outs.map (·.1))).arith c (Arith.sum (outs.map (·.2)))

end Sys2Proof.Machine
end

