-- ==== Sys2Proof/Machine/Attention.lean ====
section
/-! DEFINITION. ATTN_TILE (R97–R99, R167–R178, R184, R185): visibility, tile mode, partials and their folding, Plumb staging, recompute tiles. -/

namespace Sys2Proof.Machine

/-! ### Visibility (R167–R170) -/

/-- A segment number and a position id (R167). -/
structure TokenRec where
  seg : Nat
  pos : Nat
  deriving DecidableEq, Repr

/-- n records of 8 bytes. -/
def tokenRecs (n : Nat) (bs : List Byte) : List TokenRec :=
  (List.range n).map fun i => ⟨leField bs (8 * i) 4, leField bs (8 * i + 4) 4⟩

/-- Whether key k is visible to query q, for MASK[1:0], WINDOW and SINKS (R168). -/
def visible (mask window sinks : Nat) (q k : TokenRec) : Bool :=
  if q.seg = 0xFFFFFFFF ∨ k.seg = 0xFFFFFFFF then false
  else if q.seg ≠ k.seg then false
  else
    let sink := decide (k.pos < sinks)
    let near := decide (window = 0) || decide ((if q.pos ≤ k.pos then k.pos - q.pos else q.pos - k.pos) < window)
    match mask % 4 with
    | 0 => true
    | 1 => decide (k.pos ≤ q.pos)
    | 2 => decide (k.pos ≤ q.pos) && (near || sink)
    | _ => near || sink

/-! ### One row (R171–R174) -/

/-- The running state of a query row: maximum, sum and weighted values. -/
structure RowState where
  m : FVal
  l : FVal
  o : List FVal
  deriving DecidableEq, Repr

def RowState.nan (d : Nat) : RowState := ⟨.nan, .nan, List.replicate d .nan⟩
def RowState.initial (d : Nat) : RowState := ⟨.inf true, .zero, List.replicate d .zero⟩
def RowState.isNan (r : RowState) : Bool := r.m.isNan || r.l.isNan || r.o.any FVal.isNan

/-- EXP2(RN(RN(x − y) · L)) in a format (R171). -/
def expDiff (f : Fmt) (sat : Bool) (x y : FVal) : FVal × Arith :=
  let (d, s0) := FVal.add x y.neg
  let (t, s1) := FVal.mul d log2eFp32
  let (c, s2) := SfuFn.exp2.result f sat t
  (f.value c, Arith.sum [s0, s1, ⟨s2.bits, 0, s2.sats, 0⟩])

/-- P × V for one row (R172): visible p with the rows of V, d columns. -/
def weightedSum (d : Nat) (pv : List (FVal × List FVal)) : List FVal × Arith :=
  let top := (maxExpo (pv.map (·.2)).flatten).getD 0
  let cols := (List.range d).map fun c =>
    let w := sumUnits (top - 60) (pv.map fun x => (FVal.exactMul x.1 (x.2.getD c .zero)).1)
    windowResult w (top - 60)
  (cols.map (·.1), Arith.sum (cols.map (·.2)))

/-- What one row of a tile sees: the scaled scores of its visible keys with their V rows, and what made the row NaN, if anything did: whether a NaN was among its inputs (R174). -/
structure RowView where
  keys : List (Nat × FVal × List FVal)
  bad  : Option Bool
  st   : Arith
  inx  : Bool
  deriving DecidableEq, Repr

/-- The scores of a query row against its visible keys (R171). -/
def rowView (fq fk : Fmt) (scale : FVal) (q : List KBlock) (ks : List (List KBlock)) (vs : List (List FVal)) (vis : List Bool) : RowView :=
  let sel := (List.range ks.length).filter fun j => vis.getD j false
  let scored : List (Nat × FVal × Arith × Bool) := sel.map fun j =>
    let (sc, st, inx) := dotTile fq fk q (ks.getD j [])
    let (x, s) := FVal.mul sc scale
    (j, x, (⟨st.bits &&& 0x7E, st.nans, st.sats, 0⟩ : Arith).add ⟨s.bits &&& 0x7E, 0, 0, 0⟩, inx)
  let inputs := (if sel.isEmpty then [] else rowValues q) ++ (sel.map fun j => rowValues (ks.getD j []) ++ vs.getD j []).flatten
  let nonFinite := inputs.any (fun v => v.isNan || v.isInf) || scored.any fun x => x.2.1.isNan || x.2.1.isInf
  ⟨scored.map fun x => (x.1, x.2.1, vs.getD x.1 []),
   if nonFinite then some (inputs.any FVal.isNan) else none,
   Arith.sum (scored.map fun x => x.2.2.1),
   scored.any fun x => x.2.2.2⟩

/-- The largest of some values, −Infinity for none. -/
def maxOf (l : List FVal) : FVal := l.foldl FVal.max (.inf true)

/-- rsum(p): the tree of R58 over the KN keys padded to 256. -/
def rsum256 (kn : Nat) (ps : List (Nat × FVal)) : FVal × Arith :=
  treeReduce FVal.add .zero 8 ((List.range (max kn 256)).map fun j => (ps.lookup j).getD .zero) .none

/-- The probabilities of the visible keys against a maximum. -/
def probs (f : Fmt) (sat : Bool) (keys : List (Nat × FVal × List FVal)) (mx : FVal) : List (Nat × FVal) × Arith :=
  let ps := keys.map fun k => (k.1, expDiff f sat k.2.1 mx)
  (ps.map fun p => (p.1, p.2.1), Arith.sum (ps.map fun p => p.2.2))

/-- p with the V rows of its keys. -/
def weights (ps : List (Nat × FVal)) (keys : List (Nat × FVal × List FVal)) : List (FVal × List FVal) :=
  (ps.zip keys).map fun x => (x.1.2, x.2.2.2)

/-- The online update of a row (R171, MERGE = 0). A row that is NaN already counts as a NaN among the inputs (R174). -/
def onlineRow (ef : Fmt) (sat : Bool) (kn d : Nat) (r : RowState) (v : RowView) : RowState × Arith :=
  match v.bad with
  | some nanIn => (RowState.nan d, v.st.add (if nanIn || r.isNan then .nanSeen else .invalid))
  | none =>
    if r.isNan then (RowState.nan d, v.st.add .nanSeen)
    else
      let mn := FVal.max r.m (maxOf (v.keys.map fun k => k.2.1))
      if mn == .inf true then (r, v.st)
      else
        let (a, s0) := expDiff .fp32 sat r.m mn
        let (ps, s1) := probs ef sat v.keys mn
        let (t, s2) := rsum256 kn ps
        let (l, s3) := FVal.fma r.l a t
        let (pv, s4) := weightedSum d (weights ps v.keys)
        let os := (r.o.zip pv).map fun x => FVal.fma x.1 a x.2
        (⟨mn, l, os.map (·.1)⟩, Arith.sum ([v.st, s0, s1, s2, s3, s4] ++ os.map (·.2)))

/-- The partial of a tile alone (R171, MERGE = 1). -/
def partialRow (ef : Fmt) (sat : Bool) (kn d : Nat) (v : RowView) : RowState × Arith :=
  match v.bad with
  | some nanIn => (RowState.nan d, v.st.add (if nanIn then .nanSeen else .invalid))
  | none =>
    let mt := maxOf (v.keys.map fun k => k.2.1)
    let (ps, s1) := probs ef sat v.keys mt
    let (t, s2) := rsum256 kn ps
    let (pv, s4) := weightedSum d (weights ps v.keys)
    (⟨mt, t, pv⟩, Arith.sum [v.st, s1, s2, s4])

/-- Folding a partial into a row's running state (R177). -/
def foldRow (sat : Bool) (d : Nat) (r p : RowState) : RowState × Arith :=
  if p.l.isZero ∧ !p.m.isNan ∧ !p.o.any FVal.isNan then (r, .none)
  else if r.isNan || p.isNan then (RowState.nan d, .nanSeen)
  else
    let mn := FVal.max r.m p.m
    let (a, s0) := expDiff .fp32 sat r.m mn
    let (b, s1) := expDiff .fp32 sat p.m mn
    let (lb, s2) := FVal.mul p.l b
    let (l, s3) := FVal.fma r.l a lb
    let os := (r.o.zip p.o).map fun x =>
      let (u, t0) := FVal.mul x.2 b
      let (o, t1) := FVal.fma x.1 a u
      (o, t0.add t1)
    (⟨mn, l, os.map (·.1)⟩, Arith.sum ([s0, s1, s2, s3] ++ os.map (·.2)))

/-- Finalising a row (R173, R174): O, MAX and LSUM. RCP is an SFU result under the step's SAT (R49, R66). -/
def finalRow (sat : Bool) (d : Nat) (r : RowState) : RowState × Arith :=
  if r.isNan then (RowState.nan d, .none)
  else if FVal.zero.lt r.l then
    let (rc, s0) := SfuFn.rcp.result .fp32 sat r.l
    let (ls, s1) := SfuFn.log2.result .fp32 false r.l
    let os := r.o.map fun o => FVal.mul o (fp32L.decode rc)
    (⟨r.m, fp32L.decode ls, os.map (·.1)⟩, Arith.sum ([⟨s0.bits, 0, s0.sats, 0⟩, ⟨s1.bits, 0, 0, 0⟩] ++ os.map (·.2)))
  else (⟨.inf true, .inf true, List.replicate d .zero⟩, .none)

/-! ### Rows in core store -/

/-- The rows of a target: O of QR × d FP32 values, and ST (R175). -/
def State.readTarget (s : State) (c oAt stAt qr d : Nat) : List RowState :=
  (List.range qr).map fun r =>
    let st := s.readStore c (stAt + 8 * r) 8
    ⟨fp32L.decode (leField st 0 4), fp32L.decode (leField st 4 4), Fmt.fp32.values d (s.readStore c (oAt + r * (4 * d)) (4 * d))⟩

/-- A fold reads a target's rows: what it meets in the core's store shows there (R80). -/
def State.meetTarget (s : State) (c oAt stAt qr d : Nat) : State := (s.meetStore c oAt (qr * (4 * d))).meetStore c stAt (8 * qr)

def statBytes (r : RowState) : List Byte := leBytes 4 r.m.code32 ++ leBytes 4 r.l.code32

def valueBytes (vs : List FVal) : List Byte := pack 32 (vs.map FVal.code32)

def State.writeTarget (s : State) (c oAt stAt d : Nat) (rs : List RowState) : State :=
  rs.zipIdx.foldl (fun s r => (s.writeStore c (oAt + r.2 * (4 * d)) (valueBytes r.1.o)).writeStore c (stAt + 8 * r.2) (statBytes r.1)) s

/-- A partial's record: mp, lp, then Up (R177). -/
def partialBytes (r : RowState) : List Byte := statBytes r ++ valueBytes r.o

/-- The partial rows of a record of qr rows. -/
def partialRows (qr d : Nat) (bs : List Byte) : List RowState :=
  (List.range qr).map fun r =>
    let b := bs.drop (r * (8 + 4 * d))
    ⟨fp32L.decode (leField b 0 4), fp32L.decode (leField b 4 4), Fmt.fp32.values d ((b.drop 8).take (4 * d))⟩

/-- Every row of a target folded with the rows of a partial (R177). -/
def foldRows (sat : Bool) (d : Nat) (rs ps : List RowState) : List RowState × Arith :=
  let xs := (rs.zip ps).map fun x => foldRow sat d x.1 x.2
  (xs.map (·.1), Arith.sum (xs.map (·.2)))

/-- NaNs among the values written to a target (R75). -/
def nanCount (rs : List RowState) : Nat := (rs.map fun r => ((r.m :: r.l :: r.o).filter FVal.isNan).length).sum

/-! ### Plumb staging (R178) -/

/-- Bytes of a staging entry. -/
def entryBytes (qr d : Nat) : Nat := 64 + ceilDiv (qr * (8 + 4 * d)) 64 * 64

/-- Store address of entry TIDX. -/
def State.entryAt (s : State) (c qr d tidx : Nat) : Nat := s.plumbAt c + tidx * entryBytes qr d

/-- Header bit of an entry: 0 WRITTEN, 1 BASE. -/
def State.entryBit (s : State) (c qr d tidx b : Nat) : Bool := bitOf (ofLe (s.readStore c (s.entryAt c qr d tidx) 1)) b

def State.writeEntry (s : State) (c qr d tidx : Nat) (base : Bool) (rows : List RowState) : State :=
  s.writeStore c (s.entryAt c qr d tidx) (leBytes 64 (1 + 2 * b2n base) ++ (rows.map partialBytes).flatten)

/-- The base of the fold: down from TIDX to the nearest entry with BASE = 1, or entry 0. -/
def State.baseEntry (s : State) (c qr d : Nat) : Nat → Nat
  | 0 => 0
  | t + 1 => if s.entryBit c qr d (t + 1) 1 then t + 1 else s.baseEntry c qr d t

/-- Entries from `t` on, n of them, folded in ascending order and cleared. -/
def State.foldEntries (s : State) (c qr d : Nat) (sat : Bool) : Nat → Nat → List RowState → Arith → State × List RowState × Arith
  | _, 0, rs, st => (s, rs, st)
  | t, n + 1, rs, st =>
    let ps := partialRows qr d (s.readStore c (s.entryAt c qr d t + 64) (qr * (8 + 4 * d)))
    let (rs', st') := if s.entryBit c qr d t 0 then foldRows sat d rs ps else (rs, .none)
    let s := s.writeStore c (s.entryAt c qr d t) [0]
    s.foldEntries c qr d sat (t + 1) n rs' (st.add st')

/-! ### Targets of bench partials (R248) -/

/-- Every partial of a target has folded: with FIN = 1 its rows are finalised (R173), and the done bit is set. -/
def State.finishTarget (s : State) (c : Nat) (t : BenchTarget) : State :=
  let sat := bitOf (s.reg R.SF_CTRL) 0
  let s := if t.fin then
      (List.range t.heads).foldl (fun s h =>
        let oAt := t.obase + h * t.ostep
        let stAt := t.stbase + h * t.ststep
        let fs := (s.readTarget c oAt stAt t.rows t.dim).map (finalRow sat t.dim)
        ((s.meetTarget c oAt stAt t.rows t.dim).writeTarget c oAt stAt t.dim (fs.map (·.1))).arith c { Arith.sum (fs.map (·.2)) with nans := nanCount (fs.map (·.1)) }) s
    else s
  let s := s.updCore c fun k => { k with targets := k.targets.filter fun u => u.qaddr != t.qaddr }
  s.setFlags c t.dfw (2 ^ t.dbit)

/-- Targets of a core that expect no partial are done as soon as the gate bit is set (R248). -/
def State.emptyTargets (s : State) (c : Nat) : State :=
  let k := s.core c
  (k.targets.filter fun t => t.npart == 0 && bitOf (k.flag t.gfw) t.gbit).foldl (fun s t => s.finishTarget c t) s

/-! ### The step -/

/-- Whether an instance runs in Plumb mode (R441, R458). -/
def State.plumbMode (s : State) (model : Nat) : Bool := bitOf (s.reg (R.DT_PLUMB + model / 32 * 4)) (model % 32)

/-- Which of the QR × KN pairs of a tile are visible: what the tile tests first, by QM and KM alone (R170). -/
def State.attnVisible (s : State) (c : Nat) (q : QStep) : List (List Bool) :=
  let w := q.word.toNat
  let qr := bitsOf w 196 190 + 1
  let kn := bitsOf w 204 197 + 1
  let cfg := bitsOf w 208 205
  let qm := tokenRecs qr (s.readStore c (operandAt w 154 q.alt) (8 * qr))
  let km := tokenRecs kn (s.readStore c (operandAt w 172 q.alt) (8 * kn))
  let mask := bitsOf (s.attnWord c cfg 0) 14 12
  qm.map fun a => km.map fun b => visible mask (s.attnWord c cfg 2) (bitsOf (s.attnWord c cfg 3) 15 0) a b

/-- An ATTN_TILE of a slot whose instance is `model`. -/
def State.runAttn (s : State) (c model : Nat) (q : QStep) : State :=
  let w := q.word.toNat
  let at_ (lo : Nat) := operandAt w lo q.alt
  let qr := bitsOf w 196 190 + 1
  let kn := bitsOf w 204 197 + 1
  let cfg := bitsOf w 208 205
  let w0 := s.attnWord c cfg 0
  let d := attnDim w0
  let fq := fmtOf (bitsOf w0 7 4)
  let fk := fmtOf (bitsOf w0 11 8)
  let scale := fp32L.decode (s.attnWord c cfg 1)
  let vis := s.attnVisible c q
  if vis.all fun r => r.all (!·) then s
  else
    let sat := s.satOf w
    let ef := s.expFmt
    let qs := fq.nativeRows qr d (s.readStore c (at_ 64) (fq.nativeBytes qr d))
    let ks := fk.nativeRows kn d (s.readStore c (at_ 82) (fk.nativeBytes kn d))
    let recompute := bitOf w0 14
    let vs := if recompute then [] else (fk.nativeRows kn d (s.readStore c (at_ 100) (fk.nativeBytes kn d))).map rowValues
    let views : List RowView := (qs.zip vis).map fun x => rowView fq fk scale x.1 ks vs x.2
    let inx := Arith.when (views.any (·.inx)) .windowInexact
    if recompute then
      let rows : List (List FVal × Arith) := views.zipIdx.map fun v =>
        let st := s.readStore c (at_ 136 + 8 * v.2) 8
        let mx := fp32L.decode (leField st 0 4)
        let ls := fp32L.decode (leField st 4 4)
        match v.1.bad with
        | some nanIn => (List.replicate kn .nan, v.1.st.add (if nanIn || mx.isNan || ls.isNan then .nanSeen else .invalid))
        | none =>
          if mx.isNan || ls.isNan then (List.replicate kn .nan, v.1.st.add .nanSeen)
          else if ls == .inf true then (List.replicate kn .zero, v.1.st)
          else
            let ps := v.1.keys.map fun k =>
              let (a, s0) := FVal.add k.2.1 mx.neg
              let (b, s1) := FVal.mul a log2eFp32
              let (e, s2) := FVal.add b ls.neg
              let (p, s3) := SfuFn.exp2.result ef sat e
              (k.1, ef.value p, Arith.sum [s0, s1, s2, ⟨s3.bits, 0, s3.sats, 0⟩])
            ((List.range kn).map fun j => ((ps.find? fun p => p.1 == j).map fun p => p.2.1).getD .zero,
              v.1.st.add (Arith.sum (ps.map fun p => p.2.2)))
      let bytes := rows.map fun r => (ef.vecWrite sat r.1).1
      let nans := (rows.map fun r => (r.1.filter FVal.isNan).length).sum
      (s.writeRows c (at_ 118) (rowBytes kn ef.bits) bytes).arith c ((Arith.sum (rows.map (·.2))).add (inx.add ⟨0, nans, 0, 0⟩))
    else
      let rs := if bitOf w 209 then List.replicate qr (RowState.initial d) else s.readTarget c (at_ 118) (at_ 136) qr d
      let last := bitOf w 210
      let merge := bitOf w 211
      let tidx := bitsOf w 221 212
      let finish (s : State) (rs : List RowState) (st : Arith) : State :=
        let fs := rs.map fun r => if last then finalRow sat d r else (r, Arith.none)
        let outs := fs.map (·.1)
        (s.writeTarget c (at_ 118) (at_ 136) d outs).arith c
          (Arith.sum (st :: inx :: ⟨0, nanCount outs, 0, 0⟩ :: fs.map fun x => ⟨x.2.bits, 0, x.2.sats, 0⟩))
      if !merge then
        let xs := (rs.zip views).map fun x => onlineRow ef sat kn d x.1 x.2
        finish s (xs.map (·.1)) (Arith.sum (xs.map (·.2)))
      else
        let ps := views.map (partialRow ef sat kn d)
        let pst := Arith.sum (ps.map (·.2))
        if s.plumbMode model && s.plumbOn c then
          let s := s.writeEntry c qr d tidx (bitOf w 209) (ps.map (·.1))
          if last then
            let base := s.baseEntry c qr d tidx
            let (s, rs, st) := s.foldEntries c qr d sat base (tidx + 1 - base) rs pst
            finish s rs st
          else if bitOf w 209 then finish s rs pst
          else s.arith c (pst.add inx)
        else
          let (rs, st) := foldRows sat d rs (ps.map (·.1))
          finish s rs (pst.add st)

/-! ### What a step reads of its core store (R79, R80) -/

/-- Places and lengths in core store that an ATTN_TILE reads: QM and KM alone where no pair is visible (R170); else also Q and K, V outside recompute, the running rows (or the saved statistics), and the staging entries that a LAST tile folds (R178). -/
def State.attnReads (s : State) (c model : Nat) (q : QStep) : List (Nat × Nat) :=
  let w := q.word.toNat
  let at_ (lo : Nat) := operandAt w lo q.alt
  let qr := bitsOf w 196 190 + 1
  let kn := bitsOf w 204 197 + 1
  let w0 := s.attnWord c (bitsOf w 208 205) 0
  let d := attnDim w0
  let kf := fmtOf (bitsOf w0 11 8)
  let recs := [(at_ 154, 8 * qr), (at_ 172, 8 * kn)]
  if (s.attnVisible c q).all fun r => r.all (!·) then recs
  else
    let base := recs ++ [(at_ 64, (fmtOf (bitsOf w0 7 4)).nativeBytes qr d), (at_ 82, kf.nativeBytes kn d)]
    let rows := [(at_ 118, qr * (4 * d)), (at_ 136, 8 * qr)]
    let first := bitOf w 209
    let last := bitOf w 210
    let staged := bitOf w 211 && s.plumbMode model && s.plumbOn c
    if bitOf w0 14 then base ++ [(at_ 136, 8 * qr)]
    else
      base ++ [(at_ 100, kf.nativeBytes kn d)]
        ++ (if first || (staged && !last) then [] else rows)
        ++ (if staged && last && !first then
              let tidx := bitsOf w 221 212
              let b := s.baseEntry c qr d (tidx - 1)
              (List.range (tidx - b)).map fun i => (s.entryAt c qr d (b + i), entryBytes qr d)
            else [])

/-- Places and lengths in core store that a unit step reads: its source operands, C where it accumulates (R90), the argument fields of a dropout (R94), or what an ATTN_TILE reads. -/
def State.reads (s : State) (c model : Nat) (q : QStep) : List (Nat × Nat) :=
  let w := q.word.toNat
  let srcs := ((s.extents c w).filter fun e => !e.out).map fun e => (operandAt w e.lo q.alt, e.bytes)
  match stType w with
  | 0x02 | 0x03 =>
    srcs ++ (if bitOf w 157 then [(operandAt w 100 q.alt, (bitsOf w 124 118 + 1) * rowBytes (bitsOf w 131 125 + 1) 32)] else [])
  | 0x04 => srcs ++ (if bitsOf w 71 64 = 0x20 then [(argAt q.slot + 8, 22)] else [])
  | 0x08 => s.attnReads c model q
  | _ => srcs

/-- Where something that the step reads holds an uncorrectable error (R79). -/
def State.operandBad (s : State) (c model : Nat) (q : QStep) : Option Nat :=
  (s.reads c model q).findSome? fun e => s.badWord (State.storeAt c e.1) e.2

/-- The single-bit errors that the step's reads correct (R80). -/
def State.operandSeep (s : State) (c model : Nat) (q : QStep) : State :=
  (s.reads c model q).foldl (fun t e => t.seep c e.1 e.2) s

end Sys2Proof.Machine
end

