-- ==== Sys2Proof/Machine/SluiceCore.lean ====
section
/-! DEFINITION. The sluice engine's records, claims, hops and aborts (R287–R312), short of what ends a batch step. -/

namespace Sys2Proof.Machine

/-! ### Operation records (R289) -/

def slKind (r : Nat) : Nat := bitsOf r 2 0
def slValid (r : Nat) : Bool := bitOf r 3
def slRing (r : Nat) : Nat := bitsOf r 11 4
def slModel (r : Nat) : Nat := bitsOf r 19 12
def slChunks (r : Nat) : Nat := bitsOf r 31 20 + 1
def slRoot (r : Nat) : Nat := bitsOf r 47 32
def slK (r : Nat) : Nat := bitsOf r 59 48 + 1
/-- A place in a terrace: die [22:21] and offset in 64-byte units [20:0]. -/
def slPlace (f : Nat) : Nat := State.terraceAt (bitsOf f 22 21) (bitsOf f 20 0 * 64)
def slSrc (r : Nat) : Nat := slPlace (bitsOf r 95 64)
def slDst (r : Nat) : Nat := slPlace (bitsOf r 127 96)

/-- BODY of the control messages of an execution: OPID, EXEC, chunk, pass, origin, and three further numbers. -/
def slBody (opid exec cidx pass origin a b c : Nat) : List Byte :=
  leBytes 2 opid ++ leBytes 2 exec ++ leBytes 2 cidx ++ leBytes 1 pass ++ leBytes 1 0 ++ leBytes 2 origin ++ leBytes 2 a ++ leBytes 2 b ++ leBytes 2 c

namespace State

def slUpd (s : State) (f : SlState → SlState) : State := { s with sl := f s.sl }
def slRec (s : State) (opid : Nat) : Nat := (Map.getD 0 s.sl.ops opid).toNat
def slCount (s : State) (opid : Nat) : Nat := Map.getD 0 s.sl.count opid
/-- The number of an execution: 65536 · OPID + EXEC. -/
def slKey (opid exec : Nat) : Nat := opid * 65536 + exec % 65536
def slExec (s : State) (k : Nat) : Option SlExec := s.sl.execs.get? k
def setExec (s : State) (k : Nat) (x : SlExec) : State := s.slUpd fun l => { l with execs := l.execs.put k x }
/-- Executions of an OPID that stand here, the oldest number first. -/
def slExecs (s : State) (opid : Nat) : List (Nat × SlExec) := s.sl.execs.filter fun x => x.1 / 65536 == opid

/-- An execution number has completed or aborted here (R302). -/
def slPast (s : State) (opid exec : Nat) : Bool :=
  let d := (s.slCount opid + 65536 - exec % 65536) % 65536
  d != 0 && Nat.blt d 32768

/-! ### Rings (R298) -/

def ringRanks (s : State) (r : Nat) : List Nat := Map.getD [] s.cu.rings r
def ringPos (s : State) (r : Nat) : Nat := ((s.ringRanks r).idxOf? s.ownRank).getD 0
def ringSucc (s : State) (r : Nat) : Nat := let l := s.ringRanks r; l.getD ((s.ringPos r + 1) % max 1 l.length) s.ownRank
def ringPred (s : State) (r : Nat) : Nat := let l := s.ringRanks r; l.getD ((s.ringPos r + l.length - 1) % max 1 l.length) s.ownRank
def ringLowest (s : State) (r : Nat) : Nat := (s.ringRanks r).foldl min 65535
/-- The member with the next higher logical rank. -/
def ringNext (s : State) (r : Nat) : Option Nat :=
  ((s.ringRanks r).filter fun k => decide (s.ownRank < k)).foldl (fun b k => match b with | none => some k | some m => some (min m k)) none

/-- Control messages to every other member, in ascending position order. -/
def tellRing (s : State) (r mtype : Nat) (body : List Byte) : State :=
  (s.ringRanks r).foldl (fun s k => if k = s.ownRank then s else s.sendControl k mtype body) s

/-! ### Slots and claims (R291, R296) -/

/-- Slots that an execution holds here: claimed, and not freed by a finished chunk. -/
def slSlots (x : SlExec) : Nat := if x.phase = 3 then 0 else x.slots - x.fin.length

/-- Slots that an instance holds. -/
def slHeld (s : State) (m : Nat) : Nat :=
  ((s.sl.execs.filter fun (x : Nat × SlExec) => slModel (s.slRec (x.1 / 65536)) == m).map fun x => slSlots x.2).sum

def slBudget (s : State) (m : Nat) : Nat := bitsOf (s.reg (R.SL_BUDGET + 4 * m)) 12 0

def SlExecNew (exec : Nat) : SlExec := ⟨exec, 0, 0, none, false, [], [], [], [], [], [], [], none, 0, [], 0⟩

/-- A slow notice of a member of the ring stands, this chip's own included (R307, R308). -/
def slowIn (s : State) (ring : Nat) : Bool :=
  let l := s.ringRanks ring
  (s.cu.slow && l.contains s.ownRank) || s.cu.slowRanks.any l.contains

/-- Active executions of rings in which a notice stands are extended (R308). -/
def slExtend (s : State) : State :=
  s.slUpd fun l => { l with execs := l.execs.map fun x =>
    (x.1, if x.2.phase == 2 && s.slowIn (slRing (s.slRec (x.1 / 65536))) then { x.2 with ext := true } else x.2) }

/-- An execution becomes active when START reaches this member (R305). -/
def slActivate (s : State) (k : Nat) : State :=
  match s.slExec k with
  | none => s
  | some x => s.setExec k { x with phase := 2, ext := x.ext || s.slowIn (slRing (s.slRec (k / 65536))) }

/-- A claim token at this member (R296): the claim where the budget allows it, with the token or START sent on; else the token waits. A token of an execution that is over here, or has claimed, is discarded. -/
def slToken (s : State) (k : Nat) : State :=
  let opid := k / 65536
  let exec := k % 65536
  let r := s.slRec opid
  let m := slModel r
  let stale := match s.slExec k with | some x => x.phase != 0 | none => s.slPast opid exec
  let rest := s.sl.tokens.filter fun t => !(t.1 == opid && t.2.1 == exec)
  if stale then s.slUpd fun l => { l with tokens := rest }
  else if s.slBudget m < s.slHeld m + slChunks r then
    let since := match s.sl.tokens.find? fun t => t.1 == opid && t.2.1 == exec with | some t => t.2.2 | none => s.now
    (s.slUpd fun l => { l with tokens := rest ++ [(opid, exec, since)] }).orReg R.SL_ERR 0x10
  else
    let s := s.slUpd fun l => { l with tokens := rest }
    let x := (s.slExec k).getD (SlExecNew exec)
    let s := s.setExec k { x with phase := 1, slots := slChunks r }
    match s.ringNext (slRing r) with
    | some n => s.sendControl n 0x12 (slBody opid exec 0 0 0 0 0 0)
    | none => (s.tellRing (slRing r) 0x13 (slBody opid exec 0 0 0 0 0 0)).slActivate k

/-- The claim of an execution wanted here starts where this member has the lowest rank, and the previous execution of its OPID is over (R296, R313). -/
def slFirst (s : State) (k : Nat) : State :=
  let opid := k / 65536
  match s.slExec k with
  | none => s
  | some x =>
    if x.phase == 0 && (!x.mine.isEmpty || x.die.isSome) && k % 65536 == s.slCount opid && s.ringLowest (slRing (s.slRec opid)) == s.ownRank
        && !s.sl.tokens.any (fun t => t.1 == opid && t.2.1 == k % 65536) then s.slToken k else s

/-- An execution is wanted here: it has a chunk, or a launch. -/
def slWant (s : State) (k : Nat) (f : SlExec → SlExec) : State :=
  (s.setExec k (f ((s.slExec k).getD (SlExecNew (k % 65536))))).slFirst k

/-- The number of the first execution of an OPID from EXEC on that satisfies p, or stands nowhere here yet. -/
def slFree (s : State) (opid : Nat) (p : SlExec → Bool) : Nat :=
  let e := s.slCount opid
  let ok := fun (i : Nat) => match s.slExec (slKey opid (e + i)) with | some x => x.phase != 3 && p x | none => true
  slKey opid (e + ((List.range (s.slExecs opid).length).find? ok).getD (s.slExecs opid).length)

/-- Tokens that wait are tried again when slots may be free. -/
def slRetry (s : State) : State := s.sl.tokens.foldl (fun s t => s.slToken (slKey t.1 t.2.1)) s

/-! ### Contributions (R292–R294) -/

/-- The berm entry of this execution's chunk. -/
def slChunk (s : State) (opid exec cidx : Nat) : Option BermChunk :=
  s.berm.find? fun b => b.opid == opid && b.exec == exec && b.cidx == cidx

def bermPlace (s : State) (b : BermChunk) : Nat := storeAt b.core (s.bermAt b.core b.berm + b.entry * 65536)
def BermChunkBytes (b : BermChunk) : Nat := b.rows * rowBytes b.cols 32

/-- A chunk's entry is taken (R294): slots that waited for a berm may go on. -/
def slTake (s : State) (b : BermChunk) : State :=
  let s : State := { s with berm := s.berm.map fun x => if x = b then { x with taken := true } else x }
  s.settle b.core

def dropChunk (s : State) (b : BermChunk) : State :=
  ({ s with berm := s.berm.filter fun x => x != b } : State).settle b.core

/-- This member's contribution to a chunk is at hand (R301). -/
def slHas (s : State) (k : Nat) (x : SlExec) (cidx : Nat) : Bool :=
  if slKind (s.slRec (k / 65536)) ≤ 1 then (s.slChunk (k / 65536) x.exec cidx).isSome else x.die.isSome

/-- The engine reads the chunk's berm entry: what it meets in the core's store shows there (R80). -/
def slMeet (s : State) (k : Nat) (x : SlExec) (cidx : Nat) : State :=
  if slKind (s.slRec (k / 65536)) ≤ 1 then match s.slChunk (k / 65536) x.exec cidx with
    | some b => s.meetStore b.core (s.bermAt b.core b.berm + b.entry * 65536) (BermChunkBytes b)
    | none => s
  else s

/-- Its bytes. A top-k list has K entries unless its launch names fewer. -/
def slOwn (s : State) (k : Nat) (x : SlExec) (cidx : Nat) : List Byte :=
  let r := s.slRec (k / 65536)
  if slKind r ≤ 1 then match s.slChunk (k / 65536) x.exec cidx with
    | some b => s.readMem (s.bermPlace b) (BermChunkBytes b)
    | none => []
  else if slKind r = 4 then s.readMem (slSrc r + cidx * 65536) (16 * Map.getD (slK r) s.sl.staged (4096 * k + cidx))
  else s.readMem (slSrc r + cidx * 65536) 65536

/-! ### Combining (R299, R300) -/

/-- Status of the sluice adders (R59, R299), and the canonical NaNs they write (R75). -/
def arithSl (s : State) (a : Arith) : State :=
  let s := s.count R.SF_NAN_OUT_LO a.nans
  if a.bits = 0 then s
  else
    let new := (List.range 7).filter fun n => bitOf a.bits n && !bitOf (s.reg R.SF_STICKY) n && bitOf (s.reg R.SF_STICKY_LOG) n
    new.foldl (fun s n => s.report 0 0x05 n 0 0) ((s.orReg R.SL_ARITH a.bits).orReg R.SF_STICKY a.bits)

/-- Element-wise FP32 sum of two chunks, the incoming value on the left; row padding keeps the own bytes. A NaN addend raises NAN_SEEN (R59). -/
def slAdd (rows cols : Nat) (inc own : List Byte) : List Byte × Arith :=
  let pitch := rowBytes cols 32
  let rs : List (List Byte × Arith) := (List.range rows).map fun r =>
    let a := Fmt.fp32.values cols (inc.drop (r * pitch))
    let b := Fmt.fp32.values cols (own.drop (r * pitch))
    let vs := List.zipWith (fun x y => FVal.add x y) a b
    let (bytes, st) := Fmt.fp32.vecWrite false (vs.map (·.1))
    (bytes ++ ((own.drop (r * pitch + 4 * cols)).take (pitch - 4 * cols)),
      ((Arith.sum (vs.map (·.2))).add st).add (.when ((a ++ b).any FVal.isNan) .nanSeen))
  ((rs.map (·.1)).flatten, Arith.sum (rs.map (·.2)))

/-- Entries of a top-k list: score bits and id. -/
def topkEntries : Nat → List Byte → List (Nat × Nat)
  | 0, _ => []
  | n + 1, l => if l.length < 16 then [] else (leField l 0 4, leField l 8 8) :: topkEntries n (l.drop 16)

/-- The order of a top-k list: descending score, −0 equal to +0, then ascending id. -/
def topkBefore (a b : Nat × Nat) : Bool :=
  let x := fp32L.decode a.1
  let y := fp32L.decode b.1
  if FVal.lt y x then true else if FVal.lt x y then false else Nat.ble a.2 b.2

/-- Two lists merged: NaN scores dropped, one entry for each id, the first K kept. -/
def topkMerge (k : Nat) (a b : List (Nat × Nat)) : List (Nat × Nat) × Nat :=
  let l := a ++ b
  let good := l.filter fun e => !(fp32L.decode e.1).isNan
  let sorted : List (Nat × Nat) := good.mergeSort topkBefore
  let uniq := sorted.foldl (fun (acc : List (Nat × Nat)) (e : Nat × Nat) => if acc.any (fun f => f.2 == e.2) then acc else acc ++ [e]) []
  (uniq.take k, l.length - good.length)

def topkBytes (l : List (Nat × Nat)) : List Byte := (l.map fun (e : Nat × Nat) => leBytes 4 e.1 ++ leBytes 4 0 ++ leBytes 8 e.2).flatten

/-- combine at this member; the sum stands in the berm entry in place of the contribution. -/
def slCombine (s : State) (k : Nat) (x : SlExec) (cidx : Nat) (inc : List Byte) : List Byte × State :=
  let r := s.slRec (k / 65536)
  let own := s.slOwn k x cidx
  let s := s.slMeet k x cidx
  if slKind r = 4 then
    let (l, nan) := topkMerge (slK r) (topkEntries 4096 inc) (topkEntries 4096 own)
    (topkBytes l, s.count R.SL_TOPK_NAN_LO nan)
  else match s.slChunk (k / 65536) x.exec cidx with
    | some b =>
      let (bytes, st) := slAdd b.rows b.cols inc own
      (bytes, (s.writeMem (s.bermPlace b) bytes).arithSl st)
    | none => ([], s)

/-- A result written at this member: to C without the row padding, or to DST; a merged list with the number of its entries. -/
def slWrite (s : State) (k cidx p : Nat) (data : List Byte) : State :=
  let r := s.slRec (k / 65536)
  if slKind r ≤ 1 then match s.slChunk (k / 65536) (k % 65536) cidx with
    | some b =>
      let pitch := rowBytes b.cols 32
      (List.range b.rows).foldl (fun s i => s.writeStore b.core (b.addr + i * pitch) ((data.drop (i * pitch)).take (4 * b.cols))) s
    | none => s
  else if slKind r = 2 then s.writeMem (slDst r + (p * slChunks r + cidx) * 65536) data
  else if slKind r = 4 then
    (s.writeMem (slDst r + cidx * 65536) data).slUpd fun l => { l with staged := l.staged.put (4096 * k + cidx) (data.length / 16) }
  else s.writeMem (slDst r + cidx * 65536) data

/-! ### Sharded searches (R338) -/

/-- A batch waits for execution `exec` of `opid`. -/
def skWaits (s : State) (b : SkBatch) (opid exec : Nat) : Bool :=
  b.phase == 8 && s.reg (R.SK_IDX + 64 * b.index + 28) % 65536 == opid && b.exec == exec

/-- A batch ends on an error of its requests. -/
def skFail (s : State) (b : SkBatch) (status result : Nat) : State :=
  let s := b.parts.foldl (fun s p =>
    match s.hi.reqs.find? fun r => r.q == p.1 && r.index == p.2.1 with
    | some r => s.failReq r status 0 result
    | none => s) s
  { s with sk := { s.sk with batches := s.sk.batches.filter fun c => c.num != b.num } }

/-! ### Aborts (R311), short of the settling -/

/-- The number of a hop among the owners of tags (R132): its execution, chunk, pass and origin. -/
def hopNo (k cidx pass origin : Nat) : Nat := ((k * 4096 + cidx) * 4 + pass) * 65536 + origin
def hopExec (h : Nat) : Nat := h / 65536 / 4 / 4096

/-- An execution aborts at this member: it stops, its slots and berm entries are freed, EXEC advances, and the settle window begins with the notice. -/
def slStop (s : State) (k cause late detect : Nat) : State :=
  let opid := k / 65536
  let e := s.slCount opid
  let x := (s.slExec k).getD (SlExecNew (k % 65536))
  let s := (s.berm.filter fun b => b.opid == opid && b.exec == x.exec).foldl dropChunk s
  let s : State := { s with tg := { s.tg with reqs := s.tg.reqs.filter fun q => match q.owner with | .sluice h => hopExec h != k | _ => true } }
  let s := s.slUpd fun l => { l with
    count := l.count.store 0 opid ((e + 1) % 65536)
    tokens := l.tokens.filter fun t => !(t.1 == opid && t.2.1 == k % 65536)
    staged := l.staged.filter fun t => t.1 / 4096 != k
    execs := l.execs.put k { x with phase := 3, slots := 0, out := [], grants := [], waits := [], got := [], probe := none, notices := [(cause, late, detect)], since := s.now } }
  let s := (s.count R.SL_ABORTS_LO 1).orReg R.SL_ERR 1
  (s.slRetry).slFirst (slKey opid (s.slCount opid))

/-- An abort detected here: notices go to every member. -/
def slAbort (s : State) (k cause late : Nat) : State :=
  let ended := match s.slExec k with | some x => x.phase == 3 | none => false
  if ended then s
  else
    let r := slRing (s.slRec (k / 65536))
    let s := s.orReg R.SL_ERR (match cause with | 0x01 => 2 | 0x02 => 4 | 0x03 => 8 | _ => 0)
    let s := s.tellRing r 0x14 (slBody (k / 65536) (k % 65536) 0 0 r cause late s.ownRank)
    s.slStop k cause late s.ownRank

/-- The executions under way here that satisfy p abort. -/
def slAbortAll (s : State) (cause : Nat) (p : Nat → SlExec → Bool) : State :=
  (s.sl.execs.filter fun x => x.2.phase != 3 && p x.1 x.2).foldl (fun s x => s.slAbort x.1 cause s.ownRank) s

/-- Every execution of a model instance that is under way here aborts with MEMBER_LOST (R310, R313). -/
def slAbortModel (s : State) (m : Nat) : State := s.slAbortAll 0x04 fun k _ => slModel (s.slRec (k / 65536)) == m

/-- The executions to which a core has contributed abort with MEMBER_LOST: the core has faulted or retires (R310). -/
def slAbortCore (s : State) (c : Nat) : State :=
  s.slAbortAll 0x04 fun k x => s.berm.any fun b => b.core == c && b.opid == k / 65536 && b.exec == x.exec

end State

end Sys2Proof.Machine
end

