-- ==== Sys2Proof/Machine/Steps.lean ====
section
/-! DEFINITION. Requests by context and model, and the end of a batch step by an event (R113, R166, R255, R282, R311, R405). -/

namespace Sys2Proof.Machine

namespace State

/-- The current epoch (R215). -/
def epoch (s : State) : Nat := s.reg R.KV_EPOCH_LO + 2 ^ 32 * (s.reg R.KV_EPOCH_HI % 65536)

def ctx (s : State) (x : Nat) : Ctx := Map.getD Ctx.empty s.kv.ctxs x
def setCtx (s : State) (x : Nat) (c : Ctx) : State := { s with kv := { s.kv with ctxs := Map.store Ctx.empty s.kv.ctxs x c } }
def updCtx (s : State) (x : Nat) (f : Ctx → Ctx) : State := s.setCtx x (f (s.ctx x))

end State

/-- Opcodes that name a context in CTX (R395). -/
def namesCtx (op : Nat) : Bool := [2, 3, 4, 5, 6, 7].contains op

/-- The context that a request works on: CTX, or the one that a CREATE has made. -/
def Req.target (r : Req) : Option Nat := if r.opcode = 1 then r.tokens.head? else if namesCtx r.opcode then some r.ctx else none

namespace State

/-- The model instance a request belongs to (R396); none for a request of no model. -/
def modelOf (s : State) (r : Req) : Option Nat :=
  if r.opcode = 1 then some (r.field 28 1)
  else if namesCtx r.opcode then some (s.ctx r.ctx).model
  else none

/-- A request of queue q by command id, oldest first. A request that a reset of the host port has cut off from its queue runs on under queue number 1,024 + q and writes no entry (R384); it is found after the queue's own. -/
def findReq (s : State) (q cid : Nat) (op : Nat) (phase : ReqPhase) : Option Req :=
  let ok := fun (n : Nat) (r : Req) => r.q == n && r.cid == cid && r.opcode == op && r.phase == phase
  match s.hi.reqs.find? (ok q) with
  | some r => some r
  | none => s.hi.reqs.find? (ok (1024 + q))

/-- The stream contexts of a model instance are cancelled on every core (R166). -/
def cancelModel (s : State) (m : Nat) : State :=
  s.cores.foldl (fun s k =>
    (k.2.streams.foldl (fun s r => if (k.2.slot r.2.slot).model = m then s.cancelRun (32 * k.1 + r.1) else s) s).followEnd s k.1) s

/-- Growth of some contexts appends nothing (R405). -/
def dropGrowth (s : State) (f : Nat → Bool) : State :=
  { s with kv := { s.kv with growth := s.kv.growth.map fun g => if f g.ctx then { g with tokens := [], ran := true, span := 0 } else g } }

/-- The running batch step of model instance m ends on an event (R113, R166, R255, R405): its requests take the error, its tokens are discarded, its streams are cancelled, its collectives abort, the quarry units drop its work, and what they have delivered folds no more. -/
def endStep (s : State) (m status detail result : Nat) : State :=
  let s := (s.hi.reqs.filter fun r => r.phase == .admitted && s.modelOf r == some m).foldl
    (fun s r => s.failReq r status detail result) s
  let s := (s.cancelModel m).slAbortModel m
  let hit := (s.kv.growth.filter fun g => g.epoch == s.epoch && (s.ctx g.ctx).model == m).map (·.ctx)
  let s := s.dropGrowth fun x => hit.contains x
  let s : State := { s with kv := { s.kv with
    updates := s.kv.updates.filter fun u => !((s.ctx u.ctx).model == m && u.epoch == s.epoch)
    walks := s.kv.walks.filter fun w => (s.ctx w.ctx).model != m
    ranks := s.kv.ranks.filter fun k => (s.ctx (k.1 / 4096)).model != m } }
  let mine := fun (d : QuDesc) => d.model == m && d.epoch == s.epoch && (match d.sender with | .die _ => true | _ => false)
  let s : State := { s with qus := s.qus.map fun u =>
      (u.1, { u.2 with
        queue := u.2.queue.map fun d => if mine d then { d with dead := true } else d
        wait := u.2.wait.map fun d => if mine d then { d with dead := true } else d
        results := u.2.results.filter fun r => r.2 != some (m, s.epoch) }) }
  s.cores.keys.foldl (fun s c => s.updCore c fun k =>
    let gone := (k.targets.filter fun t => t.model == m).map (·.qaddr)
    { k with targets := k.targets.filter (fun t => t.model != m), partials := k.partials.filter fun p => !gone.contains p.qaddr }) s

/-- The running batch steps of every model instance end (R38, R429, R468). -/
def endSteps (s : State) (status detail result : Nat) : State :=
  let ms := (s.hi.reqs.filterMap fun r => if r.phase == .admitted then s.modelOf r else none).eraseDups
  ms.foldl (fun s m => s.endStep m status detail result) s

/-- A model instance fails under R282: its step ends, and its requests complete with MODEL_LOST. -/
def loseModel (s : State) (m g : Nat) : State :=
  if (s.ti.lost.get? m).isSome then s
  else
    let s := s.upd fun t => { t with lost := t.lost.put m g }
    let s := s.endStep m 0x14 0 (g % 2 ^ 36 + m * 2 ^ 40)
    (s.hi.reqs.filter fun r => r.phase == .waiting && s.modelOf r == some m).foldl
      (fun s r => s.complete r 0x14 0 (g % 2 ^ 36 + m * 2 ^ 40)) s

/-- Every admitted request on a context of a failed read completes with the error (R202, R254), and what its step appends is discarded (R405). -/
def failCtx (s : State) (x status detail result : Nat) : State :=
  let hit := s.hi.reqs.filter fun r => r.phase == .admitted && r.target == some x
  if hit = [] then s else (hit.foldl (fun s r => s.failReq r status detail result) s).dropGrowth fun y => y == x

end State

end Sys2Proof.Machine
end

