-- ==== Sys2Proof/Machine/Moves.lean ====
section
/-! DEFINITION. Moves, heat epochs, spillway reads and re-supply (R267–R284). -/

namespace Sys2Proof.Machine

namespace State

def setMove (s : State) (m m' : Move) : State := s.upd fun t => { t with moves := t.moves.map fun n => if n = m then m' else n }
/-- A decision is dropped; the promotion of an exchange goes with its demotion (R268). -/
def dropMove (s : State) (m : Move) : State :=
  s.upd fun t => { t with moves := (t.moves.erase m).filter fun n => !(m.kind == .exchange && n.phase == .decided && n.pair == some m.gran) }

/-! ### Pump entries (R139–R141) -/

/-- Program p; an index that the image leaves out holds no layers. -/
def pumpProg (s : State) (p : Nat) : Option PumpProgram := s.tg.pumps[p]?.filter fun x => x.layers != 0
def pumpEntry (s : State) (p e : Nat) : Nat := match s.pumpProg p with | some x => ((x.entries[e]?).getD 0).toNat | none => 0
def pumpBytes (w : Nat) : Nat := (bitsOf w 122 103 + 1) * 64

/-- BAR2 offset of the destination of byte o of an entry, for the slot of its layer. -/
def pumpAt (s : State) (p e layer o : Nat) : Nat :=
  let w := s.pumpEntry p e
  match s.pumpProg p with
  | none => 0
  | some x =>
    let a := bitsOf w 90 64 + layer % x.slots * (x.stride * 64) + o
    if bitsOf w 102 99 = 1 then terraceAt (bitsOf w 92 91) a else storeAt (bitsOf w 98 91) a

def pumpRun? (s : State) (p e layer : Nat) : Option PumpRun := s.tg.runs.find? fun r => r.prog == p && r.entry == e && r.layer == layer
def setPumpRun (s : State) (r : PumpRun) : State :=
  s.tgUpd fun t => { t with runs := t.runs.map fun x => if x.prog = r.prog ∧ x.entry = r.entry ∧ x.layer = r.layer then r else x }

/-- An entry is issued: its run starts, and it asks for tags; `again` issues of it wait behind. -/
def startPump (s : State) (p e layer again : Nat) : State :=
  s.tgUpd fun t => { t with
    runs := t.runs ++ [⟨p, e, layer, 0, [], none, again⟩]
    reqs := t.reqs ++ [⟨.read, .pump p e layer, 0, pumpBytes (s.pumpEntry p e)⟩] }

def pumpOwner (r : PumpRun) : Owner := .pump r.prog r.entry r.layer

/-- Pump hauls that waited for granule g ask again from their prefix, once they have drained; a resume after NOT_RESIDENT pins the granule (R148). -/
def pumpResume (s : State) (g : Nat) : State :=
  s.tg.runs.foldl (fun s r =>
    match r.halt with
    | some (cause, h) =>
      let x := s.entry g
      let bad := x.poison && (decide (2 < cause) || s.isWeight g)
      if h = g ∧ !x.spill ∧ !bad ∧ (s.moveOf g).isNone ∧ s.held (pumpOwner r) = 0 then
        let n := pumpBytes (s.pumpEntry r.prog r.entry)
        let again := (r.parts.map (·.2)).sum / 64
        let s := ((s.setPumpRun { r with halt := none, parts := [] }).count R.TG_RESUME_LO 1).count R.TG_REFETCH_LO again
        s.tgUpd fun t => { t with
          reqs := t.reqs ++ [⟨.read, pumpOwner r, r.pre, n⟩]
          pins := if cause = 0x01 then t.pins ++ [⟨g, pumpOwner r, s.now + s.reg R.TG_PIN_TIME⟩] else t.pins }
      else s
    | none => s) s

/-- Model instance m needs granule g. A POISON weight granule is notified to the host where that has not been done (R281, R432); where its re-supply has run out, the instance fails at once (R282). -/
def needGran (s : State) (m g : Nat) : State :=
  if (s.entry g).poison && s.isWeight g then
    if s.ti.expired.contains g then s.loseModel m g else s.notify g
  else s

/-- A halt takes effect once every tag of the pump haul has completed (R147): its promotion, if the spillway holds the granule, is decided at once, and it resumes at once where the granule is home already. -/
def pumpDrain (s : State) (r : PumpRun) : State :=
  match r.halt with
  | some (cause, g) =>
    if s.held (pumpOwner r) != 0 then s
    else
      let s := s.count R.TG_HALT_LO 1
      let s := match s.pumpProg r.prog with | some x => s.needGran x.model g | none => s
      if 2 < cause then s else (if cause = 0x01 then s.demand g else s).pumpResume g
  | none => s

/-- A pump haul halts (R143, R147): it asks for no further tag. -/
def pumpHalt (s : State) (r : PumpRun) (cause g : Nat) : State :=
  let r := { r with halt := some (cause, g) }
  ((s.setPumpRun r).dropReqs (pumpOwner r)).pumpDrain r

/-! ### Moves -/

/-- The quarry MOVE of a granule to a frame of its own stack (R232, R271). -/
def moveDesc (s : State) (g f : Nat) : QuDesc :=
  ⟨BitVec.ofNat 256 (g * 65536 + 1023 * 2 ^ 52 + 2 ^ 64 + 0x42 * 2 ^ 72), .tier, some f, s.epoch, 0, false⟩

/-- Tags that a move of granule g waits for or holds, of a class or of any (R131, R132). -/
def moveTags (s : State) (g : Nat) (c : Option TagClass) : Bool :=
  let mine := fun (o : Owner) (k : TagClass) => o == .move g && (match c with | some k' => k == k' | none => true)
  s.tg.reqs.any (fun q => mine q.owner q.cls) || s.tg.xfers.any fun x => mine x.owner x.cls

/-- Tags for one granule of a move are asked for (R132): a stack source reads, a stack destination writes, and the spillway side is remote. -/
def askMove (s : State) (g : Nat) (cs : List TagClass) : State :=
  s.tgUpd fun t => { t with reqs := t.reqs ++ cs.map fun c => ⟨c, .move g, 0, 65536⟩ }

/-- A move whose destination frames are all taken enters COPYING (R271). -/
def startCopy (s : State) (m : Move) : State :=
  let s := s.setMove m { m with phase := .copying }
  let s := if m.up then s.upd fun t => { t with dirty := t.dirty.filter fun x => !(m.frames.any fun e => x.1 == m.dst * 2 ^ 20 + e.2) } else s
  let s := match m.kind with
    | .heat => s.count (if m.up then R.TI_PROMOTE_LO else R.TI_DEMOTE_LO) 1
    | .pump => s.count R.TI_PROMOTE_LO 1
    | .demand => s.count R.TI_DEMAND_LO 1
    | .demote | .exchange | .swapOut => s.count R.TI_DEMOTE_LO 1
    | .swapIn | .evac => s
  m.frames.foldl (fun s (g, f) =>
    let x := s.entry g
    if !m.up then s.askMove g [.read, .remote]
    else if x.spill then s.askMove g [.remote, .write]
    else if x.stack == m.dst then s.quPush m.dst (s.moveDesc g f)
    else s.askMove g [.read, .write]) s

/-- A pump promotion starts only with frames beyond the polders' freeboard (R270). -/
def spares (s : State) (m : Move) : Bool :=
  m.kind != .pump || m.phase == .reserved || decide (s.fbReserved < ((List.range 8).map s.freeFrames).sum)

/-- The decision's move takes frame f for its granule g of polder p (R266): a zeroed frame or one that last held the polder's data, or a free spillway frame. A pump promotion leaves the polders' freeboard alone (R268, R270), and the promotion of an exchange follows the start of its demotion (R268). -/
def takes (s : State) (m : Move) (g f p : Nat) : Bool :=
  if m.up then
    let key := m.dst * 2 ^ 20 + f
    s.frameFree m.dst f && !s.ti.zeroing.contains key
      && ((s.entry g).undef || (match s.ti.dirty.get? key with | none => true | some q => q == p))
      && s.spares m
      && (match m.pair with | some v => !(s.ti.moves.any fun n => n.gran == v && n.kind == .exchange && n.phase == .decided) | none => true)
  else decide (f < s.ti.spill.length) && !s.heldSpill.contains f

/-- A decided promotion whose stack has filled up meanwhile goes to the roomiest one.

DESIGN CHOICE: the manual chooses the stack when the promotion is decided, and does not say what a move does whose stack has no frame left. -/
def retarget (s : State) (m : Move) : Move := if m.up && m.phase == .decided && m.kind != .evac && s.freeFrames m.dst == 0 && (s.unitGrans m.gran).all (fun h => (s.entry h).spill) then { m with dst := s.roomiest } else m

/-- MOVE_RESERVE: granule g of a decided move takes frame f (R266, R271, R273). A decision that meets a move of its unit in progress is discarded.

DEDUCED: the lock of R273 is held from RESERVED onward, which a decision enters as it takes its first frame. -/
def reserve (s : State) (g f : Nat) : State :=
  match s.ti.moves.find? fun m => Move.covers m g && m.phase == .decided && (s.moveOf g).isSome with
  | some m =>
    let same := m.kind == .demand && (match s.moveOf g with | some n => n.up | none => false)
    (s.dropMove m).count R.TI_DISCARD_LO (b2n (!same))
  | none =>
    let x := s.entry g
    let p := s.granPolder g
    match s.ti.moves.find? fun m => Move.covers m g && (m.phase == .decided || m.phase == .reserved) && (m.frames.get? g).isNone && s.takes (s.retarget m) g f p with
    | none =>
      match s.ti.moves.find? fun m => Move.covers m g && m.phase == .decided && (m.kind == .heat || m.kind == .exchange) && !m.up with
      | some m => if s.openSpill = 0 then s.dropMove m else s
      | none => s
    | some m =>
      let n := s.retarget m
      if n.up && x.undef && n.kind != .demand then s.dropMove m
      else if n.up && x.undef then
        let s := (s.setMove m n).giveHome g n.dst f p
        if (s.unitGrans g).all fun h => !(s.entry h).undef then
          let s := (s.upd fun t => { t with moves := t.moves.filter fun k => !Move.covers k g }).count R.TI_DEMAND_LO 1
          (s.unitGrans g).foldl pumpResume s
        else s
      else
        let m' := { n with phase := .reserved, frames := n.frames.put g f }
        let s := s.setMove m m'
        if m'.frames.length = m.size then s.startCopy m' else s

/-- Granule g of a move is at its destination and checked; after the last one the move waits to commit. -/
def finish (s : State) (m : Move) (g : Nat) : State :=
  let fin := if m.fin.contains g then m.fin else m.fin ++ [g]
  s.setMove m { m with fin := fin, phase := if fin.length = m.size then .commitWait else m.phase }

/-- MOVE_DATA_DONE: the last byte of granule g arrives (R271, R277, R278). -/
def dataDone (s : State) (g : Nat) (st : XferStatus) : State :=
  match s.moveOf g with
  | some m =>
    let x := s.entry g
    if s.pw.stopped ∨ m.phase ≠ .copying ∨ m.fin.contains g ∨ s.moveTags g none ∨ s.awaitsZero g then s
    else if m.up && (x.spill || x.stack == m.dst) then (if m.got.contains g then s.finish m g else s)
    else
      let s := match st with
        | .ok => s
        | .corrected => s.stackCorr x.stack (x.frame % 64)
        | .dataError => s.stackUe (g * 65536) 65536
      let f := Map.getD 0 m.frames g
      let data := s.readFrame x.stack x.frame 0 65536
      if m.up then (s.writeFrame m.dst f 0 data).finish m g
      else
        let c := s.encrypt g data
        let s := s.send (.hostWrite (s.ti.spill.getD f 0) c)
        let m' := { m with crcs := m.crcs.put g (crc32c c) }
        (s.setMove m m').finish m' g
  | none => s

/-- A spillway read of granule g has ended; `late` stays while a retried read of another granule is awaited (R283). -/
def arrived (m : Move) (g : Nat) : Move :=
  let got := m.got ++ [g]
  { m with got := got, late := m.tries.any fun t => t.2 != 0 && !got.contains t.1 }

/-- A spillway read of granule g failed or was late (R279): it is issued again, or the granule has an uncorrectable host-tier error; the move still commits (R280). -/
def retryRead (s : State) (m : Move) (g : Nat) : State :=
  let n := Map.getD 0 m.tries g
  let p := (s.entry g).polder
  if n < bitsOf (s.reg R.TI_SPILL_CTRL) 2 0 then
    let s := (s.setMove m { m with tries := m.tries.put g (n + 1), late := true }).count R.TI_SPILL_RETRY_LO 1
    if s.moveTags g (some .remote) then s else s.askMove g [.remote]
  else
    let s := s.setMove m (arrived m g)
    (((s.count R.TI_SPILL_UE_LO 1).orReg R.TI_ERR 1).report 4 0x08 0x01 p 0).poison g

/-- A completion of a spillway read (R278, R279). -/
def spillRead (s : State) (g : Nat) (good : Bool) (cipher : List Byte) : State :=
  match s.moveOf g with
  | some m =>
    let x := s.entry g
    if m.phase ≠ .copying ∨ !m.up ∨ !x.spill ∨ m.got.contains g then s
    else if good && s.moveTags g (some .remote) then s
    else if good && decide (cipher.length = 65536) then
      if crc32c cipher = x.crc then
        let s := s.writeFrame m.dst (Map.getD 0 m.frames g) 0 (s.decrypt g cipher)
        s.setMove m (arrived m g)
      else
        (((s.count R.TI_CRC_FAIL_LO 1).orReg R.TI_ERR 2).report 2 0x08 0x02 x.polder 0).retryRead m g
    else s.retryRead m g
  | none => s

/-! ### Retired pseudo-channels (R284) -/

/-- Units with a home in a pseudo-channel being evacuated. -/
def evacUnits (s : State) : List Nat :=
  (s.ti.map.filterMap fun e =>
    if !e.2.spill && s.ti.evac.contains (64 * e.2.stack + e.2.frame % 64) then
      (findGran e.1 s.ti.regions).map s.unitStart else none).eraseDups

/-- An evacuation finds no free frame (R284): TI_ERR.EVAC_STUCK, and the D8 reports itself degraded. -/
def evacStuck (s : State) (p : Nat) : State :=
  if bitOf (s.reg R.TI_ERR) 4 then s
  else
    let s := (s.orReg R.TI_ERR 0x10).report 2 0x08 0x06 p 0
    { s with el := { s.el with degraded := true } }

/-- Map and frame-table frames of stack st that stand in channel pc. -/
def tableFrames (s : State) (st pc : Nat) : List Nat := (List.range (s.mapF + s.spF)).filter fun i => s.mapFrame st i % 64 == pc

/-- The lowest free frame of a stack, be its ZERO queued or not. -/
def lowestFree (s : State) (st : Nat) : Option Nat :=
  let held := s.heldFrames st
  searchFrom (fun f => !s.pcGone st f && !s.isMapFrame st f && !held.contains f) (2 ^ 20) (2 ^ 20) 0

/-- Map and frame-table frames in a channel go to the lowest free frames of the stack; one that finds none stays (R284). -/
def relocate (s : State) (st pc : Nat) : State :=
  (s.tableFrames st pc).foldl (fun s i =>
    match s.lowestFree st with
    | some f => s.upd fun t => { t with moved := t.moved.put (st * 2 ^ 20 + i) f, dirty := t.dirty.del (st * 2 ^ 20 + f) }
    | none => s.evacStuck 0) s

/-- Evacuation moves are decided for every unit that can leave; a unit with nowhere to go leaves the evacuation stuck. A bitmap copy keeps to its stack (R322).

DEDUCED: a frame of another stack, too, is one beyond the unused freeboard. -/
def evacuate (s : State) : State :=
  let s := s.ti.evac.foldl (fun s k => s.relocate (k / 64) (k % 64)) s
  (s.evacUnits.filter fun g => (s.moveOf g).isNone && !s.decided g [.evac]).foldl (fun s g =>
    let x := s.entry g
    let n := s.unitSize g
    let kept := (s.bitmapStack g).isSome
    let away := ((List.range 8).filter (· != x.stack)).foldl (fun b st => if s.stackFree b < s.stackFree st ∨ b = x.stack then st else b) x.stack
    if n ≤ s.stackFree x.stack ∧ (kept ∨ n ≤ s.freeBeyond) then s.plan (s.newMove g .evac true x.stack)
    else if kept then s.evacStuck x.polder
    else if n ≤ s.stackFree away ∧ n ≤ s.freeBeyond then s.plan (s.newMove g .evac true away)
    else if s.ti.ready ∧ n ≤ s.spillFree then s.plan (s.newMove g .evac false 0)
    else s.evacStuck x.polder) s

/-- Channels that hold nothing any more are retired; U falls with them. -/
def retireEmpty (s : State) : State :=
  s.ti.evac.foldl (fun s k =>
    let st := k / 64
    let pc := k % 64
    if (s.heldFrames st).any (fun f => f % 64 == pc) || s.tableFrames st pc != [] then s
    else s.upd fun t => { t with evac := t.evac.filter (· != k), retired := t.retired ++ [k] }) s

/-- A frame has been freed: a stuck evacuation goes on (R284). -/
def frameFreed (s : State) : State := if s.ti.evac.isEmpty then s else s.evacuate.retireEmpty

/-- The chip manager retires pseudo-channel pc of stack st (R284). A move into it that has not reached COPYING is discarded (R33, R274) and decided again: a demand promotion at the next pass, and one of a swap-in, which no pass decides, at once and for another stack; heat and the pump decide their own again. -/
def retirePc (s : State) (st pc : Nat) : State :=
  if s.ti.retired.contains (64 * st + pc) ∨ s.ti.evac.contains (64 * st + pc) then s
  else
    let gone := s.ti.moves.filter fun m => m.phase == .reserved && m.up && m.dst == st && m.frames.any fun x => x.2 % 64 == pc
    let s := s.upd fun t => { t with
      evac := t.evac ++ [64 * st + pc]
      moves := t.moves.filter fun m => !gone.contains m
      wanted := (t.wanted ++ (gone.filter fun m => m.kind == .demand).map (·.gran)).eraseDups }
    let s := (gone.filter fun m => m.kind == .swapIn).foldl (fun s m => s.plan (s.newMove m.gran .swapIn true s.roomiest)) s
    s.evacuate.retireEmpty

/-! ### The commit (R271, R275, R276) -/

/-- Reads in flight of granules that leave their homes are served from the old ones (R144). -/
def keepReads (s : State) (grans : List Nat) : State :=
  let mine := fun (x : Xfer) => x.cls == .read && x.data.isNone && grans.contains (granOf x.addr) && !(s.entry (granOf x.addr)).spill
    && (match x.owner with | .stream _ => true | .pump _ _ _ => true | _ => false)
  s.tgUpd fun t => { t with xfers := t.xfers.map fun x => if mine x then { x with data := some (s.devRead x.addr x.len) } else x }

/-- A move commits: map entries, charges, freed frames. -/
def commitMove (s : State) (m : Move) : State :=
  let grans := (List.range m.size).map (m.gran + ·)
  let p := (s.entry m.gran).polder
  let off := if m.kind == .evac then m.size else
    (grans.filter fun g => let x := s.entry g; !x.spill && s.ti.evac.contains (64 * x.stack + x.frame % 64)).length
  let lost := s.ti.moves.filter fun k => Move.covers k m.gran && k.phase == .decided && !(k.kind == .demand && m.up)
  let s := (s.upd fun t => { t with moves := t.moves.filter fun k => !Move.covers k m.gran }).count R.TI_DISCARD_LO lost.length
  let s := s.keepReads grans
  let s := grans.foldl (fun s g =>
    let x := s.entry g
    let s := if x.spill then s else s.freeFrame x.stack x.frame x.polder
    s.updEntry g fun x =>
      if m.up then { x with spill := false, stack := m.dst, frame := Map.getD 0 m.frames g, crc := 0, grace := true }
      else { x with spill := true, stack := 0, frame := Map.getD 0 m.frames g, crc := Map.getD 0 m.crcs g, grace := true }) s
  let above := if !m.up && (m.kind == .swapOut || m.kind == .evac) then min m.size (s.charged true p - s.quotaSpill p) else 0
  let s := if above = 0 then s else ((s.count R.TI_SPILL_OVER_LO above).orReg R.TI_ERR 8).report 0 0x08 0x05 p 0
  (s.count R.TI_EVAC_LO off).frameFreed

/-- May a move in COMMIT_WAIT commit: a move out of a stack waits for quarry descriptors that name it (R237). -/
def commitReady (s : State) (m : Move) : Bool :=
  m.phase == .commitWait &&
    ((s.entry m.gran).spill || (List.range m.size).all fun i => !s.quNames (m.gran + i))

end State

/-- HEAT_EPOCH (R267, R268): every 1 ms counters halve, GRACE clears, waiting demand promotions try again, and each die runs its placement pass. -/
def execHeatEpoch (s : State) : Outcome :=
  let map := (s.ti.map.map fun e => (e.1, { e.2 with heat := e.2.heat / 2, grace := false })).filter fun e => e.2 != MapEntry.undefined
  let s := s.upd fun t => { t with map := map }
  let s := s.ti.wanted.foldl State.demand s
  .next ((List.range 4).foldl State.pass s.evacuate)

/-- MOVE_DATA_DONE (R271). -/
def execMoveDataDone (gran : Nat) (status : XferStatus) (s : State) : Outcome := .next (s.dataDone gran status)

/-- BACKGROUND_ZERO (R266): the lowest free frame of the stack that is not zeroed gets a ZERO while fewer than 1,024 zeroed frames are ready. -/
def execBackgroundZero (stack : Nat) (s : State) : Outcome :=
  onUnit (decide (stack < 8))
    (match (s.ti.dirty.filter fun x => x.1 / 2 ^ 20 == stack && s.frameFree stack (x.1 % 2 ^ 20)).head? with
     | some (k, _) =>
       if s.zeroedFree stack < 1024 then
         (s.upd fun t => { t with zeroing := t.zeroing ++ [k], dirty := t.dirty.del k }).quPush stack (State.zeroDesc (k % 2 ^ 20))
       else s
     | none => s)

/-- SPILL_READ_COMPLETE (R279). -/
def execSpillReadComplete (gran : Nat) (good : Bool) (cipher : List Byte) (s : State) : Outcome := .next (s.spillRead gran good cipher)

/-- SPILL_READ_LATE (R279). -/
def execSpillReadLate (gran : Nat) (s : State) : Outcome := .next (s.spillRead gran false [])

/-- The model instances with a step that waits on granule g: halted hauls of their cores, and halted pump entries (R282). -/
def State.waitingModels (s : State) (g : Nat) : List Nat :=
  let a := s.cores.flatMap fun c =>
    (c.2.streams.filter fun r => match r.2.halt with | some (_, h) => h == g | none => false).map fun r => (c.2.slot r.2.slot).model
  let b := s.tg.runs.filterMap fun r =>
    match r.halt with
    | some (_, h) => if h = g then (s.tg.pumps[r.prog]?).map (·.model) else none
    | none => none
  (a ++ b).eraseDups

/-- RESUPPLY_TIMEOUT (R282), once TI_RESUPPLY_TIMEOUT has passed since the notice. -/
def execResupplyTimeout (gran : Nat) (s : State) : Outcome :=
  .next (if (match s.ti.supply.get? gran with | some due => Nat.blt s.now due | none => true) then s
    else
      let ms := s.waitingModels gran
      let s := s.upd fun t => { t with supply := t.supply.del gran, expired := t.expired ++ [gran] }
      let s := (s.orReg R.TI_ERR 4).report 4 0x08 0x04 (s.entry gran).polder 0
      ms.foldl (fun s m => s.loseModel m gran) s)

/-- TI_MAP_SEL_HI written: the granule's map entry is captured (R285). -/
def State.selectGran (s : State) (v : Nat) : State :=
  let lo := Map.getD (s.reg R.TI_MAP_SEL_LO) s.hi.held R.TI_MAP_SEL_LO
  let s : State := { s with hi := { s.hi with held := s.hi.held.del R.TI_MAP_SEL_LO } }
  let s := (s.setReg R.TI_MAP_SEL_LO lo).setReg R.TI_MAP_SEL_HI (v % 16)
  let g := lo + 2 ^ 32 * (v % 16)
  let w := if (s.entryNo g).isSome then s.entryWord g else 0
  (List.range 4).foldl (fun s i => s.setReg (R.TI_MAP_DATA + 4 * i) (w / 2 ^ (32 * i) % 2 ^ 32)) s

/-- TI_MAP_SEL_HI (R285): completing the write captures the granule's map entry. -/
def execTiMapSelHi (v : Word) (s : State) : Outcome := .next (s.selectGran v.toNat)

/-- PATROL_READ (R259, R280): a patrol read of stack memory finds an error in a pseudo-channel, in a granule or none. -/
def execPatrolRead (stack pc gran : Nat) (ecc : Ecc) (s : State) : Outcome :=
  onUnit (decide (stack < 8) && decide (pc < 64))
    (match ecc with
     | .clean => s
     | .corrected => s.stackCorr stack pc
     | .uncorrectable =>
       let (a, s) := s.freeLine (gran * 65536) 65536
       let s := (s.orReg R.TI_ERR 0x20).reportAt 4 (0x18 + stack) 0x02 pc a
       if (s.entry gran).spill then s else s.poison gran)

end Sys2Proof.Machine
end

