-- ==== Sys2Proof/Machine/Kv.lean ====
section
/-! DEFINITION. Pages, page frame records, page tables, the seam table, growth and release (R187–R225). -/

namespace Sys2Proof.Machine

/-- Why an allocation fails (R221, R223): no page of the pool is free, the polder's quota, or the stacks' frames; with the granules that lack. -/
inductive Short where
  | pages
  | quota (p : Nat)
  | frames
  deriving DecidableEq, Repr

/-- The smallest power of two KiB, from 1 to 256, that holds n bytes. -/
def blockKib (n : Nat) : Nat := ([1, 2, 4, 8, 16, 32, 64, 128].find? fun k => Nat.ble n (1024 * k)).getD 256

namespace Model

/-- Offsets and sizes of a page row (R197) and of a sketch block (R199). -/
def recOff (m : Model) : Nat := roundUp (64 + 8 * m.layers) 64
def rowKib (m : Model) : Nat := blockKib (m.recOff + 8 * m.tpp)
def seamKib (m : Model) : Nat := blockKib (m.recOff + 12 * m.tpp)
def sketchKib (m : Model) : Nat := blockKib (64 * m.layers * m.hkv)

end Model

namespace State

def model (s : State) (m : Nat) : Option Model := s.models.get? m

/-! ### Page frame records (R188, R206) -/

def poolBase (s : State) : Nat := s.reg64 R.KV_POOL_BASE_LO
def poolPages (s : State) : Nat := s.reg R.KV_POOL_PAGES
def pageAddr (s : State) (pn : Nat) : Nat := s.poolBase + pn * 262144
def pageNo (s : State) (a : Nat) : Nat := (a - s.poolBase) / 262144

def pft (s : State) (pn : Nat) : Nat := ofLe (s.devRead (s.reg64 R.KV_PFT_BASE_LO + 16 * pn) 16)
/-- A read of the page tables by a die control core holds a read tag, a write holds a write tag (R132), and each heats what it touches (R267). -/
def tableRead (s : State) (a n : Nat) : State := (s.tagPulse .read).heat (a / 64 * 64) (a % 64 + n)
def tableWrite (s : State) (a : Nat) (bs : List Byte) : State := ((s.tagPulse .write).devWrite a bs).heat (a / 64 * 64) (a % 64 + bs.length)

def setPft (s : State) (pn v : Nat) : State := s.tableWrite (s.reg64 R.KV_PFT_BASE_LO + 16 * pn) (leBytes 16 v)

def pageRef (s : State) (pn : Nat) : Nat := bitsOf (s.pft pn) 15 0
def pageState (s : State) (pn : Nat) : Nat := bitsOf (s.pft pn) 18 16
def pagePolder (s : State) (pn : Nat) : Nat := bitsOf (s.pft pn) 25 20

/-- REF, STATE, SEAMREF, POLDER, EPOCH and NEXT as one record. -/
def pftWord (ref st seam polder epoch next : Nat) : Nat :=
  ref + st * 2 ^ 16 + seam * 2 ^ 19 + polder * 2 ^ 20 + epoch % 2 ^ 48 * 2 ^ 32 + next * 2 ^ 96

def setRef (s : State) (pn n : Nat) : State := s.setPft pn (setBits (s.pft pn) 15 0 n)

def freePages (s : State) : Nat :=
  ((List.range s.poolPages).filter fun pn => s.pageState pn == 0 && !s.kv.loading.contains pn).length

/-! ### The spoil lists (R212) -/

def kvUpd (s : State) (f : KvState → KvState) : State := { s with kv := f s.kv }

/-- NEXT of a page frame record (R206). -/
def setNext (s : State) (pn n : Nat) : State := s.setPft pn (setBits (s.pft pn) 127 96 n)

/-- Pages on the spoil list of die d's control core. -/
def spoilPages (s : State) (d : Nat) : List Nat := (s.kv.spoil.filter fun x => !x.block && x.die == d).map fun x => s.pageNo x.addr

/-- The pages of each control core's spoil list are linked through NEXT in tag order (R206, R212). -/
def linkSpoil (s : State) : State :=
  (List.range 4).foldl (fun s d =>
    let l := s.spoilPages d
    (l.zip (l.drop 1 ++ [0xFFFFFFFF])).foldl (fun s x => s.setNext x.1 x.2) s) s

/-- A page whose REF reached 0 goes to the end of the spoil list of die d's control core, tagged with the epoch. -/
def spoilPage (s : State) (d pn : Nat) : State :=
  let last := (s.spoilPages d).getLast?
  let s := s.setPft pn (pftWord 0 2 0 (s.pagePolder pn) s.epoch 0xFFFFFFFF)
  let s := match last with | some l => s.setNext l pn | none => s
  s.kvUpd fun k => { k with spoil := k.spoil ++ [⟨s.pageAddr pn, 256, false, s.epoch, d⟩] }

/-- The control core of die d releases a table block (R200, R212). -/
def spoilBlock (s : State) (d a : Nat) : State :=
  match s.kv.blocks.get? a with
  | some kib => s.kvUpd fun k => { k with blocks := k.blocks.del a, spoil := k.spoil ++ [⟨a, kib, true, s.epoch, d⟩] }
  | none => s

/-- One holder fewer (R217). -/
def dropRef (s : State) (d a : Nat) : State :=
  let pn := s.pageNo a
  let n := s.pageRef pn
  if n ≤ 1 then s.spoilPage d pn else s.setRef pn (n - 1)

/-! ### The free lists (R206) -/

def pageNext (s : State) (pn : Nat) : Nat := bitsOf (s.pft pn) 127 96

/-- The NEXT fields of the pool's records as it is set up: the pages stand in one list, in an order that is open. -/
def linkPool (s : State) : State :=
  let (v, s) := s.draw
  let l := (List.range s.poolPages).mergeSort fun a b => Nat.ble (Config.unstated 41 [v, a]) (Config.unstated 41 [v, b])
  let next := (l.zip (l.drop 1 ++ [0xFFFFFFFF])).mergeSort fun a b => Nat.ble a.1 b.1
  s.devWrite (s.reg64 R.KV_PFT_BASE_LO) (next.flatMap fun x => leBytes 16 (pftWord 0 0 0 0 0 x.2))

/-- A page leaves its free list: the page before it in the list now names the one behind it. -/
def unlinkFree (s : State) (pn : Nat) : State :=
  match (List.range s.poolPages).find? fun q => s.pageState q == 0 && s.pageNext q == pn with
  | some q => s.setNext q (s.pageNext pn)
  | none => s

/-- NEXT of a page that enters the pool: it goes behind a free page, or begins a list of its own. Which is open, as the number of the lists and their order are. -/
def linkFree (s : State) (pn : Nat) : State :=
  let (v, s) := s.draw
  match searchFrom (fun q => q != pn && s.pageState q == 0) s.poolPages s.poolPages (v % (s.poolPages + 1)) with
  | some q => if v % (s.poolPages + 1) = s.poolPages then s.setNext pn 0xFFFFFFFF else (s.setNext pn (s.pageNext q)).setNext q pn
  | none => s.setNext pn 0xFFFFFFFF

/-- Epochs of the work that batch steps have issued and that has not finished (R215): quarry descriptors and results of the die control cores, sketch updates, copies, and streams. -/
def outstandingWork (s : State) : List Nat :=
  (s.qus.flatMap fun q =>
    ((q.2.queue ++ q.2.wait).filterMap fun d => match d.sender with | .die _ => some d.epoch | _ => none) ++ q.2.results.filterMap fun r => r.2.map (·.2))
    ++ s.kv.updates.map (·.epoch)
    ++ (s.kv.growth.filter fun g => !g.copies.isEmpty).map (·.epoch)
    ++ s.cores.flatMap fun c => c.2.streams.map fun r => r.2.epoch

/-- KV_DRAINED (R215): the epoch of the oldest batch step with work outstanding, or of the running one, minus 1. -/
def drained (s : State) : Nat := s.outstandingWork.foldl min s.epoch - 1

/-- A page comes back to the free pool: its granules become UNDEF, and the polder's freeboard is refilled first (R212, R222, R264). -/
def returnPage (s : State) (pn : Nat) : State :=
  let p := s.pagePolder pn
  let s := (s.setPft pn (pftWord 0 0 0 0 0 0xFFFFFFFF)).linkFree pn
  let s := (List.range 4).foldl (fun s i => s.dropHome (granOf (s.pageAddr pn) + i)) s
  s.kvUpd fun k => { k with fbUsed := Map.store 0 k.fbUsed p (Map.getD 0 k.fbUsed p - 1) }

/-- SPOIL_RETURN (R212): in tag order, what is drained and has no move of its granules in progress. -/
def returnSpoil (s : State) : State :=
  let ok := fun (x : Spoil) => Nat.ble x.tag s.drained
    && (List.range (max 1 (x.size / 64))).all fun i => (s.moveOf (granOf x.addr + i)).isNone
  let back := s.kv.spoil.filter ok
  let s := s.kvUpd fun k => { k with spoil := k.spoil.filter fun x => !ok x }
  if back = [] then s
  else (back.foldl (fun s x => if x.block then s else s.returnPage (s.pageNo x.addr)) s).linkSpoil.frameFreed

/-! ### Allocation (R221, R222) -/

/-- A page for polder p, as LIVE or TABLE. `fb`: freeboard may serve it. Which free page is taken is open: a free value chooses where the search starts. -/
def allocPage (s : State) (p st : Nat) (fb : Bool) : Except Short (Nat × State) :=
  let (r, s) := s.draw
  let n := s.poolPages
  match searchFrom (fun pn => s.pageState pn == 0 && !s.kv.loading.contains pn) n n (r % max 1 n) with
  | none => .error .pages
  | some pn =>
    let g := granOf (s.pageAddr pn)
    let quotaOk := Nat.ble (s.claimed false p + 4) (s.quotaStack p - 4 * s.fbFree p)
    let framesOk := Nat.ble 4 s.freeBeyond
    let fromFb := !(quotaOk && framesOk)
    if fromFb && !(fb && Nat.blt 0 (s.fbFree p)) then .error (if quotaOk then .frames else .quota p)
    else
      let s := if fromFb then (s.kvUpd fun k => { k with fbUsed := k.fbUsed.put p (Map.getD 0 k.fbUsed p + 1) }).count R.KV_FB_ALLOC_LO 1 else s
      let s := s.count R.KV_ALLOC_LO 1
      let grans := (List.range 4).map (g + ·)
      let s := if !(s.entry g).spill then
          grans.foldl (fun s g =>
            let x := s.entry g
            if x.polder = p then s.updEntry g fun x => { x with poison := false }
            else ((s.freeFrame x.stack x.frame x.polder).claimFrame x.stack x.frame p).updEntry g fun x => { x with polder := p, poison := false }) s
        else ((if (s.entry g).undef then s else grans.foldl dropHome s).giveHomes grans p)
      .ok (pn, (s.unlinkFree pn).setPft pn (pftWord 1 st 0 p s.epoch 0xFFFFFFFF))

/-- Free places for a table block of `kib` KiB in the table pages of p that stand in a stack and stay there. -/
def blockPlaces (s : State) (p kib : Nat) : List Nat :=
  let used := s.kv.blocks.map (fun b => (b.1, b.2)) ++ (s.kv.spoil.filter (·.block)).map fun x => (x.addr, x.size)
  ((s.kv.tables.filter fun t => t.2 == p && !(s.entry (granOf t.1)).spill && (s.moveOf (granOf t.1)).isNone).map fun t =>
    ((List.range (256 / kib)).map fun i => t.1 + i * kib * 1024).filter fun a =>
      used.all fun (b, k) => Nat.ble (b + k * 1024) a || Nat.ble (a + kib * 1024) b).flatten

/-- A table block (R200): carved from a table page of the polder, or from a new one. The place is open. -/
def allocBlock (s : State) (p kib : Nat) (fb : Bool) : Except Short (Nat × State) :=
  let take := fun (s : State) (a : Nat) =>
    (a, (s.tableWrite a (List.replicate (kib * 1024) 0)).kvUpd fun k => { k with blocks := k.blocks.put a kib })
  let l := s.blockPlaces p kib
  if l = [] then
    match s.allocPage p 3 fb with
    | .error e => .error e
    | .ok (pn, s) =>
      let s := s.kvUpd fun k => { k with tables := k.tables.put (s.pageAddr pn) p }
      .ok (take s (s.pageAddr pn))
  else
    let (r, s) := s.draw
    .ok (take s (l.getD (r % l.length) 0))

/-! ### Rows of a context (R196–R198) -/

def rootEntry (s : State) (root r : Nat) : Nat := ofLe (s.devRead (root + 8 * r) 8)
/-- Address of row r, where its entry is valid. -/
def rowAddr (s : State) (root r : Nat) : Option Nat := let e := s.rootEntry root r; if bitOf e 0 then some (bitsOf e 51 10 * 1024) else none
def rowField (s : State) (row off n : Nat) : Nat := ofLe (s.devRead (row + off) n)
def setRowField (s : State) (row off n v : Nat) : State := s.tableWrite (row + off) (leBytes n v)
def rowTok (s : State) (row : Nat) : Nat := s.rowField row 24 2
def pageEntry (s : State) (row l : Nat) : Nat := s.rowField row (64 + 8 * l) 8
/-- Page address of layer l of a row. -/
def pageOf (s : State) (row l : Nat) : Nat := bitsOf (s.pageEntry row l) 51 18 * 262144

/-- Rows that a context's root has entries for, with tokens or planned. -/
def rowsOf (s : State) (x : Nat) : List (Nat × Nat) :=
  let c := s.ctx x
  if c.root = 0 then [] else (List.range (2 ^ (c.rootsz + 7))).filterMap fun r => (s.rowAddr c.root r).map fun a => (r, a)

/-- A granule of the n bytes at `a` cannot be read (R202, R280), or stands in the spillway beside one that cannot, so that no promotion of its page brings it to a stack (R236). -/
def blockBad (s : State) (a n : Nat) : Bool :=
  (extent a n).any fun e => (s.entry e.1).poison || ((s.entry e.1).spill && (s.unitGrans e.1).any fun h => (s.entry h).poison && !s.isWeight h)

/-- A page entry breaks R198: a reserved bit is set, or the page lies outside the pool. -/
def entryBad (s : State) (row l : Nat) : Bool :=
  let e := s.pageEntry row l
  bitsOf e 17 1 != 0 || bitsOf e 63 52 != 0
    || (bitOf e 0 && !(Nat.ble s.poolBase (s.pageOf row l) && Nat.blt (s.pageOf row l) (s.poolBase + s.poolPages * 262144)))

def rootBad (s : State) (root r : Nat) : Bool := let e := s.rootEntry root r; bitsOf e 9 1 != 0 || bitsOf e 63 52 != 0

/-- The page entry of a row can be used: it can be read, names a page of the pool, and that page's frame record can be read. -/
def entryOk (s : State) (row l : Nat) : Bool :=
  bitOf (s.pageEntry row l) 0 && !s.blockBad (row + 64 + 8 * l) 8 && !s.entryBad row l
    && !s.blockBad (s.reg64 R.KV_PFT_BASE_LO + 16 * s.pageNo (s.pageOf row l)) 16

/-- The key record of a filled slot (R167, R195): segment, then position. -/
def keyRecord (x pos : Nat) : List Byte := leBytes 4 x ++ leBytes 4 pos
def padRecord : List Byte := leBytes 4 0xFFFFFFFF ++ leBytes 4 0

def setRecord (s : State) (m : Model) (row t : Nat) (bs : List Byte) : State := s.tableWrite (row + m.recOff + 8 * t) bs

/-- A new row of context x: a block with padding records, a page for every layer, and a sketch block where the model selects (R197, R199). -/
def newPages (s : State) (p : Nat) (fb : Bool) (row : Nat) : Nat → Nat → Except Short State
  | 0, _ => .ok s
  | n + 1, l =>
    match s.allocPage p 1 fb with
    | .error e => .error e
    | .ok (pn, s) => newPages (s.setRowField row (64 + 8 * l) 8 (s.pageAddr pn + 1)) p fb row n (l + 1)

/-- A new row's padding records, and its sketch block `sk` where it has one. -/
def initRow (s : State) (m : Model) (row sk : Nat) : State :=
  (s.tableWrite (row + m.recOff) (List.replicate m.tpp padRecord).flatten).setRowField row 16 8 sk

def newRowBlocks (s : State) (m : Model) (p : Nat) (fb : Bool) : Except Short (Nat × State) :=
  match s.allocBlock p m.rowKib fb with
  | .error e => .error e
  | .ok (row, s) =>
    if m.select then
      match s.allocBlock p m.sketchKib fb with
      | .error e => .error e
      | .ok (k, s) => .ok (row, s.initRow m row k)
    else .ok (row, s.initRow m row 0)

def newRow (s : State) (m : Model) (p : Nat) (fb : Bool) : Except Short (Nat × State) :=
  match s.newRowBlocks m p fb with
  | .error e => .error e
  | .ok (row, s) =>
    match s.newPages p fb row m.layers 0 with
    | .error e => .error e
    | .ok s => .ok (row, s)

/-- ROOTSZ for n rows (R196). -/
def rootCode (n : Nat) : Nat := ((List.range 9).find? fun k => Nat.ble n (2 ^ (k + 7))).getD 8

/-- Pages of a row released (R217); an entry that cannot be used keeps its reference (R202). -/
def dropPages (s : State) (d row : Nat) (layers : Nat) : State :=
  (List.range layers).foldl (fun s l => if s.entryOk row l then s.dropRef d (s.pageOf row l) else s) s

/-- The control core of die d releases a row: its pages, its sketch block and itself. -/
def releaseRow (s : State) (m : Model) (d row : Nat) : State :=
  let sk := s.rowField row 16 8
  let s := s.dropPages d row m.layers
  (if sk = 0 then s else s.spoilBlock d sk).spoilBlock d row

/-! ### The seam table (R208–R216) -/

def seamWay (s : State) (h w : Nat) : Option SeamEntry := s.kv.seam.get? (4 * (h % 65536) + w)
def setSeam (s : State) (k : Nat) (e : SeamEntry) : State := s.kvUpd fun v => { v with seam := v.seam.put k e }
def seamAge (s : State) (e : SeamEntry) : Nat := (s.epoch % 2 ^ 22 + 2 ^ 22 - e.age) % 2 ^ 22

/-- R214. -/
def seamVisible (s : State) (q p : Nat) : Bool := q == p || bitOf (s.reg64 R.KV_POLDER_SHARED_LO) q

/-- R209. -/
def rowHash (s : State) (parent m : Nat) (toks : List Nat) : Nat :=
  sipHash s.seamKey.1 s.seamKey.2 (leBytes 8 parent ++ leBytes 2 m ++ (toks.map (leBytes 4)).flatten)

/-- The way of a set whose entry matches H and is visible to polder p. -/
def seamFind (s : State) (h p : Nat) : Option (Nat × SeamEntry) :=
  ((List.range 4).filterMap fun w => (s.seamWay h w).map fun e => (4 * (h % 65536) + w, e)).find? fun (_, e) =>
    e.tag == h / 65536 && s.seamVisible e.polder p

/-- The pages of a row are shared once more; `seam`: by a seam row. -/
def sharePages (s : State) (row layers : Nat) (seam : Bool) : State :=
  (List.range layers).foldl (fun s l =>
    let pn := s.pageNo (s.pageOf row l)
    let s := s.setRef pn (s.pageRef pn + 1)
    if seam then s.setPft pn (setBits (s.pft pn) 19 19 1) else s) s

def rowSaturated (s : State) (row layers : Nat) : Bool :=
  (List.range layers).any fun l => s.pageRef (s.pageNo (s.pageOf row l)) == 65535

def refSat (s : State) (x : Nat) : State := ((s.count R.KV_REF_SAT_LO 1).orReg R.KV_ERR 1).report 0 0x07 0x02 x 0

/-- A seam entry leaves the table: the pages of its row have a holder fewer, and SEAMREF stays where another seam row holds the page (R206, R217). The control core knows the pages without reading the row, wherever it stands. -/
def releaseSeam (s : State) (d k : Nat) (e : SeamEntry) : State :=
  let s := s.kvUpd fun v => { v with seam := v.seam.del k }
  let s := e.pages.foldl (fun s pn => s.dropRef d (s.pageAddr pn)) s
  let s := e.pages.foldl (fun s pn =>
    if s.pageState pn != 1 || s.kv.seam.any fun f => f.2.pages.contains pn then s else s.setPft pn (setBits (s.pft pn) 19 19 0)) s
  (if e.sketch = 0 then s else s.spoilBlock d e.sketch).spoilBlock d e.row

/-- SEAM_PUBLISH (R213): the row at `row`, full and hashed, of context x; `prev` is SROW of the previous row, `toks` its token ids.

DESIGN CHOICE: R213 does not say what a publish does for which no block can be allocated; the row is not published. -/
def publish (s : State) (x : Nat) (m : Model) (row : Nat) (prev : Nat) (toks : List Nat) : State :=
  let c := s.ctx x
  let h := s.rowField row 0 8
  if !bitOf (s.reg R.KV_SEAM_CTRL) 0 || !bitOf (s.reg64 R.KV_SEAM_PUB_LO) c.polder || (s.seamFind h c.polder).isSome then s
  else if s.rowSaturated row m.layers then s.refSat x
  else
    match (match s.allocBlock c.polder m.seamKib false with
      | .error e => Except.error e
      | .ok (a, s) =>
        if m.select then (match s.allocBlock c.polder m.sketchKib false with
          | .error e => .error e
          | .ok (k, s) => .ok (a, k, s))
        else .ok (a, 0, s)) with
    | .error _ => s
    | .ok (sr, sk, s) =>
      let s := s.tableWrite sr (s.devRead row 24 ++ leBytes 2 m.tpp ++ leBytes 1 3 ++ List.replicate 5 0 ++ leBytes 8 prev)
      let s := s.tableWrite (sr + 64) (s.devRead (row + 64) (m.recOff - 64 + 8 * m.tpp))
      let s := s.tableWrite (sr + m.recOff + 8 * m.tpp) (toks.map (leBytes 4)).flatten
      let s := s.sharePages row m.layers true
      let s := (if m.select then s.tableWrite sk (s.devRead (s.rowField row 16 8) (m.sketchKib * 1024)) else s).setRowField sr 16 8 sk
      let ways := (List.range 4).map fun w => 4 * (h % 65536) + w
      let way := match ways.find? fun k => (s.kv.seam.get? k).isNone with
        | some k => k
        | none => ways.foldl (fun b k =>
            match s.kv.seam.get? b, s.kv.seam.get? k with
            | some e, some f => if s.seamAge e < s.seamAge f then k else b
            | _, _ => b) (ways.headD 0)
      let s := match s.kv.seam.get? way with
        | some e => (s.releaseSeam c.home way e).count R.KV_SEAM_EVICT_LO 1
        | none => s
      let pages := (List.range m.layers).map fun l => s.pageNo (s.pageOf row l)
      ((s.setSeam way ⟨c.polder, h / 65536, sr, s.epoch % 2 ^ 22, c.model, pages, sk⟩).count R.KV_SEAM_INSERT_LO 1).setRowField row 8 8 sr

/-- SEAM_AGE_REWRITE (R211). -/
def ageRewrite (s : State) : State :=
  let f := fun (x : Nat × SeamEntry) =>
    if s.seamAge x.2 > 2 ^ 21 then (x.1, { x.2 with age := (s.epoch % 2 ^ 22 + 2 ^ 21) % 2 ^ 22 }) else x
  s.kvUpd fun k => { k with seam := k.seam.map f }

/-- ROOT and ROOTSZ as the next step will find them: the last enlargement planned (R196). -/
def nextRoot (s : State) (x : Nat) : Nat × Nat :=
  (s.kv.growth.filterMap fun g => if g.ctx = x then g.root else none).getLastD ((s.ctx x).root, (s.ctx x).rootsz)

/-- Row r of context x in the root that the next step will find. -/
def nextRow (s : State) (x r : Nat) : Option Nat :=
  let (a, k) := s.nextRoot x
  if r < 2 ^ (k + 7) then s.rowAddr a r else none

/-- Entry r of every root of context x with room for it. -/
def putRoot (s : State) (x r v : Nat) : State :=
  let c := s.ctx x
  let roots := (c.root, c.rootsz) :: s.kv.growth.filterMap fun g => if g.ctx = x then g.root else none
  roots.foldl (fun s a => if r < 2 ^ (a.2 + 7) then s.tableWrite (a.1 + 8 * r) (leBytes 8 v) else s) s

/-- Room in the root for row r of context x: a root for `need` rows is planned for the next boundary where the one in use ends before r (R196). -/
def roomyRoot (s : State) (x r need : Nat) (fb : Bool) : Except Short State :=
  let (a, k) := s.nextRoot x
  if r < 2 ^ (k + 7) then .ok s
  else match s.allocBlock (s.ctx x).polder (2 ^ rootCode need) fb with
    | .error e => .error e
    | .ok (b, s) =>
      .ok ((s.tableWrite b (s.devRead a (8 * 2 ^ (k + 7)))).kvUpd fun v => { v with growth := v.growth ++ [⟨x, [], some (b, rootCode need), [], s.epoch + 1, true, 0⟩] })

/-- HASH, SROW and HASHV of the row before row r (R209, R216). -/
def rowBefore (s : State) (x r : Nat) : Nat × Nat × Bool :=
  match (if r = 0 then none else s.nextRow x (r - 1)) with
  | some a => (s.rowField a 0 8, s.rowField a 8 8, bitOf (s.rowField a 26 1) 0)
  | none => (0, 0, r == 0)

/-- One step of the lookup of R216 for row r of context x, whose next step needs `need` rows in all, from tokens with their position ids: the context after adoption, or where it stops. A row that a failed step has left there is released. -/
def adoptRow (s : State) (x : Nat) (m : Model) (mi r need : Nat) (toks : List (Nat × Nat)) (fb : Bool) : State × Bool :=
  let c := s.ctx x
  let (parent, prow, hashed) := s.rowBefore x r
  if !hashed then (s, false)
  else
    let h := s.rowHash parent mi (toks.map (·.1))
    let s := s.count R.KV_SEAM_LOOKUP_LO 1
    match s.seamFind h c.polder with
    | none => (s, false)
    | some (k, e) =>
      let ids := (List.range m.tpp).map fun t => s.rowField e.row (m.recOff + 8 * m.tpp + 4 * t) 4
      if s.blockBad e.row (m.seamKib * 1024) then (s, false)
      else if ids ≠ toks.map (·.1) ∨ s.rowField e.row 32 8 ≠ prow then
        (((s.count R.KV_SEAM_VERIFY_FAIL_LO 1).orReg R.KV_ERR 8).report 0 0x07 0x03 x 0, false)
      else if s.rowSaturated e.row m.layers then (s.refSat x, false)
      else
        match (match s.roomyRoot x r need fb with | .error e => Except.error e | .ok s => s.newRowBlocks m c.polder fb) with
        | .error _ => (s, false)
        | .ok (row, s) =>
          let s := match s.nextRow x r with | some old => s.releaseRow m c.home old | none => s
          let s := s.tableWrite (row + 64) (s.devRead (e.row + 64) (8 * m.layers))
          let s := if m.select then s.tableWrite (s.rowField row 16 8) (s.devRead (s.rowField e.row 16 8) (m.sketchKib * 1024)) else s
          let s := toks.zipIdx.foldl (fun s t => s.setRecord m row t.2 (keyRecord x t.1.2)) s
          let s := s.sharePages row m.layers false
          let s := (((s.setRowField row 0 8 h).setRowField row 8 8 e.row).setRowField row 24 2 m.tpp).setRowField row 26 1 1
          let s := s.setSeam k { e with age := s.epoch % 2 ^ 22 }
          let s := s.putRoot x r (row + 1)
          let s := s.kvUpd fun k => { k with toks := k.toks.put x (Map.getD [] k.toks x ++ toks.map (·.1)) }
          ((s.updCtx x fun c => { c with len := (r + 1) * m.tpp }).count R.KV_SEAM_HIT_LO 1, true)

/-- R216: lookups are made, and the next row of context x begins empty and would be filled. -/
def mayAdopt (s : State) (x : Nat) (m : Model) (len n : Nat) : Bool :=
  m.seam && (s.ctx x).pos == 0 && bitOf (s.reg R.KV_SEAM_CTRL) 0 && len % m.tpp == 0 && Nat.ble m.tpp n && Nat.blt (len / m.tpp) 32768

/-- Seam rows in the spillway that the lookup of these tokens would adopt, from a parent hash on: they have to be promoted first. Fuel: the tokens. -/
def awaySeams (s : State) (x : Nat) (m : Model) (mi : Nat) : Nat → Nat → Nat → List Nat → List Nat
  | 0, _, _, _ => []
  | n + 1, len, parent, toks =>
    if !s.mayAdopt x m len toks.length then []
    else
      let h := s.rowHash parent mi (toks.take m.tpp)
      match s.seamFind h (s.ctx x).polder with
      | none => []
      | some (_, e) =>
        let rest := awaySeams s x m mi n (len + m.tpp) h (toks.drop m.tpp)
        let away := ([e.row, e.sketch].filter (· != 0)).filter fun a => (s.entry (granOf a)).spill && !(s.entry (granOf a)).poison
        away.map granOf ++ rest

/-- Rows that the lookup of these tokens will adopt, from a parent hash and the row before on: so many rows a root enlargement at this cut has to hold beside those of the step (R196). Fuel: the tokens. -/
def seamHits (s : State) (x : Nat) (m : Model) (mi : Nat) : Nat → Nat → Nat → Nat → List Nat → Nat
  | 0, _, _, _, _ => 0
  | n + 1, len, parent, prow, toks =>
    if !s.mayAdopt x m len toks.length then 0
    else
      let h := s.rowHash parent mi (toks.take m.tpp)
      match s.seamFind h (s.ctx x).polder with
      | none => 0
      | some (_, e) =>
        let ids := (List.range m.tpp).map fun t => s.rowField e.row (m.recOff + 8 * m.tpp + 4 * t) 4
        if s.blockBad e.row (m.seamKib * 1024) ∨ ids ≠ toks.take m.tpp ∨ s.rowField e.row 32 8 ≠ prow ∨ s.rowSaturated e.row m.layers then 0
        else 1 + seamHits s x m mi n (len + m.tpp) h e.row (toks.drop m.tpp)

/-- SEAM_LOOKUP (R216): rows adopted from the context's next row on, with `need` rows in all after the next step; the tokens left. Fuel: the tokens. -/
def seamLookup (x : Nat) (m : Model) (mi need : Nat) (fb : Bool) : Nat → State → List (Nat × Nat) → State × List (Nat × Nat)
  | 0, s, toks => (s, toks)
  | n + 1, s, toks =>
    let c := s.ctx x
    if !s.mayAdopt x m c.len toks.length then (s, toks)
    else
      match s.adoptRow x m mi (c.len / m.tpp) need (toks.take m.tpp) fb with
      | (s, true) => seamLookup x m mi need fb n s (toks.drop m.tpp)
      | (s, false) => (s, toks)

/-! ### Growth at the cut (R196, R218, R221) -/

/-- New rows r … of a context whose root in use is `old`: entries go into it where they fit, and into `root`, the root that the context will have; a row that a step left unused is taken as it is. -/
def growRows (s : State) (m : Model) (p : Nat) (fb : Bool) (old oldN root rootN : Nat) : Nat → Nat → Except Short State
  | 0, _ => .ok s
  | n + 1, r =>
    let was := if r < oldN then s.rowAddr old r else if r < rootN then s.rowAddr root r else none
    match (match was with | some a => Except.ok (a, s) | none => s.newRow m p fb) with
    | .error e => .error e
    | .ok (row, s) =>
      let s := if r < oldN then s.tableWrite (old + 8 * r) (leBytes 8 (row + 1)) else s
      let s := if root = old then s else s.tableWrite (root + 8 * r) (leBytes 8 (row + 1))
      growRows s m p fb old oldN root rootN n (r + 1)

/-- Fresh pages for the layers of a row that must be copied before the first write (R218). -/
def growCopies (s : State) (x row r p : Nat) (fb : Bool) : Nat → Nat → List CowCopy → Except Short (List CowCopy × State)
  | 0, _, acc => .ok (acc, s)
  | n + 1, l, acc =>
    let a := s.pageOf row l
    let mine := s.kv.growth.any fun g => g.ctx == x && g.copies.any fun c => c.row == r && c.layer == l
    let planned := s.kv.growth.any fun g => g.copies.any fun c =>
      match s.nextRow g.ctx c.row with | some w => s.pageOf w c.layer == a | none => false
    if mine ∨ (s.pageRef (s.pageNo a) = 1 ∧ !planned) then growCopies s x row r p fb n (l + 1) acc
    else
      match s.allocPage p 1 fb with
      | .error e => .error e
      | .ok (pn, s) => growCopies s x row r p fb n (l + 1) (acc ++ [⟨r, l, s.pageAddr pn, false⟩])

/-- LEN as the next step will find it: with the tokens that the running step appends (R201). -/
def nextLen (s : State) (x : Nat) : Nat := (s.ctx x).len + ((s.kv.growth.filter fun g => g.ctx == x).map fun g => g.tokens.length).sum

/-- Tokens of a context's sequence: LEN, or over all positions of its rank group (R156, R397). -/
def seqLen (s : State) (x : Nat) : Nat := if (s.ctx x).multi then Map.getD 0 s.kv.total x else (s.ctx x).len
def nextSeq (s : State) (x : Nat) : Nat := s.seqLen x + ((s.kv.growth.filter fun g => g.ctx == x).map (·.span)).sum

/-- Everything the next step needs to append these tokens to context x (R221). -/
def planGrowth (s : State) (x : Nat) (toks : List (Nat × Nat)) (span : Nat) (fb : Bool) : Except Short State :=
  let c := s.ctx x
  match s.model c.model with
  | none => .ok s
  | some m =>
    if toks = [] then .ok (s.kvUpd fun k => { k with growth := k.growth ++ [⟨x, [], none, [], s.epoch + 1, false, span⟩] })
    else
      let len := s.nextLen x
      let have_ := ceilDiv len m.tpp
      let need := ceilDiv (len + toks.length) m.tpp
      let (cur, code) := s.nextRoot x
      let curN := 2 ^ (code + 7)
      let rooted : Except Short (Option (Nat × Nat) × State) :=
        if need ≤ curN then .ok (none, s)
        else match s.allocBlock c.polder (2 ^ rootCode need) fb with
          | .error e => .error e
          | .ok (a, s) => .ok (some (a, rootCode need), s.tableWrite a (s.devRead cur (8 * curN)))
      match rooted with
      | .error e => .error e
      | .ok (root, s) =>
        let (upto, toCode) := root.getD (cur, code)
        match s.growRows m c.polder fb c.root (2 ^ (c.rootsz + 7)) upto (2 ^ (toCode + 7)) (need - have_) have_ with
        | .error e => .error e
        | .ok s =>
          let copied : Except Short (List CowCopy × State) :=
            if len % m.tpp = 0 then .ok ([], s)
            else match s.rowAddr upto (have_ - 1) with
              | some row => s.growCopies x row (have_ - 1) c.polder fb m.layers 0 []
              | none => .ok ([], s)
          match copied with
          | .error e => .error e
          | .ok (cs, s) => .ok (s.kvUpd fun k => { k with growth := k.growth ++ [⟨x, toks, root, cs, s.epoch + 1, false, span⟩] })

/-- A copy has finished: the writer's entry is switched and the old page has a holder fewer (R218). -/
def cowSwitch (s : State) (x : Nat) (c : CowCopy) : State :=
  let drop := fun (s : State) => s.kvUpd fun k => { k with growth := k.growth.map fun g =>
    if g.ctx = x then { g with copies := g.copies.filter fun d => !(d.row == c.row && d.layer == c.layer) } else g }
  if !s.kv.growth.any fun g => g.ctx == x && g.copies.any fun d => d.row == c.row && d.layer == c.layer && d.fresh == c.fresh then s
  else match s.nextRow x c.row with
  | some row =>
    let old := s.pageOf row c.layer
    drop (((s.setRowField row (64 + 8 * c.layer) 8 (c.fresh + 1)).dropRef (s.ctx x).home old).count R.KV_COW_LO 1)
  | none => drop s

/-- A page that a planned copy still has to fill: no write reaches it before (R207, R218). -/
def awaitsCopy (s : State) (g : Nat) : Bool :=
  s.kv.growth.any fun w => w.copies.any fun c => decide (granOf c.fresh ≤ g) && decide (g < granOf c.fresh + 4)

/-- A unit holds a granule with POISON outside a WEIGHT region: it is not promoted for a list, whose result for it is an error (R236). -/
def unitPoison (s : State) (g : Nat) : Bool := (s.unitGrans g).any fun h => (s.entry h).poison && !s.isWeight h

/-- A move into the stack where the granule's home is has begun (R236). -/
def arriving (s : State) (g : Nat) : Bool := match s.moveOf g with | some m => m.up && m.dst == (s.entry g).stack | none => false

/-- Extents of a list that must be promoted first (R236): homes in the spillway, or on their way out of it; those that a move brings into their stack; and those whose frame waits for its ZERO (R266). -/
def mustWait (s : State) (addrs : List Nat) : List Nat :=
  (addrs.map granOf).filter fun g => ((s.entry g).spill && !s.unitPoison g) || (s.unitGrans g).any fun h => s.awaitsZero h || s.arriving h

/-- The descriptor of a page copy (R204, R233). -/
def copyWord (s : State) (x : Nat) (m : Model) (row : Nat) (c : CowCopy) : Nat :=
  let old := s.pageOf row c.layer
  old + 4095 * 2 ^ 52 + 2 ^ 64 + b2n (Nat.blt 1 (s.pageRef (s.pageNo old))) * 2 ^ 65 + 0x40 * 2 ^ 72 + s.rowTok row % 65536 * 2 ^ 80
    + s.rowField row (m.recOff + 4) 4 % 2 ^ 32 * 2 ^ 96 + x * 2 ^ 128 + c.layer * 2 ^ 144 + (s.ctx x).model * 2 ^ 160 + c.fresh / 64 * 2 ^ 176

/-- Planned copies whose source can be read where it is are issued: as a quarry COPY within one stack, else as a haul, which the model carries out at once (R218). A source with a granule that cannot be read is not promoted (R236): the unit of the fresh page's stack gets the COPY, which fails. -/
def issueCopies (s : State) : State :=
  let l := (s.kv.growth.map fun g => (g.copies.filter fun c => !c.queued).map fun c => (g.ctx, c)).flatten
  l.foldl (fun s (x, c) =>
    match s.nextRow x c.row with
    | none => s
    | some row =>
      let old := s.pageOf row c.layer
      let e := s.entry (granOf old)
      let f := s.entry (granOf c.fresh)
      let away := s.mustWait [old, c.fresh]
      if away ≠ [] then away.foldl demand s
      else if e.stack = f.stack ∨ e.spill then
        let w := match s.model (s.ctx x).model with | some m => s.copyWord x m row c | none => 0
        let e' := ((s.kv.growth.find? fun g => g.ctx == x && g.copies.contains c).map (·.epoch)).getD s.epoch
        let s := s.quPush f.stack ⟨BitVec.ofNat 256 w, .die (s.ctx x).home, none, e', (s.ctx x).model, false⟩
        s.kvUpd fun k => { k with growth := k.growth.map fun g => if g.ctx = x then
          { g with copies := g.copies.map fun d => if d.row = c.row ∧ d.layer = c.layer then { d with queued := true } else d } else g }
      else ((s.tableWrite c.fresh (s.devRead old 262144)).tableRead old 262144).cowSwitch x c) s

/-- A table read failed, or an entry breaks R198 (R202): the context becomes FAILED, and its requests complete with TABLE_ERROR. -/
def failTable (s : State) (x : Nat) : State :=
  let s := ((s.updCtx x fun c => { c with phase := .failed }).orReg R.KV_ERR 4).report 4 0x07 0x01 x 0
  let s := (s.failCtx x 0x13 0 x).dropGrowth fun y => y == x
  (s.hi.reqs.filter fun r => (r.phase == .waiting || r.phase == .chosen) && r.target == some x && r.opcode != 6).foldl (fun s r => s.complete r 0x13 0 x) s

/-- The tables of context x hold an error in what concerns some layers (R198, R202): a granule of the root, of a row or of a frame record that cannot be read, or a bad entry. -/
def layersBad (s : State) (x : Nat) (m : Model) (layers : List Nat) : Bool :=
  let c := s.ctx x
  c.root != 0 && (s.blockBad c.root (2 ^ c.rootsz * 1024) || (List.range (2 ^ (c.rootsz + 7))).any (s.rootBad c.root)
    || (s.rowsOf x).any fun r => s.blockBad r.2 (m.rowKib * 1024)
      || layers.any fun l => s.entryBad r.2 l || (bitOf (s.pageEntry r.2 l) 0 && !s.entryOk r.2 l))

def tableBad (s : State) (x : Nat) : Bool :=
  match s.model (s.ctx x).model with
  | none => false
  | some m => s.layersBad x m (List.range m.layers)

/-! ### Swaps (R225) -/

/-- Table pages that hold the root, rows and sketch blocks of context x (R225). -/
def tablePages (s : State) (x : Nat) : List Nat :=
  let c := s.ctx x
  let rows := (s.rowsOf x).map (·.2)
  (((if c.root = 0 then [] else [c.root]) ++ rows ++ (rows.map fun row => s.rowField row 16 8).filter (· != 0)).map fun a => granOf a / 4 * 4).eraseDups

/-- The pages and table pages in the stacks whose four granules a swap-out moves: REF = 1 pages charged to the context's polder, and its tables. -/
def swapUnits (s : State) (x : Nat) : List Nat :=
  let c := s.ctx x
  match s.model c.model with
  | none => []
  | some m =>
    let pages := (s.rowsOf x).flatMap fun row => ((List.range m.layers).filter fun l =>
      let pn := s.pageNo (s.pageOf row.2 l)
      s.entryOk row.2 l && s.pageRef pn == 1 && s.pagePolder pn == c.polder).map fun l => granOf (s.pageOf row.2 l)
    (pages ++ s.tablePages x).eraseDups.filter fun g => !(s.entry g).spill

def isTable (s : State) (g : Nat) : Bool := (s.kv.tables.get? (g * 65536)).isSome

/-- The moves of a swap-out that are not yet decided: of units in the stacks that no move takes away. -/
def swapMoves (s : State) (us : List Nat) : State :=
  us.foldl (fun s g => if (s.entry g).spill || s.moving g || s.decided g [.swapOut] then s else s.demote g .swapOut) s

/-- A victim's swap-out begins. What it moves is kept, with its tables wherever they stand. -/
def swapOut (s : State) (x : Nat) : State :=
  let us := (s.swapUnits x ++ s.tablePages x).eraseDups
  let s := (s.updCtx x fun c => { c with phase := .swappingOut }).swapMoves us
  s.kvUpd fun k => { k with swaps := k.swaps.put x us }

/-- Swaps whose every move has committed end (R225): SWAPPED, with the pages moved counted; a unit that has not left is decided again. -/
def swapProgress (s : State) : State :=
  s.kv.swaps.foldl (fun s (x, us) =>
    if (s.ctx x).phase ≠ .swappingOut then s
    else if us.all fun g => (s.entry g).spill && (s.moveOf g).isNone then
      (s.updCtx x fun c => { c with phase := .swapped }).count R.KV_SWAPOUT_PAGES_LO (us.filter fun g => !s.isTable g).length
    else s.swapMoves us) s

/-- Contexts resident on a die's control core, and the die that a context goes to (R30). -/
def homeDie (s : State) : Nat :=
  let n := fun d => (s.kv.ctxs.filter fun c => c.2.home == d && c.2.phase != .swapped && c.2.phase != .free).length
  (List.range 4).foldl (fun b d => if n d < n b then d else b) 0

/-- The table pages of a swapped context (R225). -/
def swapTables (s : State) (x : Nat) : List Nat := (Map.getD [] s.kv.swaps x).filter s.isTable

/-- A swapped context's tables are promoted, where they fit under R221 (R225): each table page takes four frames. -/
def swapIn (s : State) (x : Nat) : Option State :=
  let c := s.ctx x
  let us := (s.swapTables x).filter fun g => (s.entry g).spill
  let n := 4 * us.length
  if Nat.ble (s.claimed false c.polder + n) (s.quotaStack c.polder - 4 * s.fbFree c.polder) && Nat.ble n s.freeBeyond then
    let d := s.homeDie
    let s := us.foldl (fun s g => if s.moving g || s.decided g [.swapIn] then s else s.plan (s.newMove g .swapIn true s.roomiest)) s
    some ((s.updCtx x fun c => { c with phase := .swappingIn, home := d }).count R.KV_SWAPIN_LO 1)
  else none

/-- Every promotion of a swapping-in context's tables has committed (R225). -/
def swappedIn (s : State) (x : Nat) : Bool := (s.swapTables x).all fun g => !(s.entry g).spill && (s.moveOf g).isNone

/-! ### Fork, truncate, delete (R219) -/

/-- Rows named by the readable entries of a root (R202). -/
def rowsIn (s : State) (root code : Nat) : List (Nat × Nat) :=
  if root = 0 then []
  else (List.range (2 ^ (code + 7))).filterMap fun r =>
    if s.blockBad (root + 8 * r) 8 || s.rootBad root r then none else (s.rowAddr root r).map fun a => (r, a)

/-- Rows of context x as the next step will find them. -/
def rowsNext (s : State) (x : Nat) : List (Nat × Nat) := let (a, k) := s.nextRoot x; s.rowsIn a k

/-- Copies planned for context x that are no longer needed: their fresh pages are released. -/
def dropCopies (s : State) (x : Nat) (f : CowCopy → Bool) : State :=
  let cs := (s.kv.growth.filter fun g => g.ctx == x).flatMap fun g => g.copies.filter f
  let s := cs.foldl (fun s c => s.dropRef (s.ctx x).home c.fresh) s
  s.kvUpd fun k => { k with growth := k.growth.map fun g => if g.ctx = x then { g with copies := g.copies.filter fun c => !f c } else g }

/-- Layers of a row whose page no further holder can share (R217). -/
def satLayers (s : State) (m : Model) (row : Nat) : List Nat :=
  (List.range m.layers).filter fun l => s.pageRef (s.pageNo (s.pageOf row l)) == 65535

/-- The first of a list, or one that `alloc` finds. -/
def orAlloc (l : List Nat) (s : State) (alloc : State → Except Short (Nat × State)) : Except Short (Nat × List Nat × State) :=
  match l with
  | a :: t => .ok (a, t, s)
  | [] => match alloc s with
    | .error e => .error e
    | .ok (a, s) => .ok (a, [], s)

def forkPage (s : State) (p : Nat) : Except Short (Nat × State) :=
  match s.allocPage p 1 false with
  | .error e => .error e
  | .ok (pn, s) => .ok (s.pageAddr pn, s)

/-- `n` places that `alloc` finds, behind those of l. -/
def allocMany (alloc : State → Except Short (Nat × State)) : Nat → State → List Nat → Except Short (List Nat × State)
  | 0, s, l => .ok (l, s)
  | n + 1, s, l => match alloc s with
    | .error e => .error e
    | .ok (a, s) => allocMany alloc n s (l ++ [a])

/-- The child's own copies of pages that cannot be shared (R217): slots 0 to NTOK − 1, which count in KV_COW. -/
def forkSat (x p row a : Nat) : List Nat → List Nat → State → Except Short (List Nat × State)
  | [], fresh, s => .ok (fresh, s)
  | l :: t, fresh, s =>
    match orAlloc fresh s fun s => s.forkPage p with
    | .error e => .error e
    | .ok (pg, fresh, s) =>
      let s := (s.tableRead (s.pageOf row l) 262144).tableWrite pg (s.devRead (s.pageOf row l) 262144)
      forkSat x p row a t fresh (((s.setRowField a (64 + 8 * l) 8 (pg + 1)).refSat x).count R.KV_COW_LO 1)

/-- Private rows of a child copying x's, with records of segment y; from what the plan holds, and else from new allocations. -/
def forkRows (m : Model) (x y p : Nat) : List (Nat × Nat) → ForkPlan → State → Except Short (ForkPlan × State)
  | [], f, s => .ok (f, s)
  | (r, row) :: t, f, s =>
    match orAlloc f.rows s fun s => s.allocBlock p m.rowKib false with
    | .error e => .error e
    | .ok (a, rows, s) =>
      match (if m.select then orAlloc f.sketches s fun s => s.allocBlock p m.sketchKib false else Except.ok (0, [], s)) with
      | .error e => .error e
      | .ok (sk, sketches, s) =>
        let n := s.rowTok row
        let s := (s.initRow m a sk).tableWrite a (s.devRead row 16)
        let s := s.tableWrite (a + 24) (s.devRead (row + 24) 3)
        let s := s.tableWrite (a + 64) (s.devRead (row + 64) (8 * m.layers))
        let s := if m.select then s.tableWrite sk (s.devRead (s.rowField row 16 8) (m.sketchKib * 1024)) else s
        let s := (List.range n).foldl (fun s i => s.setRecord m a i (keyRecord y (s.rowField row (m.recOff + 8 * i + 4) 4))) s
        let s := s.tableWrite (f.root + 8 * r) (leBytes 8 (a + 1))
        let sat := s.satLayers m row
        let s := (List.range m.layers).foldl (fun s l =>
          if sat.contains l then s else let pn := s.pageNo (s.pageOf row l); s.setRef pn (s.pageRef pn + 1)) s
        match forkSat x p row a sat f.fresh s with
        | .error e => .error e
        | .ok (fresh, s) => forkRows m x y p t { f with rows := rows, sketches := sketches, fresh := fresh } s

/-- What a fork's plan still holds goes back. -/
def releaseFork (s : State) (f : ForkPlan) : State :=
  let s := (f.rows ++ f.sketches).foldl (fun s a => s.spoilBlock f.home a) s
  f.fresh.foldl (fun s a => s.dropRef f.home a) s

/-- Truncate context x to n tokens. -/
def truncate (s : State) (x n : Nat) : State :=
  let c := s.ctx x
  match s.model c.model with
  | none => s
  | some m =>
    let s := s.dropCopies x fun d => Nat.ble n (d.row * m.tpp)
    let s := (s.rowsNext x).foldl (fun s (r, row) =>
      if n ≤ r * m.tpp then (s.releaseRow m c.home row).putRoot x r 0
      else if n < (r + 1) * m.tpp ∧ n - r * m.tpp < s.rowTok row then
        let k := n - r * m.tpp
        let s := (List.range (m.tpp - k)).foldl (fun s i => s.setRecord m row (k + i) padRecord) s
        let s := (s.setRowField row 24 2 k).setRowField row 26 1 (s.rowField row 26 1 / 2 * 2)
        if m.select then
          (List.range (m.layers * m.hkv)).foldl (fun s i =>
            let a := s.rowField row 16 8 + 64 * i + 38
            s.tableWrite a (leBytes 1 ((s.rowField a 0 1) / 2 * 2))) s
        else s
      else s) s
    (s.kvUpd fun k => { k with
      updates := k.updates.filter fun u => !(u.ctx == x && !u.queued && Nat.blt n ((u.row + 1) * m.tpp))
      toks := k.toks.put x ((Map.getD [] k.toks x).take n)
      total := if c.multi then k.total.put x (Map.getD 0 k.total x - (c.len - n)) else k.total }).updCtx x fun c => { c with len := min c.len n }

/-- References of a row that a delete cannot release: of entries that cannot be read, and of those that name no readable page of the pool (R198, R202). -/
def lostRefs (s : State) (m : Model) (row : Nat) : Nat :=
  ((List.range m.layers).filter fun l =>
    s.blockBad (row + 64 + 8 * l) 8 || (bitOf (s.pageEntry row l) 0 && !s.entryOk row l)).length

/-- A row released at a delete; what cannot be read keeps its references and its block, which KV_LOST_PAGES counts (R202).

DEDUCED: L counts stand for a row whose entries cannot be read; a row whose unreadable part holds no entry counts as one unreadable table block. -/
def deleteRow (s : State) (m : Model) (d row : Nat) : State :=
  let sk := if s.blockBad row 64 then 0 else s.rowField row 16 8
  let skBad := sk != 0 && s.blockBad sk (m.sketchKib * 1024)
  let bad := s.blockBad row (m.rowKib * 1024)
  let rest := bad && !s.blockBad (row + 64) (8 * m.layers)
  let lost := s.lostRefs m row
  let s := (s.dropPages d row m.layers).count R.KV_LOST_PAGES_LO (lost + b2n skBad + b2n rest)
  let s := if sk = 0 || skBad then s else s.spoilBlock d sk
  if bad then s else s.spoilBlock d row

/-- A root released at a delete, or kept where a granule of it cannot be read (R202). -/
def deleteRoot (s : State) (d root code : Nat) : State :=
  if root = 0 then s
  else if s.blockBad root (2 ^ code * 1024) then s.count R.KV_LOST_PAGES_LO 1
  else s.spoilBlock d root

/-- Nothing is kept of context x, whose record becomes FREE. -/
def freeRecord (s : State) (x : Nat) : State :=
  (s.setCtx x Ctx.empty).kvUpd fun k => { k with
    toks := k.toks.del x, rings := k.rings.del x, parkAt := k.parkAt.del x, total := k.total.del x, swaps := k.swaps.del x
    growth := k.growth.filter fun g => g.ctx != x, updates := k.updates.filter fun u => u.ctx != x, walks := k.walks.filter fun w => w.ctx != x }

/-- Delete context x: rows, roots and sketch blocks are released, and the record becomes FREE (R202, R219). -/
def deleteCtx (s : State) (x : Nat) : State :=
  let c := s.ctx x
  match s.model c.model with
  | none => s.freeRecord x
  | some m =>
    let roots := (c.root, c.rootsz) :: s.kv.growth.filterMap fun g => if g.ctx = x then g.root else none
    let rows := (roots.flatMap fun a => (s.rowsIn a.1 a.2).map (·.2)).eraseDups
    let s := s.dropCopies x fun _ => true
    let s := rows.foldl (fun s r => s.deleteRow m c.home r) s
    (roots.foldl (fun s a => s.deleteRoot c.home a.1 a.2) s).freeRecord x

end State

/-- The bytes of a context record as a number (R194). -/
def Ctx.word (c : Ctx) : Nat :=
  let ph := match c.phase with
    | .free => 0 | .active => 1 | .parked => 2 | .swappingOut => 3 | .swapped => 4 | .swappingIn => 5 | .failed => 6
  ph + c.polder * 2 ^ 8 + c.model * 2 ^ 16 + (c.prio + c.home * 16 + b2n c.multi * 64) * 2 ^ 24 + c.len * 2 ^ 32 + c.root * 2 ^ 64
    + c.rootsz * 2 ^ 128 + c.pos * 2 ^ 160 + c.sched * 2 ^ 192 + c.parked * 2 ^ 256 + c.seq * 2 ^ 320

/-- KV_CTX_SEL written: the record's bytes are captured (R226). -/
def State.selectCtx (s : State) (v : Nat) : State :=
  let x := v % 16384
  let s := s.setReg R.KV_CTX_SEL x
  let w := (s.ctx x).word
  (List.range 16).foldl (fun s i => s.setReg (R.KV_CTX_DATA + 4 * i) (w / 2 ^ (32 * i) % 2 ^ 32)) s

/-- KV_CTX_SEL (R226): the write captures the record into KV_CTX_DATA. -/
def execKvCtxSel (v : Word) (s : State) : Outcome := .next (s.selectCtx v.toNat)

end Sys2Proof.Machine
end

