-- ==== Sys2Proof/Machine/Walk.lean ====
section
/-! DEFINITION. Page walks and descriptor lists (R203–R205, R232–R236), page selection (R244), and what a batch-step boundary writes into the tables (R201, R213, R242). -/

namespace Sys2Proof.Machine

/-- The 256 bits of a page descriptor (R204) for an extent, its list position and its operation. -/
def descWord (addr lenM1 : Nat) (last shr rec_ : Bool) (op ntok pos0 ctx layer model q : Nat) : Nat :=
  addr % 2 ^ 52 + lenM1 % 4096 * 2 ^ 52 + b2n last * 2 ^ 64 + b2n shr * 2 ^ 65 + b2n rec_ * 2 ^ 66 + op % 256 * 2 ^ 72
    + ntok % 65536 * 2 ^ 80 + pos0 % 2 ^ 32 * 2 ^ 96 + ctx % 16384 * 2 ^ 128 + layer % 65536 * 2 ^ 144 + model % 256 * 2 ^ 160
    + q % 2 ^ 80 * 2 ^ 176

/-- QFIELDS of layout Q (R233). -/
def qFields (qaddr row pidx tfmt : Nat) : Nat := qaddr % 2 ^ 23 + row % 2 ^ 15 * 2 ^ 23 + pidx % 1024 * 2 ^ 38 + tfmt % 16 * 2 ^ 48

namespace State

/-- The byte address of a query or delivery block (R233). -/
def blockAt (qaddr : Nat) : Nat := terraceAt (qaddr / 2 ^ 21 % 4) (qaddr % 2 ^ 21 * 64)

/-- A page of a walk: row index, row address, page address. -/
abbrev WalkPage := Nat × Nat × Nat

/-- Rows with tokens, and the pages of a layer. -/
def walkPages (s : State) (x layer : Nat) : List WalkPage :=
  (s.rowsOf x).filterMap fun (r, row) => if s.rowTok row = 0 then none else some (r, row, s.pageOf row layer)

def pageDesc (s : State) (x layer : Nat) (op : Nat) (q : Nat) (last : Bool) (p : WalkPage) : Nat :=
  let c := s.ctx x
  let m := s.model c.model
  let pos := match m with | some m => s.rowField p.2.1 (m.recOff + 4) 4 | none => 0
  descWord p.2.2 4095 last (Nat.blt 1 (s.pageRef (s.pageNo p.2.2))) false op (s.rowTok p.2.1) pos x layer c.model q

/-- Descriptors of a list, LAST on the last. -/
def emitList (s : State) (st d x : Nat) (l : List Nat) : State :=
  let n := l.length
  (List.range n).foldl (fun s i =>
    let w := setBits (l.getD i 0) 64 64 (b2n (i + 1 == n))
    s.quPush st ⟨BitVec.ofNat 256 w, .die d, none, s.epoch, (s.ctx x).model, false⟩) s

/-- Lists of a bench walk (R247): stack, then pages with their partial index. -/
def benchLists (s : State) (m : Model) (plumb : Bool) (qr : Nat) (pages : List WalkPage) : List (Nat × Nat × List WalkPage) :=
  let stackOf := fun (p : WalkPage) => (s.entry (granOf p.2.2)).stack
  if plumb then (List.range pages.length).filterMap fun i => (pages[i]?).map fun p => (stackOf p, i, [p])
  else
    let ppr := max 1 (min 262144 (4194304 / max 1 qr) / max 1 m.tpp)
    let runs := ((List.range 8).map fun st =>
      let l := pages.filter fun p => stackOf p == st
      ((List.range (ceilDiv l.length ppr)).map fun i => (st, (l.drop (i * ppr)).take ppr))).flatten
    (List.range runs.length).filterMap fun i => (runs[i]?).map fun (st, l) => (st, i, l)

/-- The core that holds the target of a query block (R238). -/
def targetOf (s : State) (qaddr : Nat) : Option (Nat × BenchTarget) :=
  (s.cores.filterMap fun c => (c.2.targets.find? fun t => t.qaddr == qaddr).map fun t => (c.1, t)).head?

/-- The target of a bench walk as its query block names it (R238). -/
def addTarget (s : State) (x : Nat) (m : Model) (qaddr : Nat) (h : List Byte) (npart : Nat) : State :=
  let a := fun i => leField h i 4 % 2 ^ 17 * 64
  let t : BenchTarget :=
    ⟨qaddr, x, (s.ctx x).model, leField h 24 1 % 128 + 1, if m.latent then m.latw else m.d, leField h 23 1 + 1, npart,
     a 4, a 8, a 12, a 16, leField h 1 1, leField h 2 1 % 16, leField h 3 1, leField h 2 1 / 16, bitOf (leField h 25 1) 0, []⟩
  s.updCore (leField h 0 1) fun k => { k with targets := (k.targets.filter fun u => u.qaddr != qaddr) ++ [t] }

/-- The home die control core writes a query block's header before it queues the lists (R238). -/
def writeHeader (s : State) (qaddr : Nat) (header : BitVec 512) : State := s.writeMem (blockAt qaddr) (leBytes 64 header.toNat)

/-- The root and the row entries of a layer that a walk reads. -/
def walkReads (s : State) (x layer : Nat) : State :=
  let rows := (s.rowsOf x).map (·.2)
  if rows = [] then s
  else rows.foldl (fun s a => s.tableRead (a + 64 + 8 * layer) 8) (s.tableRead (s.ctx x).root (8 * rows.length))

/-- A SKETCH_UPD of an earlier step of context x has not completed: a step that selects for it waits (R242). -/
def updating (s : State) (x : Nat) : Bool := s.kv.updates.any fun u => u.ctx == x

/-- A walk for one consumer (R203): descriptor lists, or a wait for promotions. -/
def walk (s : State) (x layer : Nat) (dst : WalkDest) : State :=
  let c := s.ctx x
  match if s.pw.stopped then none else s.model c.model with
  | none => s
  | some m =>
    let hold := fun (s : State) (g : Nat) => (s.demand g).kvUpd fun k => { k with walks := k.walks ++ [⟨x, layer, dst, s.unitStart g⟩] }
    let away := (s.mustWait (c.root :: (s.rowsOf x).map (·.2))).eraseDups
    if away ≠ [] then away.foldl hold s
    else if s.layersBad x m [layer] then s.failTable x
    else
      let s := s.walkReads x layer
      let pages := s.walkPages x layer
      match dst with
      | .stream core sc =>
        let key := 32 * core + sc
        let n := pages.length
        let ds := (List.range n).filterMap fun i => (pages[i]?).map fun p => BitVec.ofNat 256 (s.pageDesc x layer 0 0 (i + 1 == n) p)
        let s := s.pushDescs key ds
        let s := if m.krec then
            let k := 32 * core + Config.recordContext c.model core sc % 32
            let rs := (List.range n).filterMap fun i => (pages[i]?).map fun p =>
              BitVec.ofNat 256 (descWord (p.2.1 + m.recOff) (ceilDiv (8 * m.tpp) 64 - 1) (i + 1 == n) false true 0 (s.rowTok p.2.1) 0 x layer c.model 0)
            s.pushDescs k rs
          else s
        s.settle core
      | .sketch qaddr header =>
        if s.updating x then s
        else
          let recs := pages.map fun p => (p.1, s.rowField p.2.1 16 8 + 64 * (layer * m.hkv), p.2.1)
          match s.mustWait (recs.map fun r => r.2.1) with
          | g :: t => (g :: t).foldl hold s
          | [] =>
            let s := s.writeHeader qaddr header
            (List.range 8).foldl (fun s st =>
              let l := recs.filter fun r => (s.entry (granOf r.2.1)).stack == st
              s.emitList st c.home x (l.map fun r =>
                descWord r.2.1 (m.hkv - 1) false false false 0x10 (s.rowTok r.2.2) 0 x layer c.model (qFields qaddr r.1 0 0))) s
      | .bench qaddr header =>
        match (if !m.select then some (pages.map (·.1)) else if s.updating x then none else s.kv.chosen.get? (4096 * x + layer)) with
        | none => s
        | some rows =>
          let pages := pages.filter fun p => rows.contains p.1
          match s.mustWait (pages.map fun p => p.2.2) with
          | g :: t => (g :: t).foldl hold s
          | [] =>
            let hdr := leBytes 64 header.toNat
            let plumb := bitOf (s.reg (R.DT_PLUMB + c.model / 32 * 4)) (c.model % 32)
            let lists := s.benchLists m plumb (leField hdr 24 1 % 128 + 1) pages
            let s := ((s.writeHeader qaddr header).writeMem (blockAt qaddr + 20) (leBytes 2 lists.length)).addTarget x m qaddr hdr lists.length
            let s := s.emptyTargets (leField hdr 0 1)
            lists.foldl (fun s (st, i, l) =>
              s.emitList st c.home x (l.map fun p =>
                s.pageDesc x layer (if m.latent then 0x21 else 0x20) (qFields qaddr p.1 i 0) false p)) s
      | .deliver op qaddr tfmt =>
        match s.mustWait (pages.map fun p => p.2.2) with
        | g :: t => (g :: t).foldl hold s
        | [] =>
          let numbered := (List.range pages.length).filterMap fun i => (pages[i]?).map fun p => (i, p)
          (List.range 8).foldl (fun s st =>
            s.emitList st c.home x ((numbered.filter fun (_, p) => (s.entry (granOf p.2.2)).stack == st).map fun (i, p) =>
              s.pageDesc x layer op.toNat (qFields qaddr p.1 i tfmt.toNat) false p)) s

/-- Walks that waited for granule unit g run again after its move (R236). -/
def rewalk (s : State) (g : Nat) : State :=
  let mine := s.kv.walks.filter fun w => w.gran == g
  let s := s.kvUpd fun k => { k with walks := k.walks.filter fun w => w.gran != g }
  (mine.map fun w => (w.ctx, w.layer, w.dst)).eraseDups.foldl (fun s (x, l, d) =>
    if s.kv.walks.any fun w => w.ctx == x && w.layer == l && w.dst == d then s else s.walk x l d) s

/-! ### Selection (R244) -/

/-- Sketch lists of a context and layer that have not been emitted or have not returned. -/
def ranksPending (s : State) (x layer : Nat) : Bool :=
  (s.kv.walks.any fun w => w.ctx == x && w.layer == layer && (match w.dst with | .sketch _ _ => true | _ => false)) || s.qus.any fun q =>
    ((q.2.queue ++ q.2.wait).any fun d => bitsOf d.word.toNat 79 72 == 0x10 && bitsOf d.word.toNat 141 128 == x && bitsOf d.word.toNat 159 144 == layer)
      || q.2.results.any fun r => match r.1 with | .ranks c l _ _ => c == x && l == layer | _ => false

/-- Total order of FP32 values as bits: larger first, then the lower row. -/
def rankOrder (a b : Nat × Nat) : Bool :=
  let va := fp32L.decode a.1
  let vb := fp32L.decode b.1
  FVal.lt vb va || (!FVal.lt va vb && Nat.ble a.2 b.2)

def select (s : State) (x layer : Nat) : State :=
  let c := s.ctx x
  match if s.pw.stopped then none else s.model c.model with
  | none => s
  | some m =>
    let rows := (s.walkPages x layer).map (·.1)
    let key := 4096 * x + layer
    let pick := if rows.length ≤ m.p + m.recent + m.sinkp then rows
      else
        let top := ((Map.getD [] s.kv.ranks key).mergeSort rankOrder).take m.p
        rows.filter fun r => (top.map (·.2)).contains r || Nat.ble (rows.length - m.recent) r || Nat.blt r m.sinkp
    s.kvUpd fun k => { k with chosen := k.chosen.put key pick, ranks := k.ranks.del key }

/-! ### Sketch upkeep (R242) -/

/-- SKETCH_UPDs whose row, page and records are resident are queued at the unit of the page's stack, for the step they belong to. -/
def queueUpdates (s : State) : State :=
  (s.kv.updates.filter fun u => !u.queued).foldl (fun s u =>
    let c := s.ctx u.ctx
    match s.model c.model, s.nextRow u.ctx u.row with
    | some m, some row =>
      let pg := s.pageOf row u.layer
      let recs := s.rowField row 16 8 + 64 * (u.layer * m.hkv)
      match s.mustWait [row, pg, recs] with
      | g :: t => (g :: t).foldl State.demand s
      | [] =>
        let w := descWord pg 4095 true (Nat.blt 1 (s.pageRef (s.pageNo pg))) false 0x11 (s.rowTok row) (s.rowField row (m.recOff + 4) 4) u.ctx u.layer c.model (recs / 64)
        let s := s.quPush (s.entry (granOf pg)).stack ⟨BitVec.ofNat 256 w, .die c.home, none, u.epoch, c.model, false⟩
        s.kvUpd fun k => { k with updates := k.updates.map fun v => if v = u then { v with queued := true } else v }
    | _, _ => s.kvUpd fun k => { k with updates := k.updates.filter (· != u) }) s

/-! ### The end of a step (R196, R201, R213) -/

/-- A row of context x has become full: it is hashed and published, and its sketches are to be computed (R209, R213, R242). -/
def rowFull (s : State) (x : Nat) (m : Model) (r row : Nat) : State :=
  let c := s.ctx x
  let s := if m.select then
      s.kvUpd fun k => { k with updates := k.updates ++ (List.range m.layers).map fun l => ⟨x, r, l, false, s.epoch⟩ }
    else s
  let (parent, prow, hashed) := s.rowBefore x r
  if !m.seam || c.pos != 0 || !hashed then s
  else
    let toks := ((Map.getD [] s.kv.toks x).drop (r * m.tpp)).take m.tpp
    let s := (s.setRowField row 0 8 (s.rowHash parent c.model toks)).setRowField row 26 1 1
    s.publish x m row prow toks

/-- One appended token (R201). -/
def commitToken (s : State) (x : Nat) (m : Model) (t : Nat × Nat) : State :=
  let c := s.ctx x
  let r := c.len / m.tpp
  match s.nextRow x r with
  | none => s
  | some row =>
    let i := c.len % m.tpp
    let s := s.setRecord m row i (keyRecord x t.2)
    let s := s.setRowField row 24 2 (i + 1)
    let s := s.kvUpd fun k => { k with toks := k.toks.put x (Map.getD [] k.toks x ++ [t.1]) }
    let s := s.updCtx x fun c => { c with len := c.len + 1 }
    if i + 1 = m.tpp then s.rowFull x m r row else s

/-- APPEND_COMMIT for one context, with its root where no boundary has switched it yet (a warm start); a growth whose copies still run keeps them. -/
def commitGrowth (s : State) (g : Growth) : State :=
  let c := s.ctx g.ctx
  match s.model c.model with
  | none => s
  | some m =>
    let s := match g.root with
      | some (a, k) => (s.spoilBlock c.home c.root).updCtx g.ctx fun c => { c with root := a, rootsz := k }
      | none => s
    let s := if c.multi then s.kvUpd fun k => { k with total := k.total.put g.ctx (Map.getD 0 k.total g.ctx + g.span) } else s
    g.tokens.foldl (fun s t => s.commitToken g.ctx m t) s

/-- ROOT_SWITCH (R196): the roots allocated at the cut replace the old ones at the boundary, before any walk of the new step. -/
def switchRoots (s : State) : State :=
  let l := s.kv.growth.filterMap fun g => g.root.map fun r => (g.ctx, r)
  let s := s.kvUpd fun k => { k with growth := k.growth.map fun g => { g with root := none } }
  l.foldl (fun s x => (s.spoilBlock (s.ctx x.1).home (s.ctx x.1).root).updCtx x.1 fun c => { c with root := x.2.1, rootsz := x.2.2 }) s

/-- The end of the step of the current epoch: growth that its requests have run is committed; growth whose request has not run goes on to the next step. -/
def commitAll (s : State) : State :=
  let e := s.epoch
  let due := fun (g : Growth) => g.epoch == e && g.ran
  let late := (s.kv.growth.filter fun g => g.epoch == e && !g.ran).map (·.ctx)
  let keep := fun (g : Growth) =>
    if due g || Nat.blt g.epoch e then (if g.copies = [] then none else some { g with tokens := [], root := none, span := 0 })
    else some (if late.contains g.ctx then { g with epoch := g.epoch + 1 } else g)
  let gs := s.kv.growth.filter due
  let s := s.kvUpd fun k => { k with growth := k.growth.filterMap keep }
  (gs.foldl commitGrowth s).queueUpdates

/-! ### Writes into pages (R207) -/

/-- Before a step begins, the home die control core sets the far address and pattern of the stream that writes each page of the appended tokens: a fresh page where a copy is planned. Which stream writes a page of a layer for a context, and its pattern for the slots written, are the model's haul table's: free values.

DESIGN CHOICE: R207 does not speak of a stream that has outlived its step; one that still runs keeps its values. -/
def setPageWriters (s : State) : State :=
  (s.kv.growth.filter fun g => g.epoch == s.epoch && !g.tokens.isEmpty).foldl (fun s g =>
    let c := s.ctx g.ctx
    match s.model c.model with
    | none => s
    | some m =>
      let r0 := c.len / m.tpp
      (List.range ((c.len + g.tokens.length - 1) / m.tpp + 1 - r0)).foldl (fun s i =>
        match s.nextRow g.ctx (r0 + i) with
        | none => s
        | some row => (List.range m.layers).foldl (fun s l =>
            let page := match g.copies.find? fun d => d.row == r0 + i && d.layer == l with
              | some d => d.fresh
              | none => s.pageOf row l
            let k := Config.pageWriter c.model g.ctx l i % 6144
            let first := if i = 0 then c.len % m.tpp else 0
            if scSpace (s.sctx k) != 3 || (s.run? k).isSome then s
            else
              let v := Config.pagePattern c.model l first (min (m.tpp - first) (c.len + g.tokens.length - (r0 + i) * m.tpp - first))
              ((s.setScField k 63 0 (page + 64 * (v / 2 ^ 112 % 4096))).setScField k 207 160 (v % 2 ^ 48)).setScField k 287 224 (v / 2 ^ 48 % 2 ^ 64)) s) s) s

end State

/-- PAGE_WALK (R203). An uncorrectable table read makes the context FAILED (R202); a corrected one is seepage of the stack that holds the root. -/
def execPageWalk (ctx layer : Nat) (dst : WalkDest) (ecc : Ecc) (s : State) : Outcome :=
  onUnit (decide (ctx < 16384))
    (if !((s.ctx ctx).phase == .active || (s.ctx ctx).phase == .parked) then s
     else match ecc with
     | .uncorrectable => s.failTable ctx
     | .corrected =>
       let e := s.entry (granOf (s.ctx ctx).root)
       (s.stackCorr e.stack (e.frame % 64)).walk ctx layer dst
     | .clean => s.walk ctx layer dst)

/-- PAGE_SELECTION (R244): formed once every unit's ranks are in. -/
def execPageSelection (ctx layer : Nat) (s : State) : Outcome :=
  onUnit (decide (ctx < 16384))
    (match s.model (s.ctx ctx).model with
     | some m => if m.select && !s.ranksPending ctx layer && !s.updating ctx then s.select ctx layer else s
     | none => s)

end Sys2Proof.Machine
end

