-- ==== Sys2Proof/Machine/Quarry.lean ====
section
/-! DEFINITION. Quarry units (R228–R256): lists, query blocks, sketches, bench partials, conversion and copies. -/

namespace Sys2Proof.Machine

/-! ### Page layout (R191) -/

/-- Key groups of n slots: 256 each, the rest last. -/
def keyGroups (n : Nat) : List Nat := List.replicate (n / 256) 256 ++ (if n % 256 = 0 then [] else [n % 256])

def Fmt.secBytes (f : Fmt) (tpp cols : Nat) : Nat := ((keyGroups tpp).map fun n => f.nativeBytes n cols).sum

/-- The rows of a section: every slot's K-blocks. -/
def Fmt.sectionRows (f : Fmt) (cols : Nat) : List Nat → List Byte → List (List KBlock)
  | [], _ => []
  | n :: t, bs => f.nativeRows n cols bs ++ Fmt.sectionRows f cols t (bs.drop (f.nativeBytes n cols))

/-- Bytes of one key group of values in a scalar format, block by block (R191, R250). -/
def packGroup (w cols : Nat) (rows : List (List Nat)) : List Byte :=
  ((List.range (cols / 32)).map fun j =>
    let b := (rows.map fun r => pack w ((r.drop (32 * j)).take 32)).flatten
    b ++ List.replicate (roundUp b.length 64 - b.length) 0).flatten

def packSection (w cols : Nat) : List Nat → List (List Nat) → List Byte
  | [], _ => []
  | n :: t, rows => packGroup w cols (rows.take n) ++ packSection w cols t (rows.drop n)

namespace Model

def fmt (m : Model) : Fmt := fmtOf m.sfmt
/-- W of a query block by its LAT bit (R238), and the width of the rows that sketches use (R241). -/
def rowWidth (m : Model) (lat : Bool) : Nat := if lat then m.latw + m.ropew else m.d
def width (m : Model) : Nat := if m.latent then m.latw + m.ropew else m.d
def sec (m : Model) (cols : Nat) : Nat := m.fmt.secBytes m.tpp cols
/-- Keys of a dense head, or the latent vectors with their rotary parts: one row of values for each slot. -/
def keyRows (m : Model) (page : List Byte) (h : Nat) : List (List FVal) :=
  let g := keyGroups m.tpp
  if m.latent then
    let a := (m.fmt.sectionRows m.latw g page).map rowValues
    let b := if m.ropew = 0 then [] else (m.fmt.sectionRows m.ropew g (page.drop (m.sec m.latw))).map rowValues
    (List.range m.tpp).map fun t => a.getD t [] ++ b.getD t []
  else (m.fmt.sectionRows m.d g (page.drop (h * m.sec m.d))).map rowValues
def valueRows (m : Model) (page : List Byte) (h : Nat) : List (List FVal) :=
  let g := keyGroups m.tpp
  if m.latent then (m.fmt.sectionRows m.latw g page).map rowValues
  else (m.fmt.sectionRows m.d g (page.drop ((m.hkv + h) * m.sec m.d))).map rowValues

end Model

/-! ### Exact sums -/

def exactSum (l : List FVal) : FVal := l.foldl (fun a x => (FVal.exactAdd a x).1) .zero
def exactDot (a b : List FVal) : FVal := exactSum (List.zipWith (fun x y => (FVal.exactMul x y).1) a b)

/-- The FP32 square root rounded towards +Infinity, saturating (R241). -/
def sqrtUp : FVal → Nat
  | .fin _ 0 _ => 0
  | .fin _ m e =>
    let sh : Nat := if e % 2 = 0 then 160 else 161
    let big := m * 2 ^ sh
    let r := isqrt big
    let a := if r * r = big then 2 * r else 2 * r + 1
    min (fp32L.ceilCode a 1 ((e - (sh : Int)) / 2 - 1)) fp32L.maxCode
  | _ => fp32L.maxCode

/-! ### Bench partials (R180) -/

/-- Padding with +0 to a power of two, and the tree of R58. -/
def treeSum (ps : List FVal) : FVal :=
  let k := ceilLog2 ps.length
  (treeReduce FVal.add .zero k (ps ++ List.replicate (2 ^ k - ps.length) .zero) .none).1

/-- One query row against a key list: for each slot the key, its value row and whether it is visible. -/
def benchRow (d : Nat) (scale : FVal) (q : List FVal) (keys : List (List FVal × List FVal × Bool)) : RowState :=
  let vis := keys.filter fun k => k.2.2
  let xs := keys.map fun k => if k.2.2 then some (FVal.mul (roundFp32 (exactDot q k.1)).1 scale).1 else none
  let bad := (if vis = [] then false else q.any fun v => v.isNan || v.isInf)
    || vis.any (fun k => (k.1 ++ k.2.1).any fun v => v.isNan || v.isInf) || xs.any fun x => match x with | some v => v.isNan || v.isInf | none => false
  if bad then RowState.nan d
  else
    let mp := maxOf (xs.filterMap id)
    let ps := xs.map fun x => match x with | some v => some (expDiff .bf16 false v mp).1 | none => none
    let up := (weightedSum d ((ps.zip keys).filterMap fun x => x.1.map fun p => (p, x.2.2.1))).1
    ⟨mp, treeSum (ps.map fun p => p.getD .zero), up⟩

/-- The probabilities of a row's keys as its second pass writes them (R180): +0 for a key that is not visible, and NaN where the row is NaN. -/
def benchProbs (ue : Bool) (d : Nat) (scale : FVal) (q : List FVal) (keys : List (List FVal × List FVal × Bool)) : List FVal :=
  let r := benchRow d scale q keys
  keys.map fun k =>
    if !k.2.2 then .zero
    else if ue || r.m.isNan then .nan
    else (expDiff .bf16 false (FVal.mul (roundFp32 (exactDot q k.1)).1 scale).1 r.m).1

/-! ### Descriptors -/

namespace QuDesc

def w (d : QuDesc) : Nat := d.word.toNat
def addr (d : QuDesc) : Nat := bitsOf d.w 51 0
def len (d : QuDesc) : Nat := (bitsOf d.w 63 52 + 1) * 64
def last (d : QuDesc) : Bool := bitOf d.w 64
def op (d : QuDesc) : Nat := bitsOf d.w 79 72
def ntok (d : QuDesc) : Nat := bitsOf d.w 95 80
def pos0 (d : QuDesc) : Nat := bitsOf d.w 127 96
def ctx (d : QuDesc) : Nat := bitsOf d.w 141 128
def layer (d : QuDesc) : Nat := bitsOf d.w 159 144
def mod (d : QuDesc) : Nat := bitsOf d.w 167 160
def qaddr (d : QuDesc) : Nat := bitsOf d.w 198 176
def row (d : QuDesc) : Nat := bitsOf d.w 213 199
def pidx (d : QuDesc) : Nat := bitsOf d.w 223 214
def tfmt (d : QuDesc) : Nat := bitsOf d.w 227 224
def daddr (d : QuDesc) : Nat := bitsOf d.w 221 176 * 64

/-- PHASE and BATCH of a SEARCH descriptor, its visit entry and its index (R334). -/
def phase (d : QuDesc) : Nat := bitsOf d.w 178 176
def index (d : QuDesc) : Nat := bitsOf d.w 184 179
def visit (d : QuDesc) : Nat := bitsOf d.w 207 185
def batch (d : QuDesc) : Nat := bitsOf d.w 223 208
/-- The operation, with the phase of a SEARCH. -/
def kind (d : QuDesc) : Nat := if d.op = 0x50 then 0x500 + d.phase else d.op
/-- No device address is checked: the tier manager names a frame, or the phase is MERGE. -/
def noAddr (d : QuDesc) : Bool := d.frame.isSome || d.kind == 0x505

def knownKind (k : Nat) : Bool :=
  [0x10, 0x11, 0x20, 0x21, 0x30, 0x31, 0x40, 0x41, 0x42, 0x500, 0x501, 0x502, 0x503, 0x504, 0x505].contains k
/-- Operations whose lists hold one or more descriptors (R232). -/
def multiOp (o : Nat) : Bool := [0x10, 0x20, 0x21, 0x30, 0x31].contains o

/-- Reserved bits of R204 and R233. -/
def reservedBits (d : QuDesc) : Bool :=
  bitsOf d.w 71 67 != 0 || bitsOf d.w 143 142 != 0 || bitsOf d.w 175 168 != 0
    || (if [0x10, 0x20, 0x21].contains d.op then bitsOf d.w 255 224 != 0
        else if d.op == 0x30 || d.op == 0x31 then bitsOf d.w 255 228 != 0
        else if [0x11, 0x40, 0x42].contains d.op then bitsOf d.w 255 222 != 0
        else if d.op == 0x41 then bitsOf d.w 255 176 != 0 else bitsOf d.w 255 224 != 0)

end QuDesc

namespace State

def quState (s : State) (n : Nat) : QuState := Map.getD QuState.fresh s.qus n
def setQu (s : State) (n : Nat) (q : QuState) : State := { s with qus := Map.store QuState.fresh s.qus n q }
def quReg (n off : Nat) : Nat := 0x800000 + 0x10000 * n + off

/-- Descriptors up to the first with LAST = 1. -/
def toLast : List QuDesc → List QuDesc
  | [] => []
  | d :: t => if d.last then [d] else d :: toLast t

/-- The descriptors of the list at the head; operations that form single-descriptor lists need no LAST (R232). -/
def takeList : List QuDesc → List QuDesc
  | [] => []
  | d :: t => if QuDesc.multiOp d.op then toLast (d :: t) else [d]

/-- The whole list is there. -/
def listWhole (l : List QuDesc) : Bool := match l.getLast? with | some e => e.last || !QuDesc.multiOp ((l.head?.getD e).op) | none => false

/-- Model instance and epoch of a die control core's descriptor, for R255. -/
def stepOf (d : QuDesc) : Option (Nat × Nat) := match d.sender with | .die _ => some (d.model, d.epoch) | _ => none

/-- QU_ERR.DESC_BAD and the breach of R235. -/
def descBad (s : State) (n : Nat) : State := (s.orReg (quReg n 8) 1).report 4 (0x10 + n) 0x01 0 0

/-- Descriptors of ended steps, and lists that begin with a reserved operation, go at the queue head (R235, R255). -/
def quPurge (n : Nat) : Nat → State → State
  | 0, s => s
  | k + 1, s =>
    let q := s.quState n
    match q.queue ++ q.wait with
    | d :: t =>
      if d.dead then quPurge n k (s.setQu n (quDrop q 1))
      else if !QuDesc.knownKind d.kind then
        let l := toLast (d :: t)
        let ends := match l.getLast? with | some e => e.last | none => false
        let q' := { quDrop q l.length with skip := !ends }
        quPurge n k ((s.setQu n { q' with results := q.results ++ [(.bad d.ctx (granOf d.addr), stepOf d)] }).descBad n)
      else s
    | [] => s

/-- A device extent lies in the unit's stack. -/
def inStack (s : State) (n a len : Nat) : Bool :=
  ((extent a len).map (·.1)).all fun g => (s.entryNo g).isSome && !(s.entry g).spill && (s.entry g).stack == n

/-- A needed extent with a poisoned granule may lie anywhere: the list's result for it is an error (R236). -/
def badAnyway (s : State) (a len : Nat) : Bool :=
  let gs := (extent a len).map (·.1)
  gs.all (fun g => (s.entryNo g).isSome) && gs.any fun g => (s.entry g).poison

/-- The checks of R238 on a query block, for a model. -/
def queryBad (s : State) (m : Model) (qaddr : Nat) : Bool :=
  let h := s.readMem (blockAt qaddr) 64
  let lat := bitOf (leField h 25 1) 1
  let qr := leField h 24 1 + 1
  let nh := leField h 23 1 + 1
  let g := m.hq / max 1 m.hkv
  let size := roundUp (64 + 32 * nh) 64 + roundUp (8 * qr) 64 + nh * (fmtOf 0xB).nativeBytes qr (m.rowWidth lat)
  (!lat && qr % max 1 g != 0) || Nat.blt 128 qr || Nat.blt 1835008 size
    || leField h 27 1 != 0 || leField h 38 26 != 0 || leField h 25 1 / 4 != 0 || leField h 26 1 / 4 != 0
    || [4, 8, 12, 16].any fun i => leField h i 4 / 2 ^ 17 != 0

/-- R251: the reserved bits of a delivery block, and a DSTRIDE below the output page. -/
def deliveryBad (s : State) (m : Model) (d : QuDesc) : Bool :=
  let h := s.readMem (blockAt d.qaddr) 64
  let w := (fmtOf d.tfmt).bits
  let out := 2 * m.hkv * ((keyGroups m.tpp).map fun n => m.d / 32 * roundUp (4 * n * w) 64).sum
  leField h 0 4 / 4 != 0 || leField h 4 4 / 2 ^ 21 != 0 || leField h 8 4 / 2 ^ 21 != 0 || leField h 14 1 / 16 != 0
    || leField h 15 49 != 0 || Nat.blt (leField h 8 4 * 64) out || !(Nat.ble 1 d.tfmt && Nat.ble d.tfmt 4)

/-- R235 for a list. -/
def listBad (s : State) (n : Nat) (l : List QuDesc) : Bool :=
  match l with
  | [] => true
  | d0 :: _ =>
    l.any fun d => d.reservedBits || d.op != d0.op
      || (!d.noAddr && !s.inStack n d.addr d.len && (d.op == 0x41 || !s.badAnyway d.addr d.len))
      || ((d.op == 0x40 || d.op == 0x42) && d.frame.isNone && !s.inStack n d.daddr d.len)
      || (match s.model d.mod with
          | some m =>
            (([0x10, 0x20, 0x21].contains d.op) && s.queryBad m d.qaddr) || ((d.op == 0x30 || d.op == 0x31) && s.deliveryBad m d)
          | none => QuDesc.multiOp d.op || d.op == 0x11)

/-- Granules of a list's sources: a frame's ZERO and a MERGE have none. -/
def listGrans (l : List QuDesc) : List Nat :=
  l.flatMap fun d => if d.kind == 0x505 || (d.op == 0x41 && d.frame.isSome) then [] else (extent d.addr d.len).map (·.1)

/-- The granules of a list with an error: those with POISON, and one where the operation meets an error now. Which one is open: a free value says. -/
def listUe (s : State) (l : List QuDesc) (ecc : Ecc) : List Nat × State :=
  let gs := (listGrans l).eraseDups
  let old := gs.filter fun g => (s.entry g).poison
  if ecc = .uncorrectable then
    let (v, s) := s.draw
    (match gs[v % max 1 gs.length]? with | some g => (old ++ [g]).eraseDups | none => old, s)
  else (old, s)

/-! ### Results -/

/-- What a unit reads of the query block for head i: query rows and records. -/
def queryRows (s : State) (m : Model) (qaddr i : Nat) : List (List FVal) × List TokenRec :=
  let base := blockAt qaddr
  let h := s.readMem base 64
  let nh := leField h 23 1 + 1
  let qr := leField h 24 1 + 1
  let recs := roundUp (64 + 32 * nh) 64
  let f := fmtOf 0xB
  let rows := recs + roundUp (8 * qr) 64
  let w := m.rowWidth (bitOf (leField h 25 1) 1)
  let sz := f.nativeBytes qr w
  ((f.nativeRows qr w (s.readMem (base + rows + i * sz) sz)).map rowValues, tokenRecs qr (s.readMem (base + recs) (8 * qr)))

/-- The key list of a bench list for head h: keys, values and records of every slot of its pages (R246).

DESIGN CHOICE: R180 calls the key list the visible keys and also gives invisible keys p = +0; a slot that is padding or not visible keeps its place, as +0, in the score row and in its trees. -/
def benchKeys (s : State) (m : Model) (h : Nat) (l : List QuDesc) : List (List FVal × List FVal × TokenRec) :=
  (l.map fun d =>
    let page := s.devRead d.addr 262144
    let ks := m.keyRows page h
    let vs := m.valueRows page h
    (List.range m.tpp).map fun t =>
      (ks.getD t [], vs.getD t [], if t < d.ntok then (⟨d.ctx, d.pos0 + t⟩ : TokenRec) else ⟨0xFFFFFFFF, 0⟩)).flatten

/-- Partials of a list (R180, R245); `ue`: their canonical NaNs (R254). -/
def benchParts (s : State) (m : Model) (l : List QuDesc) (ue : Bool) : List BenchPart :=
  match l with
  | [] => []
  | d :: _ =>
    let h := s.readMem (blockAt d.qaddr) 64
    let dim := if m.latent then m.latw else m.d
    let scale := fp32L.decode (leField h 28 4)
    (List.range (leField h 23 1 + 1)).map fun i =>
      let (qs, recs) := s.queryRows m d.qaddr i
      let keys := s.benchKeys m (leField h 22 1 + i) l
      let rows := (qs.zip recs).map fun (q, r) =>
        if ue then RowState.nan dim
        else benchRow dim scale q (keys.map fun k =>
          (k.1, k.2.1, visible (leField h 26 1) (leField h 32 4) (leField h 36 2) r k.2.2))
      ⟨i, d.pidx, (rows.map partialBytes).flatten⟩

/-- The probabilities that a list leaves in the score rows for the last head it serves (R180): p[j] over x[j], for each row in turn.

DESIGN CHOICE: the manual gives the rows no order in the partition: row i of n keys stands at 4 · i · n. A row that R174 makes NaN holds NaNs for its visible keys. -/
def scoreRows (s : State) (m : Model) (l : List QuDesc) (ue : Bool) : List Byte :=
  match l with
  | [] => []
  | d :: _ =>
    let h := s.readMem (blockAt d.qaddr) 64
    let dim := if m.latent then m.latw else m.d
    let scale := fp32L.decode (leField h 28 4)
    let i := leField h 23 1
    let (qs, recs) := s.queryRows m d.qaddr i
    let keys := s.benchKeys m (leField h 22 1 + i) l
    ((qs.zip recs).map fun (q, r) =>
      valueBytes (benchProbs ue dim scale q (keys.map fun k =>
        (k.1, k.2.1, visible (leField h 26 1) (leField h 32 4) (leField h 36 2) r k.2.2)))).flatten

/-- Scores of a sketch list (R244): FP32 code and row, best first, at most P. -/
def sketchRanks (s : State) (m : Model) (l : List QuDesc) : List (Nat × Nat) :=
  let ranks := l.filterMap fun d =>
    let h := s.readMem (blockAt d.qaddr) 64
    let nh := leField h 23 1 + 1
    let recs := (List.range nh).map fun i => s.devRead (d.addr + 64 * (leField h 22 1 + i)) 64
    if recs.all fun r => bitOf (leField r 38 1) 0 then
      let sc := (List.range nh).foldl (fun acc i =>
        let r := recs.getD i []
        let x := leField (s.readMem (blockAt d.qaddr + 64 + 32 * i) 32) 0 32 ^^^ leField r 0 32
        let ones := ((List.range 256).filter fun b => bitOf x b).length
        let a : Int := 256 - 2 * (ones : Int)
        let p := (FVal.mul (.fin (decide (a < 0)) a.natAbs 0) (fp32L.decode (leField r 32 4))).1
        (FVal.add acc p).1) FVal.zero
      some (sc.code32, d.row)
    else none
  (ranks.mergeSort rankOrder).take m.p

/-- The sketch record of a head (R241): the new 64 bytes, and whether a key is NaN or infinite. -/
def sketchRecord (m : Model) (keys : List (List FVal)) : List Byte × Bool :=
  if keys.any fun k => k.any fun v => v.isNan || v.isInf then (leBytes 1 2, true)
  else
    let sums := (List.range m.width).map fun c => exactSum (keys.map fun k => k.getD c .zero)
    let bit := fun (b : Nat) =>
      let p := m.proj.getD b []
      let y := exactSum ((List.range m.width).map fun c =>
        if bitOf (p.getD (c / 8) 0).toNat (c % 8) then sums.getD c .zero else (sums.getD c .zero).neg)
      b2n (!FVal.lt y .zero)
    let sk := (List.range 32).map fun i => BitVec.ofNat 8 (((List.range 8).map fun k => bit (8 * i + k) * 2 ^ k).sum)
    let mx := (keys.map fun k => sqrtUp (exactDot k k)).foldl max 0
    (sk ++ leBytes 4 mx ++ leBytes 2 keys.length ++ leBytes 1 1 ++ List.replicate 25 0, false)

/-- The writes of a SKETCH_UPD at DADDR (R241, R254): each head's record, or its FLAGS alone; and whether a key was NaN or infinite. -/
def sketchWrites (s : State) (m : Model) (d : QuDesc) (ue : Bool) : List (Nat × List Byte) × Bool :=
  let page := s.devRead d.addr 262144
  let rs : List ((Nat × List Byte) × Bool) := (List.range (if m.latent then 1 else m.hkv)).map fun h =>
    let at_ := d.daddr + 64 * h
    if ue then ((at_ + 38, leBytes 1 0), false)
    else
      match sketchRecord m ((m.keyRows page h).take d.ntok) with
      | (bs, true) => ((at_ + 38, bs), true)
      | (bs, false) => ((at_, bs), false)
  (rs.map (·.1), rs.any (·.2))

/-- Device writes that heat their granules (R267). -/
def heatWrites (s : State) (ws : List (Nat × List Byte)) : State :=
  ws.foldl (fun s w => (s.devWrite w.1 w.2).heat w.1 w.2.length) s

/-- A value converted to TFMT with SF_CTRL.DEF_SAT (R250). -/
def toFmt (s : State) (f : Fmt) (v : FVal) : Nat := (f.scalar.convert (bitOf (s.reg R.SF_CTRL) 0) v).1

/-- The K or V rows of head h that EXPAND computes (R250). -/
def expandRows (m : Model) (mi layer h : Nat) (wv : Bool) (lat rope : List (List FVal)) : List (List FVal) :=
  let f := fmtOf 0xB
  let weight := fun (c i : Nat) =>
    f.blockValue (Config.upProjection mi layer wv h c (i / 32) true % 256) (Config.upProjection mi layer wv h c i false % 256)
  let n := if wv then m.d else m.d - m.ropew
  (List.range m.tpp).map fun t =>
    let l := lat.getD t []
    (List.range n).map (fun c => (roundFp32 (exactDot l ((List.range m.latw).map (weight c)))).1)
      ++ (if wv then [] else rope.getD t [])

/-- The output page of DEQUANT or EXPAND (R250); an error gives canonical NaNs (R254). -/
def convertedPage (s : State) (m : Model) (d : QuDesc) (ue : Bool) : List Byte :=
  let f := fmtOf d.tfmt
  let page := s.devRead d.addr 262144
  let g := keyGroups m.tpp
  let heads := List.range m.hkv
  let secs : List (List (List FVal)) :=
    if m.latent then
      let lat := (m.fmt.sectionRows m.latw g page).map rowValues
      let rope := if m.ropew = 0 then [] else (m.fmt.sectionRows m.ropew g (page.drop (m.sec m.latw))).map rowValues
      heads.map (fun h => expandRows m d.mod d.layer h false lat rope) ++ heads.map fun h => expandRows m d.mod d.layer h true lat rope
    else heads.map (m.keyRows page) ++ heads.map (m.valueRows page)
  (secs.map fun rows => packSection f.bits m.d g (rows.map fun r => r.map fun v =>
    if ue then f.scalar.nanCode else s.toFmt f v)).flatten

/-! ### Running the list at the head -/

/-- A list leaves the queue with its result; counters of R257. -/
def quFinish (s : State) (n : Nat) (l : List QuDesc) (r : QuResult) (macs exps cmps reads : Nat) : State :=
  let q := s.quState n
  let s := s.setQu n { quDrop q l.length with results := q.results ++ [(r, l.head?.bind stepOf)] }
  ((((((s.count (quReg n 0x40) l.length).count (quReg n 0x48) 1).count (quReg n 0x50) reads).count (quReg n 0x58) macs).count
    (quReg n 0x60) exps).count (quReg n 0x68) cmps)

/-- The die of a descriptor's emitter. -/
def senderDie (d : QuDesc) : Nat := match d.sender with | .die n => n | _ => 0

/-- The row that a SKETCH_UPD is for. -/
def updRow (s : State) (d : QuDesc) : Nat :=
  ((s.kv.updates.find? fun u => u.ctx == d.ctx && u.layer == d.layer && u.queued
    && (match s.rowAddr (s.ctx d.ctx).root u.row with | some row => s.pageOf row u.layer == d.addr | none => false)).map (·.row)).getD 0

/-- Partials whose rows are the canonical NaN (R254). -/
def nanParts (t : BenchTarget) (pidx : Nat) : List BenchPart :=
  (List.range t.heads).map fun i => ⟨i, pidx, ((List.range t.rows).map fun _ => partialBytes (RowState.nan t.dim)).flatten⟩

/-- Status BAD to the list's emitter (R235): a bad bench or sketch result is that of an uncorrectable error (R254), with VALID = 0 in the records of a bad SKETCH_UPD, and a bad COPY, MOVE or ZERO has failed.

DEDUCED: for a bad DEQUANT or EXPAND, too, the requests of the context take the data error. -/
def badResult (s : State) (n : Nat) (d : QuDesc) : QuResult :=
  let g := granOf d.addr
  if d.op = 0x10 then .ranks d.ctx d.layer [] (some g)
  else if d.op = 0x11 then .sketched d.ctx (s.updRow d) d.layer (match s.model d.mod with | some m => (s.sketchWrites m d true).1 | none => []) (some g)
  else if d.op = 0x20 ∨ d.op = 0x21 then match s.targetOf d.qaddr with | some (_, t) => .parts d.ctx d.qaddr (nanParts t d.pidx) (some g) | none => .bad d.ctx g
  else if d.op = 0x40 then .copied d.ctx d.daddr (some g)
  else if d.op = 0x42 then .moved g false
  else if d.op = 0x41 then .zeroed (match d.frame with | some f => n * 2 ^ 20 + f | none => 8 * 2 ^ 20 + senderDie d) false
  else if d.op = 0x50 then .search d.batch []
  else .bad d.ctx g

/-- A bad list is discarded (R235). -/
def quBad (s : State) (n : Nat) (l : List QuDesc) (d : QuDesc) : State :=
  let q := s.quState n
  (s.setQu n { quDrop q l.length with results := q.results ++ [(s.badResult n d, stepOf d)] }).descBad n

/-- A single-bit error that an operation meets: in the stack (site 0) or in base-die SRAM (R231, R259). -/
def quCorr (s : State) (n site pc : Nat) : State :=
  if site = 0 then s.stackCorr n pc
  else ((s.count32 (quReg n 0xC) 1).orReg (quReg n 8) 8).report 1 (0x10 + n) 0x02 0 0

/-- A double-bit error that an operation meets, or a granule that is POISON (R231, R254): QU_UE, QU_ERR and a breach. -/
def quUe (s : State) (n site : Nat) : State :=
  if site = 0 then ((s.count (quReg n 0x98) 1).orReg (quReg n 8) 2).report 4 (0x10 + n) 0x04 0 0
  else ((s.count (quReg n 0x98) 1).orReg (quReg n 8) 4).report 4 (0x10 + n) 0x03 0 0

/-- Bytes of results that wait in the results partition (R230). -/
def heldBytes (q : QuState) : Nat :=
  (q.results.map fun r => match r.1 with
    | .parts _ _ ps _ => (ps.map fun p => p.data.length).sum
    | .ranks _ _ rows _ => 8 * rows.length
    | _ => 0).sum

/-- The unit takes the list at its queue head, if it has operation `op` and room for results (R234, R248), and runs it: `f` gives, from the granules with an error and whether an error was met, the new state and the result for the list.

What an error stands in is open (R231, R254), and a free value says: the stack (0), the page, weight or score partitions (1), the descriptor queue or the query partition (2), which makes the list bad. -/
def quRun (s : State) (n op : Nat) (ecc : Ecc) (f : State → List QuDesc → List Nat → Bool → State × QuResult × Nat × Nat × Nat × Nat) : State :=
  let q := s.quState n
  let s := quPurge n (q.queue.length + q.wait.length) s
  let q := s.quState n
  let l := takeList (q.queue ++ q.wait)
  match if s.pw.stopped then [] else l with
  | [] => s
  | d :: _ =>
    let held := (op == 0x20 || op == 0x21) && s.sk.batches.any fun b => b.heaps.any fun h => h.1 / 4096 == n
    if d.kind ≠ op ∨ !listWhole l ∨ held then s
    else if Nat.ble 1048576 (heldBytes q) then s.orReg (quReg n 8) 0x20
    else if s.listBad n l then s.quBad n l d
    else
      let (site, s) := if ecc = .clean then (0, s) else let (v, s) := s.draw; (v % 3, s)
      let s := if ecc = .corrected then s.quCorr n site ((s.entry (granOf d.addr)).frame % 64) else s
      if ecc = .uncorrectable ∧ site = 2 then (s.quUe n 2).quBad n l d
      else
        let (ue, s) := s.listUe l ecc
        let err := decide (ecc = .uncorrectable) || !ue.isEmpty
        let s := if err then ue.foldl poison (s.quUe n (if ecc = .uncorrectable then site else 0)) else s
        let s := if ecc = .uncorrectable ∧ site = 0 then s.orReg R.TI_ERR 0x20 else s
        let s := l.foldl (fun s d => if d.noAddr ∨ d.op = 0x41 then s else s.heat d.addr d.len) s
        let (s, r, macs, exps, cmps, reads) := f s l ue err
        s.quFinish n l r macs exps cmps reads

def bench (s : State) (n op : Nat) (ecc : Ecc) : State :=
  s.quRun n op ecc fun s l ue err =>
    match l with
    | [] => (s, .bad 0 0, 0, 0, 0, 0)
    | d :: _ =>
      match s.model d.mod with
      | none => (s, .bad d.ctx 0, 0, 0, 0, 0)
      | some m =>
        let h := s.readMem (blockAt d.qaddr) 64
        let s := if (s.targetOf d.qaddr).isNone then s.addTarget d.ctx m d.qaddr h (leField h 20 2) else s
        let nh := leField h 23 1 + 1
        let qr := leField h 24 1 + 1
        let keys := (l.map QuDesc.ntok).sum
        let per := if m.latent then 2 * m.latw + m.ropew else 2 * m.d
        (s.writeMem (sramAt n 0xF00000) (s.scoreRows m l err), .parts d.ctx d.qaddr (s.benchParts m l err) ue.head?, qr * per * keys * nh, qr * keys * nh, 0, 4096 * l.length)

def deliverOp (s : State) (n op : Nat) (ecc : Ecc) : State :=
  s.quRun n op ecc fun s l ue _ =>
    match l with
    | [] => (s, .bad 0 0, 0, 0, 0, 0)
    | d :: _ =>
      match s.model d.mod with
      | none => (s, .bad d.ctx 0, 0, 0, 0, 0)
      | some m =>
        let h := s.readMem (blockAt d.qaddr) 64
        let ws := l.map fun d =>
          (terraceAt (leField h 0 4 % 4) (leField h 4 4 * 64 + d.pidx * (leField h 8 4 * 64)), s.convertedPage m d ((listGrans [d]).any ue.contains))
        let macs := if m.latent then m.tpp * m.hkv * (2 * m.d - m.ropew) * m.latw * l.length else 0
        (s, .page d.ctx ws (leField h 12 1) (leField h 13 1) (leField h 14 1 % 16) ue.head?, macs, 0, 0, 4096 * l.length)

end State

/-- QU_DESC_ENQUEUE (R234): an emitter queues a descriptor; while the 8,192 places are taken it waits behind them. -/
def execQuDescEnqueue (qu : Nat) (desc : BitVec 256) (s : State) : Outcome :=
  onUnit (decide (qu < 8)) (s.quPush qu ⟨desc, .die (qu / 2), none, s.epoch, bitsOf desc.toNat 167 160, false⟩)

/-- SKETCH_SCORE (R244). A row whose records have an error is not offered (R254). -/
def execSketchScore (qu : Nat) (ecc : Ecc) (s : State) : Outcome :=
  onUnit (decide (qu < 8)) (s.quRun qu 0x10 ecc fun s l ue _ =>
    match l with
    | [] => (s, .bad 0 0, 0, 0, 0, 0)
    | d :: _ =>
      match s.model d.mod with
      | none => (s, .bad d.ctx 0, 0, 0, 0, 0)
      | some m =>
        let ok := l.filter fun d => !(State.listGrans [d]).any ue.contains
        let heads := (l.map fun d => leField (s.readMem (State.blockAt d.qaddr) 64) 23 1 + 1).sum
        (s, .ranks d.ctx d.layer (s.sketchRanks m ok) ue.head?, 0, 0, heads, heads))

/-- SKETCH_UPD (R241).

DESIGN CHOICE: a unit writes only its own stack (R228), and the manual does not say how records come to a record group in another stack: their home die control core, which receives them as the result (R232), writes them on delivery. -/
def execSketchUpd (qu : Nat) (ecc : Ecc) (s : State) : Outcome :=
  onUnit (decide (qu < 8)) (s.quRun qu 0x11 ecc fun s l ue err =>
    match l with
    | [] => (s, .bad 0 0, 0, 0, 0, 0)
    | d :: _ =>
      match s.model d.mod with
      | none => (s, .bad d.ctx 0, 0, 0, 0, 0)
      | some m =>
        let (ws, nan) := s.sketchWrites m d err
        let row := s.updRow d
        let own := let x := s.entry (granOf d.daddr); !x.spill && x.stack == qu
        let s := if nan then s.orReg (State.quReg qu 8) 0x10 else s
        (if own then s.heatWrites ws else s, .sketched d.ctx row d.layer (if own then [] else ws) ue.head?, 0, 0, 0, 4096))

/-- BENCH (R180, R245). -/
def execBench (qu : Nat) (ecc : Ecc) (s : State) : Outcome := onUnit (decide (qu < 8)) (s.bench qu 0x20 ecc)
/-- BENCH_LAT (R245). -/
def execBenchLat (qu : Nat) (ecc : Ecc) (s : State) : Outcome := onUnit (decide (qu < 8)) (s.bench qu 0x21 ecc)
/-- DEQUANT (R250, R251). -/
def execDequant (qu : Nat) (ecc : Ecc) (s : State) : Outcome := onUnit (decide (qu < 8)) (s.deliverOp qu 0x30 ecc)
/-- EXPAND (R250, R251). -/
def execExpand (qu : Nat) (ecc : Ecc) (s : State) : Outcome := onUnit (decide (qu < 8)) (s.deliverOp qu 0x31 ecc)

/-- COPY (R252). -/
def execQuarryCopy (qu : Nat) (ecc : Ecc) (s : State) : Outcome :=
  onUnit (decide (qu < 8)) (s.quRun qu 0x40 ecc fun s l ue err =>
    match l with
    | [] => (s, .bad 0 0, 0, 0, 0, 0)
    | d :: _ =>
      let s' := if err then s else (s.devWrite d.daddr (s.devRead d.addr d.len)).heat d.daddr d.len
      (s', .copied d.ctx d.daddr ue.head?, 0, 0, 0, d.len / 64))

/-- ZERO (R252): an extent of device addresses, or the frame that the tier manager names. A frame that has been freed since no longer waits for its ZERO, and keeps what its new owner has written. -/
def execZero (qu : Nat) (ecc : Ecc) (s : State) : Outcome :=
  onUnit (decide (qu < 8)) (s.quRun qu 0x41 ecc fun s l _ err =>
    match l with
    | [] => (s, .bad 0 0, 0, 0, 0, 0)
    | d :: _ =>
      match d.frame with
      | some f =>
        let key := qu * 2 ^ 20 + f
        (if err || !s.ti.zeroing.contains key then s else s.writeFrame qu f 0 (List.replicate 65536 0), .zeroed key (!err), 0, 0, 0, 0)
      | none =>
        (if err then s else (s.devWrite d.addr (List.replicate d.len 0)).heat d.addr d.len, .zeroed (8 * 2 ^ 20 + State.senderDie d) (!err), 0, 0, 0, 0))

/-- MOVE (R252, R271): the data phase of a move within the stack. -/
def execMove (qu : Nat) (ecc : Ecc) (s : State) : Outcome :=
  onUnit (decide (qu < 8)) (s.quRun qu 0x42 ecc fun s l _ err =>
    match l with
    | [] => (s, .bad 0 0, 0, 0, 0, 0)
    | d :: _ =>
      let g := granOf d.addr
      let x := s.entry g
      let s' := match d.frame with
        | some f => s.writeFrame qu f 0 (s.readFrame x.stack x.frame 0 65536)
        | none => if err then s else s.devWrite d.daddr (s.devRead d.addr d.len)
      (s', .moved g (!err), 0, 0, 0, d.len / 64))

namespace State

/-- A waiting partial may fold (R248): its gate is set; in Plumb mode the earlier ones of its head have folded, and in Flow mode it arrived first of those of its target. -/
def mayFold (s : State) (c : Nat) (t : BenchTarget) (p : Partial) : Bool :=
  bitOf ((s.core c).flag t.gfw) t.gbit
    && (if s.plumbMode t.model then p.pidx == Map.getD 0 t.folded p.head
        else ((s.core c).partials.find? fun q => q.qaddr == p.qaddr) == some p)

/-- A partial folds into its target (R177, R248). -/
def foldPartial (s : State) (c : Nat) (t : BenchTarget) (p : Partial) : State :=
  let sat := bitOf (s.reg R.SF_CTRL) 0
  let oAt := t.obase + p.head * t.ostep
  let stAt := t.stbase + p.head * t.ststep
  let (rows, a) := foldRows sat t.dim (s.readTarget c oAt stAt t.rows t.dim) (partialRows t.rows t.dim p.data)
  let s := s.meetTarget c oAt stAt t.rows t.dim
  let s := (s.writeTarget c oAt stAt t.dim rows).arith c { a with nans := nanCount rows }
  let t' := { t with folded := t.folded.put p.head (Map.getD 0 t.folded p.head + 1) }
  let s := s.updCore c fun k => { k with partials := k.partials.erase p, targets := k.targets.map fun u => if u = t then t' else u }
  if (t'.folded.map (·.2)).sum < t.npart * t.heads then s else s.finishTarget c t'

end State

/-- PARTIAL_FOLD (R248): the n-th waiting partial folds; where there is none, a target that expects none is done. -/
def execPartialFold (core n : Nat) (s : State) : Outcome :=
  onUnit (decide (core < 192))
    (match (s.core core).partials[n]? with
     | none => s.emptyTargets core
     | some p =>
       match (s.core core).targets.find? fun t => t.qaddr == p.qaddr with
       | none => s
       | some t => if s.mayFold core t p then s.foldPartial core t p else s)

end Sys2Proof.Machine
end

