-- ==== Sys2Proof/Machine/Sequencer.lean ====
section
/-! DEFINITION. The sequencer (R86–R89, R102–R113): which slot issues, the tests at issue, loops, and the steps that only enter a unit's queue or act at once. -/

namespace Sys2Proof.Machine

namespace CoreState

/-- The next READY slot in increasing number after `a`, wrapping from 7 to 0 (R109). -/
def nextReady (c : CoreState) (a : Nat) : Option Nat :=
  ((List.range 8).map fun k => (a + 1 + k) % 8).find? fun i => (c.slot i).phase == .ready

/-- Whether the sequencer may issue from slot i now (R109): from the current slot, until it has issued 8 steps while another slot is READY; else from the next READY slot. -/
def mayRun (c : CoreState) (i : Nat) : Bool :=
  match c.cur with
  | some k => if 8 ≤ c.run && (c.nextReady k).isSome then c.nextReady k == some i else k == i
  | none => c.nextReady c.last == some i

end CoreState

/-- Slot i becomes current (R109); a change of slot counts in SQ_SWITCH. -/
def State.becomeCurrent (s : State) (c i : Nat) : State :=
  let k := s.core c
  if k.cur = some i then s
  else
    let k := match k.cur with
      | some j => k.setSlot j { k.slot j with phase := .ready }
      | none => k
    let moved := k.last != i
    let k := { (k.setSlot i { k.slot i with phase := .current }) with cur := some i, last := i, run := 0 }
    (s.setCore c k).count (State.coreReg c 0x308) (b2n moved)

/-- A failed test (R108): the slot waits, and the condition it waits on shows in SQ_SLOT_WAIT. -/
def State.blockSlot (s : State) (c i w reason : Nat) : State :=
  let k := s.core c
  let x := k.slot i
  let x := { x with phase := .waiting, wfw := stWfw w, wmask := stWmask w x.odd, reason := reason }
  (s.setCore c { (k.setSlot i x) with cur := none }).count (State.coreReg c 0x318) (b2n (reason == 1))

/-- A step closes a loop that was not opened (R113 cause LOOP). -/
def Slot.loopFault (x : Slot) (w : Nat) : Bool :=
  match stLoop w with
  | 1 => !x.loop0.opened
  | 2 => !x.loop1.opened
  | _ => false

/-- One loop closed (R112): the index advances and the PC goes back, or the PC goes on. -/
def Loop.close (l : Loop) (pc : Nat) : Loop × Nat :=
  if l.index + 1 < l.count then ({ l with index := l.index + 1 }, l.start) else (l, pc)

/-- WAIT with OPEN = 1 opens loop LID at the next step (R104). -/
def Slot.openLoop (x : Slot) (w : Nat) : Slot :=
  if stType w = 0x11 ∧ bitOf w 89 then
    let l : Loop := ⟨0, bitsOf w 106 91 + 1, x.pc + 1, true⟩
    if bitOf w 90 then { x with loop1 := l } else { x with loop0 := l }
  else x

/-- The slot after a step has issued: loops and PC (R112).

DESIGN CHOICE: the manual gives no order for a WAIT that opens the loop that its own LOOP field closes; the test for an unopened loop sees the slot before it, and then the loop opens and its new count closes. -/
def Slot.advance (x : Slot) (w : Nat) : Slot :=
  let x := x.openLoop w
  match stLoop w with
  | 1 => let (l, pc) := x.loop0.close (x.pc + 1); { x with loop0 := l, pc := pc }
  | 2 => let (l, pc) := x.loop1.close (x.pc + 1); { x with loop1 := l, pc := pc }
  | _ => { x with pc := x.pc + 1 }

/-- What a step leaves in its unit's queue. -/
def State.queued (s : State) (c i w : Nat) : QStep :=
  let x := (s.core c).slot i
  ⟨i, BitVec.ofNat 256 w, if x.odd then s.altOffset c i else 0, x.odd⟩

/-- A step read with an uncorrectable error (R113 cause ECC_STEP), reported as a breach (R80). -/
def State.stepError (s : State) (c i : Nat) : State :=
  (s.storeUe c (coreBlock c) (s.badWord (State.storeAt c (32 * ((s.core c).slot i).pc)) 32)).slotFault c i 0x01

/-- The cause that keeps a step, ready to issue, from issuing (R82, R112, R441). A recompute tile ignores MERGE (R185). -/
def State.issueFault (s : State) (c i w : Nat) : Option Nat :=
  let x := (s.core c).slot i
  if x.loopFault w then some 0x04
  else if !s.inRange c w (s.queued c i w).alt then some 0x05
  else if stType w = 0x08 ∧ bitOf w 211 ∧ !bitOf (s.attnWord c (bitsOf w 208 205) 0) 14 ∧ !s.plumbOn c ∧ s.plumbMode x.model then some 0x0B
  else none

/-- The sequencer of core c reaches the step at the PC of slot i (R86–R112). `p` says which steps this command is about, `pre` gives a further fault of the step, and `eff` is what the step does on issue, before flags are cleared and the PC moves. -/
def State.issue (s : State) (c i : Nat) (p : Nat → Bool) (pre : State → Nat → Option Nat) (eff : State → Nat → State) : State :=
  let x := (s.core c).slot i
  let w := s.stepWord c x.pc
  if s.pw.stopped || !(s.core c).mayRun i || !decide (x.pc < s.steps c) || !p w then s
  else
    let s := (s.becomeCurrent c i).seep c (32 * x.pc) 32
    if s.badIn (State.storeAt c (32 * x.pc)) 32 then s.stepError c i
    else match s.blocked c i with
      | some r => s.blockSlot c i w r
      | none =>
        match (s.issueFault c i w).orElse fun _ => pre s w with
        | some cause => s.slotFault c i cause
        | none =>
          let s := if stClr w then s.clearFlags c (stWfw w) (stWmask w x.odd) else s
          let s := if stType w = 0x11 ∧ bitOf w 88 then s.clearFlags c (bitsOf w 71 64) (bitsOf w 87 72) else s
          let s := s.updCore c fun k => { (k.setSlot i ((k.slot i).advance w)) with run := k.run + 1 }
          let s := s.count (State.coreReg c 0x300) 1
          (eff s w).settle c

/-- The core and slot of a command exist (R24, R108). -/
def slotOk (c i : Nat) : Bool := decide (c < 192) && decide (i < 8)

/-- A unit step issued: it enters its queue (R77). `x` is the slot before the PC moved. -/
def State.enqueue (s : State) (c i : Nat) (u : UnitId) (q : QStep) : State :=
  s.updCore c fun k =>
    let wasV := k.running .vector
    let wasS := k.running .sfu
    let k' := k.setQueue u (k.queue u ++ [{ q with slot := i }])
    if u = .matrix ∧ k.mq = [] then k'.claimAttn wasV wasS else k'

/-- A step for a unit's queue. -/
def State.issueUnit (s : State) (c i : Nat) (u : UnitId) (p : Nat → Bool) : State :=
  let q := s.queued c i
  s.issue c i p (fun _ _ => none) fun s' w => s'.enqueue c i u (q w)

def isVop (v w : Nat) : Bool := stType w == 0x04 && bitsOf w 71 64 == v
def isFunc (v w : Nat) : Bool := stType w == 0x05 && bitsOf w 71 64 == v

/-- MMA (R90): a matrix tile is issued to the matrix unit. -/
def execMma (c i : Nat) (s : State) : Outcome := onUnit (slotOk c i) (s.issueUnit c i .matrix fun w => stType w == 0x02)
/-- MMA_REDUCE (R106, R107): a tile whose output joins a collective. -/
def execMmaReduce (c i : Nat) (s : State) : Outcome := onUnit (slotOk c i) (s.issueUnit c i .matrix fun w => stType w == 0x03)
/-- ATTN_TILE (R97, R171). -/
def execAttnTile (c i : Nat) (s : State) : Outcome := onUnit (slotOk c i) (s.issueUnit c i .matrix fun w => stType w == 0x08)
/-- VEC ADD (R94). -/
def execAdd (c i : Nat) (s : State) : Outcome := onUnit (slotOk c i) (s.issueUnit c i .vector (isVop 0x01))
/-- VEC MUL (R94). -/
def execMul (c i : Nat) (s : State) : Outcome := onUnit (slotOk c i) (s.issueUnit c i .vector (isVop 0x02))
/-- VEC FMA (R94). -/
def execFma (c i : Nat) (s : State) : Outcome := onUnit (slotOk c i) (s.issueUnit c i .vector (isVop 0x03))
/-- VEC ADDI (R94). -/
def execAddi (c i : Nat) (s : State) : Outcome := onUnit (slotOk c i) (s.issueUnit c i .vector (isVop 0x04))
/-- VEC MULI (R94). -/
def execMuli (c i : Nat) (s : State) : Outcome := onUnit (slotOk c i) (s.issueUnit c i .vector (isVop 0x05))
/-- VEC MAX (R94). -/
def execMax (c i : Nat) (s : State) : Outcome := onUnit (slotOk c i) (s.issueUnit c i .vector (isVop 0x06))
/-- VEC MIN (R94). -/
def execMin (c i : Nat) (s : State) : Outcome := onUnit (slotOk c i) (s.issueUnit c i .vector (isVop 0x07))
/-- VEC CMPGE (R94). -/
def execCmpge (c i : Nat) (s : State) : Outcome := onUnit (slotOk c i) (s.issueUnit c i .vector (isVop 0x08))
/-- VEC SELGE (R94). -/
def execSelge (c i : Nat) (s : State) : Outcome := onUnit (slotOk c i) (s.issueUnit c i .vector (isVop 0x09))
/-- VEC CONVERT (R94). -/
def execConvert (c i : Nat) (s : State) : Outcome := onUnit (slotOk c i) (s.issueUnit c i .vector (isVop 0x10))
/-- VEC COPY (R94). -/
def execCopy (c i : Nat) (s : State) : Outcome := onUnit (slotOk c i) (s.issueUnit c i .vector (isVop 0x11))
/-- VEC RSUM (R94). -/
def execRsum (c i : Nat) (s : State) : Outcome := onUnit (slotOk c i) (s.issueUnit c i .vector (isVop 0x18))
/-- VEC RMAX (R94). -/
def execRmax (c i : Nat) (s : State) : Outcome := onUnit (slotOk c i) (s.issueUnit c i .vector (isVop 0x19))
/-- VEC DROPOUT (R73). -/
def execDropout (c i : Nat) (s : State) : Outcome := onUnit (slotOk c i) (s.issueUnit c i .vector (isVop 0x20))
/-- SFU EXP2 (R60). -/
def execExp2 (c i : Nat) (s : State) : Outcome := onUnit (slotOk c i) (s.issueUnit c i .sfu (isFunc 0x01))
/-- SFU LOG2 (R60). -/
def execLog2 (c i : Nat) (s : State) : Outcome := onUnit (slotOk c i) (s.issueUnit c i .sfu (isFunc 0x02))
/-- SFU RCP (R60). -/
def execRcp (c i : Nat) (s : State) : Outcome := onUnit (slotOk c i) (s.issueUnit c i .sfu (isFunc 0x03))
/-- SFU RSQRT (R60). -/
def execRsqrt (c i : Nat) (s : State) : Outcome := onUnit (slotOk c i) (s.issueUnit c i .sfu (isFunc 0x04))
/-- SFU PWL (R67). -/
def execPwl (c i : Nat) (s : State) : Outcome := onUnit (slotOk c i) (s.issueUnit c i .sfu (isFunc 0x05))
/-- SFU GELU_ERF (R60). -/
def execGeluErf (c i : Nat) (s : State) : Outcome := onUnit (slotOk c i) (s.issueUnit c i .sfu (isFunc 0x08))
/-- SFU GELU_TANH (R60). -/
def execGeluTanh (c i : Nat) (s : State) : Outcome := onUnit (slotOk c i) (s.issueUnit c i .sfu (isFunc 0x09))
/-- SFU ERF (R60). -/
def execErf (c i : Nat) (s : State) : Outcome := onUnit (slotOk c i) (s.issueUnit c i .sfu (isFunc 0x0A))
/-- SFU micro-program (R68). -/
def execMicroProgram (c i : Nat) (s : State) : Outcome :=
  onUnit (slotOk c i) (s.issueUnit c i .sfu fun w => stType w == 0x05 && decide (0x80 ≤ bitsOf w 71 64))
/-- NORM (R71). -/
def execNorm (c i : Nat) (s : State) : Outcome := onUnit (slotOk c i) (s.issueUnit c i .vector fun w => stType w == 0x06)
/-- ROPE (R96). -/
def execRope (c i : Nat) (s : State) : Outcome := onUnit (slotOk c i) (s.issueUnit c i .vector fun w => stType w == 0x07)

/-! ### Steps of the sequencer (R103, R104) -/

/-- The header bits of a step set in its own core. -/
def State.headerBits (s : State) (c w : Nat) (odd : Bool) : State := s.setFlags c (stSfw w) (stSmask w odd)

/-- WAIT (R104): issues when both conditions hold, and completes on issue. -/
def execWait (c i : Nat) (s : State) : Outcome :=
  let odd := ((s.core c).slot i).odd
  onUnit (slotOk c i) (s.issue c i (fun w => stType w == 0x11) (fun _ _ => none) fun s w => s.headerBits c w odd)

/-- SIGNAL (R104): a fence over the earlier steps of its slot; its bits are then on their way to the target core. -/
def execSignal (c i : Nat) (s : State) : Outcome :=
  let odd := ((s.core c).slot i).odd
  onUnit (slotOk c i) (s.issue c i (fun w => stType w == 0x12) (fun _ _ => none) fun s w =>
    let t := if bitsOf w 71 64 = 0xFF then c else bitsOf w 71 64
    ({ s with signals := s.signals ++ [⟨c, t, bitsOf w 79 72, bitsOf w 95 80⟩] } : State).headerBits c w odd)

/-- EMIT (R104): a message enters the queue of a die control core. A payload, or a HOME_DIE, with an uncorrectable error completes without writing: no message is queued, and the slot faults (R79). -/
def execEmit (c i : Nat) (s : State) : Outcome :=
  let x := (s.core c).slot i
  let alt := if x.odd then s.altOffset c i else 0
  onUnit (slotOk c i) (s.issue c i (fun w => stType w == 0x13) (fun _ _ => none) fun s w =>
    let d := s.emitDie c i w
    let at_ := operandAt w 75 alt
    let s := (if bitOf w 93 then s.seep c at_ 64 else s).seep c (argAt i) (b2n (bitOf w 66))
    match (if bitOf w 93 then s.badWord (State.storeAt c at_) 64 else none).orElse fun _ => s.badWord (State.storeAt c (argAt i)) (b2n (bitOf w 66)) with
    | some a => (s.storeUe c (coreBlock c) (some a)).slotFault c i 0x02
    | none =>
      let pay := if bitOf w 93 then s.readStore c at_ 64 else []
      let m : EmitMsg := ⟨c, i, bitsOf w 74 67, bitsOf w 181 118, pay, bitsOf w 101 94, bitsOf w 117 102⟩
      let s := { s with emits := s.emits.put d (Map.getD [] s.emits d ++ [m]) }
      (s.send (.control d [0x13, c, i, m.code, m.imm] pay)).headerBits c w x.odd)

/-- HALT (R104): a fence over every earlier step of the slot, STREAM steps included; the slot drains. -/
def execHalt (c i : Nat) (s : State) : Outcome :=
  let odd := ((s.core c).slot i).odd
  onUnit (slotOk c i) (s.issue c i (fun w => stType w == 0x1F) (fun _ _ => none) fun s w =>
    s.updCore c fun k =>
      { (k.setSlot i { k.slot i with phase := .draining, fin := some (stSfw w, stSmask w odd, bitOf w 64) }) with cur := none })

/-- PC_RANGE (R113): the sequencer meets a step at or beyond STEPS, or of a reserved TYPE. A step read with an uncorrectable error faults with ECC_STEP, whatever TYPE its bytes show. -/
def execPcRange (c i : Nat) (s : State) : Outcome :=
  let x := (s.core c).slot i
  let beyond := decide (s.steps c ≤ x.pc)
  onUnit (slotOk c i)
    (if !s.pw.stopped && (s.core c).mayRun i && (beyond || !knownType (stType (s.stepWord c x.pc))) then
       let s := s.becomeCurrent c i
       if beyond then s.slotFault c i 0x03
       else
         let s := s.seep c (32 * x.pc) 32
         if s.badIn (State.storeAt c (32 * x.pc)) 32 then s.stepError c i else s.slotFault c i 0x03
     else s)

/-- SIGNAL_DELIVER (R105): the n-th signal in flight reaches its core. Signals from one core to another arrive in the order sent (R23). -/
def execSignalDeliver (n : Nat) (s : State) : Outcome :=
  .next (match s.signals[n]? with
    | some g =>
      if (s.signals.take n).any fun h => h.src == g.src && h.core == g.core then s
      else ({ s with signals := s.signals.eraseIdx n } : State).setFlags g.core g.fw g.mask
    | none => s)

/-- EMIT_REPLY (R104): the die control core answers the oldest message of its queue; slots that waited for the queue may go on. -/
def execEmitReply (die : Nat) (s : State) : Outcome :=
  onUnit (decide (die < 4))
    (match Map.getD [] s.emits die with
     | m :: rest =>
       let s : State := { s with emits := if rest = [] then s.emits.del die else s.emits.put die rest }
       let s := s.setFlags m.core m.rfw m.rmask
       s.cores.keys.foldl State.wake s
     | [] => s)

/-- SLOT_LAUNCH (R108, R83): a die control core writes an argument block, sets the entry PC and launches an IDLE slot. -/
def execSlotLaunch (c i : Nat) (pc : BitVec 14) (model : Byte) (args : List Byte) (s : State) : Outcome :=
  onUnit (slotOk c i)
    (if ((s.core c).slot i).phase = .idle then
       let s := s.writeStore c (argAt i) ((args ++ List.replicate 64 0).take 64)
       s.updCore c fun k => k.setSlot i { Slot.idle with phase := .ready, pc := pc.toNat, model := model.toNat }
     else s)

/-- PATROL_SCRUB (R80): the scrubber visits a 64-bit word; a single-bit error is corrected, counted and written back, a double-bit error is a breach. A word in which a double-bit error stands is a breach, whatever the command says of it. -/
def execPatrolScrub (c word : Nat) (ecc : Ecc) (s : State) : Outcome :=
  onUnit (decide (c < 192) && decide (word < 786432))
    (let k := State.storeAt c (8 * word) / 8
     if ecc = .uncorrectable ∨ s.bad.contains k then
       { s.storeUe c (coreBlock c) (some (8 * k)) with bad := if s.bad.contains k then s.bad else s.bad ++ [k], soft := s.soft.filter (· != k) }
     else if ecc = .corrected ∨ s.soft.contains k then { s.storeCe c with soft := s.soft.filter (· != k) }
     else s)

end Sys2Proof.Machine
end

