-- ==== Sys2Proof/Machine/Sluice.lean ====
section
/-! DEFINITION. The sluice engine's passes and hops (R298–R304), probes, aborts as they settle (R309–R311), and slow notices (R307, R308). -/

namespace Sys2Proof.Machine

namespace State

/-! ### Hops (R301–R303) -/

/-- The 64-byte hop header (R302). -/
def hopHeader (opid exec cidx pass kind ring hops len origin crc : Nat) : Nat :=
  opid % 65536 + exec % 65536 * 2 ^ 16 + cidx % 65536 * 2 ^ 32 + pass % 256 * 2 ^ 48 + kind % 256 * 2 ^ 56 + ring % 256 * 2 ^ 64
    + hops % 65536 * 2 ^ 80 + len % 2 ^ 32 * 2 ^ 96 + origin % 65536 * 2 ^ 128 + crc % 2 ^ 32 * 2 ^ 160

def updExec (s : State) (k : Nat) (f : SlExec → SlExec) : State :=
  match s.slExec k with
  | some x => s.setExec k (f x)
  | none => s

/-- A chunk finishes at this member (R304): its slot is freed, and CFW is set for a step-launched execution. -/
def slFinish (s : State) (k cidx : Nat) : State :=
  match s.slExec k with
  | none => s
  | some x =>
    if x.fin.contains cidx then s
    else
      let s := (s.setExec k { x with fin := x.fin ++ [cidx] }).count R.SL_CHUNKS_LO 1
      let s := match s.slChunk (k / 65536) x.exec cidx with
        | some b => (s.dropChunk b).setFlags b.core b.cfw b.bit
        | none => s
      s.slRetry

/-- Whether the last action of a chunk at this member is done (R304): every hop it was to receive has come, none waits to be sent, and its own contribution has gone through. -/
def slChunkDone (s : State) (k : Nat) (x : SlExec) (cidx : Nat) : Bool :=
  let r := s.slRec (k / 65536)
  let n := (s.ringRanks (slRing r)).length
  let j := s.ringPos (slRing r)
  let f := cidx % n
  let sent := !(x.out.any fun h => h.cidx == cidx)
  let got (pass origin : Nat) : Bool := x.got.contains (cidx, pass, origin)
  match slKind r with
  | 0 => sent && x.begun.contains cidx && (j == f || got 1 f)
  | 4 => sent && x.begun.contains cidx && (j == f || got 1 f)
  | 1 => sent && x.begun.contains cidx
  | 2 => sent && x.begun.contains cidx && (List.range n).all fun p => p == j || got 2 p
  | _ => sent && x.begun.contains cidx && (j == slRoot r || got 2 (slRoot r))

/-- The batch that an execution served takes the merged list of each of its queries (R338). -/
def skMerged (s : State) (opid exec : Nat) : State :=
  let r := s.slRec opid
  let list := fun (j : Nat) => topkEntries 4096 (s.readMem (slDst r + j * 65536) (16 * Map.getD (slK r) s.sl.staged (4096 * slKey opid exec + j)))
  let done := fun (b : SkBatch) => if s.skWaits b opid exec then { b with phase := 9, merged := (List.range b.queries.length).map list } else b
  { s with sk := { s.sk with batches := s.sk.batches.map done } }

/-- An execution whose chunks have all finished completes (R291, R304): EXEC advances, and a launched one is reported to its die. -/
def slComplete (s : State) (k : Nat) : State :=
  let opid := k / 65536
  match s.slExec k with
  | none => s
  | some x =>
    if x.phase ≠ 2 ∨ x.fin.length < slChunks (s.slRec opid) then s
    else
      let s := s.skMerged opid x.exec
      let s := s.slUpd fun l => { l with
        execs := l.execs.del k
        count := l.count.store 0 opid ((s.slCount opid + 1) % 65536)
        staged := l.staged.filter fun t => t.1 / 4096 != k }
      let s := s.count R.SL_EXECS_LO 1
      let s := match x.die with | some d => s.send (.control d [0x293, opid, x.exec] []) | none => s
      (s.slFirst (slKey opid (s.slCount opid))).slRetry

/-- A hop that holds its tags leaves (R301): a successor without a route aborts the execution (R310). -/
def slSendHop (s : State) (k : Nat) (x : SlExec) (h : SlHop) : State :=
  let r := s.slRec (k / 65536)
  let ring := slRing r
  let hdr := leBytes 64 (hopHeader (k / 65536) x.exec h.cidx h.pass (slKind r) ring h.hops h.data.length h.origin h.crc)
  let (s, ok) := s.sendMsg (s.ringSucc ring) 2 0x10 [] (hdr ++ h.data) (some (slModel r))
  if !ok then s.slAbort k 0x05 s.ownRank
  else
    let s := s.setExec k { x with out := x.out.erase h, grants := x.grants.erase (h.cidx, h.pass, h.origin) }
    (s.count R.SL_HOPS_OUT_LO 1).count R.SL_BYTES_OUT_LO (ceilDiv h.data.length 64)

/-- A hop of the reduce pass takes its chunk's berm entry as it is sent onward (R294), which is before it asks for a tag (R136). -/
def slTakeHop (s : State) (k : Nat) (x : SlExec) (h : SlHop) : State :=
  match s.slChunk (k / 65536) x.exec h.cidx with
  | some b => if h.pass = 0 && !b.taken then s.slTake b else s
  | none => s

/-- Hops whose grant is held ask for remote tags, oldest first (R136, R301). -/
def slSend (s : State) (k : Nat) : State :=
  match s.slExec k with
  | none => s
  | some x =>
    (x.out.filter fun h => x.grants.contains (h.cidx, h.pass, h.origin)).foldl (fun s h =>
      let o := Owner.sluice (hopNo k h.cidx h.pass h.origin)
      if s.tg.reqs.any fun q => q.owner == o then s
      else
        let s := s.slTakeHop k x h
        { s with tg := { s.tg with reqs := s.tg.reqs ++ [⟨.remote, o, 0, h.data.length⟩] } }) s

/-- A hop of this member towards its successor. -/
def slOut (s : State) (k cidx pass origin hops : Nat) (data : List Byte) (crc : Option Nat) : State :=
  s.updExec k fun x => { x with out := x.out ++ [⟨cidx, pass, origin, hops, data, crc.getD (crc32c data)⟩] }

/-- The reduce pass has reached its end here: the result is written and, but for REDUCE_SCATTER, gathered (R298). -/
def slResult (s : State) (k cidx : Nat) (data : List Byte) : State :=
  let r := s.slRec (k / 65536)
  let n := (s.ringRanks (slRing r)).length
  let s := s.slWrite k cidx 0 data
  let s := match s.slChunk (k / 65536) (k % 65536) cidx with
    | some b => if b.taken then s else s.slTake b
    | none => s
  if slKind r = 1 ∨ n ≤ 1 then s else s.slOut k cidx 1 (cidx % n) 1 data none

/-- What this member can begin on chunk `cidx`: its pass, or the grants it may give (R298, R301). -/
def slBegin (s : State) (k : Nat) (cidx : Nat) : State :=
  match s.slExec k with
  | none => s
  | some x =>
    let r := s.slRec (k / 65536)
    let ring := slRing r
    let n := (s.ringRanks ring).length
    let j := s.ringPos ring
    let grant (s : State) (pass origin : Nat) : State :=
      let y := (s.slExec k).getD x
      if y.waits.any (fun w => w.cidx == cidx && w.pass == pass && w.origin == origin) || y.got.contains (cidx, pass, origin) then s
      else
        let s := s.setExec k { y with waits := y.waits ++ [⟨cidx, pass, origin, s.now, false⟩] }
        s.sendControl (s.ringPred ring) 0x11 (slBody (k / 65536) x.exec cidx pass origin 0 0 0)
    let has := s.slHas k x cidx
    let kind := slKind r
    if kind = 2 ∨ kind = 3 then
      let mine := if kind = 2 then true else j == slRoot r
      let s := if has && !x.begun.contains cidx then
          let s := s.updExec k fun y => { y with begun := y.begun ++ [cidx] }
          if mine then
            let d := s.slOwn k x cidx
            let s := (s.slMeet k x cidx).slWrite k cidx j d
            if n ≤ 1 then s else s.slOut k cidx 2 j 1 d none
          else s
        else s
      (List.range n).foldl (fun s p => if p != j && (kind == 2 || p == slRoot r) then grant s 2 p else s) s
    else
      let st := (cidx + 1) % n
      let f := cidx % n
      let s := if kind = 1 ∨ j = f then s else grant s 1 f
      if !has then s
      else if j = st then
        if x.begun.contains cidx then s
        else
          let d := s.slOwn k x cidx
          let s := (s.slMeet k x cidx).updExec k fun y => { y with begun := y.begun ++ [cidx] }
          if n ≤ 1 then s.slResult k cidx d else s.slOut k cidx 0 st 1 d none
      else grant s 0 st

/-- An active execution goes as far as contributions and grants allow. -/
def slRun (s : State) (k : Nat) : State :=
  match s.slExec k with
  | none => s
  | some x =>
    if x.phase ≠ 2 then s
    else
      let n := slChunks (s.slRec (k / 65536))
      let s := (List.range n).foldl (fun s c => s.slBegin k c) s
      let s := s.slSend k
      let s := (List.range n).foldl (fun s c =>
        match s.slExec k with
        | some y => if y.phase == 2 && !y.fin.contains c && s.slChunkDone k y c then s.slFinish k c else s
        | none => s) s
      s.slComplete k

/-- Every active execution. -/
def slRunAll (s : State) : State := s.sl.execs.keys.foldl slRun s

/-- A hop of the sluice engine has its tags up to byte `upto` (R132, R136): with the last one it leaves. -/
def sluiceGranted (s : State) (h upto : Nat) : State :=
  let k := hopExec h
  match s.slExec k with
  | none => s
  | some x =>
    match x.out.find? fun o => hopNo k o.cidx o.pass o.origin == h with
    | some o => if o.data.length ≤ upto then (s.slSendHop k x o).slRun k else s
    | none => s

/-- An MMA_REDUCE tile enters its berm as a chunk (R106, R292, R294, R313): its entry among the free ones is left open; its execution is the first from EXEC on that does not have this chunk yet. -/
def bermArrive (s : State) (b : BermChunk) : State :=
  let used := (s.berm.filter fun x => x.core == b.core && x.berm == b.berm && !x.taken).map (·.entry)
  let free := (List.range 4).filter fun e => !used.contains e
  let (r, s) := s.draw
  let k := s.slFree b.opid fun x => !x.mine.contains b.cidx
  let b := { b with entry := free.getD (r % max 1 free.length) 0, exec := k % 65536, taken := false }
  let pitch := rowBytes b.cols 32
  let s := s.writeMem (s.bermPlace b) (s.readStore b.core b.addr (b.rows * pitch))
  let s : State := { s with berm := s.berm ++ [b] }
  (s.slWant k fun x => { x with mine := x.mine ++ [b.cidx] }).slRunAll

/-! ### Hops received (R302, R303) -/

/-- HOPS at this member of a pass that began at `origin` (R298). -/
def hopsFrom (n j origin : Nat) : Nat := (j + n - origin % n) % n

/-- A good hop: added or stored, and sent on (R298). -/
def hopTake (s : State) (k : Nat) (x : SlExec) (cidx pass origin hops crc : Nat) (data : List Byte) : State :=
  let r := s.slRec (k / 65536)
  let n := (s.ringRanks (slRing r)).length
  let j := s.ringPos (slRing r)
  let s := s.setExec k { x with
    waits := x.waits.filter fun w => !(w.cidx == cidx && w.pass == pass && w.origin == origin)
    got := x.got ++ [(cidx, pass, origin)] }
  if pass = 0 then
    let (acc, s) := s.slCombine k x cidx data
    let s := s.updExec k fun y => { y with begun := y.begun ++ [cidx] }
    if j = cidx % n then s.slResult k cidx acc else s.slOut k cidx 0 origin (hops + 1) acc none
  else
    let s := s.slWrite k cidx origin data
    if (j + 1) % n = origin % n then s else s.slOut k cidx pass origin (hops + 1) data (some crc)

/-- Length that this member expects of a hop's payload. -/
def hopLenOk (s : State) (k : Nat) (x : SlExec) (cidx len : Nat) : Bool :=
  let r := s.slRec (k / 65536)
  match slKind r with
  | 4 => len % 16 == 0 && Nat.ble 16 len && Nat.ble len (16 * slK r)
  | 2 => len == 65536
  | 3 => len == 65536
  | _ => match s.slChunk (k / 65536) x.exec cidx with
    | some b => len == BermChunkBytes b
    | none => Nat.ble 16 len && Nat.ble len 65536

/-- A hop (R302): dropped where its execution is over here; an abort where it names no granted hop or disagrees with its place. -/
def hop (s : State) (h : Nat) (payload : List Byte) : State :=
  let opid := bitsOf h 15 0
  let k := slKey opid (bitsOf h 31 16)
  let cidx := bitsOf h 47 32
  let pass := bitsOf h 55 48
  let hops := bitsOf h 95 80
  let len := bitsOf h 127 96
  let origin := bitsOf h 143 128
  let crc := bitsOf h 191 160
  let s := s.takeMsg 0x10 fun m => m.data.take 64 == leBytes 64 h
  let ring := slRing (s.slRec opid)
  match s.slExec k with
  | none =>
    if s.slPast opid (bitsOf h 31 16) || !slValid (s.slRec opid) || !(s.ringRanks ring).contains s.ownRank then s.count R.SL_DROPS_LO 1
    else s.slAbort k 0x03 (s.ringPred ring)
  | some x =>
    if x.phase = 3 then s.count R.SL_DROPS_LO 1
    else
      let n := (s.ringRanks ring).length
      let j := s.ringPos ring
      let known := x.waits.any fun w => w.cidx == cidx && w.pass == pass && w.origin == origin
      let reserved := bitsOf h 79 72 != 0 || bitsOf h 159 144 != 0 || bitsOf h 511 192 != 0
      if x.phase != 2 || !known || reserved || len != payload.length || !s.hopLenOk k x cidx len || hops != hopsFrom n j origin then
        s.slAbort k 0x03 (s.ringPred ring)
      else if crc32c payload ≠ crc then (s.count R.SL_CRC_FAIL_LO 1).slAbort k 0x02 (s.ringPred ring)
      else (s.hopTake k x cidx pass origin hops crc payload).slRun k

/-- Cores of a model instance are reset at the next boundary, which clears the flags that its haul tables wait on (R113, R311). -/
def resetCores (s : State) (m : Nat) : State :=
  { s with cores := s.cores.map fun c =>
    (c.1, if c.2.slots.any fun x => x.2.phase != .idle && x.2.model == m then { c.2 with resetDue := true } else c.2) }

/-- SL_LAST_ABORT and the end of the step when the settle window of execution k closes (R311). -/
def settleExec (s : State) (k : Nat) (x : SlExec) : State :=
  let opid := k / 65536
  let r := s.slRec opid
  let ring := slRing r
  let at_ (n : Nat × Nat × Nat) : Nat := ((s.ringRanks ring).idxOf? n.2.2).getD 65536
  match x.notices with
  | [] => s
  | n0 :: t =>
    let (cause, late, detect) := t.foldl (fun b n => if at_ n < at_ b then n else b) n0
    let s := ((s.setReg R.SL_LAST_ABORT0 (opid + x.exec * 65536)).setReg R.SL_LAST_ABORT1 (ring + cause * 256 + late * 65536)).setReg
      R.SL_LAST_ABORT2 (detect + min x.notices.length 65535 * 65536)
    let s := s.setReg64 R.SL_LAST_ABORT_TIME_LO x.since
    let s := s.report 2 0x09 cause opid 0
    let s := s.slUpd fun l => { l with execs := l.execs.del k }
    let s := match x.die with | some d => s.send (.control d [0x311, opid, x.exec, cause] []) | none => s
    let result := opid + x.exec * 2 ^ 16 + late * 2 ^ 32 + cause * 2 ^ 48
    let s := (s.resetCores (slModel r)).endStep (slModel r) 0x15 0 result
    (s.sk.batches.filter fun b => s.skWaits b opid x.exec).foldl (fun s b => s.skFail b 0x15 result) s

/-- An execution of an OPID whose settle window is over (R311). -/
def settleAbort (s : State) (opid : Nat) : State :=
  match (s.slExecs opid).find? fun x => x.2.phase == 3 && Nat.ble (x.2.since + s.reg R.SL_ABORT_SETTLE) s.now with
  | some x => s.settleExec x.1 x.2
  | none => s

/-! ### Slow notices (R307, R308) -/

/-- The members of every ring that this chip belongs to, but for itself. -/
def ringMates (s : State) : List Nat :=
  ((s.cu.rings.filter fun r => r.2.contains s.ownRank).flatMap (·.2)).eraseDups.filter fun r => r != s.ownRank

/-- The slow notice of this chip starts or ends: in the sideband word of every port that sends one, and to every ring mate. -/
def postSlow (s : State) (on : Bool) : State :=
  if s.cu.slow = on then s
  else
    let s : State := { s with cu := { s.cu with slow := on, hold := none } }
    let s := s.ringMates.foldl (fun s r => s.sendControl r 0x20 (leBytes 2 s.ownRank ++ leBytes 1 (b2n on))) s
    let s := if on then s.slExtend else s
    (List.range 18).foldl (fun s n => s.sendCtrl n) s

/-- Executions whose successor no route reaches any more abort with ROUTE_LOST (R310). -/
def slRoutes (s : State) : State :=
  s.slAbortAll 0x05 fun k x =>
    let dst := s.ringSucc (slRing (s.slRec (k / 65536)))
    (x.phase == 1 || x.phase == 2) && dst != s.ownRank
      && (match s.groupTo dst with
        | some role => (s.portTo (2 * 2 ^ 32 + s.ownRank * 2 ^ 16 + dst) role).isNone
        | none => false)

/-- The number of a pass (R302). -/
def passNo (p : HopPass) : Nat := match p with | .reduce => 0 | .gather => 1 | .data => 2

/-- The hop limit of an execution in µs (R308, R309). -/
def hopLimit (s : State) (x : SlExec) : Nat := s.reg R.SL_HOP_TIMEOUT * (if x.ext then s.slowFactor else 1)

/-- A wait of a chunk and pass whose timer has reached its deadline and has not expired before. -/
def waitDue (s : State) (x : SlExec) (cidx p : Nat) : Option SlWait :=
  x.waits.find? fun w => w.cidx == cidx && w.pass == p && !w.late && Nat.ble (w.since + s.hopLimit x) s.now

/-- A hop timer expires (R309): it counts, and the predecessor is asked where no probe of the execution is under way. -/
def hopExpires (s : State) (k : Nat) (x : SlExec) (w : SlWait) : State :=
  let s := (s.count R.SL_TIMEOUTS_LO 1).orReg R.SL_ERR 2
  let x := { x with waits := x.waits.map fun v => if v = w then { v with late := true } else v }
  if x.probe.isSome then s.setExec k x
  else
    let pred := s.ringPred (slRing (s.slRec (k / 65536)))
    (s.setExec k { x with probe := some (w.cidx, w.pass, pred), asked := s.now }).sendControl pred 0x15
      (slBody (k / 65536) x.exec w.cidx w.pass 0 s.ownRank 0 0)

/-- The execution of an OPID whose probe waits for the answer of a rank. -/
def probed (s : State) (opid rank : Nat) : Option (Nat × SlExec) :=
  (s.slExecs opid).find? fun x => match x.2.probe with | some (_, _, a) => a == rank | none => false

/-- A rank that waits itself has passed the probe on to its predecessor, which is asked now (R309). -/
def probeOn (s : State) (k : Nat) (x : SlExec) (rank : Nat) : State :=
  let l := s.ringRanks (slRing (s.slRec (k / 65536)))
  let prev := l.getD (((l.idxOf? rank).getD 0 + l.length - 1) % max 1 l.length) rank
  match x.probe with
  | some (c, p, _) => if prev = s.ownRank then s.slAbort k 0x01 prev else s.setExec k { x with probe := some (c, p, prev), asked := s.now }
  | none => s

end State

/-! ### Commands -/

/-- SLUICE_LAUNCH (R293): a die control core launches a KIND 2–4 execution whose contribution is in the terrace; its counts are the entries of each chunk's top-k list. -/
def execSluiceLaunch (die : Nat) (l : Launch) (s : State) : Outcome :=
  let opid := l.opid
  let r := s.slRec opid
  onUnit (decide (die < 4) && decide (opid < 65536))
    (if !slValid r || decide (slKind r < 2) || !(s.ringRanks (slRing r)).contains s.ownRank then s
     else
       let k := s.slFree opid fun x => x.die.isNone
       let s := if slKind r = 4 then s.slUpd fun t => { t with
           staged := (l.counts.take (slChunks r)).zipIdx.foldl (fun (m : Map Nat) n => m.put (4096 * k + n.2) (min n.1 (slK r))) t.staged }
         else s
       (s.slWant k fun x => { x with die := some die }).slRunAll)

/-- CLAIM_TOKEN (R296). -/
def execClaimToken (opid exec : Nat) (s : State) : Outcome :=
  onUnit (decide (opid < 65536))
    (let s := s.takeMsg 0x12 fun m => leField m.body 0 2 == opid && leField m.body 2 2 == exec
     if slValid (s.slRec opid) then (s.slToken (State.slKey opid exec)).slRunAll else s)

/-- START (R296): the execution is active from here on. -/
def execStart (opid exec : Nat) (s : State) : Outcome :=
  onUnit (decide (opid < 65536))
    (let s := s.takeMsg 0x13 fun m => leField m.body 0 2 == opid && leField m.body 2 2 == exec
     let k := State.slKey opid exec
     match s.slExec k with
     | some x => if x.phase = 1 then (s.slActivate k).slRun k else s
     | none => s)

/-- START_TIMEOUT (R297): a token waits here for too long. -/
def execStartTimeout (opid : Nat) (s : State) : Outcome :=
  onUnit (decide (opid < 65536))
    (match s.sl.tokens.find? fun t => t.1 == opid && Nat.ble (t.2.2 + 1000 * s.reg R.SL_START_TIMEOUT) s.now with
     | some t => s.slAbort (State.slKey opid t.2.1) 0x06 s.ownRank
     | none => s)

/-- SLUICE_GRANT (R301): the sender holds a grant for a hop and sends it once its chunk is ready. -/
def execSluiceGrant (opid exec cidx : Nat) (pass : HopPass) (origin : Nat) (s : State) : Outcome :=
  let p := State.passNo pass
  onUnit (decide (opid < 65536))
    (let s := s.takeMsg 0x11 fun m => leField m.body 0 2 == opid && leField m.body 2 2 == exec && leField m.body 4 2 == cidx && leField m.body 6 1 == p && leField m.body 8 2 == origin
     let k := State.slKey opid exec
     match s.slExec k with
     | some x =>
       if x.phase = 3 then s.count R.SL_DROPS_LO 1
       else (s.setExec k { x with grants := x.grants ++ [(cidx, p, origin)] }).slRun k
     | none => s.count R.SL_DROPS_LO 1)

/-- SLUICE_HOP (R302, R303). -/
def execSluiceHop (hdr : BitVec 512) (payload : List Byte) (s : State) : Outcome := .next (s.hop hdr.toNat payload)

/-- HOP_TIMEOUT (R309): the timer of a granted hop expires. -/
def execHopTimeout (opid cidx : Nat) (pass : HopPass) (s : State) : Outcome :=
  let p := State.passNo pass
  onUnit (decide (opid < 65536))
    (match (s.slExecs opid).find? fun x => x.2.phase == 2 && (s.waitDue x.2 cidx p).isSome with
     | some x => match s.waitDue x.2 cidx p with
       | some w => s.hopExpires x.1 x.2 w
       | none => s
     | none => s)

/-- LATE_PROBE (R309): the answer goes to the member that asks, and a member that waits itself passes the probe on. -/
def execLateProbe (opid exec cidx : Nat) (pass : HopPass) (asker : Nat) (s : State) : Outcome :=
  let p := State.passNo pass
  onUnit (decide (opid < 65536))
    (let s := s.takeMsg 0x15 fun m => leField m.body 0 2 == opid && leField m.body 4 2 == cidx && leField m.body 6 1 == p
     let waiting := match s.slExec (State.slKey opid exec) with
       | some x => x.phase == 2 && x.waits.any fun w => w.cidx == cidx && w.pass == p
       | none => false
     let s := s.sendControl asker 0x16 (slBody opid exec cidx p 0 s.ownRank (b2n waiting) 0)
     if waiting then s.sendControl (s.ringPred (slRing (s.slRec opid))) 0x15 (slBody opid exec cidx p 0 asker 0 0) else s)

/-- PROBE_ANSWER (R309): a member that is not waiting is the late rank; one that is has asked its own predecessor. -/
def execProbeAnswer (opid rank : Nat) (waiting : Bool) (s : State) : Outcome :=
  onUnit (decide (opid < 65536))
    (let s := s.takeMsg 0x16 fun m => leField m.body 0 2 == opid && leField m.body 10 2 == rank
     match s.probed opid rank with
     | some x => if waiting then s.probeOn x.1 x.2 rank else s.slAbort x.1 0x01 rank
     | none => s)

/-- PROBE_TIMEOUT (R309): the rank that has given no answer within 50 µs is late. -/
def execProbeTimeout (opid rank : Nat) (s : State) : Outcome :=
  onUnit (decide (opid < 65536))
    (match s.probed opid rank with
     | some x => if x.2.asked + 50 ≤ s.now then s.slAbort x.1 0x01 rank else s
     | none => s)

/-- ABORT_NOTICE (R311): an execution that stands here, or is the next one here, aborts; within the settle window the notice joins the others. -/
def execAbortNotice (opid exec ring : Nat) (cause : Byte) (late detect : Nat) (s : State) : Outcome :=
  onUnit (decide (opid < 65536) && decide (ring < 256))
    (let s := s.takeMsg 0x14 fun m => leField m.body 0 2 == opid && leField m.body 2 2 == exec && leField m.body 14 2 == detect
     let k := State.slKey opid exec
     match s.slExec k with
     | some x =>
       if x.phase = 3 then s.setExec k { x with notices := x.notices ++ [(cause.toNat, late, detect)] }
       else s.slStop k cause.toNat late detect
     | none => if exec % 65536 = s.slCount opid && slValid (s.slRec opid) then s.slStop k cause.toNat late detect else s)

/-- ABORT_SETTLE (R311). -/
def execAbortSettle (opid : Nat) (s : State) : Outcome := onUnit (decide (opid < 65536)) (s.settleAbort opid)

/-- SLOW_NOTICE (R307, R308): it is kept for a member of a ring of this chip; while it stands, active executions of the member's rings are extended. -/
def execSlowNotice (rank : Nat) (stands : Bool) (s : State) : Outcome :=
  onUnit (decide (rank < 65536))
    (let s := (s.takeMsg 0x20 fun m => m.src == rank).count R.SL_SLOW_RX_LO 1
     if !s.ringMates.contains rank then s
     else
       let s := s.orReg R.SL_ERR 0x20
       let s : State := { s with cu := { s.cu with slowRanks := (s.cu.slowRanks.filter fun r => r != rank) ++ (if stands then [rank] else []) } }
       s.slExtend)

/-- SLOW_NOTICE_HOLD_END (R307): HOLD_US after the condition's end the notice ends. -/
def execSlowNoticeHoldEnd (s : State) : Outcome :=
  .next (match s.cu.hold with
    | some t => if t + bitsOf (s.reg R.SL_SLOW_CTRL) 31 8 ≤ s.now then s.postSlow false else s
    | none => s)

/-- STATE of an OPID for SL_OP_DATA (R314): active before settling, then claiming, with a token that waits here. -/
def State.opState (s : State) (opid : Nat) : Nat :=
  let l := (s.slExecs opid).map (·.2.phase)
  if l.contains 2 then 2 else if l.contains 3 then 3 else if l.contains 1 || s.sl.tokens.any (·.1 == opid) then 1 else 0

/-- SL_OP_SEL written: the record and its state are captured (R314). -/
def State.selectOp (s : State) (v : Nat) : State :=
  let op := v % 65536
  let r := s.slRec op
  let s := s.setReg R.SL_OP_SEL op
  let s := (List.range 4).foldl (fun s k => s.setReg (R.SL_OP_DATA + 4 * k) (r / 2 ^ (32 * k))) s
  let s := s.setReg (R.SL_OP_DATA + 16) (s.slCount op + s.opState op * 65536)
  s.setReg (R.SL_OP_DATA + 20) ((s.slExecs op).map fun x => State.slSlots x.2).sum

/-- SL_OP_SEL (R314): a write captures a record and its state. -/
def execSlOpSel (v : Word) (s : State) : Outcome := .next (s.selectOp v.toNat)

end Sys2Proof.Machine
end

