-- ==== Sys2Proof/Machine/Complete.lean ====
section
/-! DEFINITION. UNIT_STEP_COMPLETE (R79): the step at the head of a unit's queue finishes. -/

namespace Sys2Proof.Machine

/-- The queue of a unit without its head; the next matrix step, if it is an ATTN_TILE, claims the units (R78). -/
def CoreState.popUnit (k : CoreState) (u : UnitId) : CoreState :=
  let k' := k.setQueue u (k.queue u).tail
  match u with
  | .matrix => k'.claimAttn (k.running .vector) (k.running .sfu)
  | .vector => { k' with holdV := false }
  | .sfu => { k' with holdS := false }

/-- The chunk that an MMA_REDUCE tile becomes (R106). -/
def chunkOf (c model : Nat) (q : QStep) : BermChunk :=
  let w := q.word.toNat
  let cidx := bitsOf w 189 178
  ⟨c, bitsOf w 169 169, q.slot, bitsOf w 205 190, bitsOf w 168 161, bitsOf w 160 158, cidx, operandAt w 100 q.alt,
   bitsOf w 124 118 + 1, bitsOf w 131 125 + 1, bitsOf w 177 170, 2 ^ (cidx % 16) * (if stFalt w && q.odd then 2 else 1) % 2 ^ 16, model, 0, 0, false⟩

/-- What a step writes when it completes. -/
def State.runUnit (s : State) (c model : Nat) (q : QStep) : State :=
  match stType q.word.toNat with
  | 0x02 => s.runMma c q
  | 0x03 => (s.runMma c q).bermArrive (chunkOf c model q)
  | 0x04 => s.runVec c q
  | 0x05 => s.runSfu c q
  | 0x06 => s.runNorm c q
  | 0x07 => s.runRope c q
  | 0x08 => s.runAttn c model q
  | _ => s

/-- The step completes: its writes, its header bits, and what follows; an operand with an uncorrectable error gives no writes, and the slot faults (R79, R80, R113). -/
def State.completeUnit (s : State) (c : Nat) (u : UnitId) (ecc : Ecc) (q : QStep) : State :=
  let k := s.core c
  let model := (k.slot q.slot).model
  let w := q.word.toNat
  let word := s.operandBad c model q
  let s := s.setCore c (k.popUnit u)
  let s := (if ecc = .corrected then s.storeCe c else s).operandSeep c model q
  let s := if ecc = .uncorrectable ∨ word.isSome then (s.storeUe c (coreBlock c) word).slotFault c q.slot 0x02
    else s.runUnit c model q
  let s := s.orFlags c (stSfw w) (stSmask w q.odd)
  (s.settle c).emptyTargets c

/-- UNIT_STEP_COMPLETE (R79). -/
def execUnitStepComplete (core : Nat) (unit : UnitId) (ecc : Ecc) (s : State) : Outcome :=
  onUnit (decide (core < 192))
    (if !s.pw.stopped && (s.core core).running unit then
      match (s.core core).queue unit with
      | q :: _ => s.completeUnit core unit ecc q
      | [] => s
     else s)

end Sys2Proof.Machine
end

