-- ==== Sys2Proof/Machine/Culvert.lean ====
section
/-! DEFINITION. Culvert ports (R353, R354, R361, R362, R366, R367, R372–R380): frames received, replays, training, lane faults, enables, and rank tables. -/

namespace Sys2Proof.Machine

namespace State

/-! ### Messages received (R360, R364) -/

/-- The class of a message on its next hop: 1 once it has crossed the dateline of the dimension it stays in. -/
def nextClass (s : State) (n role cls : Nat) : Nat :=
  let r := s.portRole n
  let dim := (r - 1) / 2
  if (role - 1) / 2 ≠ dim ∨ r = 7 ∨ r = 0 then 0
  else
    let plus := r % 2 == 0
    let x := s.ownCoord dim
    if plus && x == 0 || !plus && x + 1 == s.dimSize dim then 1 else cls

/-- A message that is discarded for its rank or its generation. -/
def tgenDrop (s : State) (n : Nat) : State :=
  ((s.count (cuReg n 0x130) 1).orReg (cuReg n 8) 0x20).report 0 (0x20 + n) 0x07 0xFF 0

/-- What the body of a peer-window message says (R387), which the manual does not lay out: 2 a read and 3 a write of this chip's BAR2, else an answer. -/
def peerKind (m : Msg) : Nat := Config.unstated 42 [ofLe m.body] % 4

/-- A peer-window message (R387). An answer is for the oldest access that waits, and the bytes of an answered read are free; an access to this chip's BAR2 waits in the inbox until it is served. -/
def peerMessage (s : State) (m : Msg) : State :=
  if 2 ≤ peerKind m then { s with cu := { s.cu with inbox := s.cu.inbox ++ [m] } }
  else match s.hi.peer with
    | (off, len, write) :: t =>
      let s := { s with hi := { s.hi with peer := t } }
      if write then s.send (.completion 0 off) else let (v, s) := s.draw; s.send (.readData off (leBytes len v))
    | [] => s

/-- A whole message for this chip's engines; one for another rank, or of another generation, is discarded (R360). -/
def deliverMsg (s : State) (n : Nat) (l : List Byte) : State :=
  let m : Msg := ⟨0, leField l 0 1, leField l 2 2, leField l 4 2, leField l 8 4, (l.drop 16).take 16, (l.drop 32).take (leField l 12 4)⟩
  if !s.rankLoaded || m.tgen != s.tgen || m.dst != s.ownRank then s.tgenDrop n
  else if m.mtype = 0x30 then s.peerMessage m
  else { s with cu := { s.cu with inbox := s.cu.inbox ++ [m] } }

/-- A flit's bytes joined to the message of its lane. -/
def joinFlit (rx : Map (List Byte)) (lane : Nat) (head : Bool) (data : List Byte) : List Byte :=
  (if head then [] else Map.getD [] rx lane) ++ data

/-! ### Messages passed on (R355, R357, R364) -/

/-- What a message's first flit says of a message that ends elsewhere: its flow, and its role and class on the next hop; none for a message that stays. A message that came over Ethernet goes no further. -/
def passOn (s : State) (n lane cls : Nat) (l : List Byte) : Option (Nat × Nat × Nat) :=
  let dst := leField l 4 2
  if !s.rankLoaded || leField l 8 4 != s.tgen || dst == s.ownRank || Nat.ble s.nrank dst || s.portRole n == 7 then none
  else (s.groupTo dst).map fun role => (lane * 2 ^ 32 + leField l 2 2 * 2 ^ 16 + dst, role, s.nextClass n role cls)

/-- The port that holds, or has begun to send, a message of a flow whose EOM has not come. -/
def carrier (s : State) (lane flow : Nat) : Option Nat :=
  (List.range 18).find? fun m =>
    let has := fun (l : List Flit) (b : Map Nat) => match (l.filter fun f => !f.ctrl && f.flow == flow).getLast? with
      | some f => !f.eom
      | none => b.get? lane == some flow
    has (s.port m).queue (s.port m).begun || (s.port m).tuns.any fun t => has t.2.hold t.2.begun

/-- The flits of a flow's last message, where its EOM has not come, taken out of a list that is given latest first. -/
def cutTail (flow : Nat) : List Flit → List Flit × List Flit
  | [] => ([], [])
  | f :: t =>
    if f.flow == flow && !f.ctrl then
      if f.eom then (f :: t, []) else if f.head then (t, [f]) else let (a, b) := cutTail flow t; (a, f :: b)
    else let (a, b) := cutTail flow t; (f :: a, b)

/-- Flits that wait, and what has begun, without the last message of a flow, whose EOM will not come. -/
def cutRest (lane flow : Nat) (l : List Flit) (begun : Map Nat) : List Flit × List Flit × Map Nat :=
  let (a, b) := cutTail flow l.reverse
  (a.reverse, b, if begun.get? lane = some flow ∧ (a.any fun f => f.flow == flow && !f.ctrl) = false ∧ (b.any (·.head)) = false then begun.del lane else begun)

/-- A message being passed on ends without its EOM. DESIGN CHOICE: the manual does not say what becomes of it; what still waits of it is discarded, and the lane is free for the next message. -/
def dropRest (s : State) (lane flow : Nat) : State :=
  match s.carrier lane flow with
  | none => s
  | some m =>
    let p := s.port m
    let q := cutRest lane flow p.queue p.begun
    let ts := p.tuns.map fun t => (t.1, t.2, cutRest lane flow t.2.hold t.2.begun)
    let s := s.setPort m { p with queue := q.1, begun := q.2.2, tuns := ts.map fun t => (t.1, { t.2.1 with hold := t.2.2.1, begun := t.2.2.2.2 }) }
    (q.2.1 ++ (ts.map fun t => t.2.2.2.1).flatten).foldl release s

/-- Receive frames of a lane whose message has been delivered, or has ended, are free (R355). -/
def freeLocal (p : Port) (lane : Nat) : Port :=
  [2 * lane, 2 * lane + 1].foldl (fun p k =>
    let l := Map.getD [] p.rbuf k
    let n := (l.filter fun x => !x.1).length
    if n = 0 then p else freeRx { p with rbuf := Map.store [] p.rbuf k (l.filter (·.1)) } k n) p

/-- A lane's message that has not come whole is discarded: the next one starts, or the link starts afresh. -/
def abandon (s : State) (n lane : Nat) : State :=
  let p := s.port n
  if (p.rx.get? lane).isNone && (p.fwd.get? lane).isNone then s
  else
    let s := match p.fwd.get? lane with
      | some (some x) => s.dropRest lane x.1
      | _ => s
    s.updPort n fun p => freeLocal { p with rx := p.rx.del lane, fwd := p.fwd.del lane } lane

/-- A flit of a message passed on: its receive frame is held until it leaves; one that `give` finds no port for is discarded, and the rest of its message with it (R357, R377). -/
def passFlit (s : State) (n key : Nat) (f : Flit) (frame : List Byte) (give : State → Flit → State × Bool) : State :=
  let s := s.updPort n fun p => { p with rbuf := p.rbuf.put key (Map.getD [] p.rbuf key ++ [(true, frame)]) }
  let (s, ok) := give s { f with held := some (n, key) }
  let s := if ok then s else s.release { f with held := some (n, key) }
  s.updPort n fun p => { p with fwd := if f.eom then p.fwd.del f.lane else p.fwd.put f.lane (if ok then some (f.flow, f.cls) else none) }

/-- A flit of a message for this chip: it keeps its receive frame until the EOM, when the message is delivered (R360). -/
def keepFlit (s : State) (n lane cls : Nat) (head eom : Bool) (frame data : List Byte) : State :=
  let p := s.port n
  let key := 2 * lane + cls
  let l := joinFlit p.rx lane head data
  let p := { p with rbuf := p.rbuf.put key (Map.getD [] p.rbuf key ++ [(false, frame)]) }
  if eom then (s.setPort n (freeLocal { p with rx := p.rx.del lane } lane)).deliverMsg n l
  else s.setPort n { p with rx := p.rx.put lane l }

/-- A flit taken into the receive buffer: a HEAD says whether its message stays or is passed on by cut-through. -/
def takeFlit (s : State) (n lane cls : Nat) (head eom : Bool) (frame data : List Byte) : State :=
  let s := if head then s.abandon n lane else s
  let key := 2 * lane + cls
  match if head then s.passOn n lane cls data else none, (s.port n).fwd.get? lane with
  | some (flow, role, c), _ => s.passFlit n key ⟨lane, c, true, eom, data, none, flow, false, none⟩ frame fun s f => s.putFlow flow role [f]
  | none, some (some (flow, c)) =>
    s.passFlit n key ⟨lane, c, false, eom, data, none, flow, false, none⟩ frame fun s f =>
      match s.carrier lane flow with
      | some m => (s.putFlits m (flow % 65536) [f], true)
      | none => (s, false)
  | none, some none => s.passFlit n key ⟨lane, cls, false, eom, data, none, 0, false, none⟩ frame fun s _ => (s, false)
  | none, none => s.keepFlit n lane cls head eom frame data

/-! ### Replays (R354) -/

/-- Unacknowledged frames sent again, in order; a frame replayed 16 times asks for a retrain. -/
def replayFrames (s : State) (n : Nat) : State :=
  let p := s.port n
  let s := s.setPort n { p with unacked := p.unacked.map fun f => { f with tries := f.tries + 1, sent := s.now } }
  p.unacked.foldl (fun s f => s.sendFlit n f.seq f.flit) s

def sendIdle (s : State) (n : Nat) (nak : Bool) : State := s.sendFrame n 0 0 0 false 0 nak []

/-! ### Ports and tunnels going down (R376, R377) -/

/-- What each model instance with a message unacknowledged suffers: its batch step ends. The core and fault code of its error are not given: they are free. -/
def losePeers (s : State) (l : List Flit) : State :=
  (l.filterMap (·.model)).eraseDups.foldl (fun s m => let (d, s) := s.draw; s.endStep m 0x10 0 (d % 65536)) s

/-- Flits of messages that have begun to leave, and flits of whole messages. A flow's messages leave in order: what stands before its next HEAD has begun. A CTRL flit counts with what has begun. -/
def splitBegun : List Nat → List Flit → List Flit × List Flit
  | _, [] => ([], [])
  | seen, f :: t =>
    let whole := !f.ctrl && (f.head || seen.contains f.flow)
    let (a, b) := splitBegun (if whole then f.flow :: seen else seen) t
    if whole then (a, f :: b) else (f :: a, b)

/-- A PEER segment of this chip has no route left: the hauls that send to that rank end with PEER_ABORT (R377). -/
def peerLost (s : State) (dst : Nat) : State :=
  (s.cores.flatMap fun c => c.2.streams.map fun r => (32 * c.1 + r.1, r.2)).foldl (fun s r =>
    if scSpace (s.sctx r.1) = 4 ∧ r.2.mode = 1 ∧ scRank (s.sctx r.1) = dst then s.failStream r.1 0x16 else s) s

/-- Flits of messages not started yet go to the port that R364 gives now; where there is none they are discarded, hauls that send them end, and executions whose successor has no route left abort (R310, R377). -/
def rerouteFlits (s : State) (l : List Flit) : State :=
  l.foldl (fun s f =>
    match s.groupTo (f.flow % 65536) with
    | some role =>
      let (s, ok) := s.putFlow f.flow role [f]
      if ok then s
      else
        let s := s.release f
        if f.head && f.lane == 1 && f.model.isSome then s.peerLost (f.flow % 65536) else s
    | none => s.release f) s |>.slRoutes

/-- Flows that fell back to a port look for another (R364). -/
def clearFlows (s : State) (p : Nat → Nat → Bool) : State := { s with cu := { s.cu with flows := s.cu.flows.filter fun f => !p f.1 f.2 } }

/-- The messages that a port has not started go elsewhere; begun ones and CTRL flits stay in place. -/
def reroute (s : State) (n : Nat) : State :=
  let p := s.port n
  let whole := (splitBegun [] p.queue).2 ++ (p.tuns.map fun t => (splitBegun [] t.2.hold).2).flatten
  let s := s.setPort n { p with queue := (splitBegun [] p.queue).1, tuns := p.tuns.map fun t => (t.1, { t.2 with hold := (splitBegun [] t.2.hold).1 }) }
  (s.clearFlows fun _ m => m == n).rerouteFlits whole

/-- The unacknowledged frames of a port, and what is left of the messages they belong to, are discarded with their consequences (R376, R434). -/
def dropUnacked (s : State) (n : Nat) : State :=
  let p := s.port n
  let left := (splitBegun [] p.queue).1 ++ (p.tuns.map fun t => (splitBegun [] t.2.hold).1).flatten
  let gone := p.unacked.map (·.flit) ++ (p.tuns.map fun t => (t.2.unacked.map (·.flits)).flatten).flatten ++ left
  let rest := (splitBegun [] p.queue).2 ++ (p.tuns.map fun t => (splitBegun [] t.2.hold).2).flatten
  let s := s.setPort n { p with queue := rest, unacked := [], tuns := [], begun := [] }
  (left.foldl release s).losePeers gone

/-- What a port was receiving is discarded. -/
def abandonAll (s : State) (n : Nat) : State := [0, 1, 2, 3].foldl (fun s l => s.abandon n l) s

/-- The receive buffer and its counts start afresh (R361); flits that wait elsewhere no longer hold a frame of it. -/
def freshRx (s : State) (n : Nat) : State :=
  let s := s.abandonAll n
  let free := fun (l : List Flit) => l.map fun f => if f.held.any fun h => h.1 == n then { f with held := none } else f
  let s : State := { s with cu := { s.cu with ports := s.cu.ports.map fun p =>
    (p.1, { p.2 with queue := free p.2.queue, tuns := p.2.tuns.map fun t => (t.1, { t.2 with hold := free t.2.hold }) }) } }
  s.updPort n fun p => { p with rx := [], fwd := [], rbuf := [], freed := [] }

def portEvent (s : State) (n cause : Nat) : State := s.postEvent 2 (n + (s.port n).phase * 256 + cause * 4096)

/-- A port goes DOWN (R375, R376). -/
def portDown (s : State) (n : Nat) : State :=
  let s := (s.abandonAll n).updPort n fun p => { p with phase := 5, latched := false, pmd := false, retrain := false }
  let s := ((s.orReg (cuReg n 8) 8).report 3 (0x20 + n) 0x03 0xFF 0).portEvent n 2
  (s.dropUnacked n).reroute n

/-- A tunnel goes DOWN (R367): as a port, for its own rank. The other tunnels of the port keep their flits. -/
def tunnelDown (s : State) (n tun : Nat) : State :=
  let p := s.port n
  let t := tunnel p tun
  let (begun, rest) := splitBegun [] t.hold
  let s := s.setPort n { p with tuns := p.tuns.put tun { t with phase := 2, hold := [], unacked := [], rx := [], begun := [], due := [] } }
  let s := (s.orReg (cuReg n 8) 8).report 2 (0x20 + n) 0x06 0xFF t.rank
  let s := (begun.foldl release s).losePeers ((t.unacked.map (·.flits)).flatten ++ begun)
  (s.clearFlows fun f m => m == n && f % 65536 == t.rank).rerouteFlits rest

/-! ### Retrains (R372, R374) -/

/-- Half-width bits of retired halves: 1 for lanes 0–3, 2 for lanes 4–7. -/
def halfOf (lane : Nat) : Nat := if lane < 4 then 1 else 2

/-- A lane is charged with a retrain; past the threshold its half is to be retired, or the port goes DOWN at half width (R374, R375). -/
def chargeLane (s : State) (n lane : Nat) : State :=
  let p := s.port n
  let ctl := s.reg (cuReg n 0x14)
  let l := s.laneCharges n lane ++ [s.now]
  let s := s.setPort n { p with charges := p.charges.put lane l, charged := p.charged ++ [lane] }
  let off := cuReg n 0x80 + 4 * lane
  let s := s.setReg off (min l.length 255 + min (bitsOf (s.reg off) 31 8 + 1) (2 ^ 24 - 1) * 256)
  if l.length ≤ bitsOf ctl 7 0 then s
  else if p.gone ||| p.pgone ≠ 0 then (if (p.gone ||| p.pgone) &&& halfOf lane ≠ 0 then s else s.portDown n)
  else if p.retire ≠ 0 ∧ p.retire ≠ halfOf lane then s.portDown n
  else s.updPort n fun p => { p with retire := halfOf lane }

/-- A port retrains (R372). A lane that loses lock during a retrain is charged too. -/
def startRetrain (s : State) (n : Nat) (lanes : List Nat) : State :=
  let p := s.port n
  if [2, 6, 7].contains p.phase then
    let s := s.setPort n { p with phase := 3, back := p.phase, full := false, pmd := false, charged := [], retrain := true }
    let s := ((s.count (cuReg n 0x120) 1).orReg (cuReg n 8) 2).report 2 (0x20 + n) 0x01 (lanes.headD 0xFF) 0
    lanes.foldl (fun s l => s.chargeLane n l) s
  else if p.phase = 3 ∨ (p.phase = 1 ∧ p.retrain) then lanes.foldl (fun s l => if p.charged.contains l then s else s.chargeLane n l) s
  else s

/-- A marked half retires in the retrain (R374). -/
def retireHalf (s : State) (n : Nat) : State :=
  let p := s.port n
  if p.retire = 0 then s
  else
    let half := p.retire
    let s := s.setPort n { p with retire := 0, gone := half }
    let s := ((s.orReg (cuReg n 8) 4).report 3 (0x20 + n) 0x02 (if half = 1 then 0 else 4) 0).portEvent n 1
    let i := ((List.range 512).find? fun i => !bitOf (s.reg (R.EL_RETIRED + 4 * i)) 31).getD 511
    s.setReg (R.EL_RETIRED + 4 * i) (2 * n + (half - 1) + 2 * 2 ^ 24 + 2 ^ 31)

/-- Lanes in use: all eight, or the half that is left. -/
def liveLanes (p : Port) : Nat := [0xFF, 0xF0, 0x0F, 0].getD (p.gone ||| p.pgone) 0

/-- The lanes that a port runs on: an 800GbE port runs on lanes 0–3 until that half is retired (R365). -/
def lanesOf (s : State) (n : Nat) (p : Port) : Nat :=
  if s.portRole n = 7 ∧ bitOf (s.reg (cuReg n 0x30)) 0 = false then (if liveLanes p = 0xFF then 0x0F else liveLanes p) else liveLanes p

/-- A training settles on the halves that both ends have left; a port with none goes DOWN (R374, R378). -/
def settleLanes (s : State) (n : Nat) (half : BitVec 2) (f : State → State) : State :=
  let s := (s.retireHalf n).updPort n fun p => { p with pgone := half.toNat }
  if liveLanes (s.port n) = 0 then s.portDown n else f s

/-! ### Wiring (R362) -/

/-- The role opposite in the same dimension. -/
def oppositeRole (r : Nat) : Nat := if r % 2 = 1 then r + 1 else r - 1

/-- The rank that the table gives as neighbour in the direction of a role. -/
def neighbour (s : State) (role : Nat) : Option Nat :=
  let dim := (role - 1) / 2
  let n := s.dimSize dim
  let upto := if role % 2 = 1 then (s.ownCoord dim + 1) % n else (s.ownCoord dim + n - 1) % n
  (List.range s.nrank).find? fun r =>
    s.rankIsland r == s.ownIsland && [0, 1, 2].all fun d => s.rankCoord r d == (if d == dim then upto else s.ownCoord d)

def wiredOk (s : State) (n : Nat) : Bool :=
  let p := s.port n
  let role := s.portRole n
  p.partner.2.2.1 == oppositeRole role && p.partner.2.1 == s.portGidx n
    && (!s.rankLoaded || s.topo == 1 || s.neighbour role == some p.partner.1)

/-- The port fails its wiring check and carries nothing. -/
def miswire (s : State) (n : Nat) : State :=
  let s := s.updPort n fun p => { p with phase := 4, pmd := false, retrain := false }
  ((s.orReg (cuReg n 8) 0x10).report 2 (0x20 + n) 0x04 0xFF 0).portEvent n 3

/-- Unacknowledged frames of a tunnel sent again. -/
def ethReplay (s : State) (n tun : Nat) : State :=
  let t := tunnel (s.port n) tun
  if t.unacked.isEmpty then s
  else (t.unacked.foldl (fun s f =>
    match f.flits with
    | h :: _ => s.transmit n (s.ethBytes n tun t.rank h.lane (t.expect + 2 ^ 32 - 1) f.fseq false f.flits)
    | [] => s) s).count (cuReg n 0x118) 1

/-- Everything unacknowledged on a port is sent again after a retrain, as one episode for the port or for each of its open tunnels (R354, R361, R372). -/
def replayAll (s : State) (n : Nat) : State :=
  if s.portRole n = 7 then (s.port n).tuns.foldl (fun s t => if t.2.phase = 1 then s.ethReplay n t.1 else s) s
  else
    let s := s.updPort n fun p => { p with unacked := p.unacked.map fun f => { f with tries := 0 } }
    if (s.port n).unacked.isEmpty then s else (s.replayFrames n).count (cuReg n 0x118) 1

/-- Step 5 of R361: the port enters UP, with a fresh link or the one it had; one that was draining goes on with that (R379). A half marked since the lanes settled retires first (R378). The sideband word goes out, for it may have changed while the port sent nothing (R353). -/
def portUp (s : State) (n : Nat) (fresh : Bool) : State :=
  let was := s.port n
  let s := s.retireHalf n
  if liveLanes (s.port n) = 0 then s.portDown n
  else
    let s := if fresh && was.trained then s.dropUnacked n else s
    let s := if fresh then s.freshRx n else s
    let s := s.updPort n fun p =>
      let p := { p with
        phase := (if p.phase = 3 ∨ p.retrain then p.back else if bitOf (s.reg (cuReg n 0xC)) 0 then 2 else 6)
        pmd := false, trained := true, fails := 0, lock := s.lanesOf n p, charged := [], retrain := false }
      if fresh then { p with seq := 0, unacked := [], expect := 0, gap := false, used := [], seen := [] } else p
    let s := if was.trained && was.phase == 1 then s.portEvent n 4 else s
    let s := if fresh then s else s.replayAll n
    (s.sendCtrl n).runPort n

/-- The capability record of a port (R361). -/
def sendCapability (s : State) (n : Nat) : State :=
  s.send (.capability n [3, s.portRole n, s.portGidx n, if s.rankLoaded then s.ownRank else 0xFFFF, s.tgen, s.cu.inst])

/-! ### Frames received (R353) -/

/-- Frames that an ACKSEQ acknowledges. -/
def ackFrames (p : Port) (ack : Nat) : Port :=
  if p.unacked.any fun f => f.seq == ack then
    { p with unacked := (p.unacked.dropWhile fun f => f.seq != ack).drop 1 }
  else p

/-- A NAK for the gap, once. -/
def nakOnce (s : State) (n : Nat) : State :=
  if (s.port n).gap then s else (s.updPort n fun p => { p with gap := true }).sendIdle n true

/-- An accepted frame. -/
def acceptFlit (s : State) (n lane cls : Nat) (head eom : Bool) (frame data : List Byte) : State :=
  let s := (s.updPort n fun p => { p with expect := (p.expect + 1) % 4096, gap := false, owe := p.owe + 1 }).count (cuReg n 0x108) 1
  let s := s.takeFlit n lane cls head eom frame data
  if 64 ≤ (s.port n).owe then s.sendIdle n false else s

def receiveFrame (s : State) (n : Nat) (f : List Byte) : State :=
  let p := s.port n
  if !([2, 6, 7].contains p.phase) || s.portRole n == 7 then s
  else if f.length ≠ 270 ∨ leField f 266 4 ≠ crc32 (f.take 266) then
    (((s.count (cuReg n 0x110) 1).orReg (cuReg n 8) 1)).nakOnce n
  else
    let h := leField f 0 10
    let kind := bitsOf h 3 2
    let ack := bitsOf h 31 20
    let p := if bitOf h 32 then ackFrames p ack else p
    let p := { p with seen := p.seen.put (2 * bitsOf h 35 34 + bitsOf h 36 36) (bitsOf h 47 37) }
    let s := s.setPort n p
    let s := if bitOf h 33 && !(s.port n).unacked.isEmpty then (s.replayFrames n).count (cuReg n 0x118) 1 else s
    let data := (f.drop 10).take (bitsOf h 55 48 + 1)
    let s :=
      if kind = 0 then s
      else if kind = 1 then s.updPort n fun p => { p with slowRx := if p.rev = 0x20 then bitOf (leField f 10 4) 0 else false }
      else
        let seq := bitsOf h 19 8
        if seq = p.expect then s.acceptFlit n (bitsOf h 1 0) (bitsOf h 4 4) (kind == 2) (bitOf h 5) f data
        else
          let s := s.updPort n fun p => { p with owe := p.owe + 1 }
          if (seq + 4096 - p.expect) % 4096 < 2048 then s.nakOnce n else if 64 ≤ (s.port n).owe then s.sendIdle n false else s
    let s := if (s.port n).unacked.any fun f => Nat.ble 16 f.tries then s.startRetrain n [] else s
    portRun n (s.port n).queue.length s

/-! ### Ethernet frames received (R365–R367) -/

def beField (l : List Byte) (i n : Nat) : Nat := ofLe (((l.drop i).take n).reverse)

def ethDrop (s : State) (n : Nat) : State := (s.count (cuReg n 0x138) 1).orReg (cuReg n 8) 0x80

/-- The parts of an acceptable frame: its shim and what follows, and the source address; none for any other frame. -/
def ethParse (s : State) (n : Nat) (f : List Byte) : Option (List Byte × Nat) :=
  let ctl := s.reg (cuReg n 0x30)
  let own (k : Nat) : Nat := s.reg (cuReg n (0x48 + 4 * k))
  let mac := s.reg (cuReg n 0x40) + 2 ^ 32 * (s.reg (cuReg n 0x44) % 65536)
  let body := f.take (f.length - 4)
  let t := if beField f 12 2 = 0x8100 then 16 else 12
  let ip := t + 2
  if leField f (f.length - 4) 4 ≠ crc32 body ∨ beField f 0 6 ≠ mac then none
  else if bitOf ctl 1 then
    let udp := ip + 20
    if beField f t 2 ≠ 0x0800 ∨ beField f ip 1 ≠ 0x45 ∨ beField f (ip + 9) 1 ≠ 17 ∨ beField f (ip + 16) 4 ≠ own 0 ∨ beField f (udp + 2) 2 ≠ bitsOf (s.reg (cuReg n 0x38)) 15 0
    then none
    else
      let sum := beField f (udp + 6) 2
      let ulen := beField f (udp + 4) 2
      let pseudo := (body.drop (ip + 12)).take 8 ++ beBytes 2 17 ++ beBytes 2 ulen
      if sum ≠ 0 ∧ inetFold (inetSum (pseudo ++ (body.drop udp).take ulen)) ≠ 0 then none
      else some ((body.drop (udp + 8)).take (ulen - 8), beField f (ip + 12) 4)
  else
    let udp := ip + 40
    let me := own 0 + 2 ^ 32 * own 1 + 2 ^ 64 * own 2 + 2 ^ 96 * own 3
    if beField f t 2 ≠ 0x86DD ∨ beField f (ip + 6) 1 ≠ 17 ∨ beField f (ip + 24) 16 ≠ me ∨ beField f (udp + 2) 2 ≠ bitsOf (s.reg (cuReg n 0x38)) 15 0
    then none
    else
      let sum := beField f (udp + 6) 2
      let ulen := beField f (udp + 4) 2
      let pseudo := (body.drop (ip + 8)).take 32 ++ beBytes 4 ulen ++ beBytes 4 17
      if sum ≠ 0 ∧ inetFold (inetSum (pseudo ++ (body.drop udp).take ulen)) ≠ 0 then none
      else some ((body.drop (udp + 8)).take (ulen - 8), beField f (ip + 8) 16)

/-- An acknowledgement on a tunnel, or a NAK. -/
def ethAck (s : State) (n tun : Nat) (nak : Bool) : State :=
  let t := tunnel (s.port n) tun
  s.transmit n (s.ethBytes n tun t.rank 0 (t.expect + 2 ^ 32 - 1) t.next nak [])

def updTun (s : State) (n tun : Nat) (f : Tunnel → Tunnel) : State :=
  s.updPort n fun p => { p with tuns := p.tuns.put tun (f (tunnel p tun)) }

/-- The flits of an accepted Ethernet frame, one after the other. -/
def takeFlits (n tun : Nat) : Nat → List Byte → State → State
  | 0, _, s => s
  | k + 1, l, s =>
    let h := leField l 0 10
    let lane := bitsOf h 1 0
    let kind := bitsOf h 3 2
    let data := (l.drop 10).take (bitsOf h 55 48 + 1)
    let t := tunnel (s.port n) tun
    let s :=
      if leField l 266 4 ≠ crc32 (l.take 266) then s.ethDrop n
      else if kind = 1 then s.updTun n tun fun t => { t with slow := bitOf (leField l 10 4) 0 }
      else if kind = 0 then s
      else
        let m := joinFlit t.rx lane (kind == 2) data
        if bitOf h 5 then (s.updTun n tun fun t => { t with rx := t.rx.del lane }).deliverMsg n m
        else s.updTun n tun fun t => { t with rx := t.rx.put lane m }
    takeFlits n tun k (l.drop 270) s

/-- The partition of a lane in the receive store, which holds messages until their EOM, has no room for n bytes more (R367). -/
def rxFull (p : Port) (lane n : Nat) : Bool :=
  Nat.blt ([1, 3, 3, 1].getD lane 1 * 1048576) (((p.tuns.map fun t => (Map.getD [] t.2.rx lane).length)).sum + n)

/-- The shim of a frame from address ip is acceptable (R365, R366): it names this rank, and a rank of the table with that address. -/
def ethShimOk (s : State) (l : List Byte) (ip : Nat) : Bool :=
  let src := leField l 4 2
  let e := s.rankEntry src
  s.rankLoaded && Nat.blt src s.nrank && (if bitOf (leField e 14 1) 0 then leField e 16 4 else leField e 16 16) == ip
    && leField l 0 1 == 0x20 && leField l 6 2 == s.ownRank && Nat.ble (leField l 2 1) 32

/-- The tunnel of a frame: the open one from its rank, or one that its FSEQ of 0 opens (R367). -/
def ethTunnel (s : State) (n : Nat) (l : List Byte) : Option (Nat × State) :=
  let src := leField l 4 2
  match (s.port n).tuns.find? fun t => t.2.rank == src && t.2.phase == 1 with
  | some (k, _) => some (k, s)
  | none => if leField l 8 4 = 0 ∧ leField l 2 1 ≠ 0 ∧ !s.tunnelLost n src then s.openTunnel n src else none

/-- A tunnel whose frames up to ACKFSEQ are acknowledged. -/
def ethAcked (ack : Nat) (t : Tunnel) : Tunnel :=
  let left := t.unacked.filter fun g => Nat.blt ((g.fseq + 2 ^ 32 - ack - 1) % 2 ^ 32) (2 ^ 31)
  { t with unacked := left, rto := if left.length < t.unacked.length then 0 else t.rto }

/-- The flits of a frame, by its place in the tunnel's sequence (R353, R367): they are taken where it is the one expected and its lane's partition has room. -/
def ethSequence (s : State) (n k : Nat) (l : List Byte) : State :=
  let nflit := leField l 2 1
  let fseq := leField l 8 4
  let t := tunnel (s.port n) k
  let ahead := (fseq + 2 ^ 32 - t.expect) % 2 ^ 32
  if nflit = 0 then s
  else if fseq = t.expect then
    if rxFull (s.port n) (leField l 1 1 % 4) (256 * nflit) then ((s.updTun n k fun t => { t with gap := true }).ethDrop n).ethAck n k true
    else (takeFlits n k nflit (l.drop 16) ((s.updTun n k fun t => { t with expect := (t.expect + 1) % 2 ^ 32, gap := false }).count (cuReg n 0x108) 1)).ethAck n k false
  else if Nat.blt ahead (2 ^ 31) then (if t.gap then s else (s.updTun n k fun t => { t with gap := true }).ethAck n k true)
  else s.ethAck n k false

/-- An acceptable frame of a tunnel: its acknowledgement, its NAK, and its flits. -/
def ethFrame (s : State) (n k : Nat) (l : List Byte) : State :=
  let shim := leField l 1 1
  let s := if bitOf shim 2 then s.updTun n k (ethAcked (leField l 12 4)) else s
  let s := if bitOf shim 3 then s.ethReplay n k else s
  (s.ethSequence n k l).runPort n

def receiveEth (s : State) (n : Nat) (f : List Byte) : State :=
  if s.portRole n ≠ 7 ∨ !([2, 6, 7].contains (s.port n).phase) then s
  else match s.ethParse n f with
    | none => s.ethDrop n
    | some (l, ip) =>
      if !s.ethShimOk l ip then s.ethDrop n
      else match s.ethTunnel n l with
        | none => s.ethDrop n
        | some (k, s) => s.ethFrame n k l

/-! ### Rank tables (R369) -/

/-- Every port repeats its wiring check; one in a retrain does so when it is UP again (R378). -/
def recheckWiring (s : State) : State :=
  (List.range 18).foldl (fun s n =>
    let r := s.portRole n
    if r = 0 ∨ r = 7 then s
    else
      let ph := (s.port n).phase
      if (ph = 2 ∨ ph = 6 ∨ ph = 7) && !s.wiredOk n then (s.miswire n).reroute n
      else if ph = 4 && s.wiredOk n then
        s.updPort n fun p => { p with phase := 1, full := true, pmd := false }
      else s) s

end State

/-! ### Commands -/

def portOk (n : Nat) : Bool := decide (n < 18)

/-- FRAME_RECEIVE (R353). -/
def execFrameReceive (port : Nat) (frame : List Byte) (s : State) : Outcome := onUnit (portOk port) (s.receiveFrame port frame)

/-- REPLAY_TIMEOUT (R354): every unacknowledged frame is sent again; one replayed 16 times causes a retrain (R372). -/
def execReplayTimeout (port : Nat) (s : State) : Outcome :=
  onUnit (portOk port)
    (let p := s.port port
     if p.unacked.isEmpty || !([2, 6, 7].contains p.phase) then s
     else
       let s := (s.replayFrames port).count (cuReg port 0x118) 1
       if (s.port port).unacked.any fun f => Nat.ble 16 f.tries then s.startRetrain port [] else s)

/-- ACK_TIMER (R354). -/
def execAckTimer (port : Nat) (s : State) : Outcome :=
  onUnit (portOk port)
    (let p := s.port port
     if [2, 6, 7].contains p.phase && s.portRole port != 7 && Nat.blt 0 p.owe then s.sendIdle port false else s)

/-- CTRL_FRAME_TIMER (R353): revision 1.2 sends no sideband word (R362). -/
def execCtrlFrameTimer (port : Nat) (s : State) : Outcome :=
  onUnit (portOk port)
    (let p := s.port port
     if [2, 6, 7].contains p.phase && p.rev == 0x20 then s.sendCtrl port else s)

/-- Steps 2–5 of R361 begin on a port that has trained: the capability record goes out; an Ethernet port, which has no partner of its own kind, is UP. -/
def State.afterPmd (s : State) (port : Nat) : State :=
  if s.portRole port = 7 then (s.updPort port fun p => { p with rev := 0x20 }).portUp port (!(s.port port).trained)
  else (s.updPort port fun p => { p with pmd := true, full := true }).sendCapability port

/-- PMD_TRAINING_DONE (R361): until a start reaches LOADED no port goes on with step 2 (R427). -/
def execPmdTrainingDone (t : Trained) (s : State) : Outcome :=
  let port := t.port
  onUnit (portOk port)
    (let p := s.port port
     if p.phase ≠ 1 ∨ p.pmd then s
     else s.settleLanes port t.half fun s =>
       if s.im.phase = 4 then s.afterPmd port else s.updPort port fun p => { p with pmd := true, full := true })

/-- CAPABILITY_RECORD (R361): revision, wiring, and the link's numbers; then UP. -/
def execCapabilityRecord (port : Nat) (revs : BitVec 2) (role gidx : BitVec 4) (rank : BitVec 16) (_tgen inst : Word) (s : State) : Outcome :=
  onUnit (portOk port)
    (let p := s.port port
     if !p.pmd || !(p.phase == 1 || p.phase == 3) || s.portRole port == 7 then s
     else
       let rev := if bitOf revs.toNat 1 then 0x20 else if bitOf revs.toNat 0 then 0x12 else 0
       let s := s.setPort port { p with partner := (rank.toNat, gidx.toNat, role.toNat, revs.toNat), rev := rev, slowRx := if rev = 0x20 then p.slowRx else false }
       if rev = 0 then ((s.orReg (cuReg port 8) 0x40).report 2 (0x20 + port) 0x05 0xFF 0).portDown port
       else if !s.wiredOk port then (s.miswire port).reroute port
       else
         let changed := if rev = 0x12 then p.full else p.inst != some inst.toNat
         let s := s.updPort port fun p => { p with inst := some inst.toNat }
         s.portUp port (!p.trained || changed))

/-- LANE_LOCK_LOSS (R372). -/
def execLaneLockLoss (port lane : Nat) (s : State) : Outcome :=
  onUnit (portOk port && decide (lane < 8))
    (let p := s.port port
     if bitOf p.lock lane then (s.setPort port { p with lock := p.lock - 2 ^ lane }).startRetrain port [lane] else s)

/-- FEC_UNCORRECTABLE (R372): more than 4 codewords of a lane in 1 ms cause a retrain. -/
def execFecUncorrectable (port lane : Nat) (s : State) : Outcome :=
  onUnit (portOk port && decide (lane < 8))
    (let s := s.count (cuReg port 0x128) 1
     let p := s.port port
     let l := (Map.getD [] p.fec lane).filter (fun t => Nat.blt s.now (t + 1000)) ++ [s.now]
     if 4 < l.length then (s.setPort port { p with fec := p.fec.del lane }).startRetrain port [lane]
     else s.setPort port { p with fec := p.fec.put lane l })

/-- LINK_SILENCE (R372): charged to no lane. -/
def execLinkSilence (port : Nat) (s : State) : Outcome :=
  onUnit (portOk port) (if (s.port port).phase = 2 then s.startRetrain port [] else s)

/-- RETRAIN_DONE (R372): the port exchanges capability records again, or after three failures trains in full. -/
def execRetrainDone (t : Trained) (ok : Bool) (s : State) : Outcome :=
  let port := t.port
  onUnit (portOk port)
    (let p := s.port port
     if p.phase ≠ 3 ∨ p.pmd then s
     else if ok then s.settleLanes port t.half fun s =>
       let s := s.updPort port fun p => { p with pmd := true, fails := 0, lock := s.lanesOf port p }
       if s.portRole port = 7 then s.portUp port false else s.sendCapability port
     else if 3 ≤ p.fails + 1 then s.setPort port { p with phase := 1, full := true, fails := 0 }
     else s.setPort port { p with fails := p.fails + 1 })

/-- TRAINING_TIMEOUT (R375, R379): a training whose partner has appeared, or a drain, takes too long. -/
def execTrainingTimeout (port : Nat) (s : State) : Outcome :=
  onUnit (portOk port)
    (let p := s.port port
     if (p.phase = 1 ∧ s.im.phase = 4 ∧ (p.trained ∨ p.pmd)) ∨ p.phase = 6 ∨ p.phase = 7 then s.portDown port else s)

/-- A port's ENABLE is written 1 (R379). -/
def State.portOn (s : State) (port : Nat) : State :=
  let p := s.port port
  let s := s.setReg (cuReg port 0xC) 1
  if p.phase = 6 then s.setPort port { p with phase := 7, latched := true }
  else if (p.phase = 3 ∨ (p.phase = 1 ∧ p.retrain)) ∧ p.back = 6 then s.setPort port { p with back := 7, latched := true }
  else if (p.phase = 0 ∨ p.phase = 4 ∨ p.phase = 5) ∧ s.portRole port ≠ 0 then
    s.setPort port { p with phase := 1, full := true, pmd := false, latched := false }
  else s

/-- A port's ENABLE is written 0 (R379): the port drains and says so in its sideband; one that carries nothing is OFF. -/
def State.portOff (s : State) (port : Nat) : State :=
  let p := s.port port
  let s := s.setReg (cuReg port 0xC) 0
  if p.phase = 7 then s.setPort port { p with phase := 6, latched := false }
  else if p.phase = 2 then
    (s.setPort port { p with phase := 6 }).sendCtrl port
  else if p.phase = 3 ∨ (p.phase = 1 ∧ p.retrain) then s.setPort port { p with back := 6, latched := false }
  else if p.phase = 6 then s
  else (s.setPort port { p with phase := 0, pmd := false }).reroute port

/-- PORT_ENABLE (R379). -/
def execPortEnable (port : Nat) (s : State) : Outcome := onUnit (portOk port) (s.portOn port)

/-- PORT_DISABLE (R379). -/
def execPortDisable (port : Nat) (s : State) : Outcome := onUnit (portOk port) (s.portOff port)

/-- A message has begun to leave a port, or a tunnel of it, and its EOM has not left. -/
def State.midMessage (p : Port) : Bool := !p.begun.isEmpty || p.tuns.any fun t => !t.2.begun.isEmpty

/-- PORT_DRAIN_DONE (R379): with no frame unacknowledged and no message begun, the port is OFF or trains again; messages that waited go to their fallback port. -/
def execPortDrainDone (port : Nat) (s : State) : Outcome :=
  onUnit (portOk port)
    (let p := s.port port
     let busy := State.midMessage p || p.tuns.any fun t => !t.2.unacked.isEmpty
     if !(p.phase == 6 || p.phase == 7) || !p.unacked.isEmpty || busy then s
     else if p.phase = 6 then ((s.setPort port { p with phase := 0 }).reroute port).updPort port fun p => { p with tuns := [] }
     else (s.setPort port { p with phase := 1, latched := false, full := true, pmd := false }).reroute port)

/-- ETH_FRAME_RECEIVE (R366). -/
def execEthFrameReceive (port : Nat) (frame : List Byte) (s : State) : Outcome := onUnit (portOk port) (s.receiveEth port frame)

/-- Lanes of which a hold has flits. -/
def State.heldLanes (t : Tunnel) : List Nat := (List.range 4).filter fun vl => t.hold.any fun f => f.lane == vl

/-- ETH_COALESCE (R366): partial frames are sent, as soon as they may be. -/
def execEthCoalesce (port : Nat) (s : State) : Outcome :=
  onUnit (portOk port)
    ((s.updPort port fun p => { p with tuns := p.tuns.map fun t => (t.1, { t.2 with due := State.heldLanes t.2 }) }).runPort port)

/-- Flits that waited for a tunnel of a port may open one (R367). -/
def State.requeue (s : State) (port : Nat) : State :=
  (s.port port).queue.foldl (fun s f => s.putFlits port (f.flow % 65536) [f]) (s.updPort port fun p => { p with queue := [] })

/-- TUNNEL_IDLE (R367): an idle tunnel closes; flits that waited for a tunnel may open one. -/
def execTunnelIdle (port tun : Nat) (s : State) : Outcome :=
  onUnit (portOk port && decide (tun < 256))
    (let p := s.port port
     let t := State.tunnel p tun
     if t.phase = 1 ∧ t.unacked.isEmpty ∧ t.hold.isEmpty ∧ t.begun.isEmpty then (s.setPort port { p with tuns := p.tuns.del tun }).requeue port else s)

/-- TUNNEL_RTO (R367): the tunnel's frames are sent again, and after 16 expiries it goes DOWN; a port in a retrain sends nothing, and its timers wait with it (R372). -/
def execTunnelRto (port tun : Nat) (s : State) : Outcome :=
  onUnit (portOk port && decide (tun < 256))
    (let t := State.tunnel (s.port port) tun
     if t.phase ≠ 1 ∨ t.unacked.isEmpty ∨ !([2, 6, 7].contains (s.port port).phase) then s
     else if 16 ≤ t.rto + 1 then s.tunnelDown port tun
     else (s.updTun port tun fun t => { t with rto := t.rto + 1 }).ethReplay port tun)

/-- CU_TUN_SEL written: a tunnel's state is captured (R380). -/
def State.selectTun (s : State) (port v : Nat) : State :=
  let k := v % 256
  let t := State.tunnel (s.port port) k
  ((s.setReg (cuReg port 0x60) k).setReg (cuReg port 0x64) (t.rank + t.phase * 65536 + min t.unacked.length 1024 * 2 ^ 20)).setReg (cuReg port 0x68) t.next

/-- CU_TUN_SEL (R380). -/
def execCuTunSel (port : Nat) (v : Word) (s : State) : Outcome := onUnit (portOk port) (s.selectTun port v.toNat)

end Sys2Proof.Machine
end

