-- ==== Sys2Proof/Machine/Streams.lean ====
section
/-! DEFINITION. Hauls (R100–R102, R123–R151): streams at issue, tags, transfers, halts and resumes, hauls between chips, and the weight chain (R117–R119). -/

namespace Sys2Proof.Machine

namespace State

/-! ### Delivery (R101, R127, R146) -/

/-- The last fill is delivered or drained: the context is free, and the header bits of the step are set. -/
def endRun (s : State) (k : Nat) (r : StreamRun) : State :=
  let c := k / 32
  let s := s.freeCtx k r r.stop
  let s := s.tgUpd fun t => { t with pins := t.pins.filter fun p => p.owner != .stream k }
  (s.orFlags c (stSfw r.w) (stSmask r.w r.odd)).settle c

/-- Fills that the bytes up to `bound` complete: each sets its bit (R101). -/
def endFills (k bound : Nat) : Nat → State → State
  | 0, s => s
  | n + 1, s =>
    match s.run? k with
    | none => s
    | some r =>
      if r.fillCount ≤ r.fills ∨ bound < (r.fills + 1) * r.chunk then s
      else
        let (fw, b) := r.after r.fills
        let r' := { r with fills := r.fills + 1 }
        let s := ((s.setRun k r').setPos k r').orFlags (k / 32) fw (2 ^ b)
        if r'.fills = r'.fillCount then s.endRun k r' else endFills k bound n s

/-- A resume pin ends when the haul has passed its granule (R148): `next` is the granule of the first byte not delivered. -/
def dropPins (s : State) (o : Owner) (next : Option Nat) : State :=
  s.tgUpd fun t => { t with pins := t.pins.filter fun p => !(p.owner == o && next != some p.gran) }

/-- Bytes [o, o + n) of a run have moved: the prefix grows, and the fills it completes are delivered. A CHAIN_SEND's fills drain with its flits. -/
def moved (s : State) (k o n : Nat) : State :=
  match s.run? k with
  | none => s
  | some r =>
    let l := r.parts ++ [(o, n)]
    let (pre, parts) := joinPieces l.length r.pre l
    let r := { r with pre := pre, parts := parts, moved := if r.moved.isSome then some s.now else none }
    let s := (s.setRun k r).setPos k r
    let s := s.dropPins (.stream k) ((s.farAt k r r.pre).map fun a => granOf a.1)
    if r.mode = 3 then s else (endFills k pre (r.fillCount - r.fills) s).settle (k / 32)

/-! ### Streams at issue (R101, R117, R118, R125, R127) -/

/-- The context belongs to the step, and the first buffers are taken when the sequencer settles. -/
def startStream (s : State) (c i : Nat) (q : QStep) (w : Nat) : State :=
  let sc := bitsOf w 68 64
  let k := 32 * c + sc
  let x := s.sctx k
  let cont := bitOf w 164
  let base := if cont then bitsOf x 355 320 * 64 else 0
  let old := Map.getD ([], false) s.tg.rest k
  let kept := if cont && scSpace x == 5 then old else ([], false)
  let r : StreamRun := ⟨i, BitVec.ofNat 256 w, q.alt, q.odd, base, 0, 0, 0, [], 0, none, none, kept.1, kept.2, (if bitsOf w 71 69 = 1 ∧ scSpace x = 4 ∧ scGrants x ≠ 0 then some s.now else none), false, s.epoch⟩
  let s := (((s.setScField k 372 372 1).setScField k 373 373 0).setScField k 383 376 0).setRun k r
  let s := s.setPos k r
  if spaceBad x r.mode then s.streamErr k 0x11
  else if (if scSpace x = 5 then kept.2 && decide (r.have_ < r.stop) else decide (scLen x < base + r.stop)) then s.streamErr k 0x10
  else
    let s := if r.mode = 1 ∨ r.mode = 3 then s.orFlags c (bitsOf w 159 152) (3 * 2 ^ bitsOf w 163 160) else s
    if r.mode = 3 then
      let n := bitsOf x 131 124 + 1
      { s with chains := s.chains ++ [⟨scChain x, c, sc, (List.range n).map fun j => (c + j) % 192, bitOf x 132, [], List.replicate n 0, r.stop, []⟩] }
    else s

def issueStream (s : State) (c i mode : Nat) : State :=
  let q := s.queued c i
  s.issue c i (fun w => stType w == 0x01 && bitsOf w 71 69 == mode) (fun _ _ => none) fun s w => s.startStream c i (q w) w

/-! ### Tags (R131–R136) -/

def isPump (o : Owner) : Bool := match o with | .pump _ _ _ => true | _ => false

/-- A transfer whose far end is the host: the spillway side of a move (R132). -/
def isHost (q : TagReq) : Bool := match q.owner with | .move _ => q.cls == .remote | _ => false

/-- A cap keeps a request from its next tag (R134). -/
def capped (s : State) (q : TagReq) : Bool :=
  match q.owner with
  | .stream _ => Nat.ble (bitsOf (s.reg R.TG_CTX_CAP) 13 0) (s.held q.owner)
  | .pump _ _ _ => Nat.ble (bitsOf (s.reg R.TG_PUMP_CAP) 17 0) ((s.tg.xfers.filter fun x => isPump x.owner).length)
  | .move _ => isHost q && Nat.ble (bitsOf (s.reg R.TG_HOST_CAP) 17 0) s.hostHeld
  | .sluice _ => false

/-! ### Translation (R144, R262) -/

/-- What translation answers: go on, halt with a cause of R151, or end with a stream error. -/
inductive Answer where
  | go
  | halt (cause : Nat)
  | err (cause : Nat)
  deriving DecidableEq, Repr

/-- A transfer to granule g for polder p; rights of the KV region were checked with the descriptor. -/
def translate (s : State) (g p : Nat) (write : Bool) : Answer :=
  match s.region g with
  | none => .err 0x12
  | some r =>
    if r.kind != 2 && r.polder != p && !r.shared then .err 0x12
    else if write && r.ro then .err 0x12
    else
      let x := s.entry g
      if x.poison then (if r.kind = 1 then .halt 0x01 else .err 0x13)
      else if x.spill then .halt 0x01
      else if write && s.moving g then .halt 0x02
      else .go

/-! ### The near end (R79, R80) -/

/-- The near-end buffer of an OUT transfer shows an uncorrectable word. -/
def nearBad (s : State) (k : Nat) (r : StreamRun) (o n : Nat) : Bool := s.badIn (storeAt (k / 32) (r.near o)) n

/-- A step whose near end showed an uncorrectable word completes without writing once its tags have returned (R79): its context is free and its header bits are set; a PEER haul's partner learns that it ended. -/
def nearDrain (s : State) (k : Nat) : State :=
  match s.run? k with
  | none => s
  | some r =>
    if !r.stuck || s.held (.stream k) != 0 then s
    else
      let t := if scSpace (s.sctx k) = 4 then s.tellPeer k 0x03 r.fills else s
      let t := t.freeCtx k r r.pre
      (t.orFlags (k / 32) (stSfw r.w) (stSmask r.w r.odd)).followEnd s (k / 32)

/-- The slot of an OUT or CHAIN_SEND stream faults, and nothing more of the stream moves. -/
def nearFault (s : State) (k : Nat) (r : StreamRun) (o n : Nat) : State :=
  let c := k / 32
  let s := (s.setRun k { r with stuck := true }).dropReqs (.stream k)
  ((s.storeUe c (coreBlock c) (s.badWord (storeAt c (r.near o)) n)).slotFault c r.slot 0x02).nearDrain k

/-! ### Grants -/

/-- A PEER segment goes out when its last bytes have tags: up to 64 KiB of one fill (R129, R359). False where it has no route. -/
def sendSegment (s : State) (k : Nat) (r : StreamRun) (o n : Nat) : State × Bool :=
  let fill := o / r.chunk
  let e := (o + n) % r.chunk
  if e ≠ 0 ∧ e % 65536 ≠ 0 then (s, true)
  else
    let start := o % r.chunk / 65536 * 65536
    let data := s.readStore (k / 32) (r.near (fill * r.chunk + start)) (o % r.chunk + n - start)
    s.sendMsg (scRank (s.sctx k)) 1 0x01 (leBytes 8 (scPeer (s.sctx k) + fill % 65536 * 65536 + start * 2 ^ 32)) data
      (some ((s.core (k / 32)).slot r.slot).model)

/-- The transfer that a request's next tag would carry: its far address and length, and the granule where it has one. -/
def nextXfer (s : State) (q : TagReq) : Option (Nat × Nat) :=
  match q.owner with
  | .stream k =>
    match s.run? k with
    | some r => (s.farAt k r q.off).map fun (a, left) => (a, cutAt r q.off a left q.stop)
    | none => none
  | .pump p e _ =>
    let a := bitsOf (s.pumpEntry p e) 51 0 + q.off
    some (a, min (256 - a % 256) (q.stop - q.off))
  | .move g => some (g * 65536 + q.off, min 256 (q.stop - q.off))
  | .sluice _ => some (q.off, min 256 (q.stop - q.off))

/-- Whether the bytes lie in device memory. -/
def farDevice (s : State) (o : Owner) : Bool :=
  match o with
  | .stream k => scSpace (s.sctx k) != 4
  | .pump _ _ _ => true
  | _ => false

/-- The next transfer of a request waits for a ZERO of its frame or a copy of its page (R207, R266). Its issuer does not ask for that tag yet (R136): DEDUCED, it takes its place in the order when the wait is over. -/
def unready (s : State) (q : TagReq) : Bool :=
  match s.nextXfer q with
  | some (a, _) =>
    match q.owner with
    | .move g => q.cls == .read && s.awaitsZero g
    | o => s.farDevice o && (s.awaitsZero (granOf a) || (q.cls == .write && s.awaitsCopy (granOf a)))
  | none => false

/-- A request may take a tag now: its transfer is ready, and no cap blocks it. -/
def grantable (s : State) (q : TagReq) : Bool := !s.unready q && ((s.nextXfer q).isNone || !s.capped q)

/-- Requests that are not ready stand behind those that are. -/
def yieldPlace (s : State) : State := s.tgUpd fun t => { t with reqs := t.reqs.filter (!s.unready ·) ++ t.reqs.filter s.unready }

/-- A tag is held from here on; the request keeps what it still asks for. -/
def takeTag (s : State) (q : TagReq) (a n : Nat) : State :=
  let s := s.tgUpd fun t => { t with
    reqs := t.reqs.flatMap fun x => if x = q then (if q.off + n < q.stop then [{ q with off := q.off + n }] else []) else [x]
    xfers := t.xfers ++ [⟨t.nextId, q.cls, q.owner, q.off, n, a, isHost q, none⟩]
    nextId := t.nextId + 1 }
  s.markTags q.cls (s.inUse q.cls)

/-- One tag granted (R134): the first request of the class that no cap blocks; none while MCLK is stopped (R490). -/
def grant (s : State) (cls : TagClass) : State :=
  if s.pw.stopped ∨ s.poolSize cls ≤ s.inUse cls then s
  else
    match s.tg.reqs.find? fun q => q.cls == cls && s.grantable q with
    | none => s
    | some q =>
      let s := s.yieldPlace
      match q.owner, s.nextXfer q with
      | .stream k, none => s.failStream k 0x11
      | .stream k, some (a, n) =>
        match s.run? k with
        | none => s.dropReqs q.owner
        | some r =>
          if scSpace (s.sctx k) = 4 then
            if s.nearBad k r q.off n then s.nearFault k r q.off n
            else
            let s := s.seep (k / 32) (r.near q.off) n
            let (s, ok) := (s.takeTag q a n).sendSegment k r q.off n
            if ok then s else s.failStream k 0x16
          else
            match s.translate (granOf a) (scPolder (s.sctx k)) (r.mode == 1) with
            | .go => s.takeTag q a n
            | .halt c => s.streamHalt k c (granOf a)
            | .err c => s.failStream k c
      | .pump p e l, some (a, n) =>
        match s.pumpRun? p e l with
        | none => s.dropReqs q.owner
        | some r =>
          let g := granOf a
          match s.translate g (match s.region g with | some x => x.polder | none => 0) false with
          | .go => s.takeTag q a n
          | .halt c => s.pumpHalt r c g
          | .err c => s.pumpHalt r c g
      | .move g, some (a, n) =>
        let t := s.takeTag q a n
        if cls = .remote ∧ (s.entry g).spill then t.send (.hostRead (s.ti.spill.getD (s.entry g).frame 0 + q.off) n) else t
      | .sluice h, some (a, n) => (s.takeTag q a n).sluiceGranted h (q.off + n)
      | _, _ => s.dropReqs q.owner

/-! ### Completions -/

/-- What a far memory shows when a transfer reads or writes it: the stack counters, or POISON and DATA_UE. -/
def farEcc (s : State) (a n : Nat) (st : XferStatus) : State :=
  let x := s.entry (granOf a)
  match st with
  | .ok => s
  | .corrected => s.stackCorr x.stack (x.frame % 64)
  | .dataError => s.stackUe a n

/-- The bytes that a read brings (R144). -/
def xferBytes (s : State) (x : Xfer) : List Byte := match x.data with | some d => d | none => s.devRead x.addr x.len

/-- The bytes of an OUT transfer go to their place at the far end. -/
def farWrite (s : State) (x : Xfer) (k : Nat) (r : StreamRun) : State := s.devWrite x.addr (s.readStore (k / 32) (r.near x.off) x.len)

/-- Every stack write in flight completes (R429). -/
def landWrites (s : State) : State :=
  s.tg.xfers.foldl (fun s x =>
    match x.owner with
    | .stream k => match s.run? k with
      | some r => if r.mode = 1 ∧ scSpace (s.sctx k) ≠ 4 ∧ r.err.isNone ∧ !r.stuck ∧ !s.nearBad k r x.off x.len then s.farWrite x k r else s
      | none => s
    | _ => s) s

/-- A stream's transfer ends.

DESIGN CHOICE: the manual does not say whether an OUT transfer still in flight when its haul ends with an error, or is cancelled, writes its bytes at the far end; they are discarded. -/
def streamDone (s : State) (x : Xfer) (k : Nat) (st : XferStatus) : State :=
  match s.run? k with
  | none => s
  | some r =>
    let sp := scSpace (s.sctx k)
    let s := if sp = 4 then s else (s.farEcc x.addr x.len st).heat x.addr x.len
    if r.err.isSome then (s.drainEnd k).followEnd s (k / 32)
    else if r.stuck then s.nearDrain k
    else if st = .dataError then
      if s.isWeight (granOf x.addr) && sp != 4 then s.streamHalt k 0x01 (granOf x.addr) else s.failStream k 0x13
    else
      let s :=
        if r.mode = 1 then
          if sp = 4 then s.moved k x.off x.len
          else if s.nearBad k r x.off x.len then s.nearFault k r x.off x.len
          else
            let s := s.seep (k / 32) (r.near x.off) x.len
            (s.farWrite x k r).moved k x.off x.len
        else (s.writeStore (k / 32) (r.near x.off) (s.xferBytes x)).moved k x.off x.len
      s.drainEnd k

/-- A pump entry's bytes are all there: its notice is set (R141), and an issue of it that waited starts. -/
def pumpDone (s : State) (r : PumpRun) : State :=
  let w := s.pumpEntry r.prog r.entry
  let s := s.tgUpd fun t => { t with runs := t.runs.filter fun x => x != r }
  let s := if r.again = 0 then s else s.startPump r.prog r.entry r.layer (r.again - 1)
  match s.pumpProg r.prog with
  | some p => if bitOf w 143 then s.setFlags (bitsOf w 130 123) (bitsOf w 138 131) (2 ^ (bitsOf w 142 139 + r.layer % p.slots)) else s
  | none => s

def pumpXferDone (s : State) (x : Xfer) (p e l : Nat) (st : XferStatus) : State :=
  match s.pumpRun? p e l with
  | none => s
  | some r =>
    let s := (s.farEcc x.addr x.len st).heat x.addr x.len
    if st = .dataError then
      if r.halt.isSome then s.pumpDrain r else s.pumpHalt r (if s.isWeight (granOf x.addr) then 0x01 else 0x13) (granOf x.addr)
    else
      let s := s.writeMem (s.pumpAt p e l x.off) (s.xferBytes x)
      let ps := r.parts ++ [(x.off, x.len)]
      let (pre, parts) := joinPieces ps.length r.pre ps
      let r' := { r with pre := pre, parts := parts }
      let s := (s.setPumpRun r').dropPins (.pump p e l) (if pumpBytes (s.pumpEntry p e) ≤ pre then none else some (granOf (bitsOf (s.pumpEntry p e) 51 0 + pre)))
      if pumpBytes (s.pumpEntry p e) ≤ pre then s.pumpDone r' else s.pumpDrain r'

/-- The stack whose interface a transfer uses: none for the links and the host. -/
def xferStack (s : State) (x : Xfer) : Option Nat :=
  match x.owner with
  | .stream k => if scSpace (s.sctx k) = 4 then none else some (s.entry (granOf x.addr)).stack
  | .pump _ _ _ => some (s.entry (granOf x.addr)).stack
  | .move g => if x.host then none else if x.cls = .write then (s.moveOf g).map (·.dst) else some (s.entry g).stack
  | .sluice _ => none

/-- Read slots are preferred to write slots, and these to remote ones (R137). -/
def slotRank (c : TagClass) : Nat := match c with | .read => 0 | .write => 1 | .remote => 2

/-- The slot of a stack transfer is one of its own class, or one that a class with no transfer at this stack has lent (R137): where such a class exists and no class preferred to this one has a transfer there, a free value says which. -/
def slotLent (s : State) (x : Xfer) : State :=
  match s.xferStack x with
  | none => s
  | some st =>
    let busy := fun (c : TagClass) => s.tg.xfers.any fun y => y.cls == c && s.xferStack y == some st
    let others := [TagClass.read, .write, .remote].filter (· != x.cls)
    if others.any (fun c => !busy c) && !(others.any fun c => busy c && Nat.blt (slotRank c) (slotRank x.cls)) then
      let (v, s) := s.draw
      s.count R.TG_SLOT_LENT_LO (v % 2)
    else s

/-- A tag returns (R131). A move's copy ends with MOVE_DATA_DONE, which says what its reads have met; a hop's bytes have gone with its last tag. -/
def xferDone (s : State) (id : Nat) (st : XferStatus) : State :=
  match if s.pw.stopped then none else s.tg.xfers.find? fun x => x.id == id with
  | none => s
  | some x =>
    let s := (s.tgUpd fun t => { t with xfers := t.xfers.filter fun y => y.id != id }).slotLent x
    match x.owner with
    | .stream k => s.streamDone x k st
    | .pump p e l => s.pumpXferDone x p e l st
    | .move _ => s
    | .sluice _ => s

/-- The next transfer of a TERRACE or XCORE haul (R135). -/
def untagged (s : State) (k : Nat) (st : XferStatus) : State :=
  match if s.pw.stopped then none else s.run? k with
  | none => s
  | some r =>
    let sp := scSpace (s.sctx k)
    if r.err.isSome || r.stuck || !(sp == 1 || sp == 2) || decide (r.opened * r.chunk ≤ r.pre) then s
    else
      match s.farAt k r r.pre with
      | none => s.failStream k 0x11
      | some (a, left) =>
        let n := cutAt r r.pre a left (r.opened * r.chunk)
        let far := if sp = 1 then terraceAt (bitsOf (scFar (s.sctx k)) 57 56) a else storeAt (bitsOf (scFar (s.sctx k)) 63 56) a
        let near := storeAt (k / 32) (r.near r.pre)
        let s := if st = .corrected ∧ sp = 2 then
            s.storeCe (bitsOf (scFar (s.sctx k)) 63 56)
          else s
        if r.mode = 1 then
          if s.badIn near n then s.nearFault k r r.pre n
          else if st = .dataError then s.failStream k 0x13
          else
            let s := s.seep (k / 32) (r.near r.pre) n
            (s.writeMem far (s.readMem near n)).moved k r.pre n
        else if sp = 2 ∧ s.badIn far n then
          let c := bitsOf (scFar (s.sctx k)) 63 56
          (s.storeUe c (coreBlock c) (s.badWord far n)).failStream k 0x13
        else if st = .dataError ∨ s.badIn far n then s.failStream k 0x13
        else
          let s := if sp = 2 then s.seep (bitsOf (scFar (s.sctx k)) 63 56) a n else s
          (s.writeMem near (s.readMem far n)).moved k r.pre n

/-! ### Halts and resumes (R147, R148) -/

/-- HAUL_RESUME takes effect: the granule has a stack home and no move in progress, or the write that met a move is translated again after an eviction (R149).

DESIGN CHOICE: the manual does not say whether a resume clears HCAUSE; it keeps the cause of the halt until the next STREAM issues. -/
def resume (s : State) (k : Nat) : State :=
  match s.run? k with
  | none => s
  | some r =>
    match r.halt with
    | none => s
    | some (cause, g) =>
      let x := s.entry g
      if !bitOf (s.sctx k) 373 || (x.spill && cause != 0x02) || (x.poison && s.isWeight g) || (s.moveOf g).isSome then s
      else
        let again := (r.parts.map (·.2)).sum / 64
        let s := ((s.setScField k 373 373 0).setRun k { r with halt := none, parts := [], asked := r.pre }).count R.TG_RESUME_LO 1
        let s := s.count R.TG_REFETCH_LO again
        let s := if cause = 0x01 then
            s.tgUpd fun t => { t with pins := t.pins ++ [⟨g, .stream k, s.now + s.reg R.TG_PIN_TIME⟩] }
          else s
        s.settle (k / 32)

/-! ### The weight chain (R117–R119) -/

/-- The running CHAIN_RECV of a core for a chain id.

DESIGN CHOICE: the manual does not say whether a CHAIN_RECV that issues while a broadcast of its id is in flight takes part in it; it takes the flits that have not yet passed its core. -/
def chainRecv (s : State) (c id : Nat) : Option Nat :=
  ((s.core c).streams.find? fun x => x.2.mode == 2 && scChain (s.sctx (32 * c + x.1)) == id && x.2.err.isNone).map fun x => 32 * c + x.1

/-- Pattern bytes of a slice, by offset in the step, that lie at broadcast byte b: 64 at a time. -/
def sliceAt (w base stop b : Nat) : List Nat :=
  (List.range (scCnt1 w)).filterMap fun (r1 : Nat) =>
    let at_ : Int := scFar w + (r1 : Int) * signedOf 32 (bitsOf w 255 224) * 64
    let d := (b : Int) - at_
    if 0 ≤ d ∧ d < scRun w then
      let p : Nat := r1 * scRun w + d.toNat
      if base ≤ p ∧ p < base + stop then some (p - base) else none
    else none

def setChain (s : State) (c c' : Chain) : State := { s with chains := s.chains.map fun x => if x = c then c' else x }

/-- A flit's slice bytes written into a receiver's buffers; none where a buffer is not free.

DESIGN CHOICE: a flit that reaches into a fill without a free buffer is held with none of its bytes written, those of the fill before it included. -/
def slice (s : State) (k : Nat) (off : Nat) (flit : List Byte) : Option State :=
  match s.run? k with
  | none => some s
  | some r =>
    let hits := (List.range (ceilDiv flit.length 64)).flatMap fun j => (sliceAt (s.sctx k) r.base r.stop (off + 64 * j)).map fun o => (o, j)
    if hits.any fun h => decide (r.opened * r.chunk ≤ h.1) then none
    else some (hits.foldl (fun s h => (s.writeStore (k / 32) (r.near h.1) ((flit.drop (64 * h.2)).take 64)).moved k h.1 64) s)

/-- A flit goes past a hop, or is held there (R119). `more` is what the injector adds to the broadcast with it. -/
def flitAt (s : State) (ch : Chain) (j : Nat) (flit more : List Byte) (done : State → State) : State :=
  let c := ch.span.getD j 0
  let off := 256 * ch.past.getD j 0
  let receiver := if j = 0 ∧ !ch.self then none else s.chainRecv c ch.id
  let pass (s : State) : State :=
    let ch' := { ch with past := ch.past.set j (ch.past.getD j 0 + 1), data := ch.data ++ more }
    let s := s.updCore c fun k => { k with held := none }
    let s := if j + 1 = ch.span.length ∧ ch.total ≤ off + 256 then { s with chains := s.chains.erase ch } else s.setChain ch ch'
    done s
  match receiver with
  | none => pass s
  | some k =>
    match s.slice k off flit with
    | some s' => pass s'
    | none => s.updCore c fun x => { x with held := if x.held.isSome then x.held else some (ch.id, s.now) }

/-- A flit of another broadcast waits to be forwarded at core c. -/
def forwardWaits (s : State) (ch : Chain) (c : Nat) : Bool :=
  s.chains.any fun x => x != ch && (List.range x.span.length).any fun j =>
    decide (0 < j) && x.span.getD j 0 == c && Nat.blt (x.past.getD j 0) (x.past.getD (j - 1) 0)

/-- Hops at which flits stand: those in `hops`, and those where a flit of one of the broadcasts waits behind one of them (R119). -/
def stoppedHops (chains : List Chain) : Nat → List Nat → List Nat
  | 0, hops => hops
  | n + 1, hops =>
    stoppedHops chains n ((hops ++ chains.flatMap fun x => ((List.range x.span.length).filter fun j =>
      decide (0 < j) && Nat.blt (x.past.getD j 0) (x.past.getD (j - 1) 0) && (x.span.drop (j + 1)).any hops.contains).map fun j => x.span.getD j 0).eraseDups)

/-- The hops at which a flit of a broadcast would wait behind flits held, or waiting behind a held one, of any broadcast but its own waiting ones. -/
def hopsStopped (s : State) (ch : Chain) : List Nat :=
  let others := s.chains.filter (· != ch)
  stoppedHops others others.length (s.cores.filterMap fun c => if c.2.held.isSome then some c.1 else none)

/-- The next flit of a broadcast arrives at position j of its span; at position 0 it is injected, unless a flit waits there to be forwarded. It waits behind a held flit, and behind those of other broadcasts that wait behind one (R119).

DEDUCED: of flits of two broadcasts at one hop, the one that waits behind a held flit stands first. -/
def chainFlit (s : State) (ch : Chain) (j : Nat) : State :=
  let at_ (i : Nat) := ch.past.getD i 0
  let hops := s.hopsStopped ch
  let stuck := (ch.span.drop (j + 1)).any hops.contains
  let other := match (s.core (ch.span.getD j 0)).held with | some (i, _) => i != ch.id | none => hops.contains (ch.span.getD j 0)
  if ch.armed.isEmpty || stuck || other || decide (ch.total ≤ 256 * at_ j) then s
  else if j = 0 then
    let k := 32 * ch.core + ch.sc
    match s.run? k with
    | none => s
    | some r =>
      let o := 256 * at_ 0
      let upto := min (o + 256) ch.total
      if r.err.isSome || r.stuck || decide (r.pre < upto) || s.forwardWaits ch ch.core then s
      else
        match (List.range (ceilDiv (upto - o) 64)).find? fun j => s.nearBad k r (o + 64 * j) 64 with
        | some j => s.nearFault k r (o + 64 * j) 64
        | none =>
          let flit := ((List.range (ceilDiv (upto - o) 64)).map fun j => s.readStore ch.core (r.near (o + 64 * j)) 64).flatten
          s.flitAt ch 0 flit flit fun s =>
            let s := (List.range (ceilDiv (upto - o) 64)).foldl (fun s j => s.seep ch.core (r.near (o + 64 * j)) 64) s
            (endFills k upto (r.fillCount - r.fills) s).settle ch.core
  else if at_ (j - 1) ≤ at_ j then s
  else s.flitAt ch j ((ch.data.drop (256 * at_ j)).take 256) [] id

end State

/-! ### Commands -/

/-- STREAM in IN mode (R101). -/
def execStreamIn (c i : Nat) (s : State) : Outcome := onUnit (slotOk c i) (s.issueStream c i 0)
/-- STREAM in OUT mode (R101). -/
def execStreamOut (c i : Nat) (s : State) : Outcome := onUnit (slotOk c i) (s.issueStream c i 1)
/-- STREAM in CHAIN_RECV mode (R118): the core is armed for its chain id while the stream runs. -/
def execStreamChainRecv (c i : Nat) (s : State) : Outcome := onUnit (slotOk c i) (s.issueStream c i 2)
/-- STREAM in CHAIN_SEND mode (R117). -/
def execStreamChainSend (c i : Nat) (s : State) : Outcome := onUnit (slotOk c i) (s.issueStream c i 3)

/-- TAG_GRANT (R134). -/
def execTagGrant (cls : TagClass) (s : State) : Outcome := .next (s.grant cls)

/-- TRANSFER_COMPLETE (R131). -/
def execTransferComplete (id : Nat) (status : XferStatus) (s : State) : Outcome := .next (s.xferDone id status)

/-- UNTAGGED_TRANSFER_COMPLETE (R135). -/
def execUntaggedTransferComplete (core sc : Nat) (status : XferStatus) (s : State) : Outcome :=
  onUnit (decide (core < 192) && decide (sc < 32)) (s.untagged (32 * core + sc) status)

/-- HAUL_FAULT_MESSAGE (R147): the deciding die starts a demand promotion for a granule that is not resident (R269); a MIGRATING halt waits for the move's commit. -/
def execHaulFaultMessage (core sc : Nat) (s : State) : Outcome :=
  onUnit (decide (core < 192) && decide (sc < 32))
    (if (s.core core).halts.contains sc then
       let s := s.updCore core fun k => { k with halts := k.halts.erase sc }
       match s.run? (32 * core + sc) with
       | some r =>
         match r.halt with
         | some (0x01, g) => (s.needGran ((s.core core).slot r.slot).model g).demand g
         | _ => s
       | none => s
     else s)

/-- HAUL_RESUME (R148). A resume for a context that is not halted, or was cancelled, is discarded (R149). -/
def execHaulResume (core sc : Nat) (s : State) : Outcome :=
  onUnit (decide (core < 192) && decide (sc < 32)) (s.resume (32 * core + sc))

/-- PIN_EXPIRE (R148): pins of a granule that have stood for TG_PIN_TIME end. -/
def execPinExpire (gran : Nat) (s : State) : Outcome :=
  .next (if s.tg.pins.any fun p => p.gran == gran && Nat.ble p.stop s.now then
      ({ s with tg := { s.tg with pins := s.tg.pins.filter fun p => !(p.gran == gran && Nat.ble p.stop s.now) } } : State).orReg R.TG_ERR 2
    else s)

/-- DESC_ENQUEUE (R128): a descriptor enters the context's queue of 16, or waits at its emitter behind those that wait. -/
def execDescEnqueue (core sc : Nat) (desc : BitVec 256) (s : State) : Outcome :=
  let k := 32 * core + sc
  onUnit (decide (core < 192) && decide (sc < 32))
    ((s.pushDescs k [desc]).settle core)

/-- PEER_GRANT (R129): the sender may transmit one more fill; the peer limit runs from the first grant (R130). -/
def execPeerGrant (core sc : Nat) (s : State) : Outcome :=
  let k := 32 * core + sc
  onUnit (decide (core < 192) && decide (sc < 32))
    (let s := s.takeMsg 0x02 fun m => leField m.body 0 2 % 8192 == k
     let s := s.setScField k 463 448 (scGrants (s.sctx k) + 1)
     let s := match s.run? k with
       | some r => s.setRun k { r with moved := if r.moved.isSome then r.moved else some s.now }
       | none => s
     s.settle core)

/-- PEER_SEGMENT (R129, R130): bytes of a granted fill, or a mismatch that ends the haul. -/
def execPeerSegment (core sc fill off : Nat) (last : Bool) (data : List Byte) (s : State) : Outcome :=
  let k := 32 * core + sc
  onUnit (decide (core < 192) && decide (sc < 32))
    (let s := s.takeMsg 0x01 fun m => leField m.body 0 2 % 8192 == k && leField m.body 2 2 == fill && leField m.body 4 4 == off
     match s.run? k with
     | none => s
     | some r =>
       if r.mode ≠ 0 ∨ scSpace (s.sctx k) ≠ 4 ∨ r.err.isSome then s
       else if fill ≠ r.pre / r.chunk ∨ r.opened ≤ fill ∨ r.chunk < off + data.length ∨ last ≠ decide (off + data.length = r.chunk) then s.failStream k 0x14
       else
         let s := s.setRun k { r with moved := some s.now }
         let s := if last then s.setScField k 463 448 (scGrants (s.sctx k) - 1) else s
         (s.writeStore core (r.near (fill * r.chunk + off)) data).moved k (fill * r.chunk + off) data.length)

/-- PEER_ABORT (R130). -/
def execPeerAbort (core sc : Nat) (s : State) : Outcome :=
  let k := 32 * core + sc
  onUnit (decide (core < 192) && decide (sc < 32))
    (let s := s.takeMsg 0x03 fun m => leField m.body 0 2 % 8192 == k
     if scSpace (s.sctx k) = 4 then s.failStream k 0x16 else s)

/-- The peer limit of a context in µs: TG_PEER_TIMEOUT, extended by FACTOR while the peer's slow notice stands, or this chip's own (R130, R307). -/
def State.peerLimit (s : State) (k : Nat) : Nat :=
  s.reg R.TG_PEER_TIMEOUT * (if s.cu.slow || s.cu.slowRanks.contains (scRank (s.sctx k)) then s.slowFactor else 1)

/-- PEER_TIMEOUT (R130): a haul that has a grant made no progress for TG_PEER_TIMEOUT. -/
def execPeerTimeout (core sc : Nat) (s : State) : Outcome :=
  let k := 32 * core + sc
  onUnit (decide (core < 192) && decide (sc < 32))
    (match s.run? k with
     | some r =>
       match r.moved with
       | some t => if scSpace (s.sctx k) = 4 ∧ t + s.peerLimit k ≤ s.now then s.failStream k 0x15 else s
       | none => s
     | none => s)

/-- CHAIN_ARM (R118): once every core of the span has armed, the last arm token reaches the injector. Of two broadcasts with one id, only the first is in flight (R117). -/
def execChainArm (id : Nat) (s : State) : Outcome :=
  .next (match s.chains.find? fun c => c.id == id with
    | some ch =>
      let need := if ch.self then ch.span else ch.span.drop 1
      if ch.armed.isEmpty && need.all (fun c => (s.chainRecv c id).isSome) then s.setChain ch { ch with armed := ch.span } else s
    | none => s)

/-- CHAIN_FLIT (R119). -/
def execChainFlit (id core : Nat) (s : State) : Outcome :=
  onUnit (decide (core < 192))
    (match s.chains.find? fun c => c.id == id with
     | some ch => match ch.span.idxOf? core with
       | some j => s.chainFlit ch j
       | none => s
     | none => s)

/-- CHAIN_TIMEOUT (R119): the slot whose receiver has held a flit for longer than SQ_CHAIN_TIMEOUT faults. -/
def execChainTimeout (core : Nat) (s : State) : Outcome :=
  onUnit (decide (core < 192))
    (match (s.core core).held with
     | some (id, t) => match (s.chainRecv core id).bind s.run? with
       | some r => if t + s.reg (State.dieReg (core / 48) 0x14) < s.now then s.slotFault core r.slot 0x0A else s
       | none => s
     | none => s)

/-- SLOT_FAULT_MESSAGE (R113): the die control core ends the batch step of the slot's model instance with STEP_FAULT. -/
def execSlotFaultMessage (core slot : Nat) (s : State) : Outcome :=
  onUnit (slotOk core slot)
    (if (s.core core).faults.contains slot then
       let x := (s.core core).slot slot
       (s.updCore core fun k => { k with faults := k.faults.erase slot }).endStep x.model 0x10 0 (core + 256 * x.cause)
     else s)

end Sys2Proof.Machine
end

