-- ==== Sys2Proof/Machine/Dikes.lean ====
section
/-! DEFINITION. Dike barriers (R114–R116), and the pump, which follows them (R139–R143, R270). -/

namespace Sys2Proof.Machine

namespace State

/-! ### Dikes -/

/-- A dike's place in the table: package-wide dikes after the die-wide ones. -/
def dikeKey (pkg : Bool) (die did : Nat) : Nat := if pkg then 256 + did % 16 else 64 * die + did % 64

def dike (s : State) (k : Nat) : Dike := Map.getD Dike.fresh s.dikes k
def setDike (s : State) (k : Nat) (x : Dike) : State := { s with dikes := Map.store Dike.fresh s.dikes k x }

/-- Whether a slot of a core is a member of a dike (R120). -/
def dikeMember (s : State) (k c i : Nat) : Bool :=
  if 256 ≤ k then
    let b := 8 * c + i
    bitOf (s.reg (dieReg 0 (0x4000 + (k - 256) * 0x100 + b / 32 * 4))) (b % 32)
  else
    let b := 8 * (c % 48) + i
    k / 64 == c / 48 && bitOf (s.reg (dieReg (k / 64) (0x2000 + k % 64 * 0x40 + b / 32 * 4))) (b % 32)

/-- Every member of a dike. -/
def dikeMembers (s : State) (k : Nat) : List (Nat × Nat) :=
  (List.range 192).flatMap fun c => (List.range 8).filterMap fun i => if s.dikeMember k c i then some (c, i) else none

/-! ### The pump -/

/-- Every entry of layer j of program p is issued, in entry order (R141); one whose last issue is still in progress is fetched again after it. -/
def pumpIssue (s : State) (p j : Nat) : State :=
  match s.pumpProg p with
  | none => s
  | some x =>
    (List.range x.entries.length).foldl (fun s e =>
      if bitsOf (s.pumpEntry p e) 159 144 ≠ j then s
      else match s.pumpRun? p e j with
        | some r => s.setPumpRun { r with again := r.again + 1 }
        | none => s.startPump p e j 0) s

/-- The first layers of a program, at image load or at program start after a warm start (R141). -/
def pumpStart (s : State) (p : Nat) : State :=
  match s.pumpProg p with
  | none => s
  | some x => (List.range (x.depth + 1)).foldl (fun s j => s.pumpIssue p j) (s.tgUpd fun t => { t with pumpK := t.pumpK.del p })

/-- Spillway granules that a layer's entries name are promoted ahead of the pump (R270). -/
def pumpAhead (s : State) (p j : Nat) : State :=
  match s.pumpProg p with
  | none => s
  | some x =>
    x.entries.foldl (fun s e =>
      let w := e.toNat
      if bitsOf w 159 144 ≠ j then s
      else
        let a := bitsOf w 51 0
        (extent a (pumpBytes w)).foldl (fun s g =>
          let y := s.entry g.1
          let pumped := match s.region g.1 with | some r => r.place == 2 | none => false
          if pumped && y.spill && !y.undef && !y.poison && !s.moving g.1 && !s.decided g.1 [.pump]
          then s.plan (s.newMove g.1 .pump true s.roomiest) else s) s) s

/-- A release of the dike that a program follows (R141, R143).

DESIGN CHOICE: R143 counts a layer that starts before its entries have completed; layer 0, which runs from the program's start with no release before it, is never counted. -/
def pumpRelease (s : State) (p : Nat) : State :=
  match s.pumpProg p with
  | none => s
  | some x =>
    let k := Map.getD 0 s.tg.pumpK p + 1
    let s := s.tgUpd fun t => { t with pumpK := t.pumpK.put p k }
    let late := s.tg.runs.any fun r => r.prog == p && r.layer == k % x.layers
    let s := if late then (s.count R.TG_PUMP_LATE_LO 1).orReg R.TG_ERR 4 else s
    let s := s.pumpIssue p ((k + x.depth) % x.layers)
    s.pumpAhead p ((k + x.depth + bitsOf (s.reg R.TI_HEAT_CTRL) 19 16) % x.layers)

/-! ### Arrival and release (R114, R115) -/

/-- All members have arrived: their bits are set, the arrivals are cleared, and the generation bit is inverted, at once. -/
def releaseDike (s : State) (k : Nat) : State :=
  let x := s.dike k
  let s := s.setDike k ⟨[], !x.gen, 0⟩
  let s := x.arrived.foldl (fun s a => s.orFlags a.core a.fw a.mask) s
  let s := (x.arrived.map (·.core)).eraseDups.foldl settle s
  (List.range s.tg.pumps.length).foldl (fun s p =>
    match s.pumpProg p with
    | some y => if dikeKey y.pkg y.die y.dike = k then s.pumpRelease p else s
    | none => s) s

/-- The cause that keeps a slot from arriving (R113): not a member, or a second arrival in one generation. -/
def dikeFault (s : State) (k c i : Nat) : Option Nat :=
  if !s.dikeMember k c i then some 0x06
  else if (s.dike k).arrived.any fun a => a.core == c && a.slot == i then some 0x07
  else none

def arrive (s : State) (k : Nat) (a : Arrival) : State :=
  let x := s.dike k
  let s := s.setDike k { x with arrived := x.arrived ++ [a], since := if x.arrived.isEmpty then s.now else x.since }
  if (s.dikeMembers k).length ≤ (s.dike k).arrived.length then s.releaseDike k else s

end State

/-- The dike a DIKE step names (R103). -/
def dikeOf (c w : Nat) : Nat := State.dikeKey (bitOf w 70) (c / 48) (bitsOf w 69 64)

/-- DIKE (R114): the arrival is recorded when the step issues, and its SFW bits come with the release. -/
def execDike (c i : Nat) (s : State) : Outcome :=
  let odd := ((s.core c).slot i).odd
  onUnit (slotOk c i) (s.issue c i (fun w => stType w == 0x10) (fun s w => s.dikeFault (dikeOf c w) c i) fun s w =>
    s.arrive (dikeOf c w) ⟨c, i, stSfw w, stSmask w odd⟩)

/-- The limit of a dike in µs: SQ_DIKE_TIMEOUT of its die (CD0 for a package-wide one), extended by FACTOR while this chip's slow notice stands (R116, R307). -/
def State.dikeLimit (s : State) (pkg : Bool) (die : Nat) : Nat :=
  s.reg (State.dieReg (if pkg then 0 else die) 0x10) * (if s.cu.slow then s.slowFactor else 1)

/-- DIKE_TIMEOUT (R116): once the limit has passed since the first arrival, every member that has arrived faults, one that has reached IDLE since then included, and the arrivals are cleared. The log entry names the members that did not arrive, in a form the manual does not give: its DATA is an open function of their list, each as 8 · core + slot. -/
def execDikeTimeout (pkg : Bool) (die did : Nat) (s : State) : Outcome :=
  let k := State.dikeKey pkg die did
  onUnit ((pkg || decide (die < 4)) && decide (did < (if pkg then 16 else 64)))
    (let x := s.dike k
     if x.arrived = [] ∨ s.now < x.since + s.dikeLimit pkg die then s
     else
       let late := (s.dikeMembers k).filter fun m => !(x.arrived.any fun a => a.core == m.1 && a.slot == m.2)
       let data := Config.unstated 9 (late.map fun m => 8 * m.1 + m.2) % 2 ^ 64
       let s := s.setDike k { x with arrived := [], since := 0 }
       x.arrived.foldl (fun s a => (s.faultAny a.core a.slot 0x08 data).followEnd s a.core) s)

end Sys2Proof.Machine
end

