-- ==== Sys2Proof/Machine/Search.lean ====
section
/-! DEFINITION. Sketch search (R316–R347): indexes, batches and their phases, updates, and merges of the side list. -/

namespace Sys2Proof.Machine

namespace State

/-! ### Indexes (R316–R323) -/

def skUpd (s : State) (f : SkState → SkState) : State := { s with sk := f s.sk }
def skIdx (s : State) (x : Nat) : Option SkIdx := s.sk.idx.get? x
def setIdx (s : State) (x : Nat) (ix : SkIdx) : State := s.skUpd fun k => { k with idx := k.idx.put x ix }

/-- SB / 8, bytes of a block, blocks of a granule (R319), RECB (R321) and VSTRIDE (R318). -/
def skSb (s : State) (x : Nat) : Nat := 32 * 2 ^ bitsOf (s.skWord x 0) 9 8
def skBlock (s : State) (x : Nat) : Nat := 64 * (s.skSb x + 8)
def skPer (s : State) (x : Nat) : Nat := 65536 / s.skBlock x
def skRecb (s : State) (x : Nat) : Nat := if s.skSb x = 128 then 512 else 256
def skFmt (s : State) (x : Nat) : Fmt := fmtOf (bitsOf (s.skWord x 0) 15 12)
def skDim (s : State) (x : Nat) : Nat := bitsOf (s.skWord x 1) 11 0 + 1
def skVstride (s : State) (x : Nat) : Nat := roundUp (s.skDim x * (s.skFmt x).bits / 8) 64
def skNeigh (s : State) (x : Nat) : Nat := bitsOf (s.skWord x 0) 24 20
def skLists (s : State) (x : Nat) : Nat := bitsOf (s.skWord x 2) 19 0 + 1
def skSideCap (s : State) (x : Nat) : Nat := bitsOf (s.skWord x 4) 24 0
def skShard (s : State) (x : Nat) : Nat := bitsOf (s.skWord x 6) 15 0
def skSharded (s : State) (x : Nat) : Bool := bitOf (s.skWord x 6) 31

/-- Where entry e of a run of blocks from `base` has its sketch and its id (R319). -/
def skSketchAt (s : State) (x base e : Nat) : Nat :=
  base + e / 64 / s.skPer x * 65536 + e / 64 % s.skPer x * s.skBlock x + e % 64 * s.skSb x
def skIdAt (s : State) (x base e : Nat) : Nat :=
  base + e / 64 / s.skPer x * 65536 + e / 64 % s.skPer x * s.skBlock x + 64 * s.skSb x + e % 64 * 8

/-- Entry e: its sketch and its id field. -/
def skEntry (s : State) (x base e : Nat) : Nat × Nat :=
  (ofLe (s.devRead (s.skSketchAt x base e) (s.skSb x)), ofLe (s.devRead (s.skIdAt x base e) 8))

def skNone : Nat := 2 ^ 64 - 1

/-- Entry slots of the committed side list, in order (R320). -/
def skSide (s : State) (x : Nat) (ix : SkIdx) : List Nat :=
  (List.range ((ix.tail + 2 ^ 32 - ix.head) % 2 ^ 32)).map fun i => (ix.head + i) % 2 ^ 32 % s.skSideCap x

def skRec (s : State) (x : Nat) (ix : SkIdx) (i : Nat) : Nat := ix.recs + i * s.skRecb x
def skRecField (s : State) (x : Nat) (ix : SkIdx) (i off n : Nat) : Nat := ofLe (s.devRead (s.skRec x ix i + off) n)
def skValid (s : State) (x : Nat) (ix : SkIdx) (i : Nat) : Bool := decide (i < s.skCap x) && bitOf (s.skRecField x ix i 0 1) 0

/-- Address of the byte that holds bit i of copy n of the tombstones, and of allow slot f. -/
def skTombAt (s : State) (x : Nat) (ix : SkIdx) (n i : Nat) : Nat := ix.tomb + n * s.skStride x + i / 8
def skAllowAt (s : State) (x : Nat) (ix : SkIdx) (f n i : Nat) : Nat := ix.allow + (8 * f + n) * s.skStride x + i / 8
def skBit (s : State) (a i : Nat) : Bool := bitOf (ofLe (s.devRead a 1)) (i % 8)
/-- Item i is tombstoned, as copy 0 shows it: all copies are written together (R322). -/
def skDead (s : State) (x : Nat) (ix : SkIdx) (i : Nat) : Bool := s.skBit (s.skTombAt x ix 0 i) i
/-- A write of the search scheduler: it heats what it writes (R267). -/
def skPut (s : State) (a : Nat) (bs : List Byte) : State := (s.devWrite a bs).heat a bs.length

/-- A tombstone bit set or cleared in all eight copies. -/
def skMark (s : State) (x : Nat) (ix : SkIdx) (i : Nat) (v : Bool) : State :=
  (List.range 8).foldl (fun s n =>
    let a := s.skTombAt x ix n i
    s.skPut a (leBytes 1 (setBits (ofLe (s.devRead a 1)) (i % 8) (i % 8) (b2n v)))) s

/-- List l: address of its block run and its items (R318). -/
def skDir (s : State) (_x : Nat) (ix : SkIdx) (l : Nat) : Nat × Nat :=
  let d := s.devRead (ix.dir + 16 * l) 16
  (leField d 0 8 % 2 ^ 52, leField d 8 4)
/-- Granules of a run that holds n items. -/
def skRunGrans (s : State) (x n : Nat) : Nat := ceilDiv (ceilDiv n 64) (s.skPer x)

/-- The record of local id i becomes valid, or no longer is. -/
def setValid (s : State) (x i : Nat) (on : Bool) : State :=
  s.skUpd fun k =>
    let l := (Map.getD [] k.valid x).filter (· != i)
    { k with valid := Map.store [] k.valid x (if on then l ++ [i] else l) }

/-- Bytes [a, a + n) of device memory have been written by a FILL, a LOAD or the device window: the records among them say which ids are valid. -/
def skSeen (s : State) (a n : Nat) : State :=
  s.sk.idx.foldl (fun s e =>
    let size := s.skRecb e.1
    let base := e.2.recs
    let first := (a - base) / size
    let last := ceilDiv (min (a + n) (base + s.skCap e.1 * size) - base) size
    (List.range (last - first)).foldl (fun s i => s.setValid e.1 (first + i) (bitOf (s.skRecField e.1 e.2 (first + i) 0 1) 0)) s) s

/-- LIVE (R347). -/
def skLive (s : State) (x : Nat) (ix : SkIdx) : Nat := ((Map.getD [] s.sk.valid x).filter fun i => !s.skDead x ix i).length

/-! ### Distances, heaps and errors (R332, R335, R346) -/

def hamming (n a b : Nat) : Nat := let y := a ^^^ b; ((List.range n).filter fun i => bitOf y i).length

/-- A key offered to a heap that keeps the smallest `lim` distinct keys. -/
def skKeep (lim : Nat) (h : List Nat) (k : Nat) : List Nat :=
  if h.contains k then h else ((h.filter (fun j => Nat.blt j k)) ++ k :: h.filter fun j => Nat.blt k j).take lim

def skErr (s : State) (x bit cause : Nat) : State := (s.orReg R.SK_ERR bit).report 4 0x0A cause x 0

def skBatch (s : State) (num : Nat) : Option SkBatch := s.sk.batches.find? fun b => b.num == num
def setBatch (s : State) (b : SkBatch) : State := s.skUpd fun k => { k with batches := k.batches.map fun c => if c.num = b.num then b else c }

/-- The request that query j of a batch belongs to. -/
def skOwner (s : State) (b : SkBatch) (j : Nat) : Option Req :=
  match b.parts.find? fun p => Nat.ble p.2.2.1 j && Nat.blt j (p.2.2.1 + p.2.2.2) with
  | some p => s.hi.reqs.find? fun r => r.q == p.1 && r.index == p.2.1
  | none => none

/-- Queries whose data failed at granule g: STATUS 1, and their requests take DATA_ERROR (R346). -/
def skFailQueries (s : State) (b : SkBatch) (qs : List Nat) (g : Nat) : State :=
  let b' := { b with queries := b.queries.zipIdx.map fun q => if qs.contains q.2 then { q.1 with failed := true } else q.1 }
  let s := (s.setBatch b').skErr b.index 8 0x04
  qs.foldl (fun s j => match s.skOwner b j with | some r => s.failReq r 0x12 0 (g % 2 ^ 36) | none => s) s

/-- pass(q, i) in the copies of stack n (R332): 0 passed, 1 tombstone, 2 filtered; an uncorrectable bitmap granule is answered by its number + 3. -/
def skPass (s : State) (x : Nat) (ix : SkIdx) (n slot i : Nat) : Nat :=
  let t := s.skTombAt x ix n i
  let f := s.skAllowAt x ix slot n i
  if (s.entry (granOf t)).poison then granOf t + 3
  else if s.skBit t i then 1
  else if slot = 0xFF then 0
  else if (s.entry (granOf f)).poison then granOf f + 3
  else if s.skBit f i then 0 else 2

/-- Query j of a batch is offered an item with its sketch at unit n. -/
def skOffer (s : State) (num n j sketch i : Nat) : State :=
  match s.skBatch num with
  | none => s
  | some b =>
    match s.skIdx b.index, b.queries[j]? with
    | some ix, some q =>
      let set (q' : SkQuery) : SkBatch := { b with queries := b.queries.set j q' }
      match s.skPass b.index ix n q.slot i with
      | 0 =>
        let key := hamming (8 * s.skSb b.index) q.sketch sketch * 2 ^ 48 + i
        let at_ := 4096 * n + j
        s.setBatch { b with heaps := b.heaps.put at_ (skKeep b.cand (Map.getD [] b.heaps at_) key) }
      | 1 => (s.setBatch (set { q with tomb := q.tomb + 1 })).count R.SK_TOMB_DROP_LO 1
      | 2 => (s.setBatch (set { q with filt := q.filt + 1 })).count R.SK_FILTER_DROP_LO 1
      | g => (s.quUe n 0).skFailQueries b [j] (g - 3)
    | _, _ => s

/-! ### The work of a phase (R334–R336) -/

/-- Items grouped by granule: the granule and its items, in ascending granule order. -/
def skGroup (l : List (Nat × Nat)) : List (Nat × List Nat) :=
  ((l.map (fun (p : Nat × Nat) => p.1)).eraseDups.mergeSort Nat.ble).map fun g =>
    (g, (l.filter fun p => p.1 == g).map fun p => p.2)

/-- Descriptors of a phase: PHASE, address, bytes, visit entry. Phases of a batch: 0 centroid, 1 merge, 2 lists and side list, 3 merge, 4 gather, 5 score, 6 merge. -/
def skWork (s : State) (b : SkBatch) (ix : SkIdx) : List (Nat × Nat × Nat × List Nat) :=
  let x := b.index
  let nq := b.queries.length
  match b.phase with
  | 0 => (extent ix.cent (s.skLists x * s.skSb x)).map fun (g, off, len) => (0, g * 65536 + off, roundUp len 64, [])
  | 2 =>
    let lists := ((b.queries.map (fun q => q.lists)).flatten.eraseDups).mergeSort Nat.ble
    let a := (lists.map fun l =>
      let (addr, n) := s.skDir x ix l
      let named := (List.range nq).filter fun j => match b.queries[j]? with | some q => q.lists.contains l | none => false
      (List.range (s.skRunGrans x n)).map fun i =>
        (1, addr + i * 65536, min (s.skPer x) (ceilDiv n 64 - i * s.skPer x) * s.skBlock x, named)).flatten
    let gs := ((s.skSide x ix).map fun e => e / 64 / s.skPer x).eraseDups
    a ++ gs.map fun g => (2, ix.side + g * 65536, s.skPer x * s.skBlock x, [])
  | 4 =>
    let ps := ((List.range nq).map fun j => match b.queries[j]? with
      | some q => (q.cand.take b.expand).map fun k => (granOf (s.skRec x ix (k % 2 ^ 48)), j * 2 ^ 48 + k % 2 ^ 48)
      | none => []).flatten
    (skGroup ps).map fun (g, items) => (3, g * 65536, 65536, items)
  | 5 =>
    let ps := (b.neigh.filter fun p => Nat.blt p.2 (s.skCap x)).map fun p => (granOf (s.skRec x ix p.2), p.1 * 2 ^ 48 + p.2)
    (skGroup ps).map fun (g, items) => (4, g * 65536, 65536, items)
  | 7 => []
  | _ =>
    ((List.range 8).map fun u => (5, 0, 64, (List.range nq).filter fun j => j % 8 == u)).filter fun w => w.2.2.2 != []

/-- Granules that the work of a phase reads, the directory among them. -/
def skNeeds (s : State) (b : SkBatch) (ix : SkIdx) (work : List (Nat × Nat × Nat × List Nat)) : List Nat :=
  let dirs := if b.phase = 2 then ((b.queries.map (fun q => q.lists)).flatten.eraseDups).map fun l => ix.dir + 16 * l else []
  s.mustWait (dirs ++ (work.filter fun w => w.1 != 5).map fun w => w.2.1)

def skDesc (b : SkBatch) (w : Nat × Nat × Nat × List Nat) (visit : Nat) (last : Bool) : Nat :=
  w.2.1 + (w.2.2.1 / 64 - 1) * 2 ^ 52 + b2n last * 2 ^ 64 + 0x50 * 2 ^ 72 + w.1 * 2 ^ 176 + b.index * 2 ^ 179
    + visit % 2 ^ 23 * 2 ^ 185 + b.num % 65536 * 2 ^ 208

/-- The descriptors of a phase are emitted, each to the unit of its extent's stack; LAST is 1 on the last of each unit. -/
def skEmit (s : State) (b : SkBatch) (work : List (Nat × Nat × Nat × List Nat)) : State :=
  let unit (w : Nat × Nat × Nat × List Nat) : Nat := if w.1 = 5 then w.2.2.2.headD 0 % 8 else (s.entry (granOf w.2.1)).stack
  let n := work.length
  let s := s.setBatch { b with left := n, wait := false, visits := (List.range n).map fun i => (i, (work.getD i (0, 0, 0, [])).2.2.2) }
  work.zipIdx.foldl (fun s w =>
    let last := !((work.drop (w.2 + 1)).any fun v => unit v == unit w.1)
    s.quPush (unit w.1) ⟨BitVec.ofNat 256 (skDesc b w.1 w.2 last), .search, none, s.epoch, 0, false⟩) s

/-! ### Ranking, shards and results (R332, R337–R340) -/

def skVals (f : Fmt) (n : Nat) (bs : List Byte) : List KBlock :=
  (List.range (ceilDiv n 32)).map fun i => ⟨some 0, ((f.values n bs).drop (32 * i)).take 32⟩

/-- The exact score of candidate i (R337). -/
def skScore (s : State) (x : Nat) (ix : SkIdx) (q : SkQuery) (i : Nat) : Nat :=
  let f := s.skFmt x
  let n := s.skDim x
  let dot := (dotTile f f (skVals f n q.vec) (skVals f n (s.devRead (ix.vec + i * s.skVstride x) (s.skVstride x)))).1
  if bitOf (s.skWord x 0) 16 then
    (FVal.add (FVal.mul (.fin false 2 0) dot).1 (fp32L.decode (s.skRecField x ix i 20 4)).neg).1.code32
  else dot.code32

/-- The result list of a query: score bits and 64-bit id. -/
def skList (s : State) (b : SkBatch) (ix : SkIdx) (q : SkQuery) : List (Nat × Nat) :=
  let id (k : Nat) : Nat := s.skShard b.index * 2 ^ 48 + k % 2 ^ 48
  if q.failed then []
  else if b.rerank = 0 then (q.cand.take b.k).map fun k => ((FVal.fin true (k / 2 ^ 48) 0).code32, id k)
  else
    let l : List (Nat × Nat) := (q.cand.take b.rerank).map fun k => (s.skScore b.index ix q (k % 2 ^ 48), id k)
    (l.mergeSort topkBefore).take b.k

/-- The result of query q, written to the host (R340). -/
def skWrite (s : State) (b : SkBatch) (j : Nat) (q : SkQuery) (l : List (Nat × Nat)) : State :=
  match s.skOwner b j with
  | none => s
  | some r =>
    let hdr := leBytes 2 l.length ++ leBytes 1 (b2n q.failed) ++ leBytes 5 0 ++ leBytes 6 b.gen ++ leBytes 2 0
      ++ leBytes 4 q.tomb ++ leBytes 4 q.filt ++ leBytes 40 0
    s.hostTx (r.field 24 8 + q.num * (64 + 16 * b.k)) (hdr ++ topkBytes l)

/-- A batch ends: results are written, and a request none of whose queries is left has run. -/
def skFinish (s : State) (b : SkBatch) (lists : List (List (Nat × Nat))) : State :=
  let s := (b.queries.zip lists).zipIdx.foldl (fun s e => s.skWrite b e.2 e.1.1 e.1.2) s
  let s := (s.count R.SK_BATCH_LO 1).count R.SK_QUERY_LO b.queries.length
  let s := s.skUpd fun k => { k with batches := k.batches.filter fun c => c.num != b.num }
  b.parts.foldl (fun s p =>
    if s.sk.batches.any fun c => c.parts.any fun d => d.1 == p.1 && d.2.1 == p.2.1 then s
    else match s.hi.reqs.find? fun r => r.q == p.1 && r.index == p.2.1 with
      | some r => s.updReq r fun r => { r with done := some (0, 0) }
      | none => s) s

/-- The granules of the exact vectors that rank the candidates of a query, by address. -/
def skVecs (s : State) (b : SkBatch) (ix : SkIdx) (q : SkQuery) : List Nat :=
  let n := s.skVstride b.index
  if b.rerank = 0 ∨ q.failed then []
  else (q.cand.take b.rerank).flatMap fun k => (extent (ix.vec + k % 2 ^ 48 * n) n).map fun (g, _, _) => g * 65536

/-- Granules that a batch waits for, where they are to be promoted, moved or zeroed first. -/
def skWaitsFor (s : State) (b : SkBatch) : List Nat :=
  match s.skIdx b.index with
  | none => []
  | some ix => if b.phase = 7 then s.mustWait (b.queries.flatMap (s.skVecs b ix)) else s.skNeeds b ix (s.skWork b ix)

/-- Ranking (R337), once every exact vector is in a stack; then the results, or the merge across the ring (R338). -/
def skRank (s : State) (b : SkBatch) (ix : SkIdx) : State :=
  let x := b.index
  let vecs := s.skVecs b ix
  match s.mustWait (b.queries.map vecs).flatten with
  | g :: t => (((g :: t).eraseDups.foldl demand s).setBatch { b with wait := true })
  | [] =>
    let s := b.queries.zipIdx.foldl (fun s q =>
      match (vecs q.1).find? fun a => (s.entry (granOf a)).poison, s.skBatch b.num with
      | some a, some c => (s.quUe (s.entry (granOf a)).stack 0).skFailQueries c [q.2] (granOf a)
      | _, _ => s) s
    let b := (s.skBatch b.num).getD b
    let lists := b.queries.map fun q => s.skList b ix q
    let opid := s.skWord x 7 % 65536
    if !s.skSharded x then s.skFinish b lists
    else if s.slExecs opid ≠ [] then s.setBatch { b with wait := true }
    else
      let r := s.slRec opid
      let e := slKey opid (s.slCount opid)
      let s := (List.range 4096).foldl (fun s j =>
        let l := match lists.getD j [] with | [] => [(0xFF800000, skNone)] | l => l
        (s.writeMem (slSrc r + j * 65536) (topkBytes l)).slUpd fun y => { y with staged := y.staged.put (4096 * e + j) l.length }) s
      let s := s.setBatch { b with phase := 8, wait := false, exec := s.slCount opid }
      (s.slWant e fun y => { y with die := some (x % 4) }).slRunAll

/-- Batches whose shards have merged end (R338). -/
def skCollect (s : State) : State :=
  (s.sk.batches.filter fun b => b.phase == 9).foldl (fun s b =>
    s.skFinish b (b.merged.map fun l => (l.filter fun e => e.2 != skNone).take b.k)) s

/-- A batch goes on: its phase's descriptors are emitted, or it waits for promotions; a phase without work is over. -/
def skGo (num : Nat) : Nat → State → State
  | 0, s => s
  | n + 1, s =>
    match s.skBatch num with
    | none => s
    | some b =>
      match s.skIdx b.index with
      | none => s
      | some ix =>
        if b.phase = 7 then s.skRank b ix
        else
          let work := s.skWork b ix
          match (s.skNeeds b ix work).eraseDups with
          | g :: t => ((g :: t).foldl demand s).setBatch { b with wait := true }
          | [] =>
            if work = [] then skGo num n (s.setBatch { b with phase := if b.phase = 3 ∧ b.expand = 0 then 7 else b.phase + 1, wait := false })
            else s.skEmit b work

/-- A descriptor's result is in (R334); after the last one of a phase the next phase begins. -/
def skDeliver (s : State) (tag : Nat) (neigh : List (Nat × Nat)) : State :=
  match s.sk.batches.find? fun b => b.num % 65536 == tag with
  | none => s
  | some b =>
    let b' := { b with left := b.left - 1, neigh := b.neigh ++ neigh }
    let s := s.setBatch b'
    if b'.left ≠ 0 ∨ !b.begun then s
    else skGo b.num 9 (s.setBatch { b' with phase := if b.phase = 3 ∧ b.expand = 0 then 7 else b.phase + 1 })

/-- Batches that wait for promotions, or for an execution, try again. -/
def skRetry (s : State) : State := (s.sk.batches.filter fun b => b.wait && b.begun).foldl (fun s b => skGo b.num 9 s) s

/-! ### The units' actions (R334, R335) -/

/-- A unit's heaps of a batch stand in its score-rows partition (R230, R335), 8 bytes a key.

DESIGN CHOICE: the manual gives the heaps no order in it; the keys of query j stand in key order from 8 · j · CAND on, NPROBE in place of CAND for CENTROID. Its output areas in a terrace have no place that a rule names, so they stand in the batch alone. -/
def skHeapRows (s : State) (num n phase : Nat) : State :=
  match s.sk.batches.find? fun b => b.num == num with
  | none => s
  | some b =>
    (List.range b.queries.length).foldl (fun s j =>
      s.writeMem (sramAt n 0xF00000 + 8 * j * (if phase = 0 then b.nprobe else b.cand)) ((Map.getD [] b.heaps (4096 * n + j)).flatMap (leBytes 8))) s

/-- A SEARCH descriptor of a phase at the queue head runs: `f` offers its items and answers the neighbour ids found and the compares made. -/
def skUnit (s : State) (n phase : Nat) (ecc : Ecc) (f : State → SkBatch → SkIdx → QuDesc → State × List (Nat × Nat) × Nat) : State :=
  s.quRun n (0x500 + phase) ecc fun s l ue err =>
    match l with
    | [] => (s, .search 0 [], 0, 0, 0, 0)
    | d :: _ =>
      match s.sk.batches.find? fun b => b.num % 65536 == d.batch with
      | none => (s, .search d.batch [], 0, 0, 0, 0)
      | some b =>
        match s.skIdx b.index, err with
        | some _, true =>
          let items := Map.getD [] b.visits d.visit
          let qs := if phase = 0 ∨ phase = 2 then List.range b.queries.length
            else if phase = 1 ∨ phase = 5 then items else (items.map fun i => i / 2 ^ 48).eraseDups
          (s.skFailQueries b qs (ue.headD (granOf d.addr)), .search d.batch [], 0, 0, 0, d.len / 64)
        | some ix, false =>
          let (s, r, cmps) := f s b ix d
          (s.skHeapRows b.num n phase, .search d.batch r, 0, 0, cmps, if phase = 5 then 0 else d.len / 64)
        | none, _ => (s, .search d.batch [], 0, 0, 0, 0)

/-- Entries e (sketch, id field) of a block extent offered to queries. -/
def skScan (s : State) (num n : Nat) (qs : List Nat) (es : List (Nat × Nat)) : State :=
  es.foldl (fun s e => if e.2 = skNone then s else qs.foldl (fun s j => s.skOffer num n j e.1 (e.2 % 2 ^ 48)) s) s

/-- Entries of the blocks in a granule's extent. -/
def skBlocks (s : State) (x : Nat) (d : QuDesc) : List (Nat × Nat) :=
  (List.range (d.len / s.skBlock x * 64)).map fun e => s.skEntry x d.addr e

end State

/-- SEARCH CENTROID (R332, R334). -/
def execSearchCentroid (qu : Nat) (ecc : Ecc) (s : State) : Outcome :=
  onUnit (decide (qu < 8)) (s.skUnit qu 0 ecc fun s b ix d =>
    let x := b.index
    let sb := s.skSb x
    let first := (d.addr - ix.cent) / sb
    let ls := (List.range (ceilDiv d.len sb)).map fun i => (first + i, ofLe (s.devRead (d.addr + i * sb) sb))
    let ls := ls.filter fun l => Nat.blt l.1 (s.skLists x)
    let heaps := b.queries.zipIdx.foldl (fun (hs : Map (List Nat)) q =>
      let at_ := 4096 * qu + q.2
      hs.put at_ (ls.foldl (fun h l => State.skKeep b.nprobe h (State.hamming (8 * sb) q.1.sketch l.2 * 2 ^ 48 + l.1)) (Map.getD [] hs at_))) b.heaps
    (s.setBatch { b with heaps := heaps }, [], ls.length * b.queries.length))

/-- SEARCH LIST (R332, R334). -/
def execSearchList (qu : Nat) (ecc : Ecc) (s : State) : Outcome :=
  onUnit (decide (qu < 8)) (s.skUnit qu 1 ecc fun s b _ d =>
    let qs := Map.getD [] b.visits d.visit
    let es := s.skBlocks b.index d
    (s.skScan b.num qu qs es, [], es.length * qs.length))

/-- SEARCH SIDE (R332, R334): the committed entries of the extent. -/
def execSearchSide (qu : Nat) (ecc : Ecc) (s : State) : Outcome :=
  onUnit (decide (qu < 8)) (s.skUnit qu 2 ecc fun s b ix d =>
    let x := b.index
    let g := (d.addr - ix.side) / 65536
    let es := ((s.skSide x ix).filter fun e => e / 64 / s.skPer x == g).map fun e => s.skEntry x ix.side e
    let qs := List.range b.queries.length
    (s.skScan b.num qu qs es, [], es.length * qs.length))

/-- SEARCH GATHER (R336): the neighbour ids of the items named. -/
def execSearchGather (qu : Nat) (ecc : Ecc) (s : State) : Outcome :=
  onUnit (decide (qu < 8)) (s.skUnit qu 3 ecc fun s b ix d =>
    let x := b.index
    let items := Map.getD [] b.visits d.visit
    let ids := (items.map fun i =>
      (List.range (s.skNeigh x)).filterMap fun k =>
        let id := s.skRecField x ix (i % 2 ^ 48) (32 + s.skSb x + 8 * k) 8
        if id = State.skNone then none else some (i / 2 ^ 48, id % 2 ^ 48)).flatten
    let missing := (ids.filter fun p => Nat.ble (s.skCap x) p.2).length
    (s.count R.SK_NEIGH_MISSING_LO missing, ids, 0))

/-- SEARCH SCORE (R332, R336): valid records that pass are offered with their own sketch. -/
def execSearchScore (qu : Nat) (ecc : Ecc) (s : State) : Outcome :=
  onUnit (decide (qu < 8)) (s.skUnit qu 4 ecc fun s b ix d =>
    let x := b.index
    let items := Map.getD [] b.visits d.visit
    let s := items.foldl (fun s i =>
      let id := i % 2 ^ 48
      if s.skValid x ix id then s.skOffer b.num qu (i / 2 ^ 48) (s.skRecField x ix id 32 (s.skSb x)) id
      else s.count R.SK_NEIGH_MISSING_LO 1) s
    (s, [], items.length))

/-- SEARCH MERGE (R335): the eight heap outputs of each query named become one list of distinct keys. -/
def execSearchMerge (qu : Nat) (ecc : Ecc) (s : State) : Outcome :=
  onUnit (decide (qu < 8)) (s.skUnit qu 5 ecc fun s b _ d =>
    let qs := Map.getD [] b.visits d.visit
    let keys (j : Nat) : List Nat := ((List.range 8).map fun u => Map.getD [] b.heaps (4096 * u + j)).flatten
    let b' := { b with
      queries := b.queries.zipIdx.map fun q =>
        if !qs.contains q.2 then q.1
        else if b.phase = 1 then { q.1 with lists := ((keys q.2).foldl (State.skKeep b.nprobe) []).map fun k => k % 2 ^ 48 }
        else { q.1 with cand := (keys q.2).foldl (State.skKeep b.cand) q.1.cand }
      heaps := b.heaps.filter fun h => !qs.contains (h.1 % 4096) }
    (s.setBatch b', [], 0))

namespace State

/-! ### The cut (R324, R331) -/

/-- The queries `first` … of a search request. -/
def skQueries (s : State) (x : Nat) (r : Req) (first n : Nat) : List SkQuery :=
  let sb := s.skSb x
  let pad := roundUp sb 64
  let size := 64 + pad + (if r.field 40 2 = 0 then 0 else s.skVstride x)
  (List.range n).map fun i =>
    let d := (r.data.drop ((first + i) * size)).take size
    ⟨first + i, leField d 64 sb, leField d 0 1, d.drop (64 + pad), [], [], 0, 0, false⟩

/-- A search request admitted at the cut joins the last batch of its index formed at this cut, whose batches begin with number `first`, or forms batches of its own (R331). -/
def skAdmit (first : Nat) (s : State) (r : Req) : State :=
  let x := r.ctx
  match s.skIdx x with
  | none => s
  | some ix =>
    let nq := r.field 32 2
    let k := r.field 34 2
    let np := r.field 36 2
    let ca := r.field 38 2
    let rr := r.field 40 2
    let ex := r.field 42 1
    let lim := min 4096 (524288 / max 1 ca)
    let room := (s.sk.batches.reverse.find? fun b => b.index == x && Nat.ble first b.num).filter fun b =>
      !s.skSharded x && b.gen == ix.gen && b.k == k && b.nprobe == np && b.cand == ca && b.rerank == rr && b.expand == ex
        && Nat.ble (b.queries.length + nq) lim
    match room with
    | some b =>
      s.setBatch { b with parts := b.parts ++ [(r.q, r.index, b.queries.length, nq)], queries := b.queries ++ s.skQueries x r 0 nq }
    | none =>
      (List.range (ceilDiv nq lim)).foldl (fun s i =>
        let n := min lim (nq - i * lim)
        s.skUpd fun st => { st with
          next := st.next + 1
          batches := st.batches ++ [⟨st.next, x, ix.gen, k, np, ca, rr, ex, [(r.q, r.index, 0, n)], s.skQueries x r (i * lim) n, 0, 0, [], [], [], false, false, 0, []⟩] }) s

/-- The admission cut for indexes (R324): searches take GEN, then updates take the generations after it in fetch order. -/
def skCut (s : State) (reqs : List Req) : State :=
  let s := (reqs.filter fun r => r.opcode == 0x10).foldl (skAdmit s.sk.next) s
  (reqs.filter fun r => r.opcode == 0x11 || r.opcode == 0x12 || r.opcode == 0x13).foldl (fun s r =>
    match s.skIdx r.ctx with
    | some ix =>
      let g := (ix.gen + 1) % 2 ^ 48
      (s.setIdx r.ctx { ix with gen := g }).skUpd fun k => { k with updates := k.updates ++ [⟨r.q, r.index, r.ctx, g, false, false⟩] }
    | none => s) s

/-! ### Updates at the end of a step (R325–R329) -/

/-- Granules of extents that must come to a stack, or finish a move or a ZERO, before they are written (R144, R266). -/
def skAway (s : State) (addrs : List (Nat × Nat)) : List Nat :=
  ((addrs.map fun (a : Nat × Nat) => (extent a.1 a.2).map fun (g, _, _) => g).flatten.eraseDups).filter fun g => ((s.entry g).spill && !(s.entry g).poison) || s.moving g || s.awaitsZero g
def skPoisoned (s : State) (addrs : List (Nat × Nat)) : Option Nat :=
  ((addrs.map fun (a : Nat × Nat) => (extent a.1 a.2).map fun (g, _, _) => g).flatten).find? fun g => (s.entry g).poison

/-- The status byte of an item whose extent has an uncorrectable error: R346 gives it the data error, and no byte value. -/
def skBadByte (s : State) : Nat × State := let (v, s) := s.draw; (v % 256, s)

/-- One item of an INSERT: its status byte (R326). -/
def skInsert (s : State) (x : Nat) (r : Req) (g : Nat) (item : List Byte) : Nat × State :=
  match s.skIdx x with
  | none => (0x02, s)
  | some ix =>
    let id := leField item 0 8
    let i := id % 2 ^ 48
    let sb := s.skSb x
    let pad := roundUp sb 64
    let at_ := ix.vec + i * s.skVstride x
    let slot := ix.tail % s.skSideCap x
    if id / 2 ^ 48 ≠ s.skShard x then (0x03, s)
    else if s.skCap x ≤ i then (0x02, s)
    else match s.skPoisoned [(s.skRec x ix i, s.skRecb x), (at_, s.skVstride x)] with
      | some gr => let (v, s) := s.skBadByte; (v, (s.skErr x 8 0x04).failReq r 0x12 0 gr)
      | none =>
        if s.skValid x ix i then (0x01, s)
        else if s.skSideCap x ≤ (ix.tail + 2 ^ 32 - ix.head) % 2 ^ 32 then (0x04, (s.orReg R.SK_ERR 1).report 0 0x0A 0x01 x 0)
        else match s.skPoisoned [(s.skSketchAt x ix.side slot, sb), (s.skIdAt x ix.side slot, 8)] with
          | some gr => let (v, s) := s.skBadByte; (v, (s.skErr x 8 0x04).failReq r 0x12 0 gr)
          | none =>
            let f := s.skFmt x
            let vec := ((item.drop (192 + pad)).take (s.skVstride x))
            let vals := f.values (s.skDim x) vec
            let norm := (roundFp32 (exactDot vals vals)).1.code32
            let cnt := min (leField item 8 1) (s.skNeigh x)
            let nb := (List.range 16).map fun k =>
              let n := leField item (64 + 8 * k) 8
              leBytes 8 (if k < cnt ∧ n ≠ skNone then n % 2 ^ 48 else skNone)
            let sketch := (item.drop 192).take sb
            let rec_ := leBytes 4 3 ++ leBytes 4 0xFFFFFFFF ++ leBytes 6 g ++ leBytes 6 0 ++ leBytes 4 norm ++ leBytes 8 0 ++ sketch ++ nb.flatten
            let s := ((s.skPut at_ vec).skPut (s.skRec x ix i) rec_).setValid x i true
            let s := (s.skPut (s.skSketchAt x ix.side slot) sketch).skPut (s.skIdAt x ix.side slot) (leBytes 8 i)
            (0x00, (s.setIdx x { ix with tail := (ix.tail + 1) % 2 ^ 32 }).count R.SK_INSERT_LO 1)

/-- One id of a REMOVE (R327). -/
def skDelete (s : State) (x : Nat) (r : Req) (g id : Nat) : Nat × State :=
  match s.skIdx x with
  | none => (0x05, s)
  | some ix =>
    let i := id % 2 ^ 48
    if id / 2 ^ 48 ≠ s.skShard x ∨ s.skCap x ≤ i then (0x05, s)
    else match s.skPoisoned ((s.skRec x ix i, s.skRecb x) :: (List.range 8).map fun n => (s.skTombAt x ix n i, 1)) with
      | some gr => let (v, s) := s.skBadByte; (v, (s.skErr x 8 0x04).failReq r 0x12 0 gr)
      | none =>
        if !s.skValid x ix i || s.skDead x ix i then (0x05, s)
        else (0x00, ((s.skPut (s.skRec x ix i + 14) (leBytes 6 g)).skMark x ix i true).count R.SK_DELETE_LO 1)

/-- The items or ids of an update, in order. -/
def skItems (s : State) (x : Nat) (r : Req) : List (List Byte) :=
  let size := if r.opcode = 0x11 then 192 + roundUp (s.skSb x) 64 + s.skVstride x else 8
  (List.range (r.field 32 2)).map fun k => (r.data.drop (k * size)).take size

/-- The extents that an update reads and writes. -/
def skTouches (s : State) (x : Nat) (ix : SkIdx) (r : Req) : List (Nat × Nat) :=
  if r.opcode = 0x13 then (List.range 8).map fun n => (s.skAllowAt x ix (r.field 24 1) n 0, s.skCap x / 8)
  else
    let l := ((s.skItems x r).map fun it => leField it 0 8).filter fun id => Nat.blt (id % 2 ^ 48) (s.skCap x)
    (l.map fun id =>
      let i := id % 2 ^ 48
      (s.skRec x ix i, s.skRecb x) :: (if r.opcode = 0x11 then [(ix.vec + i * s.skVstride x, s.skVstride x)]
        else (List.range 8).map fun n => (s.skTombAt x ix n i, 1))).flatten
      ++ (if r.opcode = 0x11 then (List.range l.length).flatMap fun k =>
          let slot := (ix.tail + k) % 2 ^ 32 % s.skSideCap x
          [(s.skSketchAt x ix.side slot, s.skSb x), (s.skIdAt x ix.side slot, 8)] else [])

/-- An update's writes, with its status bytes and completion value. -/
def skApply (s : State) (u : SkUpdate) (r : Req) (ix : SkIdx) : State :=
  let x := u.index
  let done (s : State) (bad : Nat) : State := s.updReq r fun r => { r with done := some (0, bad) }
  if r.opcode = 0x13 then
    match s.skPoisoned (s.skTouches x ix r) with
    | some gr => done ((s.skErr x 8 0x04).failReq r 0x12 0 gr) 0
    | none => done ((List.range 8).foldl (fun s n => s.skPut (s.skAllowAt x ix (r.field 24 1) n 0) (r.data.take (s.skCap x / 8))) s) 0
  else
    let (bytes, s) := (s.skItems x r).foldl (fun (acc : List Nat × State) it =>
      let (v, s) := if r.opcode = 0x11 then acc.2.skInsert x r u.gen it else acc.2.skDelete x r u.gen (leField it 0 8)
      (acc.1 ++ [v], s)) ([], s)
    let bad := (bytes.filter fun b => b != 0).length
    let s := s.count R.SK_REFUSED_LO bad
    done (s.hostTx (r.field 24 8) (bytes.map (BitVec.ofNat 8))) bad

/-- The writes of the updates whose step has ended, in generation order for each index; one whose extents are on their way to a stack holds back the later ones of its index, and a search of an earlier generation that has not finished holds it back (R325). -/
def skUpdates (s : State) : State :=
  s.sk.updates.foldl (fun s u =>
    if !u.due || s.sk.batches.any (fun b => b.index == u.index && Nat.blt b.gen u.gen) || (match s.sk.updates.find? fun v => v.index == u.index with | some v => v != u | none => true) then s
    else match s.skIdx u.index, s.hi.reqs.find? fun r => r.q == u.q && r.index == u.slot with
      | some ix, some r =>
        match s.skAway (s.skTouches u.index ix r) with
        | g :: t => (g :: t).foldl demand s
        | [] => (s.skApply u r ix).skUpd fun k => { k with updates := k.updates.erase u }
      | _, _ => s.skUpd fun k => { k with updates := k.updates.erase u }) s

/-! ### Merges (R342–R344) -/

/-- Slots of the side-list entries [HEAD, M) of a merge. -/
def skCutSlots (s : State) (x : Nat) (ix : SkIdx) (m : SkMerge) : List Nat :=
  (List.range ((m.cut + 2 ^ 32 - ix.head) % 2 ^ 32)).map fun i => (ix.head + i) % 2 ^ 32 % s.skSideCap x

/-- The list whose centroid is nearest (R342). -/
def skNearest (s : State) (x : Nat) (ix : SkIdx) (sketch : Nat) : Nat :=
  let sb := s.skSb x
  let key (l : Nat) : Nat := hamming (8 * sb) sketch (ofLe (s.devRead (ix.cent + l * sb) sb)) * 2 ^ 48 + l
  ((List.range (s.skLists x)).foldl (fun (b : Option Nat) l => match b with | some k => some (min k (key l)) | none => some (key l)) none).getD 0 % 2 ^ 48

/-- The lowest-addressed run of n free granules of the list area (R323). -/
def skFind (s : State) (x : Nat) (ix : SkIdx) (taken : List (Nat × Nat)) (n : Nat) : Option Nat :=
  let used := ((List.range (s.skLists x)).map fun l => let (a, c) := s.skDir x ix l; (a, s.skRunGrans x c))
    ++ (ix.spoil.map fun r => (r.1, r.2.1)) ++ taken
  let free (a : Nat) : Bool := used.all fun (b, k) => Nat.ble (b + k * 65536) a || Nat.ble (a + 65536) b
  ((List.range (ix.listg + 1 - n)).find? fun i => (List.range n).all fun j => free (ix.list + (i + j) * 65536)).map fun i => ix.list + i * 65536

/-- Side-list entries [HEAD, M) of a merge that T does not hold, and the slots they stand in, in order. -/
def skMoved (s : State) (x : Nat) (ix : SkIdx) (m : SkMerge) : List (Nat × Nat) :=
  ((s.skCutSlots x ix m).map fun e => s.skEntry x ix.side e).filter fun e => !m.dead.contains (e.2 % 2 ^ 48)

/-- Lists that a merge rewrites (R342): those that receive entries, and those that hold an id of T, as its record says. -/
def skRewrites (s : State) (x : Nat) (ix : SkIdx) (m : SkMerge) (placed : List (Nat × Nat × Nat)) : List Nat :=
  let held := m.dead.filterMap fun i =>
    let l := s.skRecField x ix i 4 4
    if bitOf (s.skRecField x ix i 0 1) 1 || Nat.ble (s.skLists x) l then none else some l
  ((placed.map (·.1) ++ held).eraseDups).mergeSort Nat.ble

/-- The lists as the merge writes them: number, old run, entries. -/
def skPlan (s : State) (x : Nat) (ix : SkIdx) (m : SkMerge) (placed : List (Nat × Nat × Nat)) : List (Nat × (Nat × Nat) × List (Nat × Nat)) :=
  (s.skRewrites x ix m placed).filterMap fun l =>
    let (a, c) := s.skDir x ix l
    let old := ((List.range c).map fun e => s.skEntry x a e).filter fun e => e.2 != skNone
    let keep := old.filter fun e => !m.dead.contains (e.2 % 2 ^ 48)
    let new := (placed.filter fun p => p.1 == l).map fun p => p.2
    if keep.length = old.length ∧ new = [] then none else some (l, (a, c), keep ++ new)

/-- Runs for the new lists, in ascending list order; none where the area has no room. -/
def skRuns (s : State) (x : Nat) (ix : SkIdx) : List (Nat × (Nat × Nat) × List (Nat × Nat)) → List (Nat × Nat) → Option (List (Nat × Nat))
  | [], taken => some taken
  | (_, _, es) :: t, taken =>
    let n := s.skRunGrans x es.length
    if n = 0 then skRuns s x ix t (taken ++ [(0, 0)])
    else match s.skFind x ix taken n with
      | some a => skRuns s x ix t (taken ++ [(a, n)])
      | none => none

/-- What a merge may write or read is at hand: an error ends the merge (R346), and what is away, on its way or waits for a ZERO is waited for. -/
def skReady (s : State) (stop : State → State) (x : Nat) (l : List (Nat × Nat)) (go : State → State) : State :=
  if (s.skPoisoned l).isSome then stop (s.skErr x 4 0x03)
  else match s.skAway l with
    | [] => go s
    | gs => gs.foldl demand s

/-- The publish of a merge whose lists have their runs (R342). -/
def skSwitch (s : State) (x : Nat) (ix : SkIdx) (m : SkMerge) (placed : List (Nat × Nat × Nat)) (lists : List (Nat × (Nat × Nat) × List (Nat × Nat)))
    (runs : List (Nat × Nat)) : State :=
  let s := (lists.zip runs).foldl (fun s e =>
    let (l, _, es) := e.1
    let a := e.2.1
    let pad := List.replicate (roundUp es.length 64 - es.length) (0, skNone)
    let s := (es ++ pad).zipIdx.foldl (fun s p =>
      (s.skPut (s.skSketchAt x a p.2) (leBytes (s.skSb x) p.1.1)).skPut (s.skIdAt x a p.2) (leBytes 8 p.1.2)) s
    s.skPut (ix.dir + 16 * l) (leBytes 8 a ++ leBytes 4 es.length ++ leBytes 4 0)) s
  let s := placed.foldl (fun s p =>
    let i := p.2.2 % 2 ^ 48
    let f := s.skRecField x ix i 0 1
    (s.skPut (s.skRec x ix i) (leBytes 1 (f - b2n (bitOf f 1) * 2))).skPut (s.skRec x ix i + 4) (leBytes 4 p.1)) s
  let s := m.dead.foldl (fun s i =>
    ((s.skPut (s.skRec x ix i) (leBytes 1 (s.skRecField x ix i 0 1 / 2 * 2))).skMark x ix i false).setValid x i false) s
  let s := (s.count R.SK_MERGE_LO 1).count R.SK_PURGED_LO m.dead.length
  let old := (lists.filter fun l => Nat.blt 0 (s.skRunGrans x l.2.1.2)).map fun l => (l.2.1.1, s.skRunGrans x l.2.1.2, s.epoch)
  let side := (((s.skCutSlots x ix m).map fun e => e / 64 / s.skPer x).eraseDups).map fun g => (ix.side + g * 65536, 1, s.epoch)
  s.setIdx x { ix with head := m.cut, merge := none, spoil := ix.spoil ++ old ++ side }

/-- The merge of index x ends: published, or ended without (R342–R344).

DESIGN CHOICE: the manual does not say at which cycle of a step the scheduler reads and writes for a merge; the model does all of it at the end of the first step at which all that it needs is in the stacks, without the CENTROID descriptors that a unit would run for it. -/
def skPublish (s : State) (x : Nat) (ix : SkIdx) (m : SkMerge) : State :=
  let stop (s : State) : State := s.setIdx x { ix with merge := none }
  let side := (s.skCutSlots x ix m).flatMap fun e => [(s.skSketchAt x ix.side e, s.skSb x), (s.skIdAt x ix.side e, 8)]
  s.skReady stop x ((ix.cent, s.skLists x * s.skSb x) :: (ix.dir, 16 * s.skLists x) :: side) fun s =>
  let placed := (s.skMoved x ix m).map fun e => (s.skNearest x ix e.1, e)
  let ids := placed.map (fun p => p.2.2 % 2 ^ 48) ++ m.dead
  let tombs := m.dead.flatMap fun i => (List.range 8).map fun n => (s.skTombAt x ix n i, 1)
  s.skReady stop x (ids.map (fun i => (s.skRec x ix i, s.skRecb x)) ++ tombs) fun s =>
  let old := (s.skRewrites x ix m placed).map fun l => let d := s.skDir x ix l; (d.1, s.skRunGrans x d.2 * 65536)
  s.skReady stop x old fun s =>
  let lists := s.skPlan x ix m placed
  match s.skRuns x ix lists [] with
  | none => stop ((s.orReg R.SK_ERR 2).report 0 0x0A 0x02 x 0)
  | some runs =>
    let fresh := s.skAway (runs.map fun r => (r.1, r.2 * 65536))
    match fresh.filter fun g => !(s.entry g).undef with
    | [] => (fresh.foldl (fun s g => s.giveHomes [g] (match s.region g with | some r => r.polder | none => 0)) s).skSwitch x ix m placed lists runs
    | gs => gs.foldl demand s

/-- A search of the running step has not finished: an admitted request has queries left; or an admitted update has not run in it (R325). -/
def skBusy (s : State) : Bool :=
  let runs := fun (q i : Nat) => s.hi.reqs.any fun r => r.q == q && r.index == i && r.phase == .admitted
  (s.sk.batches.any fun b => b.phase != 9 && b.parts.any fun p => runs p.1 p.2.1) || s.sk.updates.any fun u => !u.ran && runs u.q u.slot

/-- The end of a batch step for the indexes (R325, R342, R343): updates, then publishes, then merges start and drained runs return. -/
def skBoundary (s : State) : State :=
  let s := (s.skUpd fun k => { k with updates := k.updates.map fun u => { u with due := u.ran } }).skUpdates
  s.sk.idx.foldl (fun s e =>
    let x := e.1
    let s := match s.skIdx x with
      | some ix => (match ix.merge with
          | some m => if s.sk.updates.any fun u => u.index == x && u.ran then s else s.skPublish x ix m
          | none => s)
      | none => s
    match s.skIdx x with
    | none => s
    | some ix =>
      let back := fun (r : Nat × Nat × Nat) => Nat.ble r.2.2 s.drained && (List.range r.2.1).all fun i => (s.moveOf (granOf r.1 + i)).isNone
      let ix := { ix with spoil := ix.spoil.filter fun r => !back r }
      let due := ix.want || Nat.ble (bitsOf (s.skWord x 5) 24 0) ((ix.tail + 2 ^ 32 - ix.head) % 2 ^ 32)
      if ix.merge.isNone && due then
        s.setIdx x { ix with want := false, merge := some ⟨ix.tail, (List.range (s.skCap x)).filter fun i => s.skDead x ix i⟩ }
      else s.setIdx x ix) s

end State

/-! ### The requests -/

/-- SEARCH (R330, R325): the batches of an admitted request start, once every update of an earlier or equal generation is written; those that wait for the execution of another batch try again. -/
def execSearch (q : Nat) (cid : BitVec 16) (s : State) : Outcome :=
  onUnit (decide (q < 1024))
    (match s.findReq q cid.toNat 0x10 .admitted with
     | none => s
     | some r =>
       let mine := s.sk.batches.filter fun b => !b.begun && b.parts.any (fun p => p.1 == r.q && p.2.1 == r.index)
         && !s.sk.updates.any fun u => u.index == b.index && Nat.ble u.gen b.gen
       (mine.foldl (fun s b => State.skGo b.num 9 (s.setBatch { b with begun := true })) s).skRetry)

/-- An admitted update has run: its writes fall at the end of the step (R325). -/
def State.skRan (s : State) (q cid op : Nat) : State :=
  match s.findReq q cid op .admitted with
  | some r => s.skUpd fun k => { k with updates := k.updates.map fun u => if u.q = r.q ∧ u.slot = r.index then { u with ran := true } else u }
  | none => s

/-- INSERT (R325, R326). -/
def execInsert (q : Nat) (cid : BitVec 16) (s : State) : Outcome := onUnit (decide (q < 1024)) (s.skRan q cid.toNat 0x11)
/-- REMOVE (R325, R327). -/
def execRemove (q : Nat) (cid : BitVec 16) (s : State) : Outcome := onUnit (decide (q < 1024)) (s.skRan q cid.toNat 0x12)
/-- ALLOW_LOAD (R325, R328). -/
def execAllowLoad (q : Nat) (cid : BitVec 16) (s : State) : Outcome := onUnit (decide (q < 1024)) (s.skRan q cid.toNat 0x13)

/-- MERGE (R342): a merge of the index starts at the next boundary. -/
def execMerge (q : Nat) (cid : BitVec 16) (s : State) : Outcome :=
  onUnit (decide (q < 1024))
    (match s.findReq q cid.toNat 0x14 .admitted with
     | some r =>
       match s.skIdx r.ctx with
       | some ix => (s.setIdx r.ctx { ix with want := true }).updReq r fun r => { r with done := some (0, 0) }
       | none => s
     | none => s)

end Sys2Proof.Machine
end

