-- ==== Sys2Proof/Machine/Deliver.lean ====
section
/-! DEFINITION. QUARRY_RESULT_DELIVER (R232, R234, R248, R254) and MOVE_COMMIT (R271), with what resumes after each. -/

namespace Sys2Proof.Machine

namespace State

/-- A delivered failure: every admitted request of the context takes DATA_ERROR with the granule (R254). -/
def resultFailed (s : State) (ctx : Nat) (g : Option Nat) : State :=
  match g with
  | some g => s.failCtx ctx 0x12 0 (g % 2 ^ 36)
  | none => s

/-- Partials may leave the unit (R248): the gate bit is set, and in Plumb mode every earlier partial of their heads has folded. -/
def mayDeliver (s : State) (c : Nat) (t : BenchTarget) (ps : List BenchPart) : Bool :=
  bitOf ((s.core c).flag t.gfw) t.gbit && (!s.plumbMode t.model || ps.all fun p => p.pidx == Map.getD 0 t.folded p.head)

/-- A copied page: the writer's entry is switched; where the source failed, the fresh page's granules are as bad as the source's (R218, R254). -/
def copyDone (s : State) (ctx dst : Nat) (failed : Option Nat) : State :=
  let c := (s.kv.growth.filterMap fun g => if g.ctx = ctx then g.copies.find? fun c => c.fresh == dst else none).head?
  match c with
  | none => s
  | some c =>
    let old := match s.nextRow ctx c.row with | some row => granOf (s.pageOf row c.layer) | none => 0
    let s := (s.cowSwitch ctx c).resultFailed ctx failed
    match failed with
    | some _ => (List.range 4).foldl (fun s i => if (s.entry (old + i)).poison then s.poison (granOf dst + i) else s) s
    | none => s

/-- What waits for a granule's home or for the ZERO of its frame goes on (R218, R236, R266, R325). -/
def afterHome (s : State) : State :=
  let ready := (s.kv.walks.map (·.gran)).eraseDups.filter fun g => s.mustWait [g * 65536] == []
  (((ready.foldl rewalk s).issueCopies).queueUpdates).skUpdates.skRetry

/-- The result at the head of a unit's results goes to its emitter; a partial that may not fold yet is held. A failed ZERO of a frame is queued again; one of an extent is a message to the die control core that sent it, in a form that the model chooses; a granule that a MOVE failed to copy is as bad as an unreadable one (R280, R281). -/
def deliver (s : State) (n : Nat) : State :=
  let q := s.quState n
  match if s.pw.stopped then [] else q.results with
  | [] => s
  | (r, _) :: rest =>
    let s' := s.setQu n { q with results := rest }
    match r with
    | .ranks ctx layer rows failed =>
      let key := 4096 * ctx + layer
      let s := s'.count (quReg n 0x78) (ceilDiv (8 * rows.length) 64)
      (s.kvUpd fun k => { k with ranks := k.ranks.put key (Map.getD [] k.ranks key ++ rows) }).resultFailed ctx failed
    | .parts ctx qaddr ps failed =>
      match s.targetOf qaddr with
      | none => s'
      | some (c, t) =>
        if !s.mayDeliver c t ps then s
        else
          let s := s'.updCore c fun k => { k with partials := k.partials ++ ps.map fun p => ⟨qaddr, p.head, p.pidx, p.data⟩ }
          let s := s.count (quReg n 0x70) ps.length
          (s.count (quReg n 0x78) (ps.map fun p => ceilDiv p.data.length 64).sum).resultFailed ctx failed
    | .page ctx writes core fw bit failed =>
      let s := writes.foldl (fun s w => s.writeMem w.1 w.2) s'
      let s := s.count (quReg n 0x78) (writes.map fun w => ceilDiv w.2.length 64).sum
      (s.resultFailed ctx failed).setFlags core fw (2 ^ bit)
    | .sketched ctx row layer writes failed =>
      let s := ((s'.heatWrites writes).count (quReg n 0x78) writes.length).resultFailed ctx failed
      s.kvUpd fun k => { k with updates := k.updates.filter fun u => !(u.ctx == ctx && u.row == row && u.layer == layer) }
    | .copied ctx dst failed => s'.copyDone ctx dst failed
    | .zeroed key ok =>
      if 8 * 2 ^ 20 ≤ key then (if ok then s' else s'.send (.control (key % 2 ^ 20) [0x41, 0] []))
      else if ok then ((s'.zeroDone key).count R.TI_ZERO_LO 1).afterHome
      else s'.quPush (key / 2 ^ 20) (zeroDesc (key % 2 ^ 20))
    | .moved g ok =>
      let s' := if ok then s' else s'.poison g
      match s'.moveOf g with
      | some m => if m.phase = .copying ∧ !m.got.contains g then s'.setMove m { m with got := m.got ++ [g] } else s'
      | none => s'
    | .bad ctx g => s'.resultFailed ctx (some g)
    | .search batch rows => s'.skDeliver batch rows

/-- Writes of the debug window that waited for a move go to the new home (R387). -/
def windowWrites (s : State) : State :=
  let due := fun (w : Nat × List Byte) => !s.moving (granOf w.1)
  let s' := (s.hi.waits.filter due).foldl (fun s w => (s.devWrite w.1 w.2).skSeen w.1 w.2.length) s
  { s' with hi := { s'.hi with waits := s'.hi.waits.filter fun w => !due w } }

/-- What waits for a unit of granules goes on after its move has committed (R148, R149, R218, R225, R236). -/
def afterMove (s : State) (g n : Nat) : State :=
  let s := (List.range n).foldl (fun s i => s.pumpResume (g + i)) (s.rewalk g)
  let s := ((s.issueCopies).queueUpdates).swapProgress
  ((s.returnSpoil.skUpdates).skRetry).windowWrites

/-- Table blocks of context x (R200). -/
def tableBlocks (s : State) (x : Nat) : List Nat :=
  let rows := (s.rowsOf x).map (·.2)
  (if (s.ctx x).root = 0 then [] else [(s.ctx x).root]) ++ rows ++ (rows.map fun row => s.rowField row 16 8).filter (· != 0)

/-- A demotion by heat of a table page that a running request's context uses waits for the end of the step. -/
def tablesInUse (s : State) (m : Move) : Bool :=
  !m.up && m.kind != .swapOut && (s.kv.tables.get? (m.gran * 65536)).isSome
    && s.hi.reqs.any fun r => (r.phase == .chosen || r.phase == .admitted)
      && (match r.target with | some x => (s.tableBlocks x).any fun a => granOf a / 4 * 4 == m.gran | none => false)

/-- MOVE_COMMIT: the commit, or its deferral, which counts once (R237). -/
def moveCommit (s : State) (g : Nat) : State :=
  match s.ti.moves.find? fun m => Move.covers m g && m.phase == .commitWait with
  | none => s
  | some m =>
    if s.commitReady m && s.tablesInUse m then s
    else if s.commitReady m then (s.commitMove m).afterMove m.gran m.size
    else if m.defer then s
    else (s.setMove m { m with defer := true }).count (quReg (s.entry m.gran).stack 0x90) 1

end State

/-- QUARRY_RESULT_DELIVER (R234). -/
def execQuarryResultDeliver (qu : Nat) (s : State) : Outcome := onUnit (decide (qu < 8)) (s.deliver qu).returnSpoil

/-- MOVE_RESERVE (R264, R271): where it gives a granule its first home, what waited for the home goes on. -/
def execMoveReserve (gran frame : Nat) (s : State) : Outcome :=
  let t := s.reserve gran frame
  .next (if (s.entry gran).undef && !(t.entry gran).undef then t.afterHome else t)

/-- MOVE_COMMIT (R271). -/
def execMoveCommit (gran : Nat) (s : State) : Outcome := .next (s.moveCommit gran)

end Sys2Proof.Machine
end

