-- ==== Sys2Proof/Machine/Hosts.lean ====
section
/-! DEFINITION. The host port: link, resets, doorbells, the handshake, queues, the event ring, entry fetch and interrupts (R382–R394, R401–R403, R405). -/

namespace Sys2Proof.Machine

namespace State

def hiUpd (s : State) (f : HiState → HiState) : State := { s with hi := f s.hi }

/-- Image load is complete (R423). -/
def loaded (s : State) : Bool := s.im.phase == 4

/-- The D8 admits steps: LOADED, no start running, no core lost (R38) and not fatal (R468). -/
def admits (s : State) : Bool := s.loaded && !s.gl.running && !s.el.coreLost && !s.el.fatal

/-! ### Link and resets (R382–R384, R427) -/

/-- HI registers that a reset of the host port keeps: HI_CLOCK and the 64-bit counters (R384, R409); every other block's registers are untouched. -/
def hiKeeps (off : Nat) : Bool := Nat.ble 0x100000 off || (Nat.ble 0x60 off && Nat.ble off 0x67) || (Nat.ble 0x100 off && Nat.ble off 0x137)

/-- A GENERATE ends after its current token with this status (R384, R393, R406). -/
def stopGenerates (s : State) (p : Req → Bool) (status : Nat) : State :=
  s.hiUpd fun h => { h with reqs := h.reqs.map fun r =>
    if r.opcode = 3 ∧ (r.phase = .chosen ∨ r.phase = .admitted) ∧ r.stop = none ∧ p r then { r with stop := some status } else r }

/-- The effects of R384 on queues, rings and HI registers. A running request loses its queue and ends without entries; every other request is lost. -/
def hostReset (s : State) : State :=
  let s := s.stopGenerates (fun _ => true) 0x1A
  let lost := fun (q : Nat) => if q < 1024 then 1024 + q else q
  let s := s.hiUpd fun h => { h with
    pairs := []
    reqs := (h.reqs.filter fun r => r.phase == .chosen || r.phase == .admitted).map fun r => { r with q := lost r.q }
    evOn := false, capt := [], held := [], peer := [], waits := [] }
  let s := s.skUpd fun k => { k with
    batches := k.batches.map fun b => { b with parts := b.parts.map fun (q, i, f, n) => (lost q, i, f, n) }
    updates := k.updates.map fun u => { u with q := lost u.q } }
  let regs := s.regs.filter fun r => hiKeeps r.1
  let img := s.im.regs.filter fun r => !hiKeeps r.1
  { s with regs := img.foldl (fun m r => Map.store (regReset r.1) m r.1 r.2) regs }

/-- A reset of R384, with its report (R461). -/
def linkReset (s : State) : State := (s.hostReset).report 2 0x02 0x07 0xFFFF 0

end State

/-- FUNCTION_LEVEL_RESET (R384). -/
def execFunctionLevelReset (s : State) : Outcome := .next s.linkReset

/-- PE_PERST_N (R384, R495): while it is low the host port alone is held in conventional reset. -/
def execPePerstN (level : Bool) (s : State) : Outcome :=
  .next (if level then s.hiUpd fun h => { h with perst := true }
    else if s.hi.perst then (s.linkReset).hiUpd fun h => { h with perst := false, up := false, cxl := false, d3 := false }
    else s)

/-- LINK_DOWN (R384). -/
def execLinkDown (s : State) : Outcome :=
  .next (if s.hi.up then (s.linkReset).hiUpd fun h => { h with up := false, cxl := false } else s)

/-- D3HOT (R384). -/
def execD3hot (s : State) : Outcome :=
  .next (if s.hi.d3 then s else (s.linkReset).hiUpd fun h => { h with d3 := true })

/-- HOST_LINK_UP (R382, R383, R427): link training begins in phase 2 of a cold start; it needs PE_PERST_N high, and a link that is up shows that PE_REFCLK runs (R484). -/
def execHostLinkUp (cxl : Bool) (s : State) : Outcome :=
  .next (if s.hi.perst && !s.pw.held0 && !(s.gl.kind == 0 && s.gl.running && s.gl.phase == 1) then
      { s with hi := { s.hi with up := true, cxl := cxl }, pw := { s.pw with peRef := true } }
    else s)

/-- CONFIGURATION_REQUEST (R427): Configuration Request Retry Status until phase 2 of a cold start ends, and a normal answer afterwards. -/
def execConfigurationRequest (toD0 : Bool) (s : State) : Outcome :=
  .next (if s.gl.kind == 0 && s.gl.running && Nat.ble s.gl.phase 2 then s.send (.completion 3 0)
    else
      let s := if toD0 then s.hiUpd fun h => { h with d3 := false } else s
      s.send (.completion 0 0))

/-! ### Doorbells (R388, R392) -/

namespace State

/-- A doorbell write that is discarded. -/
def badDoorbell (s : State) (q : Nat) : State := (s.orReg R.HI_ERR 1).report 0 0x02 0x02 q 0

/-- Entries from index a to index b of a ring. -/
def ringDist (size a b : Nat) : Nat := (b + size - a % size) % size

/-- A head doorbell for a ring with the D8's tail: whether it is taken. -/
def headOk (size head tail v : Nat) : Bool := size != 0 && Nat.blt v size && Nat.ble (ringDist size head v) (ringDist size head tail)

end State

/-- SQ_TAIL (R388): recorded in every queue state. -/
def execSqTail (q : Nat) (v : Word) (s : State) : Outcome :=
  onUnit (decide (q < 1024))
    (if v.toNat < s.sqSize q then s.setPair q { s.pair q with tail := v.toNat } else s.badDoorbell q)

/-- CQ_HEAD (R388). -/
def execCqHead (q : Nat) (v : Word) (s : State) : Outcome :=
  onUnit (decide (q < 1024))
    (if State.headOk (s.cqSize q) (s.pair q).cqHead (s.reg (qReg q 0x2C) % 65536) v.toNat then s.setPair q { s.pair q with cqHead := v.toNat }
     else s.badDoorbell q)

/-- TR_HEAD (R388). -/
def execTrHead (q : Nat) (v : Word) (s : State) : Outcome :=
  onUnit (decide (q < 1024))
    (if State.headOk (s.trSize q) (s.pair q).trHead (s.reg (qReg q 0x30) % 65536) v.toNat then s.setPair q { s.pair q with trHead := v.toNat }
     else s.badDoorbell q)

/-- SNOOPED_DOORBELL (R392): the line of the next expected entry is invalidated; only with POLL = 1 and CXL.cache active. -/
def execSnoopedDoorbell (q : Nat) (s : State) : Outcome :=
  onUnit (decide (q < 1024))
    (if s.hi.up && s.hi.cxl && bitOf (s.reg (qReg q 0)) 1 && (s.pair q).phase == 1 then
       (s.setPair q { s.pair q with snoop := true }).count R.HI_SNOOP_DB_LO 1
     else s)

/-! ### The handshake and the enables (R389, R390, R393, R403) -/

namespace State

def queuesOn (s : State) : Nat := (s.hi.pairs.filter fun p => p.2.phase != 0).length

/-- HI_QP_AGREED.STATE = 1. -/
def agreed (s : State) : Bool := bitsOf (s.reg R.HI_QP_AGREED) 17 16 == 1
/-- The agreed minor version. -/
def minor (s : State) : Nat := bitsOf (s.reg R.HI_QP_AGREED) 7 0

/-- A write to HI_QP_HANDSHAKE (R389); in FAILED every handshake is refused (R413). -/
def handshake (s : State) (v : Nat) : State :=
  if s.queuesOn ≠ 0 ∨ s.hi.evOn then s.orReg R.HI_ERR 4
  else
    let s := s.setReg R.HI_QP_HANDSHAKE (v % 65536)
    if bitsOf v 15 8 = 3 ∧ s.im.phase ≠ 5 then s.setReg R.HI_QP_AGREED (0x10300 + min (v % 256) 1)
    else s.setReg R.HI_QP_AGREED 0x20000

/-- Sizes and polder of a queue's configuration (R390). -/
def queueCfgOk (s : State) (q : Nat) : Bool :=
  let c := s.reg (qReg q 8)
  let size := fun n => Nat.ble 4 n && Nat.ble n 16
  s.gl.defined.contains (bitsOf c 5 0) && size (bitsOf c 12 8) && size (bitsOf c 20 16) && (bitsOf c 28 24 == 0 || size (bitsOf c 28 24))

/-- HI_Q_CTRL written with ENABLE = 1 (R389, R390, R393). -/
def enableQueue (s : State) (q v : Nat) : State :=
  let x := s.pair q
  if !s.agreed then s.orReg R.HI_ERR 2
  else if x.phase = 0 then
    if s.queueCfgOk q then
      let s := (s.setReg (qReg q 0) (v % 8)).setPair q { QPair.off with phase := 1 }
      (((s.setReg (qReg q 0x28) 0x10000).setReg (qReg q 0x2C) 0x10000).setReg (qReg q 0x30) 0x10000)
    else (s.setReg (qReg q 0) (v % 8 - v % 2)).orReg R.HI_ERR 8
  else
    let s := s.setReg (qReg q 0) (v % 8)
    if x.phase = 2 then s.setPair q { x with phase := 3 } else s

/-- HI_Q_CTRL written with ENABLE = 0 (R393): fetching stops and running GENERATEs end after their current token. -/
def disableQueue (s : State) (q v : Nat) : State :=
  let x := s.pair q
  let s := s.setReg (qReg q 0) (v % 8)
  if x.phase = 1 ∨ x.phase = 3 then (s.setPair q { x with phase := 2, snoop := false }).stopGenerates (fun r => r.q == q) 0x1A
  else s

/-- Nothing of a queue is outstanding: DRAINING ends OFF, DISABLE_PENDING ends ON, and ERROR ends OFF once ENABLE is 0 (R393, R394). -/
def queueDrain (s : State) (q : Nat) : State :=
  let x := s.pair q
  if s.outstanding q ≠ 0 then s
  else if x.phase = 2 then s.setPair q { x with phase := 0 }
  else if x.phase = 3 then s.setPair q { x with phase := 1 }
  else if x.phase = 4 ∧ !bitOf (s.reg (qReg q 0)) 0 then s.setPair q { x with phase := 0 }
  else s

/-- A queue enters ERROR (R394): it stops fetching and writes no more completions. Cause 1 submission read, 2 ring write. -/
def queueError (s : State) (q cause index : Nat) : State :=
  let x := s.pair q
  let s := s.setPair q { x with phase := 4, snoop := false }
  let s := (s.setReg (qReg q 0x34) (cause + index * 65536)).orReg R.HI_ERR (if cause = 1 then 0x10 else 0x20)
  (s.report 2 0x02 0x04 q 0).postEvent 0x04 (q + cause * 65536)

/-- HI_EV_CFG written (R389, R403). -/
def writeEventCfg (s : State) (v : Nat) : State :=
  if !bitOf v 0 then { s.setReg R.HI_EV_CFG (v &&& 0x7FF1F01) with hi := { s.hi with evOn := false } }
  else if !s.agreed then s.orReg R.HI_ERR 2
  else if s.hi.evOn then s.orReg R.HI_ERR 4
  else if bitsOf v 12 8 < 4 ∨ 16 < bitsOf v 12 8 then s.orReg R.HI_ERR 8
  else { ((s.setReg R.HI_EV_CFG (v &&& 0x7FF1F01)).setReg R.HI_EV_TAIL 0x10000).setReg R.HI_EV_HEAD 0 with hi := { s.hi with evOn := true } }

end State

/-- HI_QP_HANDSHAKE (R389). -/
def execHiQpHandshake (v : Word) (s : State) : Outcome := .next (s.handshake v.toNat)

/-- QUEUE_ENABLE (R390): a write of HI_Q_CTRL with ENABLE = 1. -/
def execQueueEnable (q : Nat) (v : Word) (s : State) : Outcome :=
  onUnit (decide (q < 1024)) (s.enableQueue q (v.toNat ||| 1))

/-- QUEUE_DISABLE (R393): a write of HI_Q_CTRL with ENABLE = 0. -/
def execQueueDisable (q : Nat) (v : Word) (s : State) : Outcome :=
  onUnit (decide (q < 1024)) (s.disableQueue q (v.toNat - v.toNat % 2))

/-- QUEUE_DRAINED (R393). -/
def execQueueDrained (q : Nat) (s : State) : Outcome := onUnit (decide (q < 1024)) (s.queueDrain q)

/-- EVENT_RING_ENABLE (R403). -/
def execEventRingEnable (v : Word) (s : State) : Outcome := .next (s.writeEventCfg v.toNat)

/-! ### Interrupts (R402) -/

/-- IRQ_AGGREGATION_TIMER (R402). -/
def execIrqAggregationTimer (q : Nat) (s : State) : Outcome :=
  onUnit (decide (q < 1024))
    (let x := s.pair q
     let irq := s.reg (qReg q 0xC)
     if x.quiet = 0 ∨ s.now < x.since + bitsOf irq 31 24 then s else (s.setPair q { x with quiet := 0 }).msix (bitsOf (s.reg (qReg q 0xC)) 10 0))

/-- A vector's Mask bit is cleared: a pending vector is sent (R402). -/
def State.unmask (s : State) (vec : Nat) : State :=
  let ctl := 0x80000 + 16 * vec + 12
  let pba := 0x90000 + vec / 32 * 4
  let s := s.setReg ctl (s.reg ctl / 2 * 2)
  if bitOf (s.reg pba) (vec % 32) then (s.setReg pba (s.reg pba - 2 ^ (vec % 32))).msix vec else s

/-- MSIX_UNMASK (R402). -/
def execMsixUnmask (vec : Nat) (s : State) : Outcome := onUnit (decide (vec < 2048)) (s.unmask vec)

/-! ### Entry fetch (R391, R392) -/

namespace State

/-- Remote tags that the chip manager can have now (R131, R134): none while MCLK is stopped, or while an earlier request that no cap blocks waits for one. -/
def hostTags (s : State) : Nat :=
  if s.pw.stopped || s.tg.reqs.any (fun q => q.cls == .remote && s.grantable q) then 0
  else min (s.poolSize .remote - s.inUse .remote) (bitsOf (s.reg R.TG_HOST_CAP) 17 0 - s.hostHeld)

/-- The queue's head stands at its recorded tail: an entry fetched from there is one that no SQ_TAIL has told of (R392). -/
def probing (s : State) (q : Nat) : Bool := s.reg (qReg q 0x28) % 65536 == (s.pair q).tail

/-- Entries a queue may fetch now: the recorded ones, or the next expected one after a snoop, within the completion entries it can reserve and the tags there are. -/
def fetchable (s : State) (q : Nat) : Nat :=
  let x := s.pair q
  if x.phase ≠ 1 then 0
  else
    let size := max 1 (s.sqSize q)
    let avail := ringDist size (s.reg (qReg q 0x28) % 65536) x.tail
    let avail := if x.probe ∧ avail + 1 = size then 0 else avail
    let used := s.outstanding q + ringDist (max 1 (s.cqSize q)) x.cqHead (s.reg (qReg q 0x2C) % 65536)
    let waiting := s.hi.reqs.any fun r => r.q == q && r.phase == .fetching
    let want := if avail = 0 then b2n (x.snoop && !waiting) else min 8 avail
    min want (min (s.cqSize q - 1 - used) s.hostTags)

/-- An entry that only a snoop told of is fetched: the snoop is served. -/
def probeNext (s : State) (q : Nat) : State := if s.probing q then s.setPair q { s.pair q with snoop := false, probe := true } else s

/-- The next queue in ascending order after the last one served. -/
def nextQueue (s : State) : Option Nat :=
  (s.hi.pairs.keys.filter fun q => s.fetchable q != 0).foldl (fun b q =>
    match b with
    | none => some q
    | some p => if (q + 1023 - s.hi.last) % 1024 < (p + 1023 - s.hi.last) % 1024 then some q else b) none

def blankReq (q index polder : Nat) : Req := ⟨q, index, 0, [], true, .fetching, polder, [], none, 0, 0, none, none, 0, none⟩

/-- n entries of queue q are requested from host memory; each read holds its tag until the entry arrives. -/
def fetchEntries (q : Nat) : Nat → State → State
  | 0, s => s
  | n + 1, s =>
    let h := s.reg (qReg q 0x28)
    let s := (s.probeNext q).send (.hostRead (s.reg64 (qReg q 0x10) + 64 * (h % 65536)) 64)
    let s := s.hiUpd fun x => { x with reqs := x.reqs ++ [blankReq q (h % 65536) (bitsOf (s.reg (qReg q 8)) 5 0)] }
    fetchEntries q n ((s.markTags .remote (s.inUse .remote)).setReg (qReg q 0x28) (bump h (s.sqSize q)))

/-! ### Checks at fetch (R395, R396, R405) -/

def fp32Neg (v : Nat) : Bool := bitOf v 31 && v % 2 ^ 31 != 0
def fp32Nan (v : Nat) : Bool := Nat.blt 0x7F800000 (v % 2 ^ 31)

/-- Body bytes that each opcode names: offset and length (R396). -/
def bodyFields (op : Nat) : List (Nat × Nat) :=
  match op with
  | 0x01 => [(16, 20)]
  | 0x02 => [(16, 12)]
  | 0x03 => [(16, 34), (52, 12)]
  | 0x04 => [(16, 9)]
  | 0x05 => [(16, 4)]
  | 0x07 => [(16, 16), (32, 16)]
  | 0x10 => [(16, 27)]
  | 0x11 => [(16, 18)]
  | 0x12 => [(16, 18)]
  | 0x13 => [(16, 9)]
  | 0x20 => [(16, 12)]
  | 0x21 => [(16, 12)]
  | 0x22 => [(16, 20)]
  | 0x23 => [(16, 16)]
  | 0x24 => [(16, 2)]
  | _ => []

def knownOp (op : Nat) : Bool := (Nat.ble 1 op && Nat.ble op 7) || (Nat.ble 0x10 op && Nat.ble op 0x14) || (Nat.ble 0x20 op && Nat.ble op 0x25)
def indexOp (op : Nat) : Bool := Nat.ble 0x10 op && Nat.ble op 0x14

/-- Fields out of range, as byte offset and condition (R395–R397). -/
def fieldTests (s : State) (r : Req) : List (Nat × Bool) :=
  let f := r.field
  let op := r.opcode
  let mis := fun i => f i 8 % 64 != 0
  let head := [(1, bitsOf r.flags 6 2 != 0),
    (4, if namesCtx op && op != 1 then bitsOf r.entry 47 46 != 0 else if indexOp op then bitsOf r.entry 47 38 != 0 else f 4 2 != 0),
    (6, f 6 2 != 0)]
  let body : List (Nat × Bool) := match op with
    | 0x01 => [(16, mis 16 || (f 24 4 == 0 && f 16 8 != 0)), (28, (s.model (f 28 1)).isNone), (29, Nat.ble 8 (f 29 1)),
        (30, bitOf (f 31 1) 0 && s.ringRanks (f 30 1) == []), (31, Nat.ble 2 (f 31 1))]
    | 0x02 => [(16, mis 16), (24, f 24 4 == 0)]
    | 0x03 => [(16, if s.trSize r.q == 0 then mis 16 else f 16 8 != 0), (24, f 24 4 == 0 || Nat.blt 65536 (f 24 4)),
        (28, fp32Neg (f 28 4) || fp32Nan (f 28 4)), (48, Nat.blt 1024 (f 48 2)),
        (52, f 52 4 == 0 || Nat.blt 0x3F800000 (f 52 4))]
    | 0x04 => [(24, Nat.ble 8 (f 24 1))]
    | 0x07 => [(16, mis 16), (28, Nat.ble s.ti.regions.length (f 28 4))]
    | 0x10 => [(16, mis 16), (24, mis 24)]
    | 0x11 => [(16, mis 16), (24, mis 24), (32, f 32 2 == 0 || Nat.blt 4096 (f 32 2))]
    | 0x12 => [(16, mis 16), (24, mis 24), (32, f 32 2 == 0 || Nat.blt 4096 (f 32 2))]
    | 0x13 => [(16, mis 16), (24, (s.skIdx r.ctx).isSome && Nat.ble (s.skFilters r.ctx) (f 24 1))]
    | 0x20 => [(16, mis 16)]
    | 0x21 => [(16, mis 16), (24, Nat.ble (2 ^ 29) (f 24 4))]
    | 0x22 => [(16, mis 16), (24, mis 24 || Nat.ble (2 ^ 52) (f 24 8)), (32, Nat.blt 4194304 (f 32 4))]
    | 0x23 => [(16, mis 16), (24, Nat.ble (2 ^ 36) (f 24 8))]
    | _ => []
  let named := bodyFields op
  let spare := (List.range 48).filterMap fun i =>
    if named.any fun (a, n) => Nat.ble a (16 + i) && Nat.blt (16 + i) (a + n) then none else some (16 + i, f (16 + i) 1 != 0)
  head ++ body ++ spare

/-- The lowest byte offset of a bad field. -/
def badField (s : State) (r : Req) : Option Nat :=
  ((s.fieldTests r).filter (·.2)).foldl (fun b t => match b with | none => some t.1 | some x => some (min x t.1)) none

/-- Search parameters out of range (R330); DETAIL is the offset of the first bad field. -/
def searchParam (s : State) (r : Req) : Option Nat :=
  let f := r.field
  let x := r.ctx
  let w0 := s.skWord x 0
  let lim := if f 40 2 = 0 then f 38 2 else f 40 2
  let size := 64 + roundUp (s.skSb x) 64 + (if f 40 2 = 0 then 0 else s.skVstride x)
  let tests := [(4, bitsOf w0 5 0 != r.polder && !bitOf w0 6),
    (16, (List.range (f 32 2)).any fun i => let b := leField r.data (i * size) 1; b != 255 && Nat.ble (s.skFilters x) b),
    (32, f 32 2 == 0 || Nat.blt 4096 (f 32 2)), (34, f 34 2 == 0 || Nat.blt 1024 (f 34 2) || Nat.blt lim (f 34 2)),
    (36, f 36 2 == 0 || Nat.blt 1024 (f 36 2) || Nat.blt (s.skLists x) (f 36 2)), (38, f 38 2 == 0 || Nat.blt 512 (f 38 2)),
    (40, Nat.blt (f 38 2) (f 40 2)), (42, Nat.blt 64 (f 42 1) || (s.skNeigh x == 0 && f 42 1 != 0))]
  ((tests.filter (·.2)).head?).map (·.1)

/-- Whether CTX of a request names a record it may use: not FREE, of its polder, with its SEQ_ID (R404). -/
def ctxFound (s : State) (r : Req) : Bool :=
  let c := s.ctx r.ctx
  c.phase != .free && c.polder == r.polder && c.seq == r.field 8 8

def contextsUsed (s : State) : Nat := (s.kv.ctxs.filter fun c => c.2.phase != .free).length

/-- Owner polder of an index. -/
def skPolder (s : State) (x : Nat) : Nat := bitsOf (s.skWord x 0) 5 0

/-- A request of a polder that is DRAINING or OFF (R436). -/
def polderShut (s : State) (p : Nat) : Bool := let x := Map.getD 0 s.gl.polders p; x != 1

/-- STATUS and DETAIL of the first check that fails at fetch (R405). -/
def fetchError (s : State) (r : Req) : Option (Nat × Nat) :=
  let op := r.opcode
  if !s.admits then some (0x1C, 0)
  else if !knownOp op || (s.minor == 0 && [4, 0x14, 0x24].contains op) then some (1, 0)
  else match s.badField r with
  | some i => some (2, i)
  | none =>
    if (Nat.ble 0x20 op && Nat.ble op 0x23 && !bitOf (s.reg (qReg r.q 8)) 6) || s.polderShut r.polder
        || (indexOp op && op != 0x10 && (s.skIdx r.ctx).isSome && s.skPolder r.ctx != r.polder) then some (3, 0)
    else if (namesCtx op && op != 1 && !s.ctxFound r) || (indexOp op && (s.skIdx r.ctx).isNone) then some (4, 0)
    else if namesCtx op && op != 1 && op != 6 && (s.ctx r.ctx).phase == .failed then some (5, 0)
    else if (op == 1 || op == 4) && Nat.ble 16384 s.contextsUsed then some (8, 0)
    else if (op == 0x21 && s.ti.ready) || (op == 0x23 && (s.ti.supply.get? (r.field 24 8)).isNone && !s.ti.expired.contains (r.field 24 8)) then
      some (9, 0)
    else if op = 0x10 then (s.searchParam r).map fun d => (0x17, d)
    else none

/-- The entry of placeholder r has arrived: it is checked, and fails, or waits for a cut. -/
def takeEntry (s : State) (r : Req) (entry : Nat) (data : List Byte) (dataOk : Bool) : State :=
  let r' := { r with entry := entry, data := data, dataOk := dataOk, phase := .waiting }
  let s := (s.count R.HI_FETCH_LO 1).updReq r fun _ => r'
  match s.fetchError r' with
  | some (st, d) => s.complete r' st d 0
  | none =>
    match s.modelOf r' with
    | some m => match s.ti.lost.get? m with
      | some g => s.complete r' 0x14 0 (g % 2 ^ 36 + m * 2 ^ 40)
      | none => s
    | none => s

/-- A snooped entry whose PHASE is not the expected one: the queue has no further entry, and its head stands at this one again (R392). A snoop that came meanwhile is still to be served. -/
def unfetch (s : State) (r : Req) (phase : Nat) : State :=
  let s := s.hiUpd fun h => { h with reqs := h.reqs.filter fun x => !(x.q == r.q && x.index == r.index) }
  s.setReg (qReg r.q 0x28) (phase * 65536 + r.index)

/-- Where the entry that arrives is one that only a snoop told of, and no SQ_TAIL since: it is taken if its PHASE is the expected one, and the entries after it are fetched in turn. DEDUCED: where POLL has been cleared meanwhile, PHASE is ignored and no doorbell tells of the entry, so it is not taken. -/
def arriveProbe (s : State) (r : Req) (entry : Nat) (take : State → State) : State :=
  let head := s.reg (qReg r.q 0x28)
  let phase := if head % 65536 = 0 then 1 - bitsOf head 16 16 else bitsOf head 16 16
  if bitOf (s.reg (qReg r.q 0)) 1 ∧ b2n (bitOf entry 15) = phase then
    take (s.setPair r.q { s.pair r.q with tail := head % 65536, snoop := true })
  else s.unfetch r phase

/-- No entry that only a snoop told of is on its way any more. -/
def unprobe (s : State) (q : Nat) : State := if (s.pair q).probe then s.setPair q { s.pair q with probe := false } else s

/-- ENTRY_ARRIVAL for the oldest entry of queue q on its way. -/
def arriveEntry (s : State) (q : Nat) (ok : Bool) (entry : Nat) (data : List Byte) (dataOk : Bool) : State :=
  match s.hi.reqs.find? fun r => r.q == q && r.phase == .fetching with
  | none => s
  | some r =>
    let probe := (s.pair q).probe
    let s := s.unprobe q
    if !ok then
      (s.hiUpd fun h => { h with reqs := h.reqs.filter fun x => !(x.q == r.q && x.index == r.index) }).queueError q 1 r.index
    else if probe ∧ (s.pair q).tail = r.index then s.arriveProbe r entry fun s => s.takeEntry r entry data dataOk
    else s.takeEntry r entry data dataOk

end State

/-- ENTRY_FETCH (R391): the chip manager's turn for the next queue. -/
def execEntryFetch (s : State) : Outcome :=
  .next (match s.nextQueue with
    | some q => State.fetchEntries q (s.fetchable q) (s.hiUpd fun h => { h with last := q })
    | none => s)

/-- ENTRY_ARRIVAL (R405). -/
def execEntryArrival (q : Nat) (ok : Bool) (entry : BitVec 512) (data : List Byte) (dataOk : Bool) (s : State) : Outcome :=
  onUnit (decide (q < 1024)) (s.arriveEntry q ok entry.toNat data dataOk)

end Sys2Proof.Machine
end

