-- ==== Sys2Proof/Machine/Requests.lean ====
section
/-! DEFINITION. What each request does (R219, R265, R281, R369, R396–R400, R406); indexes' requests stand with the search. -/

namespace Sys2Proof.Machine

namespace State

/-! ### Requests of the running step (R201, R396, R397, R446) -/

/-- The growth of the running step for context x has been carried out. -/
def markRan (s : State) (x : Nat) : State :=
  let e := s.epoch
  s.kvUpd fun k => { k with growth := k.growth.map fun g => if g.ctx = x ∧ g.epoch = e then { g with ran := true } else g }

/-- Growth of context x that no step has carried out. -/
def unran (s : State) (x : Nat) : Bool := s.kv.growth.any fun g => g.ctx == x && !g.ran

/-- An admitted CREATE, APPEND or FINETUNE whose part of the step has run. -/
def ranRequest (s : State) (q cid op : Nat) (f : State → Req → Nat → State) : State :=
  match s.findReq q cid op .admitted with
  | none => s
  | some r =>
    match r.target with
    | none => s
    | some x => if r.err.isSome || r.done.isSome then s else f s r x

/-- A chunk of tokens has been run; the request ends with its last one. RESULT[63:32] becomes LEN at the boundary. -/
def ranTokens (s : State) (r : Req) (x : Nat) : State :=
  let s := s.markRan x
  if r.given = r.field 24 4 ∧ !s.unran x then s.updReq r fun q => { q with done := some (0, if r.opcode = 1 then x else 0) } else s

/-! ### GENERATE (R74, R397, R400) -/

/-- TOKIRQ of a queue (R402, R408). -/
def tokIrq (s : State) (q : Nat) : Bool := bitOf (s.reg (qReg q 0)) 2

/-- A token entry (R400), or the loss of the queue where the write is refused (R394). -/
def writeToken (s : State) (r : Req) (tok idx reason : Nat) (ok : Bool) : State :=
  if s.trSize r.q = 0 ∨ !s.ringOk r.q then s
  else if !ok then s.queueError r.q 2 r.index
  else
    let tail := s.reg (qReg r.q 0x30)
    let e := leBytes 2 r.cid ++ leBytes 1 (bitsOf tail 16 16 + 2 * b2n (reason != 0) + 4 * reason) ++ leBytes 1 0
      ++ leBytes 4 tok ++ leBytes 4 idx ++ leBytes 4 (if s.minor = 0 then 0 else s.epoch % 2 ^ 32)
    let s := s.hostTx (s.reg64 (qReg r.q 0x20) + 16 * (tail % 65536)) e
    let s := (s.setReg (qReg r.q 0x30) (bump tail (s.trSize r.q))).count R.HI_TOKENS_LO 1
    if s.tokIrq r.q then s.signalIrq r.q false else s

/-- The growth planned for a step after the running one is not needed: its request has ended. -/
def dropNext (s : State) (x : Nat) : State :=
  let e := s.epoch
  s.kvUpd fun k => { k with growth := k.growth.map fun g => if g.ctx = x ∧ e < g.epoch then { g with tokens := [], span := 0, ran := true } else g }

/-- REASON of R400: 2 for a stop token, 1 at MAXTOK, 3 where an ABORT or its queue's end stops the request before either (R407), else 0. -/
def reasonOf (r : Req) (tok : Nat) : Nat :=
  if (tok = r.field 56 4 ∧ tok ≠ 0xFFFFFFFF) ∨ (tok = r.field 60 4 ∧ tok ≠ 0xFFFFFFFF) then 2
  else if r.given + 1 = r.field 24 4 then 1
  else if r.stop.isSome then 3
  else 0

/-- A request has come to its normal end: ABORTs that wait for it find it completed (R407). -/
def lateAborts (s : State) (r : Req) : State :=
  s.hiUpd fun h => { h with reqs := h.reqs.map fun a =>
    if a.opcode = 0x24 ∧ a.q = r.q ∧ a.tokens = [r.index] ∧ a.done = some (0, 1) then { a with done := some (0, 0) } else a }

/-- The draw of a token (R73): SEED's halves, and the token's index. -/
def tokenDraw (r : Req) (idx : Nat) : FVal := uniformDraw (r.field 32 8) (r.field 40 8) (tokenCounter idx 0)

/-- A sampled token: appended, reported, and the request ends where its reason says so. -/
def takeToken (s : State) (r : Req) (x tok : Nat) (ok : Bool) : State :=
  let e := s.epoch
  let idx := s.seqLen x
  let s := s.kvUpd fun k => { k with growth := k.growth.map fun g =>
    if g.ctx = x ∧ g.epoch = e then { g with tokens := g.tokens.map fun t => (tok, t.2), ran := true } else g }
  let reason := reasonOf r tok
  let s := s.writeToken r tok idx reason ok
  let fin := if reason = 0 then none else some ((if reason = 3 then r.stop.getD 0 else 0) + 256 * reason, r.given + 1)
  let s := s.updReq r fun q => { q with given := q.given + 1, tokens := q.tokens ++ [tok], done := fin }
  if reason = 0 then s else if reason = 3 then s.dropNext x else (s.lateAborts r).dropNext x

/-- GENERATE for the logits row of the running step. -/
def generate (s : State) (r : Req) (x : Nat) (zs : List Word) (ok : Bool) : State :=
  if !s.kv.growth.any fun g => g.ctx == x && g.epoch == s.epoch && !g.ran then s
  else
    let k := if r.field 48 2 = 0 then 1024 else r.field 48 2
    match sample (zs.map fun z => fp32L.decode z.toNat) (fp32L.decode (r.field 28 4)) k (fp32L.decode (r.field 52 4)) (tokenDraw r (s.seqLen x)) with
    | .token tok => s.takeToken r x tok ok
    | .invalidLogits =>
      let e := s.epoch
      let s := s.kvUpd fun k => { k with growth := k.growth.map fun g => if g.ctx = x ∧ g.epoch = e then { g with tokens := [], span := 0, ran := true } else g }
      (s.failReq r 0x16 0 0).dropNext x

/-! ### Requests that the cut has let start (R219, R406) -/

/-- A request that the cut has chosen or a step has admitted, and that has not been carried out. -/
def started (s : State) (q cid op : Nat) : Option Req :=
  let live := fun (r : Option Req) => match r with | some r => if r.done.isSome || r.err.isSome then none else some r | none => none
  match live (s.findReq q cid op .chosen) with
  | some r => some r
  | none => live (s.findReq q cid op .admitted)

def onRequest (s : State) (q cid op : Nat) (f : State → Req → State) : State :=
  match s.started q cid op with
  | some r => f s r
  | none => s

/-- A free context record that no planned fork and no CREATE holds; which one is open. -/
def freeCtx? (s : State) : Option (Nat × State) :=
  let (r, s) := s.draw
  (searchFrom (fun x => (s.ctx x).phase == .free && !(s.kv.parkAt.get? x).isSome && !s.kv.forks.any fun f => f.child == x) 16384 16384 (r % 16384)).map fun x => (x, s)

/-- What a fork of context x will need, allocated at its cut (R217, R221): the child's record and root, and for each row a block, a sketch block, and fresh pages for those that no further holder can share. None: every record is in use. -/
def planFork (s : State) (r : Req) (x : Nat) : Except Short (Option ForkPlan × State) :=
  let c := s.ctx x
  match s.model c.model, s.freeCtx? with
  | some m, some (y, s) =>
    match s.allocBlock c.polder (2 ^ (s.nextRoot x).2) false with
    | .error e => .error e
    | .ok (root, s) =>
      let rows := (s.rowsNext x).filter fun a => Nat.blt a.1 (ceilDiv (s.nextLen x) m.tpp)
      match allocMany (fun s => s.allocBlock c.polder m.rowKib false) rows.length s [] with
      | .error e => .error e
      | .ok (bs, s) =>
        match allocMany (fun s => s.allocBlock c.polder m.sketchKib false) (if m.select then rows.length else 0) s [] with
        | .error e => .error e
        | .ok (ks, s) =>
          match allocMany (fun s => s.forkPage c.polder) (rows.map fun a => (s.satLayers m a.2).length).sum s [] with
          | .error e => .error e
          | .ok (fs, s) => .ok (some ⟨r.q % 1024, r.index, y, root, bs, ks, fs, c.home⟩, s)
  | _, _ => .ok (none, s)

/-- Granules of pages that a fork of context x copies and that are not at hand (R217, R236). -/
def forkAway (s : State) (m : Model) (x : Nat) : List Nat :=
  s.mustWait (((s.rowsNext x).filter fun a => s.rowTok a.2 != 0).flatMap fun a => (s.satLayers m a.2).map fun l => s.pageOf a.2 l)

/-- A fork's plan is given up. -/
def dropFork (s : State) (f : ForkPlan) : State :=
  ((s.releaseFork f).spoilBlock f.home f.root).kvUpd fun k => { k with forks := k.forks.filter (· != f) }

/-- Plans whose request has ended. -/
def cleanForks (s : State) : State :=
  (s.kv.forks.filter fun f => !s.hi.reqs.any fun r => r.q % 1024 == f.q && r.index == f.index && r.opcode == 4 && r.phase != .waiting).foldl dropFork s

/-- FORK takes effect (R219, R195): the child's rows, root and record from the plan; pages that it has to copy are promoted first. -/
def fork (s : State) (r : Req) : State :=
  let x := r.ctx
  let c := s.ctx x
  match s.kv.forks.find? fun f => f.q == r.q % 1024 && f.index == r.index, s.model c.model with
  | some f, some m =>
    let (_, code) := s.nextRoot x
    if s.forkAway m x ≠ [] then (s.forkAway m x).foldl State.demand s
    else match forkRows m x f.child c.polder ((s.rowsNext x).filter fun a => s.rowTok a.2 != 0) f s with
    | .error _ => (s.dropFork f).updReq r fun q => { q with phase := .waiting }
    | .ok (left, s) =>
      let s := (s.releaseFork left).kvUpd fun k => { k with forks := k.forks.filter (· != f) }
      let child : Ctx := { c with phase := .active, prio := r.field 24 1 % 8, home := s.homeDie, root := f.root, rootsz := code, seq := r.field 16 8, parked := 0 }
      let s := (s.setCtx f.child child).kvUpd fun k => { k with
        toks := k.toks.put f.child (Map.getD [] k.toks x)
        rings := (match k.rings.get? x with | some g => k.rings.put f.child g | none => k.rings)
        total := (match k.total.get? x with | some n => k.total.put f.child n | none => k.total) }
      s.complete r 0 0 f.child
  | _, _ => s.updReq r fun q => { q with phase := .waiting }

/-- TRUNCATE to NTOK tokens (R219). -/
def truncateReq (s : State) (r : Req) : State :=
  let s := s.truncate r.ctx (r.field 16 4)
  s.complete r 0 0 ((s.ctx r.ctx).len * 2 ^ 32)

/-! ### Rank tables (R368, R369) -/

def ringLists : Nat → List Byte → List (Nat × List Nat)
  | 0, _ => []
  | n + 1, l =>
    let k := leField l 2 2 + 1
    (leField l 0 1, (List.range k).map fun i => leField l (8 + 2 * i) 2) :: ringLists n (l.drop (roundUp (8 + 2 * k) 8))

def tblNrank (t : List Byte) : Nat := leField t 8 4
def tblTopo (t : List Byte) : Nat := leField t 12 1
def tblDim (t : List Byte) (d : Nat) : Nat := leField t (14 + 2 * d) 2
def tblRings (t : List Byte) : List (Nat × List Nat) := ringLists (leField t 20 2) (t.drop (64 + 32 * tblNrank t))
/-- Field of n bytes at offset i of rank entry r. -/
def tblEntry (t : List Byte) (r i n : Nat) : Nat := leField t (64 + 32 * r + i) n
def tblCoord (t : List Byte) (r : Nat) : List Nat := [tblEntry t r 2 2, tblEntry t r 4 2, tblEntry t r 6 2]

/-- An island holds each of its coordinates once (R369). -/
def islandOk (t : List Byte) (i : Nat) : Bool :=
  let cs := ((List.range (tblNrank t)).filter fun r => tblEntry t r 0 2 == i).map (tblCoord t)
  cs.length == tblDim t 0 * tblDim t 1 * tblDim t 2 && cs.eraseDups.length == cs.length
    && cs.all fun c => Nat.blt (c.getD 0 0) (tblDim t 0) && Nat.blt (c.getD 1 0) (tblDim t 1) && Nat.blt (c.getD 2 0) (tblDim t 2)

/-- DETAIL of RANK_REFUSED, in the order of its numbers (R369, R404). -/
def tableRefused (s : State) (t : List Byte) : Option Nat :=
  let n := tblNrank t
  let rings := tblRings t
  let islands := ((List.range n).map fun r => tblEntry t r 0 2).eraseDups
  let own := tblEntry t (leField t 6 2) 0 2
  let tests := [(1, Nat.ble (leField t 0 4) s.tgen), (2, Nat.ble n (leField t 6 2)),
    (3, rings.any (fun g => g.2.eraseDups.length != g.2.length) || (rings.map (·.1)).eraseDups.length != rings.length),
    (4, tblTopo t != 1 && islands.any fun i => !islandOk t i),
    (5, [0, 1, 2].any fun d => Nat.blt 1 (tblDim t d) && s.groupPorts (roleOf d true) == [] && s.groupPorts (roleOf d false) == []),
    (6, tblTopo t != 0 && (s.groupPorts 7 == [] || (List.range n).any fun r => tblEntry t r 0 2 != own && !bitOf (tblEntry t r 14 1) 1))]
  ((tests.filter (·.2)).head?).map (·.1)

/-- RANK_TABLE: refused, or to take effect at the next boundary. -/
def rankTable (s : State) (r : Req) : State :=
  match s.tableRefused r.data with
  | some d => s.complete r 0x1B d 0
  | none => { s with cu := { s.cu with next := some r.data } }.updReq r fun q => { q with done := some (0, leField r.data 0 4) }

/-- The registers of the rank table (R380). -/
def tableRegs (s : State) (t : List Byte) : State :=
  let own := leField t 6 2
  let c := fun d => (tblCoord t own).getD d 0
  let s := (s.setReg R.CU_RT_STATUS (1 + tblTopo t % 4 * 2 + own * 65536)).setReg R.CU_RT_TGEN (leField t 0 4)
  let s := s.setReg R.CU_RT_JOB (leField t 4 2 + (tblNrank t - 1) * 65536)
  let s := (s.setReg R.CU_RT_DIM0 (tblDim t 0 - 1 + (tblDim t 1 - 1) * 65536)).setReg R.CU_RT_DIM1 (tblDim t 2 - 1 + tblEntry t own 0 2 * 65536)
  (s.setReg R.CU_RT_COORD0 (c 0 + c 1 * 65536)).setReg R.CU_RT_COORD1 (c 2)

/-- SL_RING of ring g (R314): all 0 where the table has no such ring; 0 too for a ring without this chip. -/
def ringRegs (s : State) (g : Nat) : State :=
  let l := s.ringRanks g
  let a := R.SL_RING + 8 * g
  if !l.contains s.ownRank then (s.setReg a 0).setReg (a + 4) 0
  else (s.setReg a (l.length - 1 + s.ringPos g * 65536)).setReg (a + 4) (s.ringSucc g + s.ringPred g * 65536)

/-- Header and rank entries of a table go to the rank-table area (R368). -/
def placeTable (s : State) (bytes : List Byte) : State :=
  let base := s.reg64 R.CU_RT_BASE_LO
  let grans := (extent base bytes.length).map (·.1)
  let p := match s.region (granOf base) with | some r => r.polder | none => 0
  let s := s.giveHomes (grans.filter fun g => (s.entry g).undef) p
  { s.devWrite base bytes with cu := { s.cu with table := bytes } }

/-- The accepted table takes effect (R369): the rank-table area, the registers, the rings, the EXEC counters of changed rings, the wiring checks and the event. -/
def applyTable (s : State) : State :=
  match s.cu.next with
  | none => s
  | some t =>
    let s := (s.placeTable (t.take (64 + 32 * tblNrank t))).tableRegs t
    let old := s.cu.rings
    let new : Map (List Nat) := (tblRings t).foldl (fun (m : Map (List Nat)) g => Map.put m g.1 g.2) []
    let s : State := { s with cu := { s.cu with rings := new, next := none } }
    let s := (List.range 256).foldl ringRegs s
    let changed := fun (g : Nat) => Map.get? old g != Map.get? new g
    let s := s.slUpd fun l => { l with count := l.count.filter fun e => !changed (slRing (s.slRec e.1)) }
    (s.recheckWiring).postEvent 6 (leField t 0 4)

/-! ### The spillway, loads and supplies (R265, R281, R397) -/

/-- SPILL_REGISTER. -/
def spillRegister (s : State) (r : Req) : State :=
  let n := s.reg R.TI_SPILL_GRANULES
  let k := r.field 24 4 % 2 ^ 29
  let addrs := (List.range k).map fun i => leField r.data (8 * i) 8
  if s.ti.ready then s.complete r 9 0 0
  else if k < n then s.complete r 2 24 0
  else if addrs.any (fun a => a % 65536 != 0) then s.complete r 2 16 0
  else (s.upd fun t => { t with spill := addrs.take n, ready := true }).complete r 0 0 n

/-- Extent of a LOAD, by granule. -/
def loadExtent (r : Req) : List (Nat × Nat × Nat) := extent (r.field 24 8) (64 * r.field 32 4)

/-- Pool pages that a LOAD touches. -/
def loadPages (s : State) (r : Req) : List Nat :=
  (((loadExtent r).filter fun e => s.isKv e.1).map fun e => s.pageNo (e.1 * 65536)).eraseDups

/-- A LOAD's extent lies in regions, and in the KV region only in FREE pages of the pool (R397). -/
def loadOk (s : State) (r : Req) : Bool :=
  (loadExtent r).all fun e =>
    match s.region e.1 with
    | none => false
    | some g => g.kind != 2 || (Nat.ble s.poolBase (e.1 * 65536) && Nat.blt (s.pageNo (e.1 * 65536)) s.poolPages && s.pageState (s.pageNo (e.1 * 65536)) == 0)

/-- Homes for a LOAD: undefined units get stack homes, spillway units are demand-promoted; false while it has to wait. -/
def loadHomes (s : State) (r : Req) : Bool × State :=
  ((loadExtent r).map fun e => s.unitStart e.1).eraseDups.foldl (fun (acc : Bool × State) u =>
    let (ok, s) := acc
    let gs := (List.range (s.unitSize u)).map (u + ·)
    if gs.any fun g => (s.entry g).undef then
      let p := if s.isKv u then r.polder else match s.region u with | some g => g.polder | none => 0
      if Nat.ble gs.length s.freeBeyond then (ok && !(gs.any s.awaitsZero), s.giveHomes gs p) else (false, s)
    else if gs.any fun g => (s.entry g).spill then (false, gs.foldl State.demandAny s)
    else (ok && !(gs.any fun g => s.moving g || s.awaitsZero g), s)) (true, s)

/-- LOAD writes its units once every granule has its home in a stack. -/
def load (s : State) (r : Req) : State :=
  match s.loadHomes r with
  | (false, s) => s
  | (true, s) =>
    if (loadExtent r).any fun e => s.awaitsZero e.1 then s
    else
      let pages := s.loadPages r
      let n := 64 * r.field 32 4
      let s := pages.foldl (fun s pn => s.setPft pn (setBits (s.pft pn) 25 20 r.polder)) s
      let s := pages.foldl (fun s pn => (List.range 4).foldl (fun s i => s.updEntry (granOf (s.pageAddr pn) + i) fun x => { x with polder := r.polder }) s) s
      let s := ((s.devWrite (r.field 24 8) ((r.data ++ List.replicate n 0).take n)).heat (r.field 24 8) n).skSeen (r.field 24 8) n
      let s := (loadExtent r).foldl (fun s e => if e.2.2 = 65536 then s.updEntry e.1 fun x => { x with poison := false } else s) s
      (s.kvUpd fun k => { k with loading := k.loading.filter fun pn => !pages.contains pn }).complete r 0 0 (r.field 32 4)

/-- SUPPLY of a granule: written to a stack frame, POISON cleared, and what waited for it goes on. -/
def supply (s : State) (r : Req) : State :=
  let g := r.field 24 8
  if (s.ti.supply.get? g).isNone && !s.ti.expired.contains g then s.complete r 9 0 0
  else if (s.moveOf g).isSome then s
  else
    let p := (s.entry g).polder
    let s := if (s.entry g).spill && Nat.blt 0 s.freeTotal then ((s.updEntry g fun x => { x with undef := true, crc := 0 }).giveHomes [g] p).frameFreed else s
    if (s.entry g).spill || s.awaitsZero g then s
    else
      let s := (s.devWrite (g * 65536) ((r.data ++ List.replicate 65536 0).take 65536)).heat (g * 65536) 65536
      let s := (s.updEntry g fun x => { x with poison := false }).upd fun t => { t with supply := t.supply.del g, expired := t.expired.filter (· != g) }
      ((s.count R.TI_RESUPPLY_OK_LO 1).pumpResume g).complete r 0 0 0

/-! ### ABORT (R406) -/

/-- DETAIL and RESULT of a GENERATE that ends early. -/
def genDetail (r : Req) : Nat := if r.opcode = 3 then 3 else 0
def genResult (s : State) (r : Req) : Nat := if r.opcode = 3 then r.given + (s.ctx r.ctx).len * 2 ^ 32 else 0

/-- The tokens of a GENERATE without a token ring go to its buffer, before its completion (R400, R401). -/
def writeBuffer (s : State) (r : Req) : State :=
  if r.opcode = 3 ∧ s.trSize r.q = 0 ∧ r.tokens ≠ [] ∧ s.ringOk r.q then s.hostTx (r.field 16 8) (r.tokens.map (leBytes 4)).flatten else s

/-- The request that an ABORT names (R406). -/
def abortTarget (s : State) (r : Req) : Option Req :=
  s.hi.reqs.find? fun t => t.q == r.q && t.cid == r.field 16 2 && t.index != r.index && t.phase != .fetching

def abort (s : State) (r : Req) : State :=
  if r.tokens ≠ [] then s.complete r 0 0 1
  else match s.abortTarget r with
  | none => s.complete r 0 0 0
  | some t =>
    let gen := t.opcode == 3
    if t.phase = .waiting ∧ (gen || t.start.isNone) then ((s.writeBuffer t).complete t 0x19 (genDetail t) (s.genResult t)).complete r 0 0 1
    else if t.done.isSome || t.err.isSome then s.complete r 0 0 0
    else if gen then
      (s.updReq t fun t => { t with stop := t.stop.orElse fun _ => some 0x19 }).updReq r fun q => { q with tokens := [t.index], done := some (0, 1) }
    else s.complete r 0 0 2

end State

/-! ### The commands -/

/-- CREATE (R196, R397): the step has run the tokens that the cut gave it; without tokens it is done at once. -/
def execCreate (q : Nat) (cid : BitVec 16) (s : State) : Outcome :=
  onUnit (decide (q < 1024)) (s.ranRequest q cid.toNat 1 State.ranTokens)

/-- APPEND (R396). -/
def execAppend (q : Nat) (cid : BitVec 16) (s : State) : Outcome :=
  onUnit (decide (q < 1024)) (s.ranRequest q cid.toNat 2 State.ranTokens)

/-- GENERATE (R397): one token of the running step. -/
def execGenerate (q : Nat) (cid : BitVec 16) (logits : List Word) (tokenOk : Bool) (s : State) : Outcome :=
  onUnit (decide (q < 1024)) (s.ranRequest q cid.toNat 3 fun s r x => s.generate r x logits tokenOk)

/-- FINETUNE (R396): the model's completion EMIT gives RESULT. -/
def execFinetune (q : Nat) (cid : BitVec 16) (imm : DWord) (s : State) : Outcome :=
  onUnit (decide (q < 1024)) (s.ranRequest q cid.toNat 7 fun s r _ => s.updReq r fun q => { q with done := some (0, imm.toNat) })

/-- SPILL_REGISTER (R265). -/
def execSpillRegister (q : Nat) (cid : BitVec 16) (s : State) : Outcome :=
  onUnit (decide (q < 1024)) (s.onRequest q cid.toNat 0x21 State.spillRegister)

/-- LOAD (R397). -/
def execLoad (q : Nat) (cid : BitVec 16) (s : State) : Outcome := onUnit (decide (q < 1024)) (s.onRequest q cid.toNat 0x22 State.load)

/-- SUPPLY (R281). -/
def execSupply (q : Nat) (cid : BitVec 16) (s : State) : Outcome := onUnit (decide (q < 1024)) (s.onRequest q cid.toNat 0x23 State.supply)

/-- ABORT (R406). -/
def execAbort (q : Nat) (cid : BitVec 16) (s : State) : Outcome := onUnit (decide (q < 1024)) (s.onRequest q cid.toNat 0x24 State.abort)

/-- NOP (R396). -/
def execNop (q : Nat) (cid : BitVec 16) (s : State) : Outcome :=
  onUnit (decide (q < 1024)) (s.onRequest q cid.toNat 0x25 fun s r => s.complete r 0 0 s.now)

end Sys2Proof.Machine
end

