-- ==== Sys2Proof/Machine/Cut.lean ====
section
/-! DEFINITION. The admission cut (R32, R221–R225, R401, R446), step sync (R453–R457) and the batch-step boundary (R31, R215). -/

namespace Sys2Proof.Machine

namespace State

/-! ### Chunks (R155, R156, R446) -/

/-- Positions in the rank group of context x, and this chip's position (R154). -/
def ringOf (s : State) (x : Nat) : List Nat := match s.kv.rings.get? x with | some g => s.ringRanks g | none => []
def groupSize (s : State) (x : Nat) : Nat := if (s.ctx x).multi then max 1 (s.ringOf x).length else 1
def groupPos (s : State) (x : Nat) : Nat := match s.kv.rings.get? x with | some g => s.ringPos g | none => 0

/-- C of R446. -/
def chunkLen (s : State) (x : Nat) : Nat :=
  16 * max 1 (bitsOf (s.reg (R.DT_PCHUNK + 4 * (s.ctx x).model)) 11 0) * s.groupSize x

/-- End of the chunk that begins at or after token `given` of a request of n tokens. -/
def chunkEnd (s : State) (x given n : Nat) : Nat := min n ((given / s.chunkLen x + 1) * s.chunkLen x)

/-- Numbers of the tokens of a chunk [a, b) that this chip's position holds, in rank-local order (R155, R156). -/
def ownTokens (s : State) (x a b : Nat) : List Nat :=
  let n := s.groupSize x
  if n = 1 then (List.range (b - a)).map (a + ·)
  else
    let zig := match s.model (s.ctx x).model with | some m => m.zigzag | none => false
    let tp := roundUp (b - a) (if zig then 32 * n else 16 * n)
    let k := s.groupPos x
    let block := fun (len c : Nat) => (List.range len).map (c * len + ·)
    let l := if zig then block (tp / (2 * n)) k ++ block (tp / (2 * n)) (2 * n - 1 - k) else block (tp / n) k
    (l.filter fun i => Nat.blt i (b - a)).map (a + ·)

/-- Numbers of the first n tokens of a request that this position holds, chunk by chunk. -/
def ownAll (s : State) (x n : Nat) : List Nat :=
  (List.range (ceilDiv n (s.chunkLen x))).flatMap fun k => s.ownTokens x (k * s.chunkLen x) (min n ((k + 1) * s.chunkLen x))

def ownCount (s : State) (x n : Nat) : Nat := (s.ownAll x n).length

/-- Tokens of a request by number, with their position ids. -/
def tokensAt (s : State) (r : Req) (x l0 : Nat) (is : List Nat) : List (Nat × Nat) :=
  is.map fun i => (leField r.data (4 * i) 4, (s.ctx x).pos + l0 + i)

/-- Tokens of context x that a request's next chunk appends here, less those that seam rows have supplied, and the chunk's length. -/
def nextChunk (s : State) (r : Req) (x : Nat) : List (Nat × Nat) × Nat :=
  let stop := s.chunkEnd x r.given (r.field 24 4)
  let l0 := r.start.getD (s.nextSeq x)
  (s.tokensAt r x l0 ((s.ownTokens x r.given stop).drop (r.adopted - s.ownCount x r.given)), stop - r.given)

/-! ### Who may start (R32, R401) -/

/-- Earlier requests in fetch order. -/
def before (s : State) (r : Req) : List Req := s.hi.reqs.takeWhile fun t => !(t.q == r.q && t.index == r.index)

/-- An earlier request on the same context is incomplete, or may be as its entry has not arrived; or FENCE waits for one of the queue. -/
def waitsTurn (s : State) (r : Req) : Bool :=
  (s.before r).any fun t =>
    (r.target.isSome && (if t.phase = .fetching then r.opcode != 1 else t.target == r.target)) || (bitOf r.flags 0 && r.start.isNone && t.q == r.q)

/-- Free entries of a queue's token ring, less those that admitted tokens will take (R400). -/
def tokenRoom (s : State) (q : Nat) : Bool :=
  let size := s.trSize q
  size = 0 ||
    (let used := ringDist (max 1 size) (s.pair q).trHead (s.reg (qReg q 0x30) % 65536)
     let owed := (s.hi.reqs.filterMap fun r => if r.q = q ∧ r.opcode = 3 then r.target else none).map fun x =>
       (s.kv.growth.filter fun g => g.ctx == x && !g.ran).length
     Nat.blt (used + owed.sum) (size - 1))

/-- The request goes on in the next step: it runs, has had its part of this one, and is not over. -/
def goesOn (r : Req) : Bool :=
  r.phase == .admitted && r.done.isNone && r.err.isNone && r.stop.isNone
    && ((r.opcode == 3 && Nat.blt (r.given + 1) (r.field 24 4)) || ((r.opcode == 1 || r.opcode == 2) && Nat.blt r.given (r.field 24 4)))

/-! ### Parking and victims (R223, R224) -/

/-- Context x waits as a parked one does: it is PARKED, or its record is held, still FREE, for a CREATE whose root could not be allocated. -/
def kept (s : State) (x : Nat) : Bool := (s.ctx x).phase == .parked || ((s.ctx x).phase == .free && (s.kv.parkAt.get? x).isSome)

/-- A context whose needs are not met (R223).

DESIGN CHOICE: ROOT is non-zero in every state but FREE (R196), and R223 does not say what stands for a CREATE whose root cannot be allocated: its record is held for it in the state FREE, and all else is as for a parked context. -/
def park (s : State) (x : Nat) : State :=
  let put := fun (s : State) => s.updCtx x fun c => { c with phase := if c.root = 0 then .free else .parked }
  if s.kept x then put s
  else
    let s := (put (s.updCtx x fun c => { c with parked := s.epoch })).kvUpd fun k => { k with parkAt := k.parkAt.put x s.now }
    s.count R.KV_PARK_LO 1

def unpark (s : State) (x : Nat) : State :=
  if s.kept x then
    (s.updCtx x fun c => { c with phase := .active }).kvUpd fun k => { k with parkAt := k.parkAt.del x }
  else s

/-- The state with a context's units gone from the stacks: what a swap releases. -/
def swapTrial (s : State) (x : Nat) : State :=
  (s.swapUnits x).foldl (fun s g => (List.range 4).foldl (fun s i => s.dropHome (g + i)) s) s

/-- May context v be a victim for x, whose shortfall is e (R223)? -/
def victimOk (s : State) (x : Nat) (e : Short) (v : Nat) : Bool :=
  let c := s.ctx v
  c.phase == .active && !c.multi && v != x && !s.kv.victims.contains v && Nat.ble (s.ctx x).prio c.prio
    && (match e with | .quota p => c.polder == p | _ => true)
    && !(s.hi.reqs.any fun r => (r.phase == .chosen || r.phase == .admitted) && r.target == some v)
    && s.swapUnits v != []

/-- Candidates in the order of R223. -/
def victimOrder (s : State) (a b : Nat) : Bool :=
  let x := s.ctx a
  let y := s.ctx b
  Nat.blt y.prio x.prio || (x.prio == y.prio && (Nat.blt x.sched y.sched || (x.sched == y.sched && Nat.ble a b)))

/-- Victims, one after another, until what their swaps release covers the shortfall, or only pages of the pool lack. `ok`: may this context be a victim for this shortfall? -/
def takeVictims (need : State → Option Short) (ok : Short → Nat → Bool) (cand : List Nat) : Nat → State → List Nat → List Nat
  | 0, _, vs => vs
  | n + 1, trial, vs =>
    match need trial with
    | none | some .pages => vs
    | some e => match cand.find? fun v => ok e v && !vs.contains v with
      | none => vs
      | some v => takeVictims need ok cand n (trial.swapTrial v) (vs ++ [v])

def chooseVictims (s : State) (x : Nat) (e : Short) (need : State → Option Short) : State :=
  if e = .pages ∨ !s.ti.ready then s
  else
    let leaving := s.kv.victims ++ (s.kv.swaps.filterMap fun w => if (s.ctx w.1).phase = .swappingOut then some w.1 else none)
    let trial := leaving.foldl swapTrial s
    let cand := s.kv.ctxs.keys.mergeSort s.victimOrder
    let vs := takeVictims need (s.victimOk x) cand cand.length trial []
    (s.kvUpd fun k => { k with victims := k.victims ++ vs }).count R.KV_PREEMPT_LO vs.length

/-- Parked for KV_PARK_TIMEOUT (R224). -/
def parkedLate (s : State) (x : Nat) : Bool :=
  s.kept x && (match s.kv.parkAt.get? x with | some t => Nat.ble (t + 1000 * s.reg R.KV_PARK_TIMEOUT) s.now | none => false)

/-- A context whose needs are not met: parked with victims chosen, but for one past the park limit. -/
def notAdmitted (s : State) (r : Req) (x : Nat) (e : Short) (need : State → Option Short) : State :=
  if s.parkedLate x && r.phase == .waiting then s else (s.park x).chooseVictims x e need

/-- After its last try a context past the park limit becomes ACTIVE, and its request fails (R224); a record that never had a root is given up. -/
def parkTimeout (s : State) (r : Req) (x : Nat) : State :=
  if s.parkedLate x && s.hi.reqs.any (fun q => q.q == r.q && q.index == r.index && q.phase == .waiting) then
    let s := if (s.ctx x).root = 0 then s.freeRecord x else s.unpark x
    ((s.orReg R.KV_ERR 2).report 2 0x07 0x04 x 0).complete r 7 0 0
  else s

/-! ### The choice of one request -/

/-- A waiting request is chosen for the next step; one that runs stays admitted. -/
def choose (s : State) (r : Req) (f : Req → Req) : State :=
  let s := match r.target with | some x => s.unpark x | none => s
  s.updReq r fun q => f { q with phase := if q.phase = .waiting then .chosen else q.phase }

/-- A record for a CREATE (R397): none where all are in use. It becomes ACTIVE with its root. -/
def makeCtx (s : State) (r : Req) : Option (Req × State) :=
  match s.freeCtx? with
  | none => none
  | some (x, s) =>
    let multi := bitOf (r.field 31 1) 0
    let c : Ctx := ⟨.free, r.polder, r.field 28 1, r.field 29 1 % 8, s.homeDie, multi, 0, 0, 0, r.field 32 4, 0, 0, r.field 8 8⟩
    let s := (s.setCtx x c).kvUpd fun k => { k with rings := if multi then k.rings.put x (r.field 30 1) else k.rings }
    some ({ r with tokens := [x] }, s.updReq r fun q => { q with tokens := [x] })

/-- The root of a new context (R196), large enough for the tokens it is created with. -/
def withRoot (s : State) (r : Req) (x : Nat) : Except Short State :=
  let c := s.ctx x
  if c.root ≠ 0 then .ok s
  else
    let code := match s.model c.model with | some m => rootCode (ceilDiv (s.ownCount x (r.field 24 4)) m.tpp) | none => 0
    match s.allocBlock c.polder (2 ^ code) false with
    | .error e => .error e
    | .ok (root, s) => .ok (s.updCtx x fun c => { c with phase := if s.kept x then .parked else .active, root := root, rootsz := code })

/-- The longest context of a model (R196). -/
def maxLen (s : State) (x : Nat) : Nat := match s.model (s.ctx x).model with | some m => 32768 * m.tpp | none => 0

/-- Freeboard serves contexts that hold pages; not a new one, whose CREATE has only adopted rows (R222). -/
def mayFb (s : State) (r : Req) (x : Nat) : Bool := (r.opcode != 1 || Nat.blt r.adopted (s.nextLen x)) && s.rowsOf x != []

/-- What a plan lacks. -/
def lack {α : Type} : Except Short α → Option Short
  | .ok _ => none
  | .error e => some e

/-- The root and the next chunk of a CREATE or APPEND. -/
def planChunk (s : State) (r : Req) (x : Nat) : Except Short State :=
  match s.withRoot r x with
  | .error e => .error e
  | .ok s =>
    let (toks, span) := s.nextChunk r x
    if span = 0 then .ok s else s.planGrowth x toks span (s.mayFb r x)

/-- A request that has adopted n tokens in all. -/
def adopted (s : State) (r : Req) (x n : Nat) : Req := { r with adopted := n, given := if s.groupSize x = 1 then n else r.given }

/-- No step has run tokens of the request yet: each cut until then looks its rows up (R216). -/
def unbegun (s : State) (r : Req) (x : Nat) : Bool := r.phase == .waiting && (if s.groupSize x = 1 then r.given == r.adopted else r.given == 0)

/-- Adoption of seam rows for a request that no step has begun (R216), with room in the root for what its next step needs beside them (R196): what it goes on with, or the granules that have to be promoted first. -/
def adopt (s : State) (r : Req) (x l0 : Nat) : Except (List Nat) (Req × State) :=
  let c := s.ctx x
  match s.model c.model with
  | none => .ok (r, s)
  | some m =>
    if s.nextLen x ≠ c.len then .ok (r, s)
    else
      let toks := (s.tokensAt r x l0 (s.ownAll x (r.field 24 4))).drop r.adopted
      let ids := toks.map (·.1)
      let (parent, prow, hashed) := s.rowBefore x (c.len / m.tpp)
      let away := if hashed then s.awaySeams x m c.model toks.length c.len parent ids else []
      if away ≠ [] then .error away
      else
        let hits := if hashed then m.tpp * s.seamHits x m c.model toks.length c.len parent prow ids else 0
        let chunk := (s.nextChunk { s.adopted r x (r.adopted + hits) with start := some l0 } x).1.length
        let (s, rest) := seamLookup x m c.model (ceilDiv (c.len + hits + chunk) m.tpp) (s.mayFb r x) toks.length s toks
        .ok (s.adopted r x (r.adopted + (toks.length - rest.length)), s)

/-- A CREATE or APPEND: its root, adoption of seam rows until a step begins it, then the growth of its next chunk. -/
def cutAppend (s : State) (r : Req) (x : Nat) : State :=
  if r.start.isNone && Nat.blt (s.maxLen x) (s.nextLen x - r.adopted + s.ownCount x (r.field 24 4)) then s.complete r 6 0 ((s.ctx x).len * 2 ^ 32)
  else
    let l0 := r.start.getD (s.nextSeq x - if s.groupSize x = 1 then r.adopted else 0)
    match s.withRoot r x with
    | .error e => s.notAdmitted r x e fun t => lack (t.planChunk r x)
    | .ok s =>
      match (if s.unbegun r x then s.adopt r x l0 else Except.ok (r, s)) with
      | .error away => away.foldl State.demand s
      | .ok (r, s) =>
        let r' := { r with start := some l0 }
        match s.planChunk r' x with
        | .ok s' =>
          let span := (s.nextChunk r' x).2
          s'.choose r fun q => { q with start := some l0, given := r.given + span, adopted := r.adopted }
        | .error e => (s.updReq r fun q => { q with given := r.given, adopted := r.adopted }).notAdmitted r x e fun t => lack (t.planChunk r' x)

/-- A GENERATE: one token of the next step; on a rank group the chip at position 0 holds it. -/
def cutGenerate (s : State) (r : Req) (x : Nat) : State :=
  if s.maxLen x ≤ s.nextLen x then (if r.phase = .waiting then (s.writeBuffer r).complete r 6 0 ((s.ctx x).len * 2 ^ 32) else s)
  else if !s.tokenRoom r.q then s
  else
    let toks := if s.groupPos x = 0 then [(0, (s.ctx x).pos + s.nextSeq x)] else []
    match s.planGrowth x toks 1 (s.mayFb r x) with
    | .ok s => s.choose r fun q => { q with start := some (q.start.getD (s.seqLen x)) }
    | .error e => s.notAdmitted r x e fun t => lack (t.planGrowth x toks 1 (t.mayFb r x))

/-- A request on a resident context. -/
def cutResident (s : State) (r : Req) (x : Nat) : State :=
  let away := (s.mustWait (s.tableBlocks x)).eraseDups
  let leaving := r.opcode != 3 && (s.tableBlocks x).any fun a => match s.moveOf (granOf a) with | some m => !m.up | none => false
  if away ≠ [] then away.foldl State.demand s
  else if leaving then s
  else if r.opcode != 6 && s.tableBad x then s.failTable x
  else match r.opcode with
    | 0x03 => s.cutGenerate r x
    | 0x04 => match s.planFork r x with
      | .ok (some f, s) => (s.kvUpd fun k => { k with forks := k.forks ++ [f] }).choose r id
      | .ok (none, s) => s.complete r 8 0 0
      | .error e => s.notAdmitted r x e fun t => lack (t.planFork r x)
    | 0x05 => if (s.ctx x).len < r.field 16 4 then s.complete r 2 16 0 else s.choose r id
    | 0x06 => s.choose r id
    | 0x07 => s.choose r id
    | _ => s.cutAppend r x

/-- A request on a context at the cut (R224, R225, R404). -/
def cutContext (s : State) (r : Req) (x : Nat) : State :=
  let c := s.ctx x
  if r.opcode ≠ 1 ∧ !s.ctxFound r then (if r.phase = .waiting then s.complete r 4 0 0 else s)
  else if s.kv.victims.contains x then s
  else match c.phase with
    | .failed => if r.opcode = 6 then s.cutResident r x else if r.phase = .waiting then s.complete r 5 0 0 else s
    | .free => if r.opcode = 1 then (s.cutAppend r x).parkTimeout r x else s
    | .swapped => (s.swapIn x).getD s
    | .active => s.cutResident r x
    | .parked => (s.cutResident r x).parkTimeout r x
    | _ => s

/-- One candidate at the cut. -/
def cutOne (s : State) (r : Req) : State :=
  let planned := match r.target with | some x => s.kv.growth.any fun g => g.ctx == x && Nat.blt s.epoch g.epoch | none => false
  if s.waitsTurn r || planned then s
  else if r.opcode = 1 then
    match r.target with
    | some x => s.cutContext r x
    | none =>
      if 16384 ≤ s.contextsUsed then s.complete r 8 0 0
      else match s.makeCtx r with
        | some (r, s) => s.cutContext r (r.tokens.headD 0)
        | none => s.complete r 8 0 0
  else match r.target with
    | some x => s.cutContext r x
    | none =>
      if r.opcode = 0x22 then
        if s.loadOk r then (s.kvUpd fun k => { k with loading := k.loading ++ s.loadPages r }).choose r id else s.complete r 2 24 0
      else s.choose r id

/-! ### The cut -/

/-- Requests that end at the cut: stopped ones, those of a queue that drains, and those whose data could not be read. -/
def cutEnds (s : State) : State :=
  (s.hi.reqs.filter fun r => r.phase == .waiting).foldl (fun s r =>
    let early := r.opcode == 3 || r.start.isNone
    let down := early && ((s.pair r.q).phase == 2 || (s.pair r.q).phase == 3)
    match r.stop with
    | some st => (s.writeBuffer r).complete r st (genDetail r) (s.genResult r)
    | none =>
      if down then (s.writeBuffer r).complete r 0x1A (genDetail r) (s.genResult r)
      else if !r.dataOk then s.complete r 0x18 0 0
      else s) s

/-- Contexts whose promotion is over become ACTIVE; a parked one without a request is unparked, and a record whose CREATE has ended before it had a root is freed. -/
def cutContexts (s : State) : State :=
  s.kv.ctxs.keys.foldl (fun s x =>
    match (s.ctx x).phase with
    | .swappingIn => if s.swappedIn x then (s.updCtx x fun c => { c with phase := .active }).kvUpd fun k => { k with swaps := k.swaps.del x } else s
    | .parked | .free =>
      if !s.kept x || s.hi.reqs.any fun r => r.phase != .fetching && r.target == some x then s
      else if (s.ctx x).root = 0 then s.freeRecord x
      else s.unpark x
    | _ => s) s

/-- Priority class of a request: its context's, a CREATE's own, 0 for the rest. -/
def prioOf (s : State) (r : Req) : Nat :=
  match r.target with
  | some x => (s.ctx x).prio
  | none => if r.opcode = 1 then r.field 29 1 % 8 else 0

/-- Candidates in order: by class, parked contexts first by oldest PARKED_AT, then in fetch order (R224, R401). -/
def candidates (s : State) : List Req :=
  let key := fun (r : Req) =>
    let p := match r.target with | some x => (if s.kept x then (s.ctx x).parked else 2 ^ 64) | none => 2 ^ 64
    s.prioOf r * 2 ^ 65 + p
  (s.hi.reqs.filter fun r => r.phase == .waiting || goesOn r).mergeSort fun a b => Nat.ble (key a) (key b)

/-- ABORTs act on targets that have not been admitted, before the cut chooses any (R406); each notes that it has. -/
def cutAborts (s : State) : State :=
  (s.hi.reqs.filter fun r => r.phase == .waiting && r.opcode == 0x24).foldl (fun s r =>
    match if s.waitsTurn r then none else s.abortTarget r with
    | some t =>
      if t.phase = .waiting ∧ (t.opcode = 3 ∨ t.start.isNone) then
        ((s.writeBuffer t).complete t 0x19 (genDetail t) (s.genResult t)).updReq r fun q => { q with tokens := [t.index] }
      else s
    | none => s) s

/-- ADMISSION_CUT. -/
def cut (s : State) : State :=
  if !s.admits || s.dt.cut then s
  else
    let s := s.cutEnds.cutAborts.cutContexts.cleanForks
    let s := s.candidates.foldl (fun s r =>
      match s.hi.reqs.find? fun t => t.q == r.q && t.index == r.index with
      | some r => s.cutOne r
      | none => s) s
    let s := s.skCut (s.hi.reqs.filter fun r => r.phase == .chosen && indexOp r.opcode)
    { s with dt := { s.dt with cut := true } }

/-! ### Boundaries and step sync (R31, R453–R457) -/

def dtUpd (s : State) (f : DtState → DtState) : State := { s with dt := f s.dt }

/-- W in PCLK cycles. -/
def syncWindow (s : State) : Nat := 250 * bitsOf (s.reg R.DT_SYNC_CTRL) 15 8
def syncOn (s : State) : Bool := bitOf (s.reg R.DT_SYNC_CTRL) 0

/-- A boundary falls due at edge x for a step whose ready point was `ready`: declared at x; or postponed while STEP_MARK has not been low for 64 cycles (R456). -/
def declare (s : State) (ready x : Nat) : State :=
  if s.dt.mark || (s.dt.markAt != 0 && Nat.blt x (s.dt.markAt + 64)) then s.dtUpd fun d => { d with hold := none, postponed := some ready }
  else
    let s := s.dtUpd fun d => { d with hold := none, postponed := none, declared := some x, mark := true, markAt := x }
    (s.setReg64 R.DT_MARK_TIME_LO x).count R.DT_HOLD_LO (x - ready)

/-- The window closes without a pulse, at its deadline. -/
def missWindow (s : State) (ready deadline : Nat) : State := ((s.count R.DT_MISSED_LO 1).orReg R.DT_ERR 1).declare ready deadline

/-- A hold whose deadline has been reached closes first. -/
def closeWindow (s : State) : State :=
  match s.dt.hold with
  | some (r, d) => if d ≤ s.clk then s.missWindow r d else s
  | none => s

/-- The ready point of the running step (R455). -/
def readyPoint (s : State) : State :=
  if !s.syncOn then s.declare s.clk s.clk
  else
    let wait := fun (s : State) => s.dtUpd fun d => { d with hold := some (s.clk, s.clk + s.syncWindow), latched := none }
    match s.dt.latched with
    | some p =>
      if s.clk ≤ p + s.syncWindow then ((s.dtUpd fun d => { d with latched := none }).count R.DT_MATCH_LO 1).declare s.clk s.clk
      else wait ((s.count R.DT_IGNORED_LO 1).orReg R.DT_ERR 2)
    | none => wait s

/-- The step has not ended on this chip: an execution that started in it runs (R305), or one of its searches does (R325). -/
def stepBusy (s : State) : Bool := (s.sl.execs.any fun x => x.2.phase == 2) || s.skBusy

/-- A die's report. -/
def dieReport (s : State) (d : Nat) : State :=
  if !s.admits || s.stepBusy || s.dt.declared.isSome || s.dt.hold.isSome || s.dt.postponed.isSome || s.dt.reported.contains d then s
  else
    let s := s.dtUpd fun t => { t with reported := t.reported ++ [d] }
    if s.dt.reported.length = 4 then s.readyPoint else s

/-- A sampled pulse (R455). -/
def pulse (s : State) : State :=
  let s := s.closeWindow.setReg64 R.DT_PULSE_TIME_LO s.clk
  if !s.syncOn || !s.admits then (s.count R.DT_IGNORED_LO 1).orReg R.DT_ERR 8
  else match s.dt.hold with
    | some (r, _) => (s.count R.DT_MATCH_LO 1).declare r s.clk
    | none =>
      let s := if s.dt.latched.isSome then (s.count R.DT_IGNORED_LO 1).orReg R.DT_ERR 4 else s
      s.dtUpd fun d => { d with latched := some s.clk }

/-! ### The work of a boundary -/

/-- RESULT of a request that ends well: with LEN in its high half where R396 says so. -/
def resultOf (s : State) (r : Req) (v : Nat) : Nat :=
  match r.target with
  | some x => if [1, 2, 3].contains r.opcode then v % 2 ^ 32 + (s.ctx x).len * 2 ^ 32 else v
  | none => v

/-- A request completes where an event has ended it, or its part is done; an ABORT after its target. -/
def finishReq (s : State) (r : Req) : State :=
  match r.err, r.done with
  | some (st, d, v), _ => (s.writeBuffer r).complete r st d v
  | none, some (st, v) =>
    if r.opcode = 0x24 ∧ s.hi.reqs.any (fun t => t.q == r.q && t.index == r.tokens.headD 65536) then s
    else (s.writeBuffer r).complete r (st % 256) (st / 256) (s.resultOf r v)
  | none, none => s

/-- Phases of requests as the next step begins: running ones without growth for it wait for a cut, chosen ones are admitted. -/
def startReqs (s : State) : State :=
  let e := s.epoch
  let next := fun (r : Req) => r.target.isSome && s.kv.growth.any fun g => some g.ctx == r.target && g.epoch == e && !g.ran
  let took := (s.hi.reqs.filterMap fun r =>
    if [1, 2, 3, 7].contains r.opcode && (r.phase == .chosen || r.phase == .admitted) then r.target else none)
  let s := s.hiUpd fun h => { h with reqs := h.reqs.map fun r =>
    if r.phase = .chosen then { r with phase := .admitted }
    else if r.phase = .admitted ∧ [1, 2, 3].contains r.opcode ∧ !next r then { r with phase := .waiting } else r }
  let live := s.hi.reqs.filterMap fun r => if r.phase = .admitted then r.target else none
  (took.filter live.contains).foldl (fun s x => s.updCtx x fun c => { c with sched := e }) s

/-- A core with a faulted slot is reset (R113).

DESIGN CHOICE: R113 does not say what becomes of the arrivals of the core's slots at dikes; they stand, as R116 keeps those of a slot that has reached IDLE. -/
def resetCore (s : State) (c : Nat) : State :=
  let s := (s.core c).streams.keys.foldl (fun s sc => s.cancelRun (32 * c + sc)) s
  let s := s.setCore c CoreState.fresh
  if s.plumbOn c then s.writeStore c (s.plumbAt c) (List.replicate 0x200000 0) else s

/-- A pre-empted context's swap begins; halted hauls on its pages are cancelled with their slots (R149). -/
def preempt (s : State) (x : Nat) : State :=
  let us := s.swapUnits x
  let hit := s.cores.flatMap fun k => (k.2.streams.filterMap fun r => match r.2.halt with
    | some h => if us.contains (s.unitStart h.2) then some (k.1, r.2.slot) else none
    | none => none)
  (hit.eraseDups.foldl (fun s h => s.cancelSlot h.1 h.2) s).swapOut x

/-- Flows go back to their own port once it serves and the other port holds none of their frames (R364). -/
def returnFlows (s : State) : State :=
  let back := fun (f : Nat × Nat) =>
    match s.groupTo (f.1 % 65536) with
    | none => true
    | some role =>
      (match s.ownPort f.1 role with | some n => (s.port n).phase == 2 | none => false)
        && !((s.port f.2).begun.any fun x => x.2 == f.1) && !((s.port f.2).queue.any fun x => x.flow == f.1) && !((s.port f.2).unacked.any fun x => x.flit.flow == f.1)
        && !((s.port f.2).tuns.any fun t => (t.2.begun.any fun x => x.2 == f.1) || (t.2.hold.any fun x => x.flow == f.1) || t.2.unacked.any fun e => e.flits.any fun x => x.flow == f.1)
  { s with cu := { s.cu with flows := s.cu.flows.filter fun f => !back f } }

/-- The step of KV_EPOCH ends: its growth is committed, new roots are in place, and the epoch advances (R196, R201, R215). -/
def endEpoch (s : State) : State :=
  let s := s.dtUpd fun d => { d with declared := none, reported := [], cut := false }
  let s := (s.commitAll).switchRoots
  let e := s.epoch + 1
  (s.setReg R.KV_EPOCH_LO (e % 2 ^ 32)).setReg R.KV_EPOCH_HI (e / 2 ^ 32 % 65536)

/-- What else a boundary does before the next step runs. -/
def beginStep (s : State) : State :=
  let s := (if s.epoch % 2 ^ 20 = 0 then s.ageRewrite else s).applyTable
  let s := (s.skCollect).skBoundary
  let s := s.hi.reqs.foldl finishReq s
  let s := s.hi.reqs.foldl finishReq s
  let s := s.startReqs.cleanForks
  let s := s.returnSpoil
  let s := s.kv.victims.foldl preempt s
  let s := (s.cores.filterMap fun c => if c.2.resetDue then some c.1 else none).foldl resetCore s
  let s := s.returnFlows.kvUpd fun k => { k with chosen := [], victims := [] }
  (s.setPageWriters.issueCopies).queueUpdates

/-- The declared boundary: the step of KV_EPOCH ends, and the next begins; what has started in the step since it was declared holds it. -/
def boundary (s : State) : State := if s.dt.declared.isNone || s.stepBusy then s else s.endEpoch.beginStep

/-- A TRUNCATE or DELETE of a context that is in no step takes effect at once, before any cut (R219), and a RANK_TABLE need not wait for one, for its table takes effect at the next boundary (R369): what a cut would test is tested now. -/
def atOnce (s : State) (q cid op : Nat) : State :=
  match s.findReq q cid op .waiting with
  | none => s
  | some r =>
    let ph := (s.ctx r.ctx).phase
    if s.admits && (op == 0x20 || ph == .active || ph == .parked || ph == .failed) then s.cutOne r else s

end State

/-! ### The commands -/

/-- FORK (R219): it takes effect once a cut has allocated what it needs; an earlier request of the context is over by then. -/
def execFork (q : Nat) (cid : BitVec 16) (s : State) : Outcome := onUnit (decide (q < 1024)) (s.onRequest q cid.toNat 4 State.fork)

/-- TRUNCATE (R219). -/
def execTruncate (q : Nat) (cid : BitVec 16) (s : State) : Outcome :=
  onUnit (decide (q < 1024)) ((s.atOnce q cid.toNat 5).onRequest q cid.toNat 5 State.truncateReq)

/-- DELETE (R219). -/
def execDelete (q : Nat) (cid : BitVec 16) (s : State) : Outcome :=
  onUnit (decide (q < 1024)) ((s.atOnce q cid.toNat 6).onRequest q cid.toNat 6 fun s r => (s.deleteCtx r.ctx).complete r 0 0 0)

/-- RANK_TABLE (R369). -/
def execRankTable (q : Nat) (cid : BitVec 16) (s : State) : Outcome :=
  onUnit (decide (q < 1024)) ((s.atOnce q cid.toNat 0x20).onRequest q cid.toNat 0x20 State.rankTable)

/-- ADMISSION_CUT (R32). -/
def execAdmissionCut (s : State) : Outcome := .next s.cut

/-- DIE_STEP_REPORT (R31). -/
def execDieStepReport (die : Nat) (s : State) : Outcome := onUnit (decide (die < 4)) (s.closeWindow.dieReport die)

/-- STEP_SYNC_PULSE (R455). -/
def execStepSyncPulse (s : State) : Outcome := .next s.pulse

/-- SYNC_HOLD_DEADLINE (R455). -/
def execSyncHoldDeadline (s : State) : Outcome := .next s.closeWindow

/-- STEP_BOUNDARY (R31). -/
def execStepBoundary (s : State) : Outcome := .next s.boundary

/-- STEP_MARK_FALL (R456): 64 PCLK cycles after the rise. -/
def execStepMarkFall (s : State) : Outcome :=
  .next (if s.dt.mark ∧ s.dt.markAt + 64 ≤ s.clk then s.dtUpd fun d => { d with mark := false, markAt := d.markAt + 64 } else s)

/-- POSTPONED_BOUNDARY (R456): STEP_MARK has been low for 256 ns. -/
def execPostponedBoundary (s : State) : Outcome :=
  .next (match s.dt.postponed with
    | some r => if !s.dt.mark ∧ s.dt.markAt + 64 ≤ s.clk then s.declare r (s.dt.markAt + 64) else s
    | none => s)

end Sys2Proof.Machine
end

