-- ==== Sys2Proof/Machine/Errors.lean ====
section
/-! DEFINITION. Fault reports, the error log, alerts, retirement and fatal handling (R460–R472). -/

namespace Sys2Proof.Machine

namespace Report

def cls (r : Report) : Nat := r.code / 4096
def blk (r : Report) : Nat := bitsOf r.code 11 6
def cause (r : Report) : Nat := r.code % 64

/-- Equal keys of R464. -/
def sameKey (a b : Report) : Bool := a.code == b.code && a.source == b.source && (a.cls != 4 || a.data == b.data)

end Report

namespace State

def elUpd (s : State) (f : ElState → ElState) : State := { s with el := f s.el }

/-! ### ALERT_N (R467) -/

/-- ALERT_N is low: a bit that EL_ALERT_EN enables is set, or a clock reference is lost (R484). -/
def alertLow (s : State) : Bool := s.pw.pwrgood && (s.reg R.EL_ALERT &&& s.reg R.EL_ALERT_EN != 0 || !s.pw.sysRef || !s.pw.pll)

/-- A change of what drives ALERT_N; a falling edge counts. -/
def alertEdge (s : State) (f : State → State) : State :=
  let t := f s
  if !s.alertLow && t.alertLow then t.count R.EL_ALERTS_LO 1 else t

def setAlert (s : State) (bit : Nat) : State := s.alertEdge fun s => s.orReg R.EL_ALERT (2 ^ bit)

/-! ### Entries (R462, R464, R466) -/

/-- Word w of log entry i. -/
def entryReg (i w : Nat) : Nat := R.EL_ENTRY + 32 * (i % 1024) + 4 * w

/-- A log entry: code and SOURCE, FLAGS, COUNT, FIRST, LAST, DATA. -/
def putEntry (s : State) (i : Nat) (q : Queued) (ovf : Bool) : State :=
  let ws := [q.rep.code + q.rep.source * 65536, 1 + 2 * b2n q.rep.phys + 4 * b2n ovf, min q.count (2 ^ 32 - 1), q.first % 2 ^ 32,
    q.first / 2 ^ 32 % 65536 + q.last % 65536 * 65536, q.last / 65536 % 2 ^ 32, q.rep.data % 2 ^ 32, q.rep.data / 2 ^ 32]
  (List.range 8).foldl (fun s w => s.setReg (entryReg i w) (ws.getD w 0)) s

/-- The report of log entry i. -/
def loggedRep (s : State) (i : Nat) : Report :=
  ⟨s.reg (entryReg i 0) % 65536, s.reg (entryReg i 0) / 65536, bitOf (s.reg (entryReg i 1)) 1, s.reg64 (entryReg i 6), none⟩

def loggedFirst (s : State) (i : Nat) : Nat := s.reg (entryReg i 3) + s.reg (entryReg i 4) % 65536 * 2 ^ 32

/-- Log entry i counts one more report. -/
def bumpEntry (s : State) (i : Nat) : State :=
  let n := s.now
  let s := s.setReg (entryReg i 2) (min (s.reg (entryReg i 2) + 1) (2 ^ 32 - 1))
  let s := s.setReg (entryReg i 4) (s.reg (entryReg i 4) % 65536 + n % 65536 * 65536)
  s.setReg (entryReg i 5) (n / 65536 % 2 ^ 32)

def coalDepth (s : State) : Nat := bitsOf (s.reg R.EL_CTRL) 15 8
def coalWindow (s : State) : Nat := 1000 * bitsOf (s.reg R.EL_CTRL) 31 16

/-- The newest written entry that a report joins. -/
def joinable (s : State) (r : Report) : Option Nat :=
  let w := bitsOf (s.reg R.EL_WR) 9 0
  ((List.range (min s.coalDepth 1024)).map fun k => (w + 1023 - k) % 1024).find? fun i =>
    bitOf (s.reg (entryReg i 1)) 0 && !bitOf (s.reg (entryReg i 1)) 2 && (s.loggedRep i).sameKey r && Nat.blt s.now (s.loggedFirst i + s.coalWindow)

/-- A queued report counts one more. -/
def joinQueue (now : Nat) (r : Report) : List Queued → List Queued
  | [] => []
  | q :: t => if q.rep.sameKey r then { q with count := min (q.count + 1) (2 ^ 32 - 1), last := now } :: t else q :: joinQueue now r t

/-- The overflow record takes a report (R465). -/
def overflow (s : State) : State :=
  let n := s.now
  let s := match s.el.ovf with
    | some (q, k) => s.elUpd fun e => { e with ovf := some ({ q with count := min (q.count + 1) (2 ^ 32 - 1), last := n }, k) }
    | none =>
      let s := s.elUpd fun e => { e with ovf := some (⟨⟨0x00C1, 0, false, 0, none⟩, 1, n, n⟩, e.low.length) }
      if s.el.ovfArmed then (s.setReg64 R.EL_OVF_FIRST_LO n).elUpd fun e => { e with ovfArmed := false } else s
  (s.setAlert 1).count R.EL_OVERFLOW_LO 1

/-- A report enters the intake, coalesces or overflows (R463–R465). -/
def intake (s : State) (r : Report) : State :=
  let n := s.now
  let q : Queued := ⟨r, 1, n, n⟩
  let high := Nat.ble 3 r.cls
  let enter := fun (s : State) =>
    if high then
      if s.el.high.length < 16 then s.elUpd fun e => { e with high := e.high ++ [q] } else s.elUpd fun e => { e with held := e.held ++ [r] }
    else if s.el.low.length < 256 then s.elUpd fun e => { e with low := e.low ++ [q] }
    else s.overflow
  if r.cls = 3 ∨ r.cls = 5 then enter s
  else if (s.el.high ++ s.el.low).any fun q => q.rep.sameKey r then
    (s.elUpd fun e => { e with high := joinQueue n r e.high, low := joinQueue n r e.low }).count R.EL_COALESCED_LO 1
  else match s.joinable r with
    | some i => (s.bumpEntry i).count R.EL_COALESCED_LO 1
    | none => enter s

/-! ### PLDM events (R476) -/

/-- An event for the event receiver, with its event class; a 65th that waits is dropped. -/
def pldmEvent (s : State) (cls : Nat) (data : List Byte) : State :=
  if 64 ≤ s.el.pldm.length then (s.count R.EL_PLDM_LOST_LO 1).setAlert 3
  else (s.elUpd fun e => { e with pldm := e.pldm ++ [BitVec.ofNat 8 cls :: data] }).send (.mctp 1 0x0A [2, cls] data)

/-! ### The writer (R463, R466) -/

/-- An entry is written at EL_WR. -/
def logEntry (s : State) (q : Queued) (ovf : Bool) : State :=
  let i := bitsOf (s.reg R.EL_WR) 9 0
  let s := s.putEntry i q ovf
  let wraps := bitsOf (s.reg R.EL_WR) 31 16
  let s := s.setReg R.EL_WR ((i + 1) % 1024 + (if i = 1023 then min (wraps + 1) 65535 else wraps) * 65536)
  let s := if s.el.unread = 1024 then
      ((s.setReg R.EL_RD ((s.reg R.EL_RD + 1) % 1024)).count R.EL_WRAP_LOST_LO 1).setAlert 2
    else s.elUpd fun e => { e with unread := e.unread + 1 }
  let s := s.count R.EL_RECORDED_LO 1
  let s := if bitsOf (s.reg R.EL_CTRL) 2 0 ≤ q.rep.cls then s.setAlert 0 else s
  let s := if 2 ≤ q.rep.cls then s.postEvent 5 (i + q.rep.code * 65536) else s
  if bitsOf (s.reg R.EL_CTRL) 6 4 ≤ q.rep.cls then
    s.pldmEvent 0xF0 (((List.range 8).map fun w => leBytes 4 (s.reg (entryReg i w))).flatten)
  else s

/-- The next report is recorded: reserved classes first; the overflow record after the reports queued before it.

DEDUCED: a report that its unit has held arrives when the slot frees, and then coalesces or queues as any other (log entry 63). -/
def writeNext (s : State) : State :=
  match s.el.high with
  | q :: t =>
    let next := (s.elUpd fun e => { e with high := t }).logEntry q false
    match s.el.held with
    | [] => next
    | l => l.foldl intake (next.elUpd fun e => { e with held := [] })
  | [] =>
    match s.el.ovf, s.el.low with
    | some (q, 0), _ => (s.elUpd fun e => { e with ovf := none }).logEntry q true
    | o, q :: t => (s.elUpd fun e => { e with low := t, ovf := o.map fun x => (x.1, x.2 - 1) }).logEntry q false
    | some (q, _), [] => (s.elUpd fun e => { e with ovf := none }).logEntry q true
    | none, [] => s

/-! ### Logical and physical cores (R34, R35) -/

/-- The physical core that holds logical core c. -/
def physOf (s : State) (c : Nat) : Nat :=
  match s.gl.spares.find? fun x => x.2 == c + 1 with
  | some x => x.1
  | none => c / 48 * 52 + c % 48

/-- The logical core that physical core p holds. -/
def logicalOf (s : State) (p : Nat) : Option Nat :=
  match s.gl.spares.get? p with
  | some 0 => none
  | some c => some (c - 1)
  | none => if p % 52 < 48 then some (p / 52 * 48 + p % 52) else none

/-! ### Retirement (R38, R469–R472) -/

/-- Entries of EL_RETIRED of a kind. -/
def retiredIds (s : State) (kind : Nat) : List Nat :=
  (List.range 512).filterMap fun r =>
    let w := s.reg (R.EL_RETIRED + 4 * r)
    if bitOf w 31 && bitsOf w 25 24 == kind then some (bitsOf w 15 0) else none

/-- A new entry of the retirement table. -/
def addRetired (s : State) (kind id : Nat) : State :=
  match (List.range 512).find? fun r => !bitOf (s.reg (R.EL_RETIRED + 4 * r)) 31 with
  | some r => s.setReg (R.EL_RETIRED + 4 * r) (id + kind * 2 ^ 24 + 2 ^ 31)
  | none => s

/-- Hours since cold start. -/
def hour (s : State) : Nat := s.now / 3600000000

/-- An hourly bucket counts one. -/
def bucketAdd (h : Nat) : List (Nat × Nat) → List (Nat × Nat)
  | [] => [(h, 1)]
  | (k, n) :: t => if k = h then (k, n + 1) :: t else (k, n) :: bucketAdd h t

/-- Counts of the last `w` hours, the present one included. -/
def bucketSum (h w : Nat) (l : List (Nat × Nat)) : Nat := ((l.filter fun x => Nat.blt h (x.1 + w)).map (·.2)).sum

/-- A pseudo-channel meets R469: it is retired, or its stack has lost too many (R471). -/
def retireChannel (s : State) (st pc : Nat) : State :=
  let key := 64 * st + pc
  let gone := ((s.retiredIds 1).filter fun k => k / 64 == st).length
  if s.ti.retired.contains key || s.ti.evac.contains key then s
  else if bitsOf (s.reg R.EL_ESCALATE) 5 0 ≤ gone then s.report 5 (0x18 + st) 0x06 pc 0
  else ((s.addRetired 1 key).report 3 (0x18 + st) 0x03 pc 0).retirePc st pc

/-- A core is retired while running (R38).

DESIGN CHOICE: the manual does not define which steps in progress use a retired core; they are the steps of the model instances that have a slot on it which is not IDLE at that moment. -/
def retireCore (s : State) (p : Nat) : State :=
  if (s.retiredIds 0).contains p then s
  else
    let s := s.addRetired 0 p
    let d := p / 52
    let s := s.raise ⟨3 * 4096 + (0x0C + d) * 64 + 0x13, p, true, 0, none⟩
    match s.logicalOf p with
    | none => s
    | some c =>
      let k := s.core c
      let ms := ((List.range 8).filterMap fun i => if (k.slot i).phase = .idle then none else some (k.slot i).model).eraseDups
      let s := (ms.foldl (fun s m => s.endStep m 0x11 0 (c + p * 256)) s).slAbortCore c
      let s := (s.hi.reqs.filter fun r => r.phase == .admitted && (match s.modelOf r with | some m => ms.contains m | none => false)).foldl finishReq s
      (s.elUpd fun e => { e with coreLost := true, degraded := true }).postEvent 3 (c + p * 256)

/-- The counts of a corrected or uncorrectable report, and the tests of R469 and R471. Uncorrectable reports at one 64-byte address count once in a window (R470). -/
def retireTest (s : State) (r : Report) : State :=
  let h := s.hour
  let isCore := Nat.ble 0x0C r.blk && Nat.ble r.blk 0x0F
  let isSt := Nat.ble 0x18 r.blk && Nat.ble r.blk 0x1F
  let p := if r.phys then r.source else s.physOf r.source
  let addCorr := fun (s : State) (key : Nat) => s.elUpd fun e => { e with corr := e.corr.put key (bucketAdd h (Map.getD [] e.corr key)) }
  let countUe := fun (s : State) (key : Nat) => s.elUpd fun e => { e with ue := e.ue.put key (bucketAdd h (Map.getD [] e.ue key)) }
  let addUe := fun (s : State) (key w : Nat) =>
    match r.addr with
    | none => countUe s key
    | some a =>
      if (Map.getD [] s.el.ueSeen key).any fun x => x.1 == a / 64 && Nat.blt h (x.2 + w) then s
      else (countUe s key).elUpd fun e => { e with ueSeen := e.ueSeen.put key (Map.getD [] e.ueSeen key ++ [(a / 64, h)]) }
  let above := fun (s : State) (reg key : Nat) =>
    let v := s.reg reg
    let ues := bucketSum h (bitsOf v 28 24) (Map.getD [] s.el.ue key)
    Nat.blt (bitsOf v 15 0) (bucketSum h (bitsOf v 28 24) (Map.getD [] s.el.corr key)) || (Nat.blt 0 ues && Nat.ble (bitsOf v 19 16) ues)
  if isCore && r.cause == 0x10 then
    let s := addCorr s p
    if above s R.EL_RETIRE_CORE p then s.retireCore p else s
  else if isCore && r.cause == 0x11 then
    let s := addUe s p (bitsOf (s.reg R.EL_RETIRE_CORE) 28 24)
    if above s R.EL_RETIRE_CORE p then s.retireCore p else s
  else if isSt && (r.cause == 0x01 || r.cause == 0x02) then
    let st := r.blk - 0x18
    let key := 65536 + 64 * st + r.source % 64
    let s := if r.cause == 0x01 then addCorr s key else addUe s key (bitsOf (s.reg R.EL_RETIRE_PC) 28 24)
    if above s R.EL_RETIRE_PC key then s.retireChannel st (r.source % 64) else s
  else if Nat.ble 0x10 r.blk && Nat.ble r.blk 0x17 && r.cause == 0x03 then
    let key := 131072 + (r.blk - 0x10)
    let s := countUe s key
    let w := bitsOf (s.reg R.EL_RETIRE_PC) 28 24
    if bucketSum h w (Map.getD [] s.el.ue key) = bitsOf (s.reg R.EL_ESCALATE) 11 8 then s.report 5 r.blk 0x05 0 0 else s
  else s

/-! ### Fatal handling (R468) -/

/-- A class 5 report: FATAL, every running step ends, and every request completes with DEGRADED. -/
def fatal (s : State) : State :=
  let s := (s.elUpd fun e => { e with fatal := true, degraded := true }).setAlert 4
  let s := s.endSteps 0x10 0 0
  (s.hi.reqs.filter fun r => r.phase != .fetching).foldl (fun s r => s.complete r 0x1C 0 0) s

/-- A report arrives at the chip manager. -/
def takeReport (s : State) (r : Report) : State :=
  if 5 < r.cls then s
  else
    let s := (s.count (R.EL_CLASS_CNT + 8 * r.cls) 1).intake r
    let s := s.retireTest r
    if r.cls = 5 then s.fatal else s

/-- A QUEUE_ERROR that a unit of the model did not raise: a write to the queue's completion or token ring was refused (R394). Which entry it was is not given.

DESIGN CHOICE: no command of its own says that a completion entry was refused; this report stands for it. -/
def ringRefused (s : State) (r : Report) : State :=
  let q := r.source
  if r.code ≠ 0x2084 ∨ 1024 ≤ q ∨ !s.ringOk q then s
  else
    let (v, s) := s.draw
    let s := (s.setPair q { s.pair q with phase := 4, snoop := false }).setReg (qReg q 0x34) (2 + v % 65536 * 65536)
    (s.orReg R.HI_ERR 0x20).postEvent 0x04 (q + 2 * 65536)

/-! ### The EL registers (R466, R467) -/

/-- EL_RD written: discarded where it would pass EL_WR. -/
def writeElRd (s : State) (v : Nat) : State :=
  let d := (v % 1024 + 1024 - s.reg R.EL_RD % 1024) % 1024
  if d ≤ s.el.unread then (s.setReg R.EL_RD (v % 1024)).elUpd fun e => { e with unread := e.unread - d } else s

/-- EL_TEST written. -/
def writeElTest (s : State) (v : Nat) : State := if bitsOf v 31 24 = 0x3C then s.report 0 0x03 0x02 (v % 65536) 0 else s

/-- EL_ALERT bits cleared; FATAL stays. -/
def clearAlert (s : State) (v : Nat) : State :=
  let old := s.reg R.EL_ALERT
  let s := s.setReg R.EL_ALERT (old - (old &&& (v % 16)))
  if bitOf v 1 && bitOf old 1 then s.elUpd fun e => { e with ovfArmed := true } else s

/-- EL_ALERT_EN written. -/
def writeAlertEn (s : State) (v : Nat) : State := s.alertEdge fun s => s.setReg R.EL_ALERT_EN (v % 32)

end State

/-- ERROR_REPORT (R463): a report arrives; one that a unit of the model raised leaves that list. -/
def execErrorReport (code source : BitVec 16) (phys : Bool) (data : DWord) (s : State) : Outcome :=
  let r : Report := ⟨code.toNat, source.toNat, phys, data.toNat, none⟩
  .next (match s.el.raised.find? fun x => { x with addr := none } == r with
    | some x => (s.elUpd fun e => { e with raised := e.raised.erase x }).takeReport x
    | none => (s.takeReport r).ringRefused r)

/-- LOG_ENTRY_WRITE (R466). -/
def execLogEntryWrite (s : State) : Outcome := .next s.writeNext

/-- EL_RD (R466). -/
def execElRd (v : Word) (s : State) : Outcome := .next (s.writeElRd v.toNat)

/-- EL_TEST (R478). -/
def execElTest (v : Word) (s : State) : Outcome := .next (s.writeElTest v.toNat)

/-- EL_ALERT (R467). -/
def execElAlert (v : Word) (s : State) : Outcome := .next (s.clearAlert v.toNat)

/-- EL_ALERT_EN (R467). -/
def execElAlertEn (v : Word) (s : State) : Outcome := .next (s.writeAlertEn v.toNat)

/-- PLATFORM_EVENT_ACK (R476). -/
def execPlatformEventAck (s : State) : Outcome := .next (s.elUpd fun e => { e with pldm := e.pldm.tail })

end Sys2Proof.Machine
end

