-- ==== Sys2Proof/Machine/Package.lean ====
section
/-! DEFINITION. The lands of the package and the signals on them (R500–R505). -/

namespace Sys2Proof.Machine

/-- A signal: of a culvert port's lane, of a PCI Express lane, or one that R504 names. A TX pin drives away from the D8 (R502). -/
inductive LandSignal where
  | culvert (port lane : Nat) (tx positive : Bool)
  | pcie (lane : Nat) (tx positive : Bool)
  | named (name : String)
  deriving DecidableEq, Repr

/-- The net of a land (R505). -/
inductive Net where
  | vss
  | vddCore (die : Nat)
  | vddSram
  | vddStk
  | vddqStk
  | vppStk
  | vddSd
  | vddPe
  | vddIo
  | vddPll
  | signal (pin : LandSignal)
  deriving DecidableEq, Repr

/-- Direction of a signal of R504. -/
inductive PinDir where
  | input
  | output
  | both
  deriving DecidableEq, Repr

/-- A signal that R504 lists: its row and column, its name, its direction, and whether it is in the boundary-scan chain (R509). -/
structure NamedPin where
  row  : Nat
  col  : Nat
  name : String
  dir  : PinDir
  scan : Bool
  deriving DecidableEq, Repr

/-- Management signals of row B (R504). -/
def pinsB : List NamedPin :=
  [⟨2, 54, "RESET_N", .input, true⟩, ⟨2, 55, "PWRGOOD", .input, true⟩, ⟨2, 56, "STEP_SYNC", .input, true⟩, ⟨2, 57, "STEP_MARK", .output, true⟩,
   ⟨2, 58, "ALERT_N", .output, true⟩, ⟨2, 59, "THERMTRIP_N", .output, true⟩, ⟨2, 60, "FAST_THROT_N", .input, true⟩, ⟨2, 61, "PMB_SCL", .output, true⟩,
   ⟨2, 62, "PMB_SDA", .both, true⟩, ⟨2, 63, "PMB_ALERT_N", .input, true⟩, ⟨2, 64, "I3C_SCL", .input, true⟩, ⟨2, 65, "I3C_SDA", .both, true⟩,
   ⟨2, 66, "TEST_EN", .input, false⟩, ⟨2, 67, "PE_PERST_N", .input, true⟩]

/-- Flash and JTAG signals of row D (R504). -/
def pinsD : List NamedPin :=
  [⟨4, 54, "XSPI_SCK", .output, true⟩, ⟨4, 55, "XSPI_CS_N", .output, true⟩, ⟨4, 56, "XSPI_DQS", .input, true⟩, ⟨4, 57, "XSPI_RESET_N", .output, true⟩,
   ⟨4, 58, "XSPI_DQ0", .both, true⟩, ⟨4, 59, "XSPI_DQ1", .both, true⟩, ⟨4, 60, "XSPI_DQ2", .both, true⟩, ⟨4, 61, "XSPI_DQ3", .both, true⟩,
   ⟨4, 62, "XSPI_DQ4", .both, true⟩, ⟨4, 63, "XSPI_DQ5", .both, true⟩, ⟨4, 64, "XSPI_DQ6", .both, true⟩, ⟨4, 65, "XSPI_DQ7", .both, true⟩,
   ⟨4, 66, "TCK", .input, false⟩, ⟨4, 67, "TMS", .input, false⟩, ⟨4, 68, "TDI", .input, false⟩]

/-- The other signals of R504. -/
def pinsElse : List NamedPin :=
  [⟨6, 54, "TDO", .output, false⟩, ⟨6, 55, "TRST_N", .input, false⟩, ⟨6, 60, "SYS_REFCLK_P", .input, true⟩, ⟨6, 61, "SYS_REFCLK_N", .input, true⟩,
   ⟨29, 2, "PE_REFCLK_P", .input, true⟩, ⟨29, 3, "PE_REFCLK_N", .input, true⟩]

/-- The signals of R504. -/
def namedPins : List NamedPin := pinsB ++ pinsD ++ pinsElse

/-- Letter i of row names. -/
def rowLetter (i : Nat) : Char := ['A', 'B', 'C', 'D', 'E', 'F', 'G', 'H', 'J', 'K', 'L', 'M', 'N', 'P', 'T', 'U', 'V', 'W', 'Y'].getD i 'A'

/-- The name of row k, 1–120 (R500). -/
def rowName (k : Nat) : List Char := if k ≤ 19 then [rowLetter (k - 1)] else [rowLetter ((k - 20) / 19), rowLetter ((k - 20) % 19)]

/-- The side of the package that a land of an edge strip lies on, with its depth and position (R501). -/
inductive Strip where
  | top (d p : Nat)
  | bottom (d p : Nat)
  | left (d p : Nat)
  | right (d p : Nat)
  deriving DecidableEq, Repr

/-- ⌈max(|r − 60.5|, |c − 60.5|)⌉. -/
def landRing (r c : Nat) : Nat :=
  let f := fun (x : Nat) => if x ≤ 60 then 61 - x else x - 60
  max (f r) (f c)

/-- The die whose quadrant a land lies in. -/
def quadrant (r c : Nat) : Nat := if r ≤ 60 then (if c ≤ 60 then 0 else 1) else if c ≤ 60 then 3 else 2

/-- The strip of a land outside the core field. -/
def stripOf (r c : Nat) : Strip :=
  if r ≤ 12 then .top r c else if 109 ≤ r then .bottom (121 - r) c else if c ≤ 12 then .left c r else .right (121 - c) r

/-- The signal block of a strip position: its port, or none for PCI Express, with the lane (R503). -/
def signalBlock : Strip → Option (Option Nat × Nat)
  | .top _ p => if 13 ≤ p ∧ p ≤ 52 then some (some ((p - 13) / 8), (p - 13) % 8)
      else if 69 ≤ p ∧ p ≤ 108 then some (some (5 + (p - 69) / 8), (p - 69) % 8) else none
  | .bottom _ p => if 77 ≤ p ∧ p ≤ 108 then some (some (10 + (p - 77) / 8), (p - 77) % 8)
      else if 13 ≤ p ∧ p ≤ 44 then some (some (14 + (p - 13) / 8), (p - 13) % 8) else none
  | .left _ p => if 13 ≤ p ∧ p ≤ 28 then some (none, p - 13) else none
  | .right _ _ => none

/-- Depth and position of a strip's land. -/
def Strip.place : Strip → Nat × Nat
  | .top d p => (d, p)
  | .bottom d p => (d, p)
  | .left d p => (d, p)
  | .right d p => (d, p)

/-- The signal of depth d in a block (R503): TX at depths 2 and 3, RX at 6 and 7, P before N. -/
def blockPin (port : Option Nat) (lane d : Nat) : Option LandSignal :=
  let mk := fun (tx pos : Bool) => match port with
    | some n => LandSignal.culvert n lane tx pos
    | none => LandSignal.pcie lane tx pos
  match d with
  | 2 => some (mk true true)
  | 3 => some (mk true false)
  | 6 => some (mk false true)
  | 7 => some (mk false false)
  | _ => none

/-- The rail of the odd lands of a strip outside the blocks (R501); a position that the table does not name is in a block. -/
def stripRail (st : Strip) (r c : Nat) : Net :=
  match st with
  | .top _ _ => .vddIo
  | .bottom _ _ => .vddSd
  | .left _ _ => .vddCore (quadrant r c)
  | .right _ _ => .vddCore (quadrant r c)

/-- A land of an edge strip (R501, R503). -/
def edgeLand (r c : Nat) : Net :=
  let st := stripOf r c
  let (d, p) := st.place
  match signalBlock st with
  | some (port, lane) =>
    match blockPin port lane d with
    | some pin => .signal pin
    | none => if d ≤ 8 ∨ (d + p) % 2 = 0 then .vss else match port with | some _ => .vddSd | none => .vddPe
  | none => if (d + p) % 2 = 0 then .vss else stripRail st r c

/-- A land of the core field, by its ring k (R501). -/
def coreLand (r c k : Nat) : Net :=
  if (r + c) % 2 = 0 then .vss
  else if k ≤ 36 then .vddCore (quadrant r c)
  else if k ≤ 40 then .vddSram
  else if k ≤ 42 then .vddStk
  else if k = 43 then .vddqStk
  else if k = 44 then .vppStk
  else if k ≤ 46 then .vddSd
  else if k = 47 then .vddPe
  else if r ≤ 60 then .vddIo else .vddPll

/-- The net of the land of row r and column c, 1–120 each; none where the package has no land (R501). -/
def landNet (r c : Nat) : Option Net :=
  let k := landRing r c
  let rim := fun (x : Nat) => decide (x ≤ 12) || decide (109 ≤ x)
  if r = 0 ∨ c = 0 ∨ 120 < r ∨ 120 < c then none
  else if rim r && rim c then none
  else if k ≤ 24 then none
  else match namedPins.find? fun x => x.row == r && x.col == c with
    | some x => some (.signal (.named x.name))
    | none => some (if k ≤ 48 then coreLand r c k else edgeLand r c)

/-- Signals in the boundary-scan chain (R509): the 640 of R503 and those of R504 but TCK, TMS, TDI, TDO, TRST_N and TEST_EN. -/
def scanSignals : Nat := 640 + (namedPins.filter (·.scan)).length

end Sys2Proof.Machine
end

