-- ==== Sys2Proof/Machine/Image.lean ====
section
/-! DEFINITION. The flash image: header, section table and records (R411–R421), and the checks of a slot up to its keys (R422). -/

namespace Sys2Proof.Machine

/-- A record of a section (R418): its section's TYPE, its number in the section, the byte offset of its elements there, and its header's fields. -/
structure IRec where
  sect  : Nat
  num   : Nat
  off   : Nat
  rtype : Nat
  index : Nat
  count : Nat
  elem  : Nat
  data  : List Byte
  deriving DecidableEq, Repr

/-- Where a check fails: its code, the section's TYPE, the record and the byte offset of the failing element (R422). -/
structure ICause where
  code : Nat
  sect : Nat
  num  : Nat
  off  : Nat
  deriving DecidableEq, Repr

namespace IRec

/-- Field of n bytes at offset i of element k. -/
def field (r : IRec) (k i n : Nat) : Nat := leField r.data (k * r.elem + i) n
/-- Element k as a number. -/
def val (r : IRec) (k : Nat) : Nat := r.field k 0 r.elem
/-- A failure of element k. -/
def bad (r : IRec) (code k : Nat) : ICause := ⟨code, r.sect, r.num, r.off + k * r.elem⟩

end IRec

/-! ### Sections (R415, R417) -/

/-- An entry of the section table. -/
structure ISect where
  ty   : Nat
  opt  : Bool
  off  : Nat
  len  : Nat
  body : List Byte
  deriving DecidableEq, Repr

/-- Record types of each section; none for a TYPE that schema 2.1 does not define. -/
def sectionTypes (ty : Nat) : Option (List Nat) :=
  match ty with
  | 1 => some [0x0001]
  | 2 => some [0x0100, 0x0101, 0x0102, 0x0103, 0x0104, 0x0105, 0x0106, 0x0107, 0x0108]
  | 3 => some [0x0301, 0x0302, 0x0303]
  | 4 => some [0x0401, 0x0402]
  | 5 => some [0x0501, 0x0502]
  | 6 => some [0x0001]
  | 7 => some [0x0001]
  | 8 => some [0x0801]
  | 9 => some [0x0901]
  | 10 => some [0x0A01, 0x0A02]
  | _ => none

/-- Every RTYPE that schema 2.1 defines. -/
def recordTypes : List Nat := ((List.range 11).filterMap sectionTypes).flatten

/-- ELEM of a record type (R418); PROJ's depends on the model. -/
def elemOf (rtype index : Nat) : Option Nat :=
  match rtype with
  | 0x0001 => some 8
  | 0x0100 => some 256
  | 0x0101 => some 32
  | 0x0102 => some 4
  | 0x0103 => some 64
  | 0x0104 => some 16
  | 0x0105 => some (if index = 4 then 192 else 48)
  | 0x0106 => some 16
  | 0x0107 => some 4
  | 0x0301 => some 8
  | 0x0302 => some 4
  | 0x0303 => some 4
  | 0x0401 => some 16
  | 0x0402 => some 32
  | 0x0501 => some 16
  | 0x0502 => some 1
  | 0x0801 => some 8
  | 0x0901 => some 1
  | 0x0A01 => some 32
  | 0x0A02 => some 80
  | _ => none

/-- The records of a body from record `num` at offset `off`, and where the framing breaks. -/
def takeRecs (ty : Nat) : Nat → Nat → Nat → List Byte → List IRec × Option (Nat × Nat)
  | 0, num, off, l => ([], if l = [] then none else some (num, off))
  | fuel + 1, num, off, l =>
    if l = [] then ([], none)
    else
      let n := leField l 4 4 * leField l 8 4
      let size := roundUp (16 + n) 16
      let pad := (l.take size).drop (16 + n)
      if l.length < 16 ∨ l.length < size ∨ leField l 12 4 ≠ 0 ∨ pad.any (· != 0) then ([], some (num, off))
      else
        let r : IRec := ⟨ty, num, off + 16, leField l 0 2, leField l 2 2, leField l 4 4, leField l 8 4, (l.drop 16).take n⟩
        let (rest, e) := takeRecs ty fuel (num + 1) (off + size) (l.drop size)
        (r :: rest, e)

namespace ISect

def recs (x : ISect) : List IRec × Option (Nat × Nat) := takeRecs x.ty (x.len / 16 + 1) 0 0 x.body

/-- A section is skipped whole (R417). -/
def skipped (x : ISect) : Bool :=
  x.opt && ((sectionTypes x.ty).isNone || x.recs.1.any fun r => !recordTypes.contains r.rtype)

/-- Record framing, element sizes and record types that do not belong here. -/
def framing (x : ISect) : Option ICause :=
  match sectionTypes x.ty with
  | none => x.recs.2.map fun (n, o) => ⟨8, x.ty, n, o⟩
  | some ok =>
    match x.recs with
    | (rs, e) =>
      match rs.find? fun r => recordTypes.contains r.rtype && (!ok.contains r.rtype || (match elemOf r.rtype r.index with | some n => r.elem != n | none => false)) with
      | some r => some ⟨8, x.ty, r.num, r.off⟩
      | none => e.map fun (n, o) => ⟨8, x.ty, n, o⟩

end ISect

namespace State

/-! ### The slots (R411, R412) -/

def slotAt (s : State) (slot : Nat) : Nat := slot * (s.im.capacity / 2)
def flashRead (s : State) (a n : Nat) : List Byte := Memory.readBytes 0xFF s.im.flash a n
def header (s : State) (slot : Nat) : List Byte := s.flashRead (s.slotAt slot) 4096

/-- Capacities from 64 MiB to 1 GiB, in powers of two. -/
def flashOk (s : State) : Bool := [64, 128, 256, 512, 1024].any fun m => s.im.capacity == m * 1048576

/-- The section table's entries, with their bodies. -/
def sections (s : State) (slot : Nat) : List ISect :=
  let h := s.header slot
  (List.range (min 32 (leField h 22 1))).map fun i =>
    let e := (h.drop (128 + 64 * i)).take 64
    ⟨leField e 0 2, bitOf (leField e 2 1) 0, leField e 4 4, leField e 8 4, s.flashRead (s.slotAt slot + leField e 4 4) (leField e 8 4)⟩

/-- Records that apply: of every section that is not skipped, in section order. -/
def imageRecs (s : State) (slot : Nat) : List IRec :=
  (((s.sections slot).filter fun x => !x.skipped).map fun x => x.recs.1).flatten

/-! ### Checks 0x01–0x0A (R422) -/

def zeroBytes (l : List Byte) (a b : Nat) : Bool := ((l.take b).drop a).all (· == 0)

def magicOk (h : List Byte) : Bool :=
  leField h 0 4 == 0x58444C47 && zeroBytes h 23 24 && zeroBytes h 36 128 && zeroBytes h 2272 3968 && zeroBytes h 4064 4096
    && Nat.ble (leField h 21 1) 64

def pubKey (h : List Byte) : List Byte := (h.drop 2176).take 96

def keyOk (s : State) (h : List Byte) : Bool :=
  let k := leField h 20 1
  Nat.ble k 3 && !s.gl.revoked.contains k && (match s.gl.fuseKeys.get? k with | some d => d == sha384 (pubKey h) | none => false)

def imageDigest (h : List Byte) : List Byte := sha384 (h.take 3968)

def signatureOk (h : List Byte) : Bool :=
  ecdsaVerify (beField h 2176 48) (beField h 2224 48) (beField (imageDigest h) 0 48) (beField h 3968 48) (beField h 4016 48)

/-- The section table (R415): entry i breaks it. -/
def sectBad (h : List Byte) (xs : List ISect) (i : Nat) : Bool :=
  let e := (h.drop (128 + 64 * i)).take 64
  if xs.length ≤ i then e.any (· != 0)
  else match xs[i]? with
    | none => true
    | some x =>
      leField e 2 1 / 2 != 0 || leField e 3 1 != 0 || leField e 12 4 != 0 || x.off % 4096 != 0 || Nat.blt x.off 4096
        || Nat.blt (leField h 24 4) (x.off + x.len)
        || (List.range xs.length).any fun j => j != i && (match xs[j]? with
          | some y => y.ty == x.ty || (Nat.blt x.off (y.off + y.len) && Nat.blt y.off (x.off + x.len))
          | none => false)

def tableCheck (s : State) (slot : Nat) : Option ICause :=
  let h := s.header slot
  let xs := s.sections slot
  let n := leField h 22 1
  if n = 0 ∨ 32 < n ∨ leField h 24 4 % 4096 ≠ 0 then some ⟨8, 0, 0, 0⟩
  else match (List.range 32).find? (sectBad h xs) with
    | some i => some ⟨8, leField h (128 + 64 * i) 2, 0, 0⟩
    | none => xs.findSome? ISect.framing

def digestCheck (s : State) (slot : Nat) : Option ICause :=
  let h := s.header slot
  let xs := s.sections slot
  (List.range xs.length).findSome? fun i =>
    match xs[i]? with
    | some x => if sha384 x.body = (h.drop (128 + 64 * i + 16)).take 48 then none else some ⟨9, x.ty, 0, 0⟩
    | none => none

def unknownCheck (s : State) (slot : Nat) : Option ICause :=
  (s.sections slot).findSome? fun x =>
    if x.opt then none
    else if (sectionTypes x.ty).isNone then some ⟨10, x.ty, 0, 0⟩
    else (x.recs.1.find? fun r => !recordTypes.contains r.rtype).map fun r => ⟨10, x.ty, r.num, r.off⟩

/-- Checks 0x02–0x07: those of the header alone, which a warm start repeats (R431). -/
def headerCheck (s : State) (h : List Byte) : Option ICause :=
  if !magicOk h then some ⟨2, 0, 0, 0⟩
  else if leField h 4 2 ≠ 2 then some ⟨3, 0, 0, 0⟩
  else if leField h 16 4 ≠ Map.getD 0 s.gl.otp 0 % 2 ^ 32 then some ⟨4, 0, 0, 0⟩
  else if !s.keyOk h then some ⟨5, 0, 0, 0⟩
  else if !signatureOk h then some ⟨6, 0, 0, 0⟩
  else if leField h 21 1 < s.gl.svn then some ⟨7, 0, 0, 0⟩
  else none

/-! ### Wrapped keys (R421) -/

/-- The unwrapped plaintext: seam key, bitmap, and the spill keys by polder; none where it does not unwrap. -/
def keyMaterial (s : State) (rs : List IRec) : Option (Option (Nat × Nat × Map (List Byte))) :=
  match rs.find? fun r => r.rtype == 0x0901 with
  | none => some none
  | some r =>
    match s.gl.kek with
    | none => none
    | some kek =>
      match keyUnwrap kek r.data with
      | none => none
      | some p =>
        let map := leField p 16 8
        let ps := (List.range 64).filter fun i => bitOf map i
        if p.length ≠ 24 + 64 * ps.length then none
        else
          let keys : Map (List Byte) := (List.range ps.length).filterMap fun j => (ps[j]?).map fun q => (q, (p.drop (24 + 64 * j)).take 64)
          some (some (leField p 0 8, leField p 8 8, keys))

end State

end Sys2Proof.Machine
end

