-- ==== Sys2Proof/Machine/ImageFill.lean ====
section
/-! DEFINITION. What an image's records say: register words, models, pump programs, regions, contexts and indexes (R418–R420), and the state that holds them. -/

namespace Sys2Proof.Machine

namespace IRec

/-! ### Models (R189, R190, R191, R419) -/

/-- Bytes of a section of `cols` columns with n token slots (R191). -/
def secBytes (f : Fmt) (cols n : Nat) : Nat :=
  cols / 32 * (n / 256 * f.blockBytes 256 + (if n % 256 = 0 then 0 else f.blockBytes (n % 256)))

def layoutBytes (latent : Bool) (hkv d latw ropew : Nat) (f : Fmt) (n : Nat) : Nat :=
  if latent then secBytes f latw n + secBytes f ropew n else 2 * hkv * secBytes f d n

/-- Bytes per token (R190). -/
def bptOf (latent : Bool) (hkv d latw ropew : Nat) (f : Fmt) : Nat :=
  let sb := b2n f.isBlock
  if latent then (latw + ropew) * f.bits / 8 + sb * (latw + ropew) / 32 else 2 * hkv * (d * f.bits / 8 + sb * d / 32)

/-- TPP is lowered by 16 until the layout fits a page. -/
def fitTpp (fits : Nat → Bool) : Nat → Nat → Nat
  | 0, n => n
  | k + 1, n => if fits n then n else fitTpp fits k (n - 16)

/-- Token slots per page (R190). -/
def tppOf (latent : Bool) (hkv d latw ropew : Nat) (f : Fmt) : Nat :=
  let n := min 4096 (262144 / max 1 (bptOf latent hkv d latw ropew f))
  fitTpp (fun n => Nat.ble (layoutBytes latent hkv d latw ropew f n) 262144) 257 (n / 16 * 16)

def hq (r : IRec) : Nat := r.field 0 0 1 + 1
def hkv (r : IRec) : Nat := r.field 0 1 1 + 1
def groups (r : IRec) : Nat := r.field 0 2 1 + 1
def groupC (r : IRec) : Nat := r.field 0 3 1 + 1
def dim (r : IRec) : Nat := 64 * 2 ^ r.field 0 4 1
def flag (r : IRec) (n : Nat) : Bool := bitOf (r.field 0 5 1) n
def sfmt (r : IRec) : Nat := r.field 0 6 1
def latw (r : IRec) : Nat := r.field 0 8 2
def ropew (r : IRec) : Nat := r.field 0 10 2
def layers (r : IRec) : Nat := r.field 0 12 2
def gcores (r : IRec) : List Nat := (List.range r.groups).map fun g => r.field 0 (64 + g) 1
def tpp (r : IRec) : Nat := tppOf (r.flag 2) r.hkv r.dim r.latw r.ropew (fmtOf r.sfmt)
/-- W of PROJ in bits (R241). -/
def projBits (r : IRec) : Nat := if r.flag 2 then r.latw + r.ropew else r.dim

/-- A model header (R419) with its projection. -/
def model (r : IRec) (proj : List (List Byte)) : Model :=
  { hq := r.hq, hkv := r.hkv, groups := r.groups, c := r.groupC, d := r.dim, split := r.flag 0, zigzag := r.flag 1
    latent := r.flag 2, seam := r.flag 3, select := r.flag 4, krec := r.flag 5, sfmt := r.sfmt, latw := r.latw, ropew := r.ropew
    layers := r.layers, p := r.field 0 14 2, recent := r.field 0 16 1, sinkp := r.field 0 17 1, gcores := r.gcores, tpp := r.tpp, proj := proj }

/-- KV_MODELm and QU_SELm (R226, R257). -/
def modelWord (r : IRec) : Nat :=
  r.tpp + 2 ^ 16 * b2n (r.flag 2) + 2 ^ 17 * b2n (r.flag 3) + 2 ^ 18 * b2n (r.flag 4) + 2 ^ 19 * b2n (r.flag 5) + 2 ^ 31
def selWord (r : IRec) : Nat := r.field 0 14 2 + 2 ^ 16 * r.field 0 16 1 + 2 ^ 24 * r.field 0 17 1 + 2 ^ 31

/-- The rows of a PROJ record. -/
def rows (r : IRec) : List (List Byte) := (List.range r.count).map fun k => (r.data.drop (k * r.elem)).take r.elem

/-! ### Regions, pump programs and indexes -/

/-- A region as its 16 bytes in a REGIONS record say (R261). -/
def region (w : Nat) : Region :=
  { base := bitsOf w 35 0, count := bitsOf w 71 40, polder := bitsOf w 77 72, shared := bitOf w 78, ro := bitOf w 79
    kind := bitsOf w 81 80, place := bitsOf w 83 82 }

/-- A PUMPHDR record (R418) with the entries of its program. -/
def pump (r : IRec) (entries : List (BitVec 256)) : PumpProgram :=
  { model := r.field 0 0 1, die := r.field 0 1 1, dike := r.field 0 2 1 % 64, pkg := bitOf (r.field 0 2 1) 7, depth := r.field 0 3 1
    layers := r.field 0 4 2, slots := r.field 0 6 1, stride := r.field 0 8 4, entries := entries }

/-- An index as its INDEXMAP record places it (R323). -/
def place (r : IRec) : SkIdx :=
  { cent := r.field 0 0 8, dir := r.field 0 8 8, list := r.field 0 16 8, listg := r.field 0 24 4, side := r.field 0 32 8
    recs := r.field 0 40 8, vec := r.field 0 48 8, tomb := r.field 0 56 8, allow := r.field 0 64 8
    gen := 0, head := 0, tail := 0, merge := none, want := false, spoil := [] }

/-! ### Register words of table records (R420) -/

def each (r : IRec) (f : Nat → List (Nat × Nat)) : List (Nat × Nat) := (List.range r.count).flatMap f
def words (r : IRec) (k n off : Nat) : List (Nat × Nat) := (List.range n).map fun j => (off + 4 * j, r.field k (4 * j) 4)

/-- Registers that a table record sets, with their values. -/
def tableWords (r : IRec) : List (Nat × Nat) :=
  match r.rtype with
  | 0x0100 => [(R.KV_MODEL + 4 * r.index, r.modelWord)] ++ (if r.flag 4 then [(R.QU_SEL + 4 * r.index, r.selWord)] else [])
  | 0x0102 => r.each fun k => [(State.coreReg (r.index + k) 0xC, r.val k)]
  | 0x0104 => r.each fun k => r.words k 4 (State.coreReg r.index (0x400 + 16 * k))
  | 0x0105 => r.each fun k =>
      if r.index = 4 then r.words k 48 (State.dieReg 0 (0x4000 + 0x100 * k)) else r.words k 12 (State.dieReg r.index (0x2000 + 0x40 * k))
  | 0x0107 => r.each fun k => [(R.SL_BUDGET + 4 * k, r.val k % 8192 + 2 ^ 31)]
  | 0x0301 => r.each fun k => r.words k 2 (R.SF_UPROG + 8 * k)
  | 0x0302 => r.each fun k => [(R.SF_FUNC_MAP + 4 * k, r.val k)]
  | 0x0303 => r.each fun k => [(R.SF_PWL_TABLE + 0x800 * r.index + 4 * k, r.val k)]
  | 0x0501 => r.each fun k => r.words k 4 (R.TI_REGION + 16 * k)
  | 0x0A01 => r.words 0 8 (R.SK_IDX + 64 * r.index)
  | _ => []

/-- Elements of a REGS record: offset and value. -/
def regWords (r : IRec) : List (Nat × Nat) :=
  if r.rtype = 1 then r.each fun k => [(r.field k 0 4, r.field k 4 4)] else []

end IRec

/-! ### The image as a whole -/

/-- The records of one type. -/
def ofType (t : Nat) (rs : List IRec) : List IRec := rs.filter fun r => r.rtype == t

/-- Element values of a record type over all its records of one INDEX, later records over earlier ones. -/
def elemsOf (t x : Nat) (rs : List IRec) : Map Nat :=
  ((ofType t rs).filter fun r => r.index == x).foldl (fun m r => (List.range r.count).foldl (fun m k => m.put k (r.val k)) m) []

def pumpPrograms (rs : List IRec) : List PumpProgram :=
  let hs := ofType 0x0401 rs
  let n := (hs.map fun r => r.index + 1).foldl max 0
  (List.range n).map fun p =>
    match hs.reverse.find? fun r => r.index == p with
    | some r => r.pump ((elemsOf 0x0402 p rs).map fun e => BitVec.ofNat 256 e.2)
    | none => ⟨0, 0, 0, false, 0, 0, 0, 0, []⟩

/-- The regions, in the order of TI_REGION0–1023 (R261). -/
def imageRegions (rs : List IRec) : List Region := (elemsOf 0x0501 0 rs).map fun e => IRec.region e.2

/-- Lists of all indexes that the image defines (R316). -/
def imageLists (rs : List IRec) : Nat :=
  ((List.range 64).filterMap fun x => (ofType 0x0A01 rs).reverse.find? fun r => r.index == x).foldl (fun n r =>
    if bitOf (r.field 0 0 4) 31 then n + bitsOf (r.field 0 8 4) 19 0 + 1 else n) 0

def imageModels (rs : List IRec) : Map Model :=
  (ofType 0x0100 rs).foldl (fun m r =>
    let proj := match (ofType 0x0108 rs).reverse.find? fun p => p.index == r.index with | some p => p.rows | none => []
    m.put r.index (r.model proj)) []

def imageContexts (rs : List IRec) : Map (BitVec 512) :=
  (ofType 0x0103 rs).foldl (fun m r => (List.range r.count).foldl (fun m k => m.put (32 * r.index + k) (BitVec.ofNat 512 (r.val k))) m) []

def imageOps (rs : List IRec) : Map (BitVec 128) := (elemsOf 0x0106 0 rs).map fun e => (e.1, BitVec.ofNat 128 e.2)

def imageIndexes (rs : List IRec) : Map SkIdx :=
  (ofType 0x0A02 rs).foldl (fun m r =>
    if (ofType 0x0A01 rs).any fun i => i.index == r.index && bitOf (i.field 0 0 4) 31 then m.put r.index (IRec.place r) else m) []

/-- User calibration: item · 65536 + place to its signed offset (R425). -/
def imageCal (rs : List IRec) : Map Int :=
  (ofType 0x0801 rs).foldl (fun m r => (List.range r.count).foldl (fun m k =>
    m.put (r.field k 0 2 * 65536 + r.field k 2 2) (signedOf 32 (r.field k 4 4))) m) []

/-- A step of a core that a STEPS record writes: core, step number, word. -/
def imageSteps (rs : List IRec) : List (Nat × Nat × Nat) :=
  (ofType 0x0101 rs).flatMap fun r => (List.range r.count).map fun k => (r.index, k, r.val k)

/-- A register that a REGS record may write and R420 fills. -/
def settable (off : Nat) : Bool :=
  match regRow off with
  | some r => r.access == .rwl || (r.access == .rw && r.img)
  | none => false

/-- A register that the image fills, by its own records or by default. -/
def imageReg (off : Nat) : Bool := match regRow off with | some r => r.img | none => false

def regMask (off : Nat) : Nat := match regRow off with | some r => r.mask | none => 0

namespace State

/-- A polder that the image defines (R275). -/
def definedPolders (rs : List IRec) (regs : List (Nat × Nat)) (keys : Map (List Byte)) : List Nat :=
  (List.range 64).filter fun p =>
    (imageRegions rs).any (·.polder == p) || (keys.get? p).isSome
      || regs.any fun e => (e.1 == R.TI_PQ_STACK + 16 * p || e.1 == R.TI_PQ_SPILL + 16 * p) && e.2 != 0

/-- Register words of an image: what its table records set, what follows from them, and then its REGS elements. -/
def imageWords (rs : List IRec) (keys : Map (List Byte)) : List (Nat × Nat) :=
  let regs := rs.flatMap IRec.regWords
  let defined := definedPolders rs regs keys
  let g := ((imageRegions rs).map (·.count)).sum
  let spill := ((regs.reverse.find? fun e => e.1 == R.TI_SPILL_GRANULES).map (·.2)).getD 0
  let up := (elemsOf 0x0301 0 rs).length
  let fn := ((elemsOf 0x0302 0 rs).filter fun e => bitOf e.2 31).length
  let tb := ((ofType 0x0303 rs).map (·.index)).eraseDups.length
  let cal := imageCal rs
  let plimit : Int := 1800 + 10 * Map.getD 0 cal (5 * 65536)
  let tlimit : Int := 105 + Map.getD 0 cal (4 * 65536)
  rs.flatMap IRec.tableWords
    ++ [(R.SF_UPROG_STATUS, up + 2 ^ 16 * fn + 2 ^ 24 * tb), (R.TI_MAP_GRANULES, g)
      , (R.TI_MAP_FRAMES, ceilDiv (2 * g) 65536 + 2 ^ 16 * ceilDiv spill 65536)
      , (R.SL_OPS, ((imageOps rs).filter fun e => bitOf e.2.toNat 3).length), (R.SK_LISTS, imageLists rs)
      , (R.GL_LIMITS, plimit.toNat + 2 ^ 16 * tlimit.toNat)]
    ++ defined.flatMap (fun p => [(R.TI_PCFG + 4 * p, b2n (keys.get? p).isSome + 2 ^ 31), (R.GL_POLDER_CTRL + 4 * p, 1)])
    ++ regs

/-- The image's registers as a table: masked to the bits that are not reserved, later elements over earlier ones. -/
def imageTable (l : List (Nat × Nat)) : Map Word :=
  l.foldl (fun m e => m.put e.1 (BitVec.ofNat 32 (e.2 &&& regMask e.1))) []

/-- Every register of R420 takes its retained or new value, the others of the image their default. -/
def fillRegs (s : State) (words : Map Word) : State :=
  let s := { s with regs := s.regs.filter fun e => !imageReg e.1 }
  words.foldl (fun s e => s.setReg e.1 e.2.toNat) s

/-- The state with what an image's records say in its registers and stores, before anything is written to memory: what the content rules judge. -/
def filled (s : State) (rs : List IRec) (words : Map Word) : State :=
  let s := s.fillRegs words
  { s with
    tg := { s.tg with ctxs := imageContexts rs, pumps := pumpPrograms rs }
    models := imageModels rs
    sl := { s.sl with ops := imageOps rs }
    ti := { s.ti with regions := imageRegions rs } }

end State

end Sys2Proof.Machine
end

