-- ==== Sys2Proof/Machine/ImageCheck.lean ====
section
/-! DEFINITION. The image checks KEYS, CALIBRATION and CONTENT (R422): what the chapters mark as rejected at load, judged against the state that the records would fill. -/

namespace Sys2Proof.Machine

/-- The place of a failing element that no rule states: section, record and offset are free. -/
def openPlace (code n : Nat) : ICause := ⟨code, Config.unstated 21 [code, n] % 65536, Config.unstated 22 [code, n] % 65536, Config.unstated 23 [code, n] % 2 ^ 24⟩

/-- The elements of a record type that break a rule. -/
def badElem (code t : Nat) (rs : List IRec) (bad : IRec → Nat → Bool) : List ICause :=
  (ofType t rs).flatMap fun r => ((List.range r.count).filter (bad r)).map (r.bad code)

/-- A rule over several elements is broken: which of them fails is not stated. -/
def badWhole (n : Nat) (bad : Bool) : List ICause := if bad then [openPlace 13 n] else []

/-- One of the failing elements of a check: the manual does not say which of several is reported. -/
def oneOf (l : List ICause) : Option ICause := l[Config.unstated 24 [l.length] % l.length]?

/-! ### Records and registers (R417, R418, R420) -/

/-- A record reaches past the last place it can address, or an INDEX is out of range. -/
def recOver (s : State) (rs : List IRec) (r : IRec) : Bool :=
  let room := match r.rtype with
    | 0x0100 => if r.index < 256 then 1 else 0
    | 0x0101 => if r.index < 192 then s.steps r.index else 0
    | 0x0102 => 192 - r.index
    | 0x0103 => if r.index < 192 then 32 else 0
    | 0x0104 => if r.index < 192 then 16 else 0
    | 0x0105 => if r.index < 4 then 64 else if r.index = 4 then 16 else 0
    | 0x0108 => if r.index < 256 then 256 else 0
    | 0x0303 => if r.index < 16 then 512 else 0
    | 0x0401 => if r.index < 64 then 1 else 0
    | 0x0402 => if r.index < 64 then 65536 else 0
    | 0x0A01 => if r.index < 64 then 1 else 0
    | 0x0A02 => if r.index < 64 then 1 else 0
    | t => if r.index ≠ 0 then 0 else match t with
      | 0x0106 => 65536
      | 0x0107 => 256
      | 0x0301 => 4096
      | 0x0302 => 128
      | 0x0501 => 1024
      | _ => r.count
  Nat.blt room r.count
    || (r.rtype == 0x0501 && Nat.blt 1024 ((ofType 0x0501 rs).map (·.count)).sum)

/-- Registers that a section's REGS records may name (R417). -/
def sectionAllows (ty off : Nat) : Bool :=
  let cu := Nat.ble 0xC00000 off && Nat.blt off 0xE00000
  match ty with
  | 1 => cu
  | 6 => [R.TG_SPLIT_READ, R.TG_SPLIT_WRITE, R.TG_SPLIT_REMOTE, R.TG_HOST_CAP, R.TG_CTX_CAP, R.TG_PUMP_CAP, R.TG_SLOT_SPLIT].contains off
  | _ => !cu

def within (v lo hi : Nat) : Bool := Nat.ble lo v && Nat.ble v hi

/-- The stated range of a register that an image may set (R420). -/
def regRange (off v : Nat) : Bool :=
  match (regRow off).map (·.base) with
  | none => false
  | some b =>
    if b == R.SF_CTRL then Nat.ble (bitsOf v 7 4) 2
    else if b == R.SQ_DIKE_TIMEOUT || b == R.SQ_CHAIN_TIMEOUT then within v 1 1000000
    else if b == R.TG_CTX_CAP then within (v % 2 ^ 14) 64 8192
    else if b == R.TG_PIN_TIME then within v 1 100000
    else if b == R.TG_PEER_TIMEOUT then within v 100 10000000
    else if b == R.TG_SLOT_SPLIT then
      Nat.ble 1 (bitsOf v 4 0) && Nat.ble 1 (bitsOf v 12 8) && Nat.ble 1 (bitsOf v 20 16) && bitsOf v 4 0 + bitsOf v 12 8 + bitsOf v 20 16 == 20
    else if b == R.KV_POOL_BASE_LO then v % 262144 == 0
    else if b == R.KV_POOL_PAGES then Nat.ble (v % 2 ^ 29) (2 ^ 28)
    else if b == R.KV_FREEBOARD then Nat.ble (v % 128) 100
    else if b == R.KV_PFT_BASE_LO || b == R.CU_RT_BASE_LO then v % 65536 == 0
    else if b == R.KV_PARK_TIMEOUT then within v 1 600000
    else if b == R.TI_HEAT_CTRL then Nat.blt (bitsOf v 15 8) (bitsOf v 7 0) && Nat.ble (bitsOf v 19 16) 8
    else if b == R.TI_SPILL_CTRL then within (bitsOf v 31 8) 10 1000000
    else if b == R.TI_RESUPPLY_TIMEOUT || b == R.SL_START_TIMEOUT || b == R.CU_DOWN_TIMEOUT then within v 1 10000
    else if b == R.TI_SPILL_GRANULES then Nat.ble (v % 2 ^ 29) (2 ^ 28)
    else if b == R.SL_HOP_TIMEOUT then within v 10 1000000
    else if b == R.SL_SLOW_CTRL then within (v % 16) 1 8 && Nat.ble (bitsOf v 31 8) 100000
    else if b == R.SL_ABORT_SETTLE then within v 10 10000
    else if b == R.CU_ROLE then Nat.ble (v % 16) 7 && Nat.ble (bitsOf v 11 8) 8
    else if b == R.CU_RETIRE_CTRL then Nat.ble 1 (v % 256) && within (bitsOf v 23 8) 1 3600
    else if b == R.CU_REPLAY_TIMEOUT then within v 200 100000
    else if b == R.CU_ETH_UDP then Nat.ble (bitsOf v 31 16) 10000
    else if b == R.CU_ETH_RTO then within v 2 10000
    else if b == R.DT_SYNC_CTRL then within (bitsOf v 15 8) 1 200
    else if b == R.DT_PCHUNK then within (v % 4096) 1 4096
    else if b == R.EL_CTRL then
      Nat.ble (v % 8) 5 && Nat.ble (bitsOf v 6 4) 5 && Nat.ble 1 (bitsOf v 15 8) && within (bitsOf v 31 16) 1 60000
    else if b == R.EL_RETIRE_PC || b == R.EL_RETIRE_CORE then
      Nat.ble 1 (v % 65536) && Nat.ble 1 (bitsOf v 19 16) && within (bitsOf v 28 24) 1 24
    else if b == R.EL_ESCALATE then within (v % 64) 1 32 && Nat.ble 1 (bitsOf v 11 8)
    else if b == R.PW_THROT_CTRL then within (v % 16) 1 10 && Nat.ble 1 (bitsOf v 15 8)
    else if b == R.PW_PMB_CTRL then v % 4 != 3
    else true

def regsBad (rs : List IRec) (r : IRec) (k : Nat) : Bool :=
  let off := r.field k 0 4
  !settable off || !sectionAllows r.sect off || !regRange off (r.field k 4 4)
    || ((rs.flatMap IRec.regWords).filter fun e => e.1 == off).length != 1

/-- Pools, caps and slots of the tags (R133, R152). -/
def splitBad (s : State) : Bool :=
  let rd := s.reg R.TG_SPLIT_READ
  let wr := s.reg R.TG_SPLIT_WRITE
  let re := s.reg R.TG_SPLIT_REMOTE
  ([rd, wr, re].any fun n => n % 1024 != 0 || Nat.blt n 4096) || rd + wr + re != 131072
    || !within (s.reg R.TG_HOST_CAP) 1024 (min re 16384) || !within (s.reg R.TG_PUMP_CAP) 1024 rd

/-- Port roles (R363). -/
def rolesBad (s : State) : Bool :=
  let role := fun (n : Nat) => s.reg (R.CU_ROLE + 0x10000 * n) % 16
  let gidx := fun (n : Nat) => bitsOf (s.reg (R.CU_ROLE + 0x10000 * n)) 11 8
  let ports := List.range 18
  ports.any fun n => role n != 0 && ((role n == 7 && Nat.blt n 12) || Nat.blt 9 (ports.filter fun m => role m == role n).length
    || ports.any fun m => m != n && role m == role n && gidx m == gidx n)

/-! ### Functions (R67, R70) -/

def pwlLoaded (rs : List IRec) (t : Nat) : Bool := (ofType 0x0303 rs).any fun r => r.index == t && r.count != 0

def uprogOps : List Nat := [1, 2, 3, 4, 5, 6] ++ (List.range 13).map (0x10 + ·)

/-- A function of SF_FUNC_MAP breaks R70 or names a reserved format. -/
def funcBad (s : State) (rs : List IRec) (v : Nat) : Bool :=
  let a := bitsOf v 11 0
  let n := bitsOf v 21 16 + 1
  bitOf v 31 && (Nat.blt 4 (bitsOf v 27 24) || bitsOf v 15 12 != 0 || bitsOf v 23 22 != 0 || bitsOf v 30 28 != 0 || Nat.blt 4096 (a + n)
    || (List.range n).any fun i =>
      let w := s.reg64 (R.SF_UPROG + 8 * (a + i))
      !uprogOps.contains (bitsOf w 63 58) || bitOf w 44 || bitsOf w 39 32 != 0 || bitOf w 45 != (i + 1 == n)
        || (bitsOf w 63 58 == 5 && !pwlLoaded rs (bitsOf w 43 40)))

/-- Word 0 of a PWL table (R67). -/
def pwlBad (r : IRec) (k : Nat) : Bool :=
  k == 0 && (let w := r.val 0; w % 4 == 3 || !within (bitsOf w 24 16) 1 256 || bitsOf w 15 2 != 0 || bitsOf w 31 25 != 0)

/-! ### Steps (R44, R51, R60, R76, R89, R95, R103, R106, R178, R290) -/

/-- Accumulation class of a matrix input: 2 half, 1 FP8; 0 for what is no matrix input (R51). -/
def accClass (f : Nat) : Nat := if f = 1 ∨ f = 2 then 2 else if 3 ≤ f ∧ f ≤ 12 then 1 else 0

def isBlockCode (f : Nat) : Bool := Nat.ble 5 f

/-- The highest bit of each step type's fields; none for a reserved TYPE. -/
def topBit (ty : Nat) : Option Nat :=
  match ty with
  | 0x01 => some 164
  | 0x02 => some 157
  | 0x03 => some 205
  | 0x04 => some 203
  | 0x05 => some 136
  | 0x06 => some 208
  | 0x07 => some 172
  | 0x08 => some 221
  | 0x10 => some 70
  | 0x11 => some 106
  | 0x12 => some 95
  | 0x13 => some 181
  | 0x1F => some 64
  | _ => none

def headerBad (w : Nat) : Bool :=
  let idle := [0x01, 0x10, 0x11, 0x12, 0x13, 0x1F].contains (stType w)
  bitsOf w 63 62 != 0 || stLoop w == 3 || stSatm w == 1 || (idle && stSatm w != 0)
    || (stFalt w && (bitOf w 31 || bitOf w 55))

/-- The SFU functions of R60. -/
def sfuFuncs : List Nat := [1, 2, 3, 4, 5, 8, 9, 10]

def sfuBad (s : State) (rs : List IRec) (w : Nat) : Bool :=
  let f := bitsOf w 71 64
  let m := s.reg (R.SF_FUNC_MAP + 4 * (f - 0x80))
  let tb := bitsOf w 135 132
  Nat.blt 2 (bitsOf w 127 124) || Nat.blt 4 (bitsOf w 131 128)
    || (if 0x80 ≤ f then !bitOf m 31 || bitsOf m 27 24 != bitsOf w 131 128 || bitOf w 136
        else if f = 5 then !pwlLoaded rs tb || (bitOf w 136 && s.reg (R.SF_PWL_TABLE + 0x800 * tb) % 4 == 0)
        else !sfuFuncs.contains f || bitOf w 136)

def vecOps : List Nat := [1, 2, 3, 4, 5, 6, 7, 8, 9, 0x10, 0x11, 0x18, 0x19, 0x20]

def vecBad (w : Nat) : Bool :=
  let op := bitsOf w 71 64
  let a := bitsOf w 163 160
  let d := bitsOf w 167 164
  if op = 0x10 then Nat.blt 12 a || Nat.blt 12 d || ((isBlockCode a || isBlockCode d) && (bitsOf w 159 144 + 1) % 32 != 0)
  else !vecOps.contains op || Nat.blt 4 a || Nat.blt 4 d || (op == 0x11 && a != d)

def mmaBad (w : Nat) : Bool :=
  let a := bitsOf w 148 145
  let b := bitsOf w 152 149
  let c := bitsOf w 156 153
  accClass a == 0 || accClass a != accClass b || Nat.blt 4 c || (bitOf w 157 && c != 0)
    || ((isBlockCode a || isBlockCode b) && (bitsOf w 144 132 + 1) % 32 != 0)

/-- MMA_REDUCE beside MMA (R106, R290). -/
def reduceBad (s : State) (c w : Nat) : Bool :=
  let op := (Map.getD 0 s.sl.ops (bitsOf w 205 190)).toNat
  bitsOf w 156 153 != 0 || bitOf w 157 || !Nat.blt (bitsOf w 169 169) (s.berms c) || (stFalt w && bitsOf w 189 178 % 16 == 15)
    || !bitOf op 3 || op % 8 != bitsOf w 160 158 || Nat.blt 1 (op % 8) || bitsOf op 11 4 != bitsOf w 168 161

def attnBad (s : State) (rs : List IRec) (c w : Nat) : Bool :=
  let n := bitsOf w 208 205
  let w0 := s.attnWord c n 0
  ((elemsOf 0x0104 c rs).get? n).isNone || w0 % 4 == 3 || accClass (bitsOf w0 7 4) == 0 || accClass (bitsOf w0 11 8) == 0
    || (bitOf w 211 && !bitOf w0 14 && s.plumbOn c && Nat.blt 0x200000 ((bitsOf w 221 212 + 1) * entryBytes (bitsOf w 196 190 + 1) (attnDim w0)))

def bodyBad (s : State) (rs : List IRec) (c w : Nat) : Bool :=
  match stType w with
  | 0x01 => Nat.blt 3 (bitsOf w 71 69) || bitsOf w 151 148 == 15 || bitsOf w 163 160 == 15
  | 0x02 => mmaBad w
  | 0x03 => mmaBad w || reduceBad s c w
  | 0x04 => vecBad w
  | 0x05 => sfuBad s rs w
  | 0x06 => Nat.blt 2 (bitsOf w 167 164) || Nat.blt 4 (bitsOf w 171 168) || Nat.blt 2 (bitsOf w 175 172)
  | 0x07 => Nat.blt 2 (bitsOf w 172 169) || Nat.blt (bitsOf w 160 154) (bitsOf w 167 161)
  | 0x08 => attnBad s rs c w
  | 0x10 => bitOf w 70 && Nat.blt 15 (bitsOf w 69 64)
  | 0x12 => within (bitsOf w 71 64) 192 254
  | _ => false

/-- A written step breaks R89. -/
def stepBad (s : State) (rs : List IRec) (c w : Nat) : Bool :=
  match topBit (stType w) with
  | none => true
  | some t =>
    w / 2 ^ (t + 1) != 0 || headerBad w || bodyBad s rs c w || !s.inRange c w 0 || (List.range 8).any fun i => !s.inRange c w (s.altOffset c i)

/-- Two instances' MMA_REDUCE steps name one berm (R290). -/
def bermShared (s : State) (rs : List IRec) : Bool :=
  let l := ((imageSteps rs).filter fun x => stType x.2.2 == 3).map fun x =>
    (x.1, bitsOf x.2.2 169 169, bitsOf (Map.getD 0 s.sl.ops (bitsOf x.2.2 205 190)).toNat 19 12)
  l.any fun a => l.any fun b => a.1 == b.1 && a.2.1 == b.2.1 && a.2.2 != b.2.2

/-! ### Cores, contexts and attention configurations (R81, R125, R176) -/

/-- A CORECFG element names a core that another names, or its regions break R81. -/
def coreBad (rs : List IRec) (r : IRec) (k : Nat) : Bool :=
  let v := r.val k
  let steps := bitsOf v 14 0
  let named := ((ofType 0x0102 rs).map fun x => b2n (Nat.ble x.index (r.index + k) && Nat.blt (r.index + k) (x.index + x.count))).sum
  named != 1 || !within steps 1 16384 || bitsOf v 17 16 == 3 || bitOf v 15 || v / 2 ^ 19 != 0
    || Nat.ble dataEnd (dataStart steps (bitsOf v 17 16) (bitOf v 18))

/-- A context breaks R123–R125: no mode allows it, or a reserved or hardware field is set. -/
def contextBad (r : IRec) (k : Nat) : Bool :=
  let w := r.val k
  ((List.range 4).all fun m => State.spaceBad w m)
    || bitsOf w 79 76 != 0 || bitsOf w 111 109 != 0 || bitsOf w 159 133 != 0 || bitsOf w 223 208 != 0 || w / 2 ^ 288 != 0
    || Nat.ble 192 (bitsOf w 131 124) || (scSpace w == 4 && Nat.ble (192 * 32) (scPeer w))

/-- QFMT and KVFMT of one accumulation class (R176), and no reserved code (R44). -/
def attnCfgBad (r : IRec) (k : Nat) : Bool :=
  let w := r.field k 0 4
  Nat.blt 12 (bitsOf w 7 4) || Nat.blt 12 (bitsOf w 11 8) || accClass (bitsOf w 7 4) == 0 || accClass (bitsOf w 7 4) != accClass (bitsOf w 11 8)

/-! ### Models (R157, R188–R190, R243, R250, R419) -/

def groupsOverlap (c : Nat) : List Nat → Bool
  | [] => false
  | a :: t => (t.any fun b => Nat.blt a (b + c) && Nat.blt b (a + c)) || groupsOverlap c t

/-- An ATTN_TILE step uses an attention configuration of another head dimension than the model's (R157).

DEDUCED: no field ties a configuration to a model; an ATTN_TILE step on a core is one of a model whose head groups hold the core, so its configuration must have the head dimension of one of them. -/
def modelDimBad (s : State) (rs : List IRec) (r : IRec) : Bool :=
  let owns := fun (m : IRec) (c : Nat) => m.gcores.any fun a => Nat.ble a c && Nat.blt c (a + m.groupC)
  (imageSteps rs).any fun x =>
    stType x.2.2 == 8 && owns r x.1
      && (ofType 0x0100 rs).all fun m => !owns m x.1 || attnDim (s.attnWord x.1 (bitsOf x.2.2 208 205) 0) != m.dim

def modelBad (s : State) (rs : List IRec) (r : IRec) : Bool :=
  let lat := r.flag 2
  let f := r.sfmt
  let g := r.hq / r.hkv
  let proj := (ofType 0x0108 rs).filter fun p => p.index == r.index
  Nat.blt 2 (r.field 0 4 1) || Nat.ble 64 (r.field 0 5 1) || r.field 0 7 1 != 0 || !((r.data.take 64).drop 18).all (· == 0)
    || !(r.data.drop (64 + r.groups)).all (· == 0)
    || r.hq % r.hkv != 0 || !within g 1 16 || r.hkv % r.groups != 0 || Nat.blt 192 (r.groups * r.groupC)
    || (r.gcores.any fun a => Nat.blt 192 (a + r.groupC)) || groupsOverlap r.groupC r.gcores || (r.flag 0 && r.groups % 2 != 0)
    || !(if lat then [3, 4, 11] else [1, 2, 3, 4, 11, 12]).contains f
    || (lat && (!within r.latw 64 1024 || r.latw % 32 != 0 || Nat.blt 256 r.ropew || r.ropew % 32 != 0))
    || !within r.layers 1 4096 || (r.flag 4 && Nat.blt 4096 (r.layers * r.hkv)) || Nat.blt r.tpp 16
    || (r.flag 4 && (!within (r.field 0 14 2) 1 1024 || !within (r.field 0 16 1) 1 64 || Nat.blt 64 (r.field 0 17 1)
      || Nat.blt 1024 (r.field 0 14 2 + r.field 0 16 1 + r.field 0 17 1) || !([3, 4, 11, 12].contains f)))
    || (lat && (Nat.blt r.dim r.ropew || Nat.blt 0x400000 (r.hkv * (2 * r.dim - r.ropew) * (r.latw / 32 * 33))))
    || (proj.any fun p => p.elem != r.projBits / 8 || p.count != 256) || s.reg R.KV_POOL_PAGES == 0 || modelDimBad s rs r

/-- PROJ records take more than 1 MiB together (R243). -/
def projOver (rs : List IRec) : Bool :=
  Nat.blt 0x100000 (((ofType 0x0100 rs).filter (·.flag 4)).map fun r => roundUp (256 * r.projBits / 8) 64).sum

/-! ### The pump (R139, R140) -/

def pumpBad (s : State) (r : IRec) : Bool :=
  let p := s.tg.pumps.getD r.index ⟨0, 0, 0, false, 0, 0, 0, 0, []⟩
  Nat.blt 3 p.die || (p.pkg && Nat.blt 15 p.dike) || bitOf (r.field 0 2 1) 6 || r.field 0 7 1 != 0 || !within p.layers 1 4096
    || !within p.depth 1 4 || !within p.slots 2 8 || Nat.blt p.slots (p.depth + 1) || p.layers % p.slots != 0
    || !within (r.field 0 12 4) 1 65536 || r.field 0 12 4 != p.entries.length

/-- The slot regions of a program: destination (die, or 4 + core), first byte and length. -/
def slotRegions (p : PumpProgram) : List (Nat × Nat × Nat) :=
  p.entries.flatMap fun e =>
    let w := e.toNat
    let dst := if bitsOf w 102 99 = 1 then bitsOf w 92 91 else 4 + bitsOf w 98 91
    (List.range p.slots).map fun k => (dst, bitsOf w 90 64 + k * p.stride * 64, (bitsOf w 122 103 + 1) * 64)

def meets (a b : Nat × Nat × Nat) : Bool := a.1 == b.1 && Nat.blt a.2.1 (b.2.1 + b.2.2) && Nat.blt b.2.1 (a.2.1 + a.2.2)

/-- A slot region that leaves its destination's room: a terrace, or the data region of a core (R81, R139).

DESIGN CHOICE: R139 names no rejection for a region that runs past the end of a terrace; the image is rejected. -/
def slotOutside (s : State) (x : Nat × Nat × Nat) : Bool :=
  if x.1 < 4 then Nat.blt 0x8000000 (x.2.1 + x.2.2)
  else Nat.blt x.2.1 (s.dataStart (x.1 - 4)) || Nat.blt dataEnd (x.2.1 + x.2.2)

def entryBad (s : State) (r : IRec) (k : Nat) : Bool :=
  let p := s.tg.pumps.getD r.index ⟨0, 0, 0, false, 0, 0, 0, 0, []⟩
  let w := r.val k
  let sp := bitsOf w 102 99
  bitsOf w 63 52 != 0 || bitsOf w 69 64 != 0 || !within sp 1 2 || (sp == 1 && Nat.blt 3 (bitsOf w 98 91)) || Nat.ble 192 (bitsOf w 98 91)
    || Nat.ble 192 (bitsOf w 130 123) || Nat.blt 15 (bitsOf w 142 139 + p.slots - 1) || Nat.ble p.layers (bitsOf w 159 144) || w / 2 ^ 160 != 0

def pumpsMeet (s : State) : Bool :=
  let n := s.tg.pumps.length
  let at_ := fun (i : Nat) => match s.tg.pumps[i]? with | some p => slotRegions p | none => []
  (List.range n).any fun i => (at_ i).any fun a => slotOutside s a
    || (List.range n).any fun j => i != j && (at_ j).any (meets a)

/-! ### Regions, quotas and fills (R188, R261, R262, R264, R275, R418) -/

def regionBad (r : IRec) (k : Nat) : Bool :=
  let w := r.val k
  let x := IRec.region (r.val k)
  bitsOf w 39 36 != 0 || w / 2 ^ 84 != 0 || x.count == 0 || x.place == 3 || Nat.blt (2 ^ 36) (x.base + x.count)
    || (x.kind == 2 && x.place != 0)

def regionsMeet : List Region → Bool
  | [] => false
  | a :: t => (t.any fun b => Nat.blt a.base (b.base + b.count) && Nat.blt b.base (a.base + a.count)) || regionsMeet t

/-- An extent lies wholly in regions that have a property. -/
def covered (l : List Region) (p : Region → Bool) (a n : Nat) : Bool :=
  let g0 := a / 65536
  let g1 := (a + n + 65535) / 65536
  let inside := ((l.filter p).map fun x => min g1 (x.base + x.count) - max g0 x.base).sum
  inside == g1 - g0

/-- The KV pool and its page frame table (R188, R262). -/
def poolBad (s : State) : Bool :=
  let base := s.reg64 R.KV_POOL_BASE_LO
  let pages := s.reg R.KV_POOL_PAGES
  let pft := s.reg64 R.KV_PFT_BASE_LO
  let kv := s.ti.regions.filter fun x => x.kind == 2
  if pages = 0 then kv.length != 0
  else
    let n := pages * 262144
    let weights := s.tg.pumps.flatMap fun p => p.entries.map fun e => (bitsOf e.toNat 51 0, (bitsOf e.toNat 122 103 + 1) * 64)
    let above := fun (a m : Nat) => weights.any fun x => Nat.blt a (x.1 + x.2) && Nat.blt x.1 (a + m)
    Nat.blt (2 ^ 52) (base + n) || Nat.blt (2 ^ 52) (pft + 16 * pages) || (Nat.blt base (pft + 16 * pages) && Nat.blt pft (base + n))
      || above base n || above pft (16 * pages)
      || (match kv with | [x] => x.base * 65536 != base || x.count != 4 * pages | _ => true)
      || !covered s.ti.regions (fun x => x.place == 1) pft (16 * pages)

/-- FILL records: address and data (R418). -/
def fills (rs : List IRec) : List (Nat × List Byte) := (ofType 0x0502 rs).map fun r => (leField r.data 0 8, r.data.drop 8)

def fillBad (s : State) (r : IRec) : Bool :=
  Nat.blt r.data.length 8 || !covered s.ti.regions (fun x => x.kind != 2) (leField r.data 0 8) (r.data.length - 8)

/-- Granules that FILL records write. -/
def fillGrans (rs : List IRec) : List Nat :=
  ((fills rs).flatMap fun x => if x.2.isEmpty then [] else (List.range ((x.1 % 65536 + x.2.length + 65535) / 65536)).map (x.1 / 65536 + ·)).eraseDups

/-- Capacity (R264) and quotas (R275). -/
def quotasBad (s : State) (rs : List IRec) : Bool :=
  let u := s.usableFrames
  let sp := s.reg R.TI_SPILL_GRANULES
  let sum := fun (f : Nat → Nat) => ((List.range 64).map f).sum
  let held := fun (p : Nat) =>
    ((s.ti.regions.filter fun x => x.polder == p && x.place != 0).map (·.count)).sum
      + ((fillGrans rs).filter fun g => match s.region g with | some x => x.polder == p && x.place == 0 | none => false).length
  Nat.blt (u + sp) (s.mapGranules + 4096) || Nat.blt u (sum s.quotaStack) || Nat.blt sp (sum s.quotaSpill)
    || (List.range 64).any fun p => Nat.blt (s.quotaStack p) (held p)

/-! ### Operations (R290, R291) -/

/-- A record that R290 or R291 rejects.

DEDUCED: the result of an ALL_GATHER has as many pieces for each chunk as its ring has members in the rank table that the D8 holds, and one while it holds none: the manual does not say which N a check at load takes. -/
def opBad (s : State) (r : IRec) (k : Nat) : Bool :=
  let w := r.val k
  let n := (bitsOf w 31 20 + 1) * 65536
  let pieces := if w % 8 = 2 then max 1 (Map.getD [] s.cu.rings (bitsOf w 11 4)).length else 1
  let far := fun (lo n : Nat) => Nat.blt 0x8000000 (bitsOf w (lo + 20) lo * 64 + n) || bitsOf w (lo + 31) (lo + 23) != 0
  Nat.blt 4 (w % 8) || bitsOf w 63 60 != 0 || bitOf w 3 && ((Nat.ble 2 (w % 8) && (far 64 n || far 96 (n * pieces)))
    || Nat.blt (s.reg (R.SL_BUDGET + 4 * bitsOf w 19 12) % 8192) (bitsOf w 31 20 + 1))

def budgetsBad (s : State) : Bool := Nat.blt 4096 ((List.range 256).map fun m => s.reg (R.SL_BUDGET + 4 * m) % 8192).sum

/-! ### Search indexes (R316, R323) -/

/-- The extents of an index: first byte, length, and whether it is a bitmap. -/
def indexExtents (s : State) (x : Nat) (i : SkIdx) : List (Nat × Nat × Bool) :=
  let blocks := ceilDiv (s.skSideCap x) 64
  let st := s.skStride x
  [(i.cent, s.skLists x * s.skSb x, false), (i.dir, 16 * s.skLists x, false), (i.list, i.listg * 65536, false)
  , (i.side, ceilDiv blocks (s.skPer x) * 65536, false), (i.recs, s.skCap x * s.skRecb x, false), (i.vec, s.skCap x * s.skVstride x, false)
  , (i.tomb, 8 * st, true)] ++ (if s.skFilters x = 0 then [] else [(i.allow, 8 * s.skFilters x * st, true)])

def extentsMeet : List (Nat × Nat × Bool) → Bool
  | [] => false
  | a :: t => (t.any fun b => Nat.blt a.1 (b.1 + b.2.1) && Nat.blt b.1 (a.1 + a.2.1)) || extentsMeet t

def indexBad (s : State) (rs : List IRec) (r : IRec) : Bool :=
  let x := r.index
  let w0 := r.field 0 0 4
  if !bitOf w0 31 then false
  else
    let opid := (Map.getD 0 s.sl.ops (r.field 0 28 4 % 65536)).toNat
    let place := (ofType 0x0A02 rs).reverse.find? fun m => m.index == x
    bitsOf w0 9 8 == 3 || !([2, 3, 4].contains (bitsOf w0 15 12)) || Nat.blt 16 (bitsOf w0 24 20) || !within (s.skDim x) 32 4096 || s.skDim x % 32 != 0
      || Nat.blt 16 (s.skFilters x) || !within (s.skCap x) 65536 (2 ^ 30) || !within (s.skSideCap x) 4096 16777216 || s.skSideCap x % 64 != 0
      || !within (s.skWord x 5 % 2 ^ 25) 64 (s.skSideCap x) || Nat.blt 48 (bitsOf (s.skWord x 2) 29 24 + 1)
      || Nat.blt 192 (bitsOf (s.skWord x 1) 31 24 + bitsOf (s.skWord x 2) 29 24 + 1)
      || (s.skSharded x && (!bitOf opid 3 || opid % 8 != 4 || bitsOf opid 11 4 != bitsOf (s.skWord x 6) 23 16 || bitsOf opid 31 20 != 4095))
      || (match place with
        | none => true
        | some m =>
          let e := indexExtents s x m.place
          let mine := fun (q : Region) => q.kind == 3 && q.polder == bitsOf w0 5 0
          m.field 0 24 4 == 0 || m.field 0 28 4 != 0 || m.field 0 72 8 != 0
            || e.any fun t => t.1 % 65536 != 0 || !covered s.ti.regions mine t.1 t.2.1
              || (t.2.2 && !covered s.ti.regions (fun q => mine q && q.place == 1) t.1 t.2.1))

/-! ### The three checks -/

/-- Polders that R275 requires to have a spill key and that lack one. -/
def keyLacks (s : State) (keys : Map (List Byte)) : Bool :=
  (List.range 64).any fun p => s.quotaSpill p != 0 && (keys.get? p).isNone

/-- User calibration (R425), on the factory points of the OTP words 12–27. -/
def calBad (s : State) (rs : List IRec) (r : IRec) (k : Nat) : Bool :=
  let item := r.field k 0 2
  let n := r.field k 2 2
  let v := signedOf 32 (r.field k 4 4)
  let twice := ((ofType 0x0801 rs).map fun x => ((List.range x.count).filter fun j => x.field j 0 2 == item && x.field j 2 2 == n).length).sum
  let lim := fun (places : Nat) (lo hi : Int) => !Nat.blt n places || decide (v < lo) || decide (hi < v)
  let mv := fun (p : Nat) => ((Map.getD 0 s.gl.otp (12 + 4 * n + p) % 1024 : Nat) : Int)
  twice != 1 || (match item with
    | 1 => lim 4 (-5) 5 || ((List.range 3).any fun p => decide (mv p + 5 * v < 650) || decide (850 < mv p + 5 * v)) || decide (mv 2 + 5 * v < mv 3)
    | 2 => lim 1 (-2) 2
    | 3 => lim 72 (-12) 12
    | 4 => lim 1 (-15) 0
    | 5 => lim 1 (-60) 0
    | 6 => lim 144 (-4) 4
    | 7 => lim 144 (-4) 4
    | 8 => lim 144 (-4) 4
    | 9 => lim 16 (-1) 10
    | 10 => lim 512 (-8) 8
    | _ => true)

/-- The elements that break a content rule. -/
def contentCheck (s : State) (rs : List IRec) : List ICause :=
  [ (rs.filter (recOver s rs)).map fun r => { r.bad 13 0 with off := Config.unstated 23 [13, r.sect, r.num] % 2 ^ 24 }
  , badElem 13 0x0001 rs (regsBad rs)
  , badElem 13 0x0102 rs (coreBad rs)
  , badElem 13 0x0100 rs fun r _ => modelBad s rs r
  , badWhole 1 (projOver rs)
  , badElem 13 0x0103 rs contextBad
  , badElem 13 0x0104 rs attnCfgBad
  , badElem 13 0x0106 rs (opBad s)
  , badWhole 2 (budgetsBad s)
  , badElem 13 0x0303 rs pwlBad
  , badElem 13 0x0302 rs fun r k => funcBad s rs (r.val k)
  , badElem 13 0x0101 rs fun r k => stepBad s rs r.index (r.val k)
  , badWhole 3 (bermShared s rs)
  , badElem 13 0x0401 rs fun r _ => pumpBad s r
  , badElem 13 0x0402 rs (entryBad s)
  , badWhole 4 (pumpsMeet s)
  , badElem 13 0x0501 rs regionBad
  , badWhole 5 (regionsMeet s.ti.regions)
  , badElem 13 0x0502 rs fun r k => k == 0 && fillBad s r
  , badWhole 6 (poolBad s)
  , badWhole 7 (quotasBad s rs)
  , badWhole 8 (splitBad s || rolesBad s)
  , badElem 13 0x0A01 rs fun r _ => indexBad s rs r
  , badWhole 9 (extentsMeet ((imageIndexes rs).flatMap fun e => indexExtents s e.1 e.2))
  , badWhole 10 (Nat.blt 1048576 (imageLists rs)) ].flatten

/-- The checks of R422 from FLASH on, in order; the records and keys of a slot that passes. -/
def State.slotCheck (s : State) (slot : Nat) (readable : Bool) : Except ICause (List IRec × Nat × Nat × Map (List Byte)) :=
  let h := s.header slot
  let first := if !readable || !s.flashOk || Nat.blt (s.im.capacity / 2) (leField h 24 4) then some ⟨1, 0, 0, 0⟩
    else (s.headerCheck h).orElse fun _ => (s.tableCheck slot).orElse fun _ => (s.digestCheck slot).orElse fun _ => s.unknownCheck slot
  match first with
  | some c => .error c
  | none =>
    let rs := s.imageRecs slot
    let atKeys : ICause := match rs.find? fun r => r.rtype == 0x0901 with | some r => r.bad 11 0 | none => { openPlace 11 0 with sect := 9 }
    match s.keyMaterial rs with
    | none => .error atKeys
    | some km =>
      let (k0, k1, keys) := km.getD (0, 0, [])
      let t := s.filled rs (State.imageTable (State.imageWords rs keys))
      if keyLacks t keys then .error atKeys
      else match (oneOf (badElem 12 0x0801 rs (calBad s rs))).orElse fun _ => oneOf (contentCheck t rs) with
        | some c => .error c
        | none => .ok (rs, k0, k1, keys)

end Sys2Proof.Machine
end

