-- ==== Sys2Proof/Machine/Start.lean ====
section
/-! DEFINITION. Cold start, warm start and image load (R34–R37, R413, R422–R440, R497). -/

namespace Sys2Proof.Machine

namespace State

def glUpd (s : State) (f : GlState → GlState) : State := { s with gl := f s.gl }
def imUpd (s : State) (f : ImState → ImState) : State := { s with im := f s.im }

/-! ### Resets -/

/-- Everything but the OTP and security fuses, the flash, the pins and what waits outside the block is discarded (R426, R497); THERMTRIP_N keeps its state (R490). -/
def discardAll (s : State) : State :=
  { State.reset with
    pending := s.pending, free := s.free, out := s.out, jt := s.jt
    hi := { HiState.reset with perst := s.hi.perst }
    gl := { GlState.reset with otp := s.gl.otp, fuseKeys := s.gl.fuseKeys, revoked := s.gl.revoked, kek := s.gl.kek, svn := s.gl.svn }
    im := { ImState.reset with flash := s.im.flash, capacity := s.im.capacity, flashId := s.im.flashId }
    pw := { PwState.reset with
      trip := s.pw.trip, stopped := s.pw.trip, rails := s.pw.rails, pwrgood := s.pw.pwrgood, resetN := s.pw.resetN
      sysRef := s.pw.sysRef, pll := s.pw.pll, peRef := s.pw.peRef, pin := s.pw.pin } }

/-- Each start draws a link instance number (R434). -/
def drawLink (s : State) : State := let (r, s) := s.draw; { s with cu := { s.cu with inst := r % 2 ^ 32 } }

/-- A cold start begins in phase 1 (R426, R427). -/
def coldStart (s : State) : State := (s.discardAll).drawLink

/-- The D8 is held in reset, and no start runs. -/
def holdReset (s : State) : State :=
  let s := s.discardAll
  { s with gl := { s.gl with running := false, phase := 0 }, pw := { s.pw with held0 := true } }

/-! ### Sparing (R34–R37, R424) -/

/-- Factory spare map of a die: the position that spare k holds. -/
def factorySpare (s : State) (d k : Nat) : Option Nat :=
  let b := bitsOf (Map.getD 0 s.gl.otp (2 + (4 * d + k) / 8)) ((4 * d + k) % 8 * 8 + 7) ((4 * d + k) % 8 * 8)
  if b < 48 then some b else none

/-- Positions of a die whose cores are unusable: by the factory map, by the retirement record, and by this start's tests. -/
def unusable (s : State) (d : Nat) : List Nat :=
  (List.range 52).filter fun p =>
    (List.range 4).any (fun k => s.factorySpare d k == some p) || s.gl.badCores.contains (52 * d + p) || (s.retiredIds 0).contains (52 * d + p)

/-- Each unusable position takes its factory spare, or the lowest spare that is free and good.

DESIGN CHOICE: R35 does not say which of the die's free good spares a position without a usable factory spare takes. -/
def spareDie (s : State) (d : Nat) : List (Nat × Nat) :=
  let bad := s.unusable d
  let good := fun (k : Nat) => !bad.contains (48 + k)
  let fac := (List.range 4).filterMap fun k => if good k then (s.factorySpare d k).map fun p => (p, k) else none
  (bad.filter fun p => Nat.blt p 48).foldl (fun l p =>
    if l.any fun x => x.1 == p then l
    else match (List.range 4).find? fun k => good k && !l.any fun x => x.2 == k with
      | some k => l ++ [(p, k)]
      | none => l) fac

/-- The sparing map, from the factory map and the retirement record (R35). -/
def spareMap (s : State) : Map Nat :=
  (List.range 4).foldl (fun m d =>
    let m := (s.unusable d).foldl (fun m p => m.put (52 * d + p) 0) m
    (s.spareDie d).foldl (fun m x => m.put (52 * d + 48 + x.2) (48 * d + x.1 + 1)) m) []

/-- Cores that fail BIST are retired (R469): each is reported, and enters the retirement table that later starts read (R472). -/
def bistFailed (s : State) (failed : List Nat) : State :=
  failed.foldl (fun s p =>
    if Nat.ble 208 p || (s.retiredIds 0).contains p then s
    else ((s.addRetired 0 p).report 3 0x00 0x02 0 p).glUpd fun g => { g with badCores := g.badCores ++ [p] }) s

/-- A core that takes a logical id which it did not hold before is reported. -/
def spareEntries (s : State) (new : Map Nat) : State :=
  new.foldl (fun s x =>
    if x.2 = 0 ∨ s.gl.spares.get? x.1 = some x.2 then s
    else s.report 0 (0x0C + x.1 / 52) 0x14 (x.2 - 1) 0) s

/-- Phase Sparing. A die with more than four unusable cores stops the start (R37): the fatal entry names the die and the cores in a form the manual does not give, so its DATA is an open function of them. -/
def sparing (s : State) : State :=
  let above := (List.range 4).filter fun d => Nat.blt 4 (s.unusable d).length
  let s := above.foldl (fun s d => s.report 5 0x00 0x03 0 (Config.unstated 40 (d :: s.unusable d) % 2 ^ 64)) s
  if above = [] then (s.spareEntries s.spareMap).glUpd fun g => { g with spares := s.spareMap } else s.glUpd fun g => { g with stuck := true, running := false }

/-! ### Phases of a start -/

/-- OTP words 0–254 match the check value of word 255 (R424). -/
def otpOk (s : State) : Bool :=
  crc32c ((List.range 255).flatMap fun i => leBytes 8 (Map.getD 0 s.gl.otp i)) == Map.getD 0 s.gl.otp 255 % 2 ^ 32

/-- Phase Fuses. -/
def fuses (s : State) (ok : Bool) : State :=
  if ok && s.otpOk then s else (s.report 5 0x00 0x01 0 0).glUpd fun g => { g with stuck := true, running := false }

/-- Pseudo-channels that are retired at a start: those found defective at test, and those that failed in phase Stacks (R284, R424, R427). -/
def retireAtStart (s : State) (failed : List Nat) : State :=
  let s := failed.foldl (fun s k => if Nat.ble 512 k then s else ((s.addRetired 1 k).report 2 (0x18 + k / 64) 0x04 (k % 64) 0).report 3 (0x18 + k / 64) 0x03 (k % 64) 0) s
  let gone := (List.range 512).filter fun k => failed.contains k || bitOf (Map.getD 0 s.gl.otp (4 + k / 64)) (k % 64)
  let s := s.upd fun t => { t with retired := (t.retired ++ gone).eraseDups }
  s.upd fun t => { t with mask0 := (List.range 8).map fun st => ((List.range 64).map fun p => if t.retired.contains (64 * st + p) then 2 ^ p else 0).sum }

/-- Training writes GL_RET_STK: the values are free. -/
def trainStacks (s : State) (status : Nat) : State :=
  let s := (List.range 2048).foldl (fun s i => let (v, s) := s.draw; s.setReg (R.GL_RET_STK + 4 * i) (v % 2 ^ 32)) s
  s.setReg R.GL_RET_STATUS status

/-- Phase Stacks of a warm start (R430): training values that do not hold are trained again, and a pseudo-channel that fails is retired (R469).

DESIGN CHOICE: RETRAINED names a pseudo-channel, and the training is of whole stacks; each stack gives one entry, with SOURCE 0. -/
def warmStacks (s : State) (failed : List Nat) (ok : Bool) : State :=
  let s := if ok && bitOf (s.reg R.GL_RET_STATUS) 0 then s.setReg R.GL_RET_STATUS 1
    else (List.range 8).foldl (fun s st => s.report 0 (0x18 + st) 0x05 0 0) (s.trainStacks 3)
  failed.foldl (fun s k => if Nat.ble 512 k then s else (s.report 2 (0x18 + k / 64) 0x04 (k % 64) 0).retireChannel (k / 64) (k % 64)) s

/-- Phase SerDes: step 1 of R361 begins on every port (R427). -/
def trainAll (s : State) : State := (List.range 18).foldl (fun s n => s.updPort n fun p => { p with phase := 1, full := true, pmd := false, latched := false }) s

/-- LOADED: a port takes its image ENABLE (R437); one that has trained goes on, one that has not begun begins, and a port without role or ENABLE is OFF (R361, R427, R430). -/
def trainPorts (s : State) : State :=
  (List.range 18).foldl (fun s n =>
    let p := s.port n
    if s.portRole n = 0 ∨ !bitOf (s.reg (cuReg n 0xC)) 0 then s.updPort n fun p => { p with phase := 0, pmd := false, latched := false }
    else if p.phase = 1 then (if p.pmd then s.afterPmd n else s)
    else s.updPort n fun p => { p with phase := 1, full := true, pmd := false, latched := false }) s

/-! ### VDD_CORE targets (R488) -/

def pwUpd (s : State) (f : PwState → PwState) : State := { s with pw := f s.pw }

/-- User calibration of an item and place (R425). -/
def cal (s : State) (item n : Nat) : Int := Map.getD 0 s.im.ucal (item * 65536 + n)

/-- VDD_CORE target of a die at a divider, in mV: OTP words 12 + 4d to 14 + 4d, 5 mV to a user step. -/
def vTarget (s : State) (d div : Nat) : Nat :=
  (((Map.getD 0 s.gl.otp (12 + 4 * d + (div - 4)) % 1024 : Nat) : Int) + 5 * s.cal 1 d).toNat

def setTargets (s : State) (div : Nat) : State :=
  s.pwUpd fun p => { p with target := (List.range 4).map fun d => (d, s.vTarget d div) }

/-- Image load is complete (R423): polders and ports take their image ENABLE (R437), and the pump programs start at layer 0 (R141). -/
def enterLoaded (s : State) : State :=
  let s := ((s.imUpd fun i => { i with phase := 4 }).setTargets s.pw.div).tgUpd fun t => { t with live := true }
  let on := s.gl.defined.filter fun p => bitOf (s.reg (R.GL_POLDER_CTRL + 4 * p)) 0
  let s := s.glUpd fun g => { g with polders := on.map fun p => (p, 1) }
  let s := (List.range s.tg.pumps.length).foldl (fun s p => s.pumpStart p) s
  s.trainPorts

/-! ### Warm start: what is kept (R429–R433) -/

/-- Moves before COMMIT are abandoned: homes stay, and reserved frames are free again (R429). -/
def abandonMoves (s : State) : State :=
  let s := s.ti.moves.foldl (fun s m =>
    if m.up then m.frames.foldl (fun s f => s.freeFrame m.dst f.2 (s.entry m.gran).polder) s else s) s
  s.upd fun t => { t with moves := [], wanted := [] }

/-- The steps of every instance end without notices, and their tokens are discarded; copies of shared pages that have not been made are given up.

DESIGN CHOICE: no step survives a warm start (R215), and the manual does not say what becomes of SKETCH_UPDs that have not completed; they are queued again with the first step after it. -/
def abandonSteps (s : State) : State :=
  let s := s.kvUpd fun k => { k with growth := k.growth.map fun g => { g with tokens := [], span := 0, ran := true, epoch := s.epoch } }
  let s := s.commitAll
  let s := ((s.kv.growth.map (·.ctx)).eraseDups).foldl (fun s x => s.dropCopies x fun _ => true) s
  s.kvUpd fun k => { k with
    growth := []
    updates := k.updates.map fun u => { u with queued := false, epoch := s.epoch + 1 }
    chosen := [], ranks := [], victims := [], walks := [], loading := [] }

/-- The quiesce of R429, up to the log drain. -/
def quiesce (s : State) : State :=
  let s := s.landWrites.hostReset.hiUpd fun h => { h with reqs := [] }
  let s := ({ s with
    cores := [], signals := [], dikes := [], emits := [], chains := [], berm := [], qus := []
    tg := { s.tg with reqs := [], xfers := [], runs := [], pins := [], rest := [], descs := [], descWait := [], live := false }
    sl := { s.sl with execs := [], tokens := [], staged := [] }
    sk := { s.sk with batches := [], updates := [] }
    dt := DtState.reset } : State).abandonSteps.abandonMoves.cleanForks
  { s with cu := { s.cu with inbox := [], ports := s.cu.ports.map fun p => (p.1, { p.2 with phase := 0, queue := [], unacked := [] }) } }

/-- A warm start is requested (R428): by the host (cause 1) or over PLDM (cause 2). -/
def warmRequest (s : State) (cause : Nat) : State :=
  if s.gl.running || s.el.fatal then
    (s.count32 R.GL_START_REFUSED 1).report 0 0x00 0x05 0 0
  else (s.quiesce).glUpd fun g => { g with kind := 1, running := true, phase := 0, cause := cause, quiesced := false }

/-- The log writer has emptied its intake, and no report waits to reach it. -/
def logDrained (s : State) : Bool :=
  s.el.raised.isEmpty && s.el.held.isEmpty && s.el.high.isEmpty && s.el.low.isEmpty && s.el.ovf.isNone

/-- A context through a warm start (R432). -/
def warmCtx (c : Ctx) : Ctx :=
  match c.phase with
  | .parked => { c with phase := .active }
  | .swappingOut => { c with phase := .active }
  | .swappingIn => { c with phase := .swapped }
  | _ => c

/-- A register that a warm start keeps. -/
def keptReg (off : Nat) : Bool := match regRow off with | some r => r.keep && !r.img | none => false

/-- Bytes of chip memory in a step table, which SRAM keeps (R430). -/
def inStepTable (s : State) (a : Nat) : Bool := decide (a / 0x800000 < 192) && decide (a % 0x800000 < 32 * s.steps (a / 0x800000))

/-- A port through a warm start: retired halves and the charges of its lanes stay (R374, R380, R432). -/
def warmPort (p : Port) : Port := { Port.off with gone := p.gone, charges := p.charges }

/-- The dies reset (R430, phase 1); the state of R432 and the image-derived stores are kept. -/
def warmRestart (s : State) : State :=
  let s := s.setReg R.GL_WARM_COUNT (min (s.reg R.GL_WARM_COUNT + 1) (2 ^ 32 - 1))
  let ctxs : Map Ctx := s.kv.ctxs.map fun (c : Nat × Ctx) => (c.1, warmCtx c.2)
  let swaps : Map (List Nat) := s.kv.swaps.filter fun (w : Nat × List Nat) => (ctxs.get? w.1).any fun c => c.phase == .swapped
  let idx : Map SkIdx := s.sk.idx.map fun (x : Nat × SkIdx) => (x.1, { x.2 with merge := none, want := false })
  let ports : Map Port := s.cu.ports.map fun (p : Nat × Port) => (p.1, warmPort p.2)
  let s := { s with
    regs := s.regs.filter fun e => keptReg e.1
    mem := s.mem.filter fun c => s.inStepTable c.1
    bad := s.bad.filter fun w => s.inStepTable (8 * w)
    soft := s.soft.filter fun w => s.inStepTable (8 * w)
    cores := [], signals := [], dikes := [], emits := [], chains := [], berm := [], qus := []
    tg := { TgState.reset with pumps := s.tg.pumps }
    kv := { s.kv with ctxs := ctxs, swaps := swaps, parkAt := [], forks := [] }
    ti := { s.ti with supply := [], expired := [], lost := [] }
    sl := { SlState.reset with ops := s.sl.ops }
    sk := { s.sk with idx := idx, batches := [], updates := [] }
    cu := { CuState.reset with rings := s.cu.rings, table := s.cu.table, ports := ports }
    hi := { HiState.reset with perst := s.hi.perst, up := s.hi.up, cxl := s.hi.cxl, d3 := s.hi.d3 }
    dt := DtState.reset
    im := { s.im with phase := 0, reused := false, discarded := false, tried := [], byOnce := false, good := none }
    mg := MgState.reset
    el := { s.el with pldm := [] }
    gl := { s.gl with phase := 1, quiesced := true, polders := [], badCores := [] } }
  s.ti.zeroing.foldl (fun s k => s.quPush (k / 2 ^ 20) (zeroDesc (k % 2 ^ 20))) s.drawLink

/-- What a different LAYOUT_ID discards (R433); every stack frame is zeroed. The map frame tables and the retirements stay (R263). -/
def discardLayout (s : State) : State :=
  { s with
    kv := KvState.reset, stk := [], qus := []
    ti := { s.ti with map := [], dirty := [], zeroing := [], after := [], spill := [], ready := false, moves := [], supply := [], expired := [], lost := [] }
    sk := { s.sk with idx := [], valid := [] }
    im := { s.im with discarded := true } }

/-- Map frames that a larger layout adds take the frames of their rank, or the lowest free frame where that one is retired or holds a relocated entry.

DEDUCED: R263 gives an entry of MF_s its frame at cold start, and R284 alone moves it; the manual names no frame for an entry that a warm start's layout adds. -/
def addMapFrames (s : State) : State :=
  if s.ti.moved.isEmpty && s.ti.retired.all fun k => bitOf (s.ti.mask0.getD (k / 64) 0) (k % 64) then s
  else
    (List.range 8).foldl (fun s st =>
      (List.range (s.mapF + s.spF)).foldl (fun s i =>
        let f := s.mapFrame st i
        if (s.ti.moved.get? (st * 2 ^ 20 + i)).isSome || !(s.pcGone st f || s.ti.moved.any fun x => x.1 / 2 ^ 20 == st && x.2 == f) then s
        else match s.pickFrame st 0 with
          | some n => s.upd fun t => { t with moved := t.moved.put (st * 2 ^ 20 + i) n }
          | none => s) s) s

/-! ### Apply (R423, R264, R323) -/

/-- A stack home at load for granule g, in a given stack or where a free value says. -/
def loadHome (s : State) (at_ : Option Nat) (g p : Nat) : State :=
  if !(s.entry g).undef then s
  else match at_ with
    | some st => match s.pickFrame st 0 with | some f => s.giveHome g st f p | none => s
    | none => s.giveHomes [g] p

/-- The granule map at image load (R264): granules of PINNED and PUMP regions, and those given, take stack homes. -/
def buildMap (s : State) (fill : List Nat) : State :=
  let s := s.ti.regions.foldl (fun s r =>
    if r.place = 0 then s
    else (List.range r.count).foldl (fun s i => s.loadHome (s.bitmapStack (r.base + i)) (r.base + i) r.polder) s) s
  fill.foldl (fun s g => match s.region g with | some r => s.loadHome none g r.polder | none => s) s

/-- Sketch projections in the weights partition of every base die, in ascending model order (R230, R243). -/
def writeProjections (s : State) : State :=
  let l := (s.models.filter fun m => m.2.select).map fun m => let b := m.2.proj.flatten; b ++ List.replicate (roundUp b.length 64 - b.length) (0 : Byte)
  (List.range 8).foldl (fun s q => s.writeMem (sramAt q 0x200000) l.flatten) s

/-- Steps of core c's table in the applied image (R81, R418). -/
def imageStepCount (s : State) (c : Nat) : Nat :=
  let v := match s.im.regs.get? (coreReg c 0xC) with | some w => w.toNat % 2 ^ 15 | none => 0
  if v = 0 then 1 else v

/-- The image-derived stores of R423 as a list of numbers. -/
def stores (s : State) : List Nat :=
  ((List.range 192).flatMap fun c => (s.readStore c 0 (32 * s.imageStepCount c)).map (·.toNat))
    ++ s.im.shadow.flatMap (fun e => [e.1, e.2.toNat]) ++ s.im.regs.flatMap (fun e => [e.1, e.2.toNat])
    ++ s.sl.ops.flatMap (fun e => [e.1, e.2.toNat])
    ++ s.tg.pumps.flatMap (fun p => [p.model, p.die, p.dike, b2n p.pkg, p.layers, p.depth, p.slots, p.stride] ++ p.entries.map (·.toNat))
    ++ s.sk.idx.flatMap (fun e => [e.1, e.2.cent, e.2.dir, e.2.list, e.2.listg, e.2.side, e.2.recs, e.2.vec, e.2.tomb, e.2.allow])
    ++ s.models.flatMap (fun m => m.2.proj.flatten.map (·.toNat))

/-- CRC-32C of the stores (R423). The manual does not give the order of their bytes, so the number is open; equal stores give equal numbers. -/
def storeCrc (s : State) : Nat := Config.unstated 20 s.stores % 2 ^ 32

/-- The image of a slot is applied (R423). -/
def applyImage (s : State) (slot : Nat) (rs : List IRec) (k0 k1 : Nat) (keys : Map (List Byte)) : State :=
  let h := s.header slot
  let words := imageTable (imageWords rs keys)
  let layout := leField h 28 8
  let cold := s.gl.kind == 0
  let s := if !cold && layout != s.reg64 R.IM_LAYOUT_LO then s.discardLayout else s
  let fresh := cold || s.im.discarded
  let skip := ((s.sections slot).filter ISect.skipped).length
  let old := s.sk.idx
  let idx : Map SkIdx := (imageIndexes rs).map fun (e : Nat × SkIdx) =>
    (e.1, match old.get? e.1 with | some o => { e.2 with gen := o.gen, head := o.head, tail := o.tail, spoil := o.spoil } | none => e.2)
  let s := s.filled rs words
  let s := { s with
    mem := [], bad := [], soft := []
    im := { s.im with regs := words, shadow := imageContexts rs, ucal := imageCal rs, schema := 2 + 65536 * leField h 6 2, version := leField h 8 8
                      imgSvn := leField h 21 1, key := leField h 20 1, skipped := skip, slot := slot }
    sk := { s.sk with idx := idx, valid := if cold then [] else s.sk.valid }
    seamKey := (k0, k1), keys := keys
    gl := { s.gl with defined := definedPolders rs (rs.flatMap IRec.regWords) keys } }
  let s := (imageSteps rs).foldl (fun s x => s.writeStore x.1 (32 * x.2.1) (leBytes 32 x.2.2)) s
  let s := s.writeProjections
  let s := if s.im.discarded then s.addMapFrames else s
  let s := if fresh then (s.buildMap (if cold then fillGrans rs else [])).linkPool else s
  let s := if s.im.discarded && !s.cu.table.isEmpty then s.placeTable s.cu.table else s
  let s := if cold then (fills rs).foldl (fun s f => (s.devWrite f.1 f.2).skSeen f.1 f.2.length) s else s
  let s := (s.setReg64 R.IM_LAYOUT_LO layout).setReg R.IM_STORE_CRC s.storeCrc
  let d := imageDigest h
  let s := (List.range 12).foldl (fun s w => s.setReg (R.IM_DIGEST + 4 * w) (leField d (4 * w) 4)) s
  let s := if skip = 0 then s else (s.orReg R.IM_ERR 8).report 0 0x01 0x11 slot 0
  s.imUpd fun i => { i with good := none }

/-- The running image is used again (R431): contexts and registers are written from what apply kept. -/
def reuseImage (s : State) : State :=
  let s := s.fillRegs s.im.regs
  { s with tg := { s.tg with ctxs := s.im.shadow } }

/-! ### Slots (R413, R422, R431, R477) -/

/-- The slot that this start tries next. -/
def nextSlot (s : State) : Option Nat :=
  let sel := s.reg R.IM_BOOT_SEL
  let first := if bitOf sel 1 then 1 - sel % 2 else sel % 2
  match s.im.tried with
  | [] => some first
  | [a] => some (1 - a)
  | _ => none

/-- A start is in the phase that reads the image. -/
def readsImage (s : State) : Bool := s.gl.running && s.gl.phase == (if s.gl.kind = 0 then 7 else 5) && s.im.good.isNone && Nat.blt s.im.phase 3

/-- The conditions of R431 for the slot that R413 tries. -/
def reusable (s : State) (slot : Nat) (readable : Bool) : Bool :=
  let h := s.header slot
  let d := imageDigest h
  s.gl.kind == 1 && s.im.schema != 0 && readable && s.flashOk
    && ((List.range 12).all fun w => s.reg (R.IM_DIGEST + 4 * w) == leField d (4 * w) 4)
    && (s.headerCheck h).isNone && s.storeCrc == s.reg R.IM_STORE_CRC

/-- Reading begins: ONCE is cleared. -/
def beginRead (s : State) : State :=
  let sel := s.reg R.IM_BOOT_SEL
  if s.im.tried = [] ∧ bitOf sel 1 then (s.setReg R.IM_BOOT_SEL (sel % 2)).imUpd fun i => { i with byOnce := true } else s

/-- A slot is taken: a slot that ONCE chose becomes PREFER. -/
def takeSlot (s : State) (slot : Nat) (reused : Bool) : State :=
  let s := if s.im.byOnce ∧ s.im.tried = [] then s.setReg R.IM_BOOT_SEL slot else s
  s.imUpd fun i => { i with phase := 3, slot := slot, reused := reused, good := some slot }

/-- A slot has failed: its cause is held and reported, and after both the state is FAILED, which discards what was loaded. -/
def failSlot (s : State) (slot : Nat) (c : ICause) : State :=
  let cause := c.code + c.off % 2 ^ 24 * 256
  let detail := if c.code < 8 then 0 else c.sect % 65536 + c.num % 65536 * 65536
  let s := (s.setReg (R.IM_CAUSE0 + 8 * slot) cause).setReg (R.IM_DETAIL0 + 8 * slot) detail
  let s := (s.orReg R.IM_ERR (2 ^ slot)).report 2 0x01 c.code slot (cause + detail * 2 ^ 32)
  let tried := s.im.tried ++ [slot]
  if tried.length < 2 then s.imUpd fun i => { i with phase := 1, tried := tried }
  else
    let s := s.imUpd fun i => { i with phase := 5, tried := tried, schema := 0, regs := [], shadow := [] }
    (s.glUpd fun g => { g with running := false }).report 2 0x01 0x0E 0 0

/-- The next slot is read and checked. -/
def checkSlot (s : State) (slot : Nat) (readable : Bool) : State :=
  if !s.readsImage || s.nextSlot != some slot then s
  else
    let s := s.beginRead
    if s.reusable slot readable then s.takeSlot slot true
    else match s.slotCheck slot readable with
      | .error c => s.failSlot slot c
      | .ok _ => s.takeSlot slot false

/-- Apply of the slot that passed. -/
def applySlot (s : State) : State :=
  let inPhase := s.gl.running && s.gl.phase == (if s.gl.kind = 0 then 8 else 5) && s.im.phase == 3 && !s.im.reused
  match inPhase, s.im.good with
  | true, some slot =>
    match s.slotCheck slot true with
    | .ok (rs, k0, k1, keys) =>
      let s := s.applyImage slot rs k0 k1 keys
      if s.gl.kind = 0 then s.enterLoaded else s
    | .error _ => s
  | _, _ => s

/-! ### A phase ends -/

/-- GL_PHASE_MS holds the duration of phase n at index n − 1. -/
def phaseDone (s : State) (ms : Nat) : State :=
  let s := s.setReg (R.GL_PHASE_MS + 4 * (s.gl.phase - 1)) ms
  s.glUpd fun g => { g with phase := g.phase + 1 }

/-- The last phase ends: the start is complete. -/
def startDone (s : State) (ms : Nat) : State :=
  let s := s.setReg (R.GL_PHASE_MS + 4 * (s.gl.phase - 1)) ms
  (s.glUpd fun g => { g with running := false }).report 0 0x00 0x04 0 0

/-- A cold-start phase ends (R427). -/
def coldPhase (s : State) (ms : Nat) (failed : List Nat) (ok : Bool) : State :=
  let step := fun (s : State) => if s.gl.running then s.phaseDone ms else s
  match s.gl.phase with
  | 1 => step s
  | 2 => step (s.fuses ok)
  | 3 => step (s.bistFailed failed)
  | 4 => step ((s.bistFailed failed).sparing)
  | 5 => step ((s.retireAtStart failed).trainStacks 1)
  | 6 => step s.trainAll
  | 7 => if s.im.good.isSome then step (s.setReg R.IM_LOAD_MS ms) else s
  | 8 => if s.im.phase = 4 then step s else s
  | 9 => s.startDone ms
  | _ => s

/-- A warm-start phase ends (R430): what phase Restore leaves is not degraded any more, and writes of image registers before it have no lasting effect (R420). -/
def warmPhase (s : State) (ms : Nat) (failed : List Nat) (ok : Bool) : State :=
  let step := fun (s : State) => if s.gl.running then s.phaseDone ms else s
  match s.gl.phase with
  | 1 => step s
  | 2 => step (s.fuses ok)
  | 3 => step ((s.bistFailed failed).sparing)
  | 4 => step (s.warmStacks failed ok)
  | 5 =>
    if s.im.reused then step ((s.reuseImage).setReg R.IM_LOAD_MS ms)
    else if s.im.phase = 3 ∧ s.im.good = none then step (s.setReg R.IM_LOAD_MS ms) else s
  | 6 => step (((s.fillRegs s.im.regs).elUpd fun e => { e with degraded := false, coreLost := false }).enterLoaded)
  | 7 => s.startDone ms
  | _ => s

/-! ### Fuses (R440) -/

def fuseResult (s : State) (cause : Nat) : State := s.setReg R.IM_FUSE_RESULT (1 + (if cause = 0 then 2 else 0) + 256 * cause)

/-- A write of IM_FUSE_CMD. -/
def fuseCmd (s : State) (v : Nat) (ok : Bool) : State :=
  let i := bitsOf v 5 4
  if bitsOf v 31 24 ≠ 0x5C ∨ (v % 4 ≠ 1 ∧ v % 4 ≠ 2) then s
  else if s.im.phase ≠ 4 then s.fuseResult 1
  else if v % 4 = 2 ∧ i = s.im.key then s.fuseResult 2
  else if v % 4 = 1 ∧ s.im.imgSvn ≤ s.gl.svn then s.fuseResult 3
  else if !ok then s.fuseResult 4
  else if v % 4 = 1 then (s.glUpd fun g => { g with svn := s.im.imgSvn }).fuseResult 0
  else (s.glUpd fun g => { g with revoked := if g.revoked.contains i then g.revoked else g.revoked ++ [i] }).fuseResult 0

/-! ### Polders (R435, R436) -/

def polderState (s : State) (p : Nat) : Nat := Map.getD 0 s.gl.polders p
def setPolder (s : State) (p n : Nat) : State := s.glUpd fun g => { g with polders := Map.store 0 g.polders p n }

/-- Requests of a polder that have been fetched and have not completed. -/
def polderOutstanding (s : State) (p : Nat) : Nat := (s.hi.reqs.filter fun r => r.polder == p).length

/-- A write of GL_POLDER_CTRLp. -/
def polderWrite (s : State) (p : Nat) (en : Bool) : State :=
  if !s.gl.defined.contains p then s
  else
    let s := s.setReg (R.GL_POLDER_CTRL + 4 * p) (b2n en)
    match s.polderState p, en with
    | 0, true => s.setPolder p 1
    | 1, false => s.setPolder p 2
    | 2, true => s.setPolder p 3
    | 3, false => s.setPolder p 2
    | _, _ => s

/-- A drain that has nothing left ends. -/
def polderDrain (s : State) (p : Nat) : State :=
  if s.polderOutstanding p ≠ 0 then s
  else match s.polderState p with
    | 2 => s.setPolder p 0
    | 3 => s.setPolder p 1
    | _ => s

/-- A write of GL_RESET (R428, R438). -/
def resetWrite (s : State) (v : Nat) : State := if bitsOf v 15 8 = 0xA5 ∧ bitOf v 0 then s.warmRequest 1 else s

end State

/-! ### The commands -/

/-- POLDER_ENABLE (R436). -/
def execPolderEnable (p : Nat) (s : State) : Outcome := onUnit (decide (p < 64)) (s.polderWrite p true)

/-- POLDER_DISABLE (R436). -/
def execPolderDisable (p : Nat) (s : State) : Outcome := onUnit (decide (p < 64)) (s.polderWrite p false)

/-- POLDER_DRAINED (R435). -/
def execPolderDrained (p : Nat) (s : State) : Outcome := onUnit (decide (p < 64)) (s.polderDrain p)

/-- WARM_START_REQUEST (R428). -/
def execWarmStartRequest (v : Word) (s : State) : Outcome := .next (s.resetWrite v.toNat)

/-- WARM_RESTART (R430): the log drain has ended. -/
def execWarmRestart (s : State) : Outcome :=
  .next (if s.gl.running && s.gl.kind == 1 && s.gl.phase == 0 && s.logDrained then s.warmRestart else s)

/-- RAISE_SVN (R440). -/
def execRaiseSvn (v : Word) (fuseOk : Bool) (s : State) : Outcome := .next (if v.toNat % 4 = 1 then s.fuseCmd v.toNat fuseOk else s)

/-- REVOKE_KEY (R440). -/
def execRevokeKey (v : Word) (fuseOk : Bool) (s : State) : Outcome := .next (if v.toNat % 4 = 2 then s.fuseCmd v.toNat fuseOk else s)

/-- RESET_N_RISE (R426): without clocks the D8 stays held (R484). -/
def execResetNRise (s : State) : Outcome :=
  let s := { s with pw := { s.pw with resetN := true } }
  .next (if s.pw.pwrgood && s.pw.sysRef && s.pw.pll then s.coldStart else s)

/-- RESET_N_LOW (R426, R484): held low for 10 µs with the reference running. -/
def execResetNLow (s : State) : Outcome :=
  let s := { s with pw := { s.pw with resetN := false } }
  .next (if s.pw.pwrgood then ({ s with pw := { s.pw with sysRef := true, pll := true } } : State).coldStart else s)

/-- START_PHASE_DONE (R427, R430). After a trip or a rail fault no phase ends any more: CCLK, MCLK and SCLK are stopped (R490). -/
def execStartPhaseDone (ms : Nat) (failed : List Nat) (ok : Bool) (s : State) : Outcome :=
  .next (if !s.gl.running || s.pw.stopped then s else if s.gl.kind = 0 then s.coldPhase ms failed ok else s.warmPhase ms failed ok)

/-- IMAGE_SLOT_CHECK (R413, R422, R431). -/
def execImageSlotCheck (slot : Nat) (readable : Bool) (s : State) : Outcome := onUnit (decide (slot < 2)) (s.checkSlot slot readable)

/-- IMAGE_APPLY (R423). -/
def execImageApply (s : State) : Outcome := .next s.applySlot

/-- PWRGOOD_RISE (R497). -/
def execPwrgoodRise (s : State) : Outcome :=
  let s := { s with pw := { s.pw with pwrgood := true } }
  .next (if s.pw.resetN && s.pw.sysRef && s.pw.pll then s.coldStart else s)

/-- PWRGOOD_FALL (R497): the D8 is reset, and nothing more is recorded. -/
def execPwrgoodFall (s : State) : Outcome := .next ({ s with pw := { s.pw with pwrgood := false } } : State).holdReset

/-- POWER_REMOVE (R490, R496): the stacks lose their contents when VDD_STK falls, and THERMTRIP_N is released when VDD_IO is removed. -/
def execPowerRemove (rail : Nat) (s : State) : Outcome :=
  onUnit (decide (rail < 12))
    (let s := { s with pw := { s.pw with rails := s.pw.rails.filter (· != rail) } }
     let s := if rail = 5 then { s with stk := [] } else s
     if rail = 10 then { s with pw := { s.pw with trip := false } } else s)

end Sys2Proof.Machine
end

