-- ==== Sys2Proof/Machine/Power.lean ====
section
/-! DEFINITION. Power, clocks and thermal (R480–R498). -/

namespace Sys2Proof.Machine

namespace State

/-! ### Sensors (R489) -/

/-- A reading in 0.25 °C with the user offset, as 12 bits. -/
def sensorWord (s : State) (n : Nat) (t : BitVec 12) : Nat := ((signedOf 12 t.toNat + s.cal 3 n) % 4096).toNat

/-- The latest reading of a sensor in 0.25 °C. -/
def reading (s : State) (n : Nat) : Int := signedOf 12 (s.reg (R.PW_TEMP + 4 * n))

/-- The hottest of sensors first … first + n − 1; the lowest number where several tie. -/
def hottest (s : State) (first n : Nat) : Nat :=
  (List.range n).foldl (fun b i => if s.reading b < s.reading (first + i) then first + i else b) first

/-- TLIMIT in 0.25 °C and PLIMIT in W (R485). -/
def tlimit (s : State) : Int := 4 * (bitsOf (s.reg R.GL_LIMITS) 23 16 : Nat)
def plimit (s : State) : Nat := bitsOf (s.reg R.GL_LIMITS) 11 0
def hyst (s : State) : Int := 4 * (bitsOf (s.reg R.PW_THROT_CTRL) 3 0 : Nat)

def isHot (s : State) : Bool := decide (s.tlimit ≤ s.reading (s.hottest 0 64)) || decide (380 ≤ s.reading (s.hottest 64 8))

/-- The sensor that is hot. -/
def hotSensor (s : State) : Nat := if s.tlimit ≤ s.reading (s.hottest 0 64) then s.hottest 0 64 else s.hottest 64 8

/-- Package power averaged over the last 10 ms: up to 10,000 estimates of 1 µs each. -/
def p10 (s : State) : Nat := s.pw.watts.sum / max 1 s.pw.watts.length

/-- P10 > PLIMIT, and P10 < PLIMIT × 0.95, on the exact average. -/
def overLimit (s : State) : Bool := Nat.blt (s.plimit * s.pw.watts.length) s.pw.watts.sum
def underLimit (s : State) : Bool := Nat.blt (s.pw.watts.sum * 100) (s.plimit * 95 * max 1 s.pw.watts.length)

def isCool (s : State) : Bool :=
  decide (s.reading (s.hottest 0 64) < s.tlimit - s.hyst) && decide (s.reading (s.hottest 64 8) < 380 - s.hyst)
    && s.underLimit

/-! ### Divider and voltage (R483, R485, R488) -/

/-- The slow notice stands while the divider is above ÷4 or a die is held, and for HOLD_US after (R307, R486). -/
def slowUpdate (s : State) : State :=
  if Nat.blt 4 s.pw.div || s.pw.held then
    let s := s.postSlow true
    { s with cu := { s.cu with hold := none } }
  else if s.cu.slow && s.cu.hold.isNone then { s with cu := { s.cu with hold := some s.now } }
  else s

/-- A raise ends unconfirmed. -/
def dropRaise (s : State) : State :=
  if s.pw.raise.isNone then s
  else
    let s := (s.pwUpd fun p => { p with raise := none }).setTargets s.pw.div
    (s.orReg R.PW_ERR 0x20).count R.PW_PMB_ERR_LO 1

/-- The divider changes: THROTTLE, one report for each cause, and the times of R486. -/
def setDiv (s : State) (div : Nat) (sources : List Nat) (exc : Bool) : State :=
  if div = s.pw.div then s
  else
    let s := (s.orReg R.PW_ERR 1).count R.PW_DIVCHG_LO 1
    let s := sources.foldl (fun s x => s.report 0 0x04 0x01 x 0) s
    let s := s.pwUpd fun p => { p with div := div, at6 := if div = 6 then some s.now else none, excursion := exc, raise := none }
    (s.setTargets div).slowUpdate

/-- A demand for a slower clock: it goes ahead at once, and a raise in progress is abandoned (R488, R498). -/
def slower (s : State) (div : Nat) (sources : List Nat) (exc : Bool) : State := s.dropRaise.setDiv div sources exc

/-- A faster clock: the planes rise first; the divider follows when every plane is there (R488). -/
def startRaise (s : State) (div : Nat) : State :=
  (s.setTargets div).pwUpd fun p => { p with raise := some ⟨div, s.now + 1000⟩, calm := 0 }

/-- A raise is confirmed when READ_VOUT of every plane is within 10 mV of its target. A change towards the faster clock has no cause that R485 names a SOURCE for, so its SOURCE is a free value. -/
def confirmRaise (s : State) : State :=
  match s.pw.raise with
  | none => s
  | some r =>
    let near := (List.range 4).all fun d =>
      let v := s.reg (R.PW_RAIL_V + 4 * d)
      let t := Map.getD 750 s.pw.target d
      Nat.ble v (t + 10) && Nat.ble t (v + 10)
    if near then let (x, s) := s.draw; s.setDiv r.div [x % 65536] false else s

/-- The throttle controller's run (R485, R486). -/
def throttle (s : State) (temps : List (BitVec 12)) : State :=
  let s := (List.range 72).foldl (fun s n => s.setReg (R.PW_TEMP + 4 * n) (s.sensorWord n (temps.getD n 0))) s
  let hot := s.isHot
  let above := s.overLimit
  let causes := (if hot then [s.hotSensor] else []) ++ (if above then [0xFFFF] else []) ++ (if s.pw.pin then [0xFFFE] else [])
  let cool := s.isCool
  let s := s.pwUpd fun p => { p with hot := hot, above := above }
  let s :=
    if s.pw.pin then s.slower 6 causes false
    else if hot || above then (s.slower (min (s.pw.div + 1) 6) causes false).pwUpd fun p => { p with calm := 0 }
    else if cool then
      let s := s.pwUpd fun p => { p with calm := p.calm + 100 }
      if Nat.ble (1000 * bitsOf (s.reg R.PW_THROT_CTRL) 15 8) s.pw.calm && Nat.blt 4 s.pw.div && s.pw.raise.isNone then s.startRaise (s.pw.div - 1) else s
    else s.pwUpd fun p => { p with calm := 0 }
  let long := match s.pw.at6 with | some t => Nat.ble (t + 1000) s.now | none => false
  let s :=
    if !hot then s.pwUpd fun p => { p with held := false }
    else if s.pw.held || s.pw.div != 6 || !long then s
    else ((s.pwUpd fun p => { p with held := true }).orReg R.PW_ERR 2).report 2 0x04 0x02 s.hotSensor 0
  s.slowUpdate

/-- A power estimate (R485). -/
def estimate (s : State) (w : Nat) : State :=
  let s := s.pwUpd fun p => { p with watts := (w :: p.watts).take 10000 }
  let a := min s.p10 4095
  let i := min w 4095
  let m := s.reg R.PW_POWER_MAX
  let s := s.setReg R.PW_POWER (a + 65536 * i)
  let s := s.setReg R.PW_POWER_MAX (max (bitsOf m 11 0) a + 65536 * max (bitsOf m 27 16) i)
  if w ≤ 2100 then s
  else
    let s := ((s.orReg R.PW_ERR 4).count R.PW_EXCURSION_LO 1).report 2 0x04 0x03 0xFFFF 0
    s.slower 6 [0xFFFF] true

/-- CCLK, MCLK and SCLK stop, and the culvert transmitters go quiet (R490, R494). -/
def stopClocks (s : State) : State := s.pwUpd fun p => { p with stopped := true }

/-- A rail fault (R494). -/
def railFaultAt (s : State) (rail : Nat) : State :=
  ((s.orReg R.PW_ERR 8).report 5 0x04 0x04 rail 0).stopClocks

/-- A thermal trip (R490). -/
def tripAt (s : State) (sensor : Nat) (t : BitVec 12) : State :=
  let s := s.pwUpd fun p => { p with trip := true }
  let s := s.setReg R.PW_TRIP_INFO (sensor + 65536 * t.toNat + 2 ^ 31)
  ((s.orReg R.PW_ERR 16).report 5 0x04 0x05 sensor 0).stopClocks

/-! ### PMBus (R493) -/

/-- The D8 may use the bus for a rail: apply is complete, and the rail's regulator is PRESENT. -/
def onBus (s : State) (rail : Nat) : Bool := s.im.phase == 4 && bitOf (s.reg (R.PW_PMB_ADDR + 4 * rail)) 31

/-- A regulator does not answer. -/
def pmbFail (s : State) : State := (s.orReg R.PW_ERR 0x20).count R.PW_PMB_ERR_LO 1

/-- STATUS_WORD shows VOUT_OV, VOUT_UV, IOUT_OC or OFF. The bits are those of the PMBus specification, which does not tell VOUT_UV apart from other VOUT conditions in this word: PRESUMED. -/
def statusFault (w : Nat) : Bool := bitOf w 6 || bitOf w 5 || bitOf w 4 || bitOf w 15

def pollRail (s : State) (rail : Nat) (answer : Bool) (mv amps status : Nat) : State :=
  let s := if s.pw.moded.contains rail then s
    else (s.send (.pmbus rail 0x20 0)).pwUpd fun p => { p with moded := p.moded ++ [rail] }
  let s := [0x8B, 0x8C, 0x96, 0x79].foldl (fun s c => s.send (.pmbus rail c 0)) s
  if !answer then s.pmbFail
  else
    let s := (s.setReg (R.PW_RAIL_V + 4 * rail) (mv % 4096)).setReg (R.PW_RAIL_I + 4 * rail) (amps % 2 ^ 20)
    let s := if statusFault status then s.railFaultAt rail else s
    s.confirmRaise

end State

/-! ### The commands -/

/-- THROTTLE_RUN (R485). -/
def execThrottleRun (temps : List (BitVec 12)) (s : State) : Outcome := .next (s.throttle temps)

/-- POWER_ESTIMATE (R485). -/
def execPowerEstimate (watts : Nat) (s : State) : Outcome := .next (s.estimate watts)

/-- FAST_THROT_N (R487). -/
def execFastThrotN (level : Bool) (s : State) : Outcome :=
  let s := s.pwUpd fun p => { p with pin := !level }
  .next (if level then s else s.slower 6 [0xFFFE] false)

/-- VOLTAGE_RAISE_TIMEOUT (R488): 1 ms after the raise began. -/
def execVoltageRaiseTimeout (s : State) : Outcome :=
  .next (if s.pw.raise.any fun r => Nat.ble r.stop s.now then s.dropRaise else s)

/-- PMBUS_POLL (R493): READ_POUT only scales the estimates, which arrive as such. -/
def execPmbusPoll (rail : Nat) (answer : Bool) (mv amps10mA _watts : Nat) (status : BitVec 16) (s : State) : Outcome :=
  onUnit (decide (rail < 12)) (if s.onBus rail then s.pollRail rail answer mv amps10mA status.toNat else s)

/-- PMB_ALERT_N (R493). -/
def execPmbAlertN (rail : Nat) (answer : Bool) (status : BitVec 16) (s : State) : Outcome :=
  onUnit (decide (rail < 12))
    (if !s.onBus rail then s
     else
       let s := s.send (.pmbus rail 0x79 0)
       if !answer then s.pmbFail
       else (if State.statusFault status.toNat then s.railFaultAt rail else s).send (.pmbus rail 0x03 0))

/-- THERMTRIP (R490): the comparators use factory trims only. -/
def execThermtrip (sensor : Nat) (temp : BitVec 12) (s : State) : Outcome :=
  onUnit (decide (sensor < 72))
    (if signedOf 12 temp.toNat < (if sensor < 64 then 460 else 420) || s.pw.trip then s else s.tripAt sensor temp)

/-- RAIL_FAULT (R494). -/
def execRailFault (rail : Nat) (s : State) : Outcome :=
  onUnit (decide (rail < 12)) (if s.pw.pwrgood then s.railFaultAt rail else s)

/-- SYS_REFCLK_LOSS (R484): every clock stops and the D8 holds itself in reset; nothing is recorded. -/
def execSysRefclkLoss (s : State) : Outcome :=
  .next ({ s with pw := { s.pw with sysRef := false, pll := false } } : State).holdReset

/-- PE_REFCLK_LOSS (R484): the link goes down with the effects of R384. -/
def execPeRefclkLoss (s : State) : Outcome :=
  let s := s.pwUpd fun p => { p with peRef := false }
  .next (if s.hi.up then (s.linkReset).hiUpd fun h => { h with up := false, cxl := false } else s)

/-- WATCHDOG (R461): a die control core's, 0–3, or the chip manager's, 4. -/
def execWatchdog (src : Nat) (s : State) : Outcome := onUnit (decide (src < 5)) (s.report 5 0x0B 0x03 src 0)

/-- VOUT_COMMAND_STEP (R493): PAGE and one VOUT_COMMAND step of at most 5 mV, at most one in 2 µs. The message carries mV; the LINEAR16 exponent is the regulator's. Where the regulator does not answer, its voltage stands (R498). -/
def execVoutCommandStep (x : VoutStep) (s : State) : Outcome :=
  let die := x.die
  onUnit (decide (die < 4))
    (let v := Map.getD 750 s.pw.vout die
     let t := Map.getD 750 s.pw.target die
     let soon := match s.pw.vstep.get? die with | some t => Nat.blt s.now (t + 2) | none => false
     if !s.onBus die || v == t || soon then s
     else
       let n := if v < t then min t (v + 5) else max t (v - 5)
       let s := (s.send (.pmbus die 0x00 (bitsOf (s.reg (R.PW_PMB_ADDR + 4 * die)) 15 8))).send (.pmbus die 0x21 n)
       let s := s.pwUpd fun p => { p with vstep := p.vstep.put die s.now }
       if x.answer then s.pwUpd fun p => { p with vout := p.vout.put die n } else s.pmbFail)

/-! ### JTAG (R509) -/

/-- The next state of the IEEE 1149.1 TAP controller. -/
def Tap.next (t : Tap) (tms : Bool) : Tap :=
  match t, tms with
  | .reset, true => .reset
  | .reset, false => .idle
  | .idle, true => .selectDr
  | .idle, false => .idle
  | .selectDr, true => .selectIr
  | .selectDr, false => .captureDr
  | .captureDr, true => .exit1Dr
  | .captureDr, false => .shiftDr
  | .shiftDr, true => .exit1Dr
  | .shiftDr, false => .shiftDr
  | .exit1Dr, true => .updateDr
  | .exit1Dr, false => .pauseDr
  | .pauseDr, true => .exit2Dr
  | .pauseDr, false => .pauseDr
  | .exit2Dr, true => .updateDr
  | .exit2Dr, false => .shiftDr
  | .updateDr, true => .selectDr
  | .updateDr, false => .idle
  | .selectIr, true => .reset
  | .selectIr, false => .captureIr
  | .captureIr, true => .exit1Ir
  | .captureIr, false => .shiftIr
  | .shiftIr, true => .exit1Ir
  | .shiftIr, false => .shiftIr
  | .exit1Ir, true => .updateIr
  | .exit1Ir, false => .pauseIr
  | .pauseIr, true => .exit2Ir
  | .pauseIr, false => .pauseIr
  | .exit2Ir, true => .updateIr
  | .exit2Ir, false => .shiftIr
  | .updateIr, true => .selectDr
  | .updateIr, false => .idle

def bitsLe (n v : Nat) : List Bool := (List.range n).map (bitOf v)
def ofBits (l : List Bool) : Nat := l.foldr (fun b n => b2n b + 2 * n) 0

def idcode : Nat := 0x1D851C6F

/-- The instruction of a code: IDCODE and the others have codes that the manual does not give. -/
def jtagInstr (code : Nat) : JtagInstr :=
  match Config.jtagCode code with
  | some 1 => .idcode
  | some 2 => .sample
  | some 3 => .extest
  | some 4 => .extestPulse
  | some 5 => .extestTrain
  | _ => .bypass

namespace State

/-- What a data register captures: the boundary register's cells are free values, since the manual does not list the chain's order or its levels. The chain covers `scanSignals` signals; how many more cells a signal with two directions takes is the D8's. -/
def captureDr (s : State) : List Bool × State :=
  match s.jt.instr with
  | .bypass => ([false], s)
  | .idcode => (bitsLe 32 idcode, s)
  | _ => let (v, s) := s.draw; (bitsLe (scanSignals + Config.jtagExtraCells) v, s)

def shiftIn (l : List Bool) (tdi : Bool) : List Bool := l.drop 1 ++ [tdi]

/-- A rising edge of TCK: the actions of the present TAP state, then the next state. TDO carries the bit shifted out. -/
def tckEdge (s : State) (tms tdi : Bool) : State :=
  let j := s.jt
  let set := fun (s : State) (f : JtState → JtState) => { s with jt := f s.jt }
  let s := match j.tap with
    | .captureDr => let (d, s) := s.captureDr; set s fun j => { j with dr := d }
    | .shiftDr => (set s fun j => { j with dr := shiftIn j.dr tdi }).send (.tdo (j.dr.headD false))
    | .updateDr => set s fun j => match j.instr with | .bypass => j | .idcode => j | _ => { j with update := j.dr }
    | .captureIr => set s fun j => { j with ir := bitsLe Config.jtagIrLength Config.jtagIrCapture }
    | .shiftIr => (set s fun j => { j with ir := shiftIn j.ir tdi }).send (.tdo (j.ir.headD false))
    | .updateIr => set s fun j => { j with instr := jtagInstr (ofBits j.ir) }
    | _ => s
  let n := j.tap.next tms
  set s fun j => { j with tap := n, instr := if n = .reset then .idcode else j.instr }

end State

/-- TCK (R509): while TRST_N is low the port stays in reset. -/
def execTck (tms tdi : Bool) (s : State) : Outcome := .next (if s.jt.trstN then s.tckEdge tms tdi else s)

/-- TRST_N (R509). -/
def execTrstN (level : Bool) (s : State) : Outcome :=
  .next (if level then { s with jt := { s.jt with trstN := true } } else { s with jt := JtState.reset })

end Sys2Proof.Machine
end

