-- ==== Sys2Proof/Machine/Manage.lean ====
section
/-! DEFINITION. Management over I3C: MCTP control, PLDM monitoring and firmware update (R412, R473–R477). -/

namespace Sys2Proof.Machine

namespace State

def mgUpd (s : State) (f : MgState → MgState) : State := { s with mg := f s.mg }

/-- I3C works in every start phase after phase 2, and in FAILED and FATAL (R473). -/
def i3cUp (s : State) : Bool := !s.pw.held0 && !(s.gl.running && Nat.ble 1 s.gl.phase && Nat.ble s.gl.phase 2)

/-- The effect of a management message, where I3C works. -/
def managed (s : State) (f : State → State) : State := if s.i3cUp then f s else s

/-- An answer to an MCTP control message: completion code and fields. -/
def answer (s : State) (cmd code : Nat) (fields : List Nat) (data : List Byte) : State := s.send (.mctp 0 cmd (code :: fields) data)

/-- An answer to a PLDM message: type, completion code and fields. -/
def pldm (s : State) (ty cmd code : Nat) (fields : List Nat) (data : List Byte) : State := s.send (.mctp 1 cmd (ty :: code :: fields) data)

/-! ### Sensors and effecters (R475) -/

/-- STATE of the device: 1 starting, 2 ready, 3 degraded, 4 fatal, 5 no image. -/
def deviceState (s : State) : Nat :=
  if s.el.fatal || s.gl.stuck then 4
  else if s.gl.running then 1
  else if s.im.phase = 5 then 5
  else if s.el.degraded then 3
  else 2

/-- A numeric sensor's reading in its unit and resolution. -/
def numericReading (s : State) (n : Nat) : Option Int :=
  if 1 ≤ n ∧ n ≤ 4 then some (s.reading (s.hottest (16 * (n - 1)) 16))
  else if 5 ≤ n ∧ n ≤ 12 then some (s.reading (64 + (n - 5)) / 4)
  else if n = 13 then some (bitsOf (s.reg R.PW_POWER) 27 16 : Nat)
  else if 14 ≤ n ∧ n ≤ 17 then some (s.reg (R.PW_RAIL_V + 4 * (n - 14)) : Nat)
  else if n = 38 then some (s.el.unread : Nat)
  else none

/-- A state sensor's state. -/
def stateReading (s : State) (n : Nat) : Option Nat :=
  if n = 18 then some s.pw.div
  else if n = 19 then some s.deviceState
  else if 20 ≤ n ∧ n ≤ 37 then some ((s.port (n - 20)).phase + 1)
  else none

/-- What a state sensor shows before its first change. -/
def firstSent (n : Nat) : Nat := if n = 18 then 4 else 1

/-- State sensors send sensor events on change (R476): the sensor, class 1 (a state), offset 0, the new and the old state. -/
def sensorEvents (s : State) : State :=
  (List.range 20).foldl (fun s i =>
    let n := 18 + i
    match s.stateReading n with
    | none => s
    | some v =>
      let old := Map.getD (firstSent n) s.mg.sent n
      if v = old then s
      else (s.mgUpd fun m => { m with sent := m.sent.put n v }).pldmEvent 0 [BitVec.ofNat 8 n, 0, 1, 0, BitVec.ofNat 8 v, BitVec.ofNat 8 old]) s

/-- The record of the PDR repository: kind (1 numeric sensor, 2 state sensor, 3 state effecter), id, unit (1 °C, 2 W, 3 mV, 4 a count, 0 a state), and resolution in thousandths of the unit. -/
def pdr (n : Nat) : Option (List Nat) :=
  if n = 0 ∨ 40 < n then none
  else if n ≤ 4 then some [1, n, 1, 250]
  else if n ≤ 12 then some [1, n, 1, 1000]
  else if n = 13 then some [1, n, 2, 1000]
  else if n ≤ 17 then some [1, n, 3, 1000]
  else if n ≤ 37 then some [2, n, 0, 0]
  else if n = 38 then some [1, n, 4, 1000]
  else some [3, n - 38, 0, 0]

/-! ### PLDM commands (R474) -/

/-- Command codes of a PLDM type, of DSP0240, DSP0248 and DSP0267: PRESUMED. -/
def pldmCommands (ty : Nat) : List Nat :=
  match ty with
  | 0 => [0x01, 0x02, 0x03, 0x04, 0x05]
  | 2 => [0x04, 0x0A, 0x0B, 0x11, 0x21, 0x39, 0x50, 0x51]
  | 5 => [0x10, 0x15, 0x17, 0x1A]
  | _ => []

/-! ### Firmware update (R412, R477) -/

/-- The slot that does not hold the loaded image; with none loaded, the slot that IM_BOOT_SEL.PREFER does not name. -/
def updateSlot (s : State) : Nat := if s.im.schema = 0 then 1 - s.reg R.IM_BOOT_SEL % 2 else 1 - s.im.slot

/-- A start reads flash, or is about to: until its image is loaded. -/
def startReadsFlash (s : State) : Bool := s.gl.running && s.im.phase != 4

/-- The D8 requests the next 4,096 bytes. -/
def requestData (s : State) (off : Nat) : State :=
  if off < s.im.capacity / 2 then s.send (.mctp 1 0x15 [5, off, 4096] []) else s

/-- The component that an update offers (R477): classification, identifier, and the comparison stamp, which is IMAGE_VERSION[31:0] of the loaded image. The answer to RequestUpdate stands for the offer here. -/
def offered (s : State) : List Nat := [0x000A, 0x0001, s.im.version % 2 ^ 32]

def requestUpdate (s : State) : State :=
  if s.startReadsFlash then s.pldm 5 0x10 0x8E [] []
  else if s.mg.update.isSome then s.pldm 5 0x10 0x81 [] []
  else ((s.mgUpd fun m => { m with update := some ⟨s.updateSlot, 1⟩ }).pldm 5 0x10 0 s.offered []).requestData 0

/-- A transfer of update data: the 4,096 bytes of its place are erased, then programmed. -/
def transferData (s : State) (off : Nat) (data : List Byte) : State :=
  match s.mg.update with
  | some u =>
    if u.phase ≠ 1 ∨ off % 4096 ≠ 0 ∨ s.im.capacity / 2 ≤ off then s
    else
      let d := data.take 4096
      let bs := d ++ List.replicate (4096 - d.length) (0xFF : Byte)
      let s := { s with im := { s.im with flash := Memory.write 0xFF s.im.flash (s.slotAt u.slot + off) bs } }
      s.requestData (off + 4096)
  | none => s

/-- Checks 0x01–0x0C of R422 pass for a slot; 0x0D is not one of them. -/
def verifies (s : State) (slot : Nat) : Bool :=
  match s.slotCheck slot true with
  | .ok _ => true
  | .error c => c.code == 0x0D

/-- VerifyComplete: result 0 success, 1 a verification failure. -/
def verifyUpdate (s : State) : State :=
  match s.mg.update with
  | some u =>
    if u.phase ≠ 1 then s
    else if s.verifies u.slot then (s.mgUpd fun m => { m with update := some { u with phase := 2 } }).send (.mctp 1 0x17 [5, 0] [])
    else s.send (.mctp 1 0x17 [5, 1] [])
  | none => s

/-- ActivateFirmware: it ends the update and sets ONCE. -/
def activate (s : State) (selfContained : Bool) : State :=
  match s.mg.update with
  | some u =>
    if u.phase ≠ 2 then s.pldm 5 0x1A 0x85 [] []
    else if selfContained then s.pldm 5 0x1A 0x8C [] []
    else ((s.orReg R.IM_BOOT_SEL 2).mgUpd fun m => { m with update := none }).pldm 5 0x1A 0 [] []
  | none => s.pldm 5 0x1A 0x80 [] []

end State

/-! ### The commands -/

/-- ENTDAA (R473): a target that has a dynamic address does not take part. -/
def execEntdaa (addr : BitVec 7) (s : State) : Outcome :=
  .next (s.managed fun s => if s.mg.daddr = 0 then s.mgUpd fun m => { m with daddr := addr.toNat } else s)

/-- SETDASA (R473). -/
def execSetdasa (addr : BitVec 7) (s : State) : Outcome :=
  .next (s.managed fun s => if s.mg.daddr = 0 then s.mgUpd fun m => { m with daddr := addr.toNat } else s)

/-- SET_ENDPOINT_ID (R473): the null and the broadcast EID are refused. -/
def execSetEndpointId (eid : Byte) (s : State) : Outcome :=
  .next (s.managed fun s =>
    if eid = 0 ∨ eid = 0xFF then s.answer 0x01 2 [] []
    else (s.mgUpd fun m => { m with eid := eid.toNat, eidValid := true }).answer 0x01 0 [eid.toNat] [])

/-- GET_ENDPOINT_ID (R473). -/
def execGetEndpointId (s : State) : Outcome :=
  .next (s.managed fun s => s.answer 0x02 0 [if s.mg.eidValid then s.mg.eid else 0] [])

/-- GET_ENDPOINT_UUID (R473): the manual does not give the UUID. -/
def execGetEndpointUuid (s : State) : Outcome :=
  .next (s.managed fun s => s.answer 0x03 0 [] (leBytes 16 (Config.unstated 30 [])))

/-- GET_MCTP_VERSION_SUPPORT (R473): the manual does not give the versions. -/
def execGetMctpVersionSupport (mtype : Byte) (s : State) : Outcome :=
  .next (s.managed fun s =>
    if mtype.toNat < 2 ∨ mtype = 0xFF then s.answer 0x04 0 [] (leBytes 4 (Config.unstated 31 [mtype.toNat])) else s.answer 0x04 0x80 [] [])

/-- GET_MESSAGE_TYPE_SUPPORT (R473): control and PLDM. -/
def execGetMessageTypeSupport (s : State) : Outcome := .next (s.managed fun s => s.answer 0x05 0 [2] [0, 1])

/-- GETTID (R474). -/
def execGettid (s : State) : Outcome := .next (s.managed fun s => s.pldm 0 0x02 0 [s.mg.tid] [])

/-- SETTID (R474): the reserved TIDs are refused. -/
def execSettid (tid : Byte) (s : State) : Outcome :=
  .next (s.managed fun s =>
    if tid = 0 ∨ tid = 0xFF then s.pldm 0 0x01 2 [] [] else (s.mgUpd fun m => { m with tid := tid.toNat }).pldm 0 0x01 0 [] [])

/-- GETPLDMVERSION (R474): the manual does not give the versions. -/
def execGetpldmversion (ptype : Byte) (s : State) : Outcome :=
  .next (s.managed fun s =>
    if State.pldmCommands ptype.toNat = [] then s.pldm 0 0x03 0x83 [] []
    else s.pldm 0 0x03 0 [] (leBytes 4 (Config.unstated 32 [ptype.toNat])))

/-- GETPLDMTYPES (R474): types 0, 2 and 5. -/
def execGetpldmtypes (s : State) : Outcome := .next (s.managed fun s => s.pldm 0 0x04 0 [0x25] [])

/-- GETPLDMCOMMANDS (R474). -/
def execGetpldmcommands (ptype : Byte) (s : State) : Outcome :=
  .next (s.managed fun s =>
    if State.pldmCommands ptype.toNat = [] then s.pldm 0 0x05 0x83 [] [] else s.pldm 0 0x05 0 (State.pldmCommands ptype.toNat) [])

/-- GETPDRREPOSITORYINFO (R475): available, with 38 sensors and 2 effecters. -/
def execGetpdrrepositoryinfo (s : State) : Outcome := .next (s.managed fun s => s.pldm 2 0x50 0 [0, 40] [])

/-- GETPDR (R475): record n of the repository and the number of the next; record 0 asks for the first. -/
def execGetpdr (record : Nat) (s : State) : Outcome :=
  .next (s.managed fun s =>
    let n := max 1 record
    match State.pdr n with
    | some l => s.pldm 2 0x51 0 (n :: (if n < 40 then n + 1 else 0) :: l) []
    | none => s.pldm 2 0x51 0x82 [] [])

/-- GETSENSORREADING (R475): the value as 32 bits, two's complement. -/
def execGetsensorreading (sensor : Nat) (s : State) : Outcome :=
  .next (s.managed fun s =>
    match s.numericReading sensor with
    | some v => s.pldm 2 0x11 0 [sensor, (v % 2 ^ 32).toNat] []
    | none => s.pldm 2 0x11 0x80 [] [])

/-- GETSTATESENSORREADINGS (R475). -/
def execGetstatesensorreadings (sensor : Nat) (s : State) : Outcome :=
  .next (s.managed fun s =>
    match s.stateReading sensor with
    | some v => s.pldm 2 0x21 0 [sensor, v] []
    | none => s.pldm 2 0x21 0x80 [] [])

/-- EFFECTER_WARM_START (R428, R475): state 2 requests a warm start. -/
def execEffecterWarmStart (state : Nat) (s : State) : Outcome :=
  .next (s.managed fun s =>
    if state = 2 then (s.pldm 2 0x39 0 [1] []).warmRequest 2
    else if state = 1 then s.pldm 2 0x39 0 [1] []
    else s.pldm 2 0x39 0x81 [1] [])

/-- EFFECTER_ALERT_CLEAR (R475): state 2 clears every EL_ALERT bit except FATAL. -/
def execEffecterAlertClear (state : Nat) (s : State) : Outcome :=
  .next (s.managed fun s =>
    if state = 2 then (s.clearAlert 0xF).pldm 2 0x39 0 [2] []
    else if state = 1 then s.pldm 2 0x39 0 [2] []
    else s.pldm 2 0x39 0x81 [2] [])

/-- SETEVENTRECEIVER (R474). -/
def execSeteventreceiver (eid : Byte) (s : State) : Outcome :=
  .next (s.managed fun s => (s.mgUpd fun m => { m with receiver := eid.toNat }).pldm 2 0x04 0 [] [])

/-- POLLFORPLATFORMEVENTMESSAGE (R474): the oldest event that waits, with the number waiting; it leaves when it is acknowledged. -/
def execPollforplatformeventmessage (s : State) : Outcome :=
  .next (s.managed fun s => s.pldm 2 0x0B 0 [s.el.pldm.length] (s.el.pldm.headD []))

/-- REQUESTUPDATE (R477). -/
def execRequestupdate (s : State) : Outcome := .next (s.managed State.requestUpdate)

/-- FIRMWARE_DATA_TRANSFER (R477). -/
def execFirmwareDataTransfer (off : Nat) (data : List Byte) (s : State) : Outcome := .next (s.managed fun s => s.transferData off data)

/-- VERIFYCOMPLETE (R477). -/
def execVerifycomplete (s : State) : Outcome := .next (s.managed State.verifyUpdate)

/-- ACTIVATEFIRMWARE (R477). -/
def execActivatefirmware (selfContained : Bool) (s : State) : Outcome := .next (s.managed fun s => s.activate selfContained)

end Sys2Proof.Machine
end

