-- ==== Sys2Proof/Machine/RegRead.lean ====
section
/-! DEFINITION. What registers read as where hardware keeps the value elsewhere than in a stored word (R17: reset column hw or otp). -/

namespace Sys2Proof.Machine

namespace State

/-- Index and rest of an offset inside n places of `stride` bytes from `base`. -/
def place (off base stride n : Nat) : Option (Nat × Nat) :=
  if base ≤ off ∧ off < base + stride * n then some ((off - base) / stride, (off - base) % stride) else none

/-- Bits set where p holds, for 32 bits from bit k on. -/
def bits32 (k : Nat) (p : Nat → Bool) : Nat := ((List.range 32).map fun b => if p (k + b) then 2 ^ b else 0).sum

/-- HI (R408). -/
def hwHi (s : State) (off : Nat) : Option Nat :=
  if off = R.HI_STATUS then
    some (b2n s.loaded + 2 * b2n s.el.degraded + 4 * b2n (s.hi.cxl && s.hi.up) + 65536 * ((s.hi.pairs.filter fun p => p.2.phase == 1).length))
  else if off = R.HI_CLOCK_LO then some (s.now % 2 ^ 32)
  else if off = R.HI_CLOCK_HI then some (s.now / 2 ^ 32)
  else match place off 0x10000 0x40 1024 with
    | some (q, 4) => let p := s.pair q; some (p.phase + 8 * b2n (p.phase == 3) + 65536 * s.outstanding q)
    | _ => none

/-- GL (R438). -/
def hwGl (s : State) (off : Nat) : Option Nat :=
  let otp := fun (i h : Nat) => Map.getD 0 s.gl.otp i / 2 ^ (32 * h) % 2 ^ 32
  if off = R.GL_ID then some (otp 0 0)
  else if off = R.GL_SERIAL_LO then some (otp 1 0)
  else if off = R.GL_SERIAL_HI then some (otp 1 1)
  else if off = R.GL_START_STATUS then some (s.gl.kind + 256 * s.gl.phase + 32768 * b2n s.gl.running)
  else if off = R.GL_START_CAUSE then some s.gl.cause
  else match place off R.GL_VCORE 4 4 with
    | some (d, _) => some (Map.getD 750 s.pw.target d)
    | none => match place off R.GL_POLDER_STATUS 4 64 with
      | some (p, _) => let st := s.polderState p; some (st + 8 * b2n (st == 3) + 65536 * s.polderOutstanding p)
      | none => match place off R.GL_OTP 4 512 with
        | some (i, _) => some (otp (i / 2) (i % 2))
        | none => none

/-- IM (R439). -/
def hwIm (s : State) (off : Nat) : Option Nat :=
  if off = R.IM_STATUS then some (s.im.phase + 16 * s.im.slot + 32 * b2n s.im.reused + 64 * b2n s.im.discarded)
  else if off = R.IM_SCHEMA then some s.im.schema
  else if off = R.IM_IMAGE_VER_LO then some (s.im.version % 2 ^ 32)
  else if off = R.IM_IMAGE_VER_HI then some (s.im.version / 2 ^ 32)
  else if off = R.IM_SVN then some (s.im.imgSvn + 256 * s.gl.svn)
  else if off = R.IM_SKIPPED then some s.im.skipped
  else if off = R.IM_FLASH_ID then some s.im.flashId
  else if off = R.IM_FLASH_SIZE then some (s.im.capacity / 1048576)
  else if off = R.IM_FUSE_KEYS then
    some (bits32 0 (fun k => decide (k < 4) && (s.gl.fuseKeys.get? k).isSome) + 256 * bits32 0 (fun k => decide (k < 4) && s.gl.revoked.contains k)
      + 65536 * b2n s.gl.kek.isSome)
  else none

/-- EL (R478). -/
def hwEl (s : State) (off : Nat) : Option Nat :=
  if off = R.EL_STATUS then
    some (b2n s.el.fatal + 2 * b2n s.el.degraded + 4 * b2n s.el.ovf.isSome
      + 16 * (s.el.high.length + s.el.low.length + b2n s.el.ovf.isSome) + 65536 * s.el.unread)
  else if off = R.EL_I3C then some (s.mg.daddr + 256 * s.mg.eid + 65536 * b2n s.mg.eidValid)
  else none

/-- STATE of SQ_SLOT_STATE. -/
def phaseCode (p : SlotPhase) : Nat :=
  match p with
  | .idle => 0 | .ready => 1 | .current => 2 | .waiting => 3 | .draining => 4 | .faulted => 5

/-- The window of logical core c (R121); CUR is open while no slot is current. An ATTN_TILE that runs keeps the vector unit and the SFU busy (R78), and a core that no CORECFG names has STEPS = 1 (R81).

DESIGN CHOICE: the manual gives SQ_SLOT_WAIT its fields for a WAITING slot only; for any other slot it reads as 0. It lists the units of UNIT_BUSY as matrix, vector, SFU and stream without their bits; matrix is the lowest bit and stream the highest. -/
def hwCore (s : State) (c off : Nat) : Option Nat :=
  let k := s.core c
  let tile := k.attnHead && k.running .matrix
  if off = 0xC then (if s.loaded then some (s.reg (coreReg c 0xC) / 2 ^ 15 * 2 ^ 15 + s.steps c) else none)
  else if off = 0 then
    some (bits32 0 (fun i => decide (i < 8) && (k.slot i).phase != .idle) + 256 * bits32 0 (fun i => decide (i < 8) && (k.slot i).phase == .faulted)
      + 65536 * (k.cur.getD (Config.unstated 33 [c]) % 8) + 2 ^ 20 * b2n (!k.mq.isEmpty) + 2 ^ 21 * b2n (k.running .vector || tile) + 2 ^ 22 * b2n (k.running .sfu || tile)
      + 2 ^ 23 * b2n (!k.streams.isEmpty) + 2 ^ 24 * s.physOf c)
  else match place off 0x20 4 8 with
    | some (i, _) => let x := k.slot i; some (x.pc % 16384 + 65536 * phaseCode x.phase + 2 ^ 24 * x.cause)
    | none => match place off 0x40 4 8 with
      | some (i, _) => let x := k.slot i; some (x.loop0.index % 65536 + 65536 * (x.loop1.index % 65536))
      | none => match place off 0x80 4 8 with
        | some (i, _) => let x := k.slot i; some (if x.phase = .waiting then x.wfw + 256 * x.wmask + 2 ^ 24 * x.reason else 0)
        | none => match place off 0x100 4 128 with
          | some (i, _) => some (k.flag (2 * i) + 65536 * k.flag (2 * i + 1))
          | none => none

/-- A core of die d was retired while the D8 ran: it still holds its logical id (R38). -/
def dieDegraded (s : State) (d : Nat) : Bool := (s.retiredIds 0).any fun p => p / 52 == d && (s.logicalOf p).isSome

/-- Arrivals of a dike as a bit of SQ_DIKE_ARRIVED and SQ_PDIKE_ARRIVED. -/
def arrivedBit (s : State) (k first : Nat) (b : Nat) : Bool := (s.dike k).arrived.any fun a => 8 * (a.core - first) + a.slot == b

/-- SQ (R120, R121). -/
def hwSq (s : State) (off : Nat) : Option Nat :=
  match place off 0x400000 0x40000 4 with
  | none => none
  | some (d, r) =>
    match place r 0x10000 0x800 48 with
    | some (c, r) => s.hwCore (48 * d + c) r
    | none =>
      let holds := fun (k : Nat) => (s.logicalOf (52 * d + 48 + k)).map (· % 48)
      if r = 4 then some ((((List.range 4).filterMap holds).length) + 8 * b2n (s.dieDegraded d))
      else if r = 8 then some (ofLe ((List.range 4).map fun k => BitVec.ofNat 8 ((holds k).getD 0xFF)))
      else if r = 0x20 ∨ r = 0x24 then some (bits32 ((r - 0x20) * 8) fun i => !(s.dike (64 * d + i)).arrived.isEmpty)
      else if r = 0x28 ∨ r = 0x2C then some (bits32 ((r - 0x28) * 8) fun i => (s.dike (64 * d + i)).gen)
      else if d = 0 ∧ r = 0x30 then some (bits32 0 fun i => decide (i < 16) && !(s.dike (256 + i)).arrived.isEmpty)
      else if d = 0 ∧ r = 0x34 then some (bits32 0 fun i => decide (i < 16) && (s.dike (256 + i)).gen)
      else match place r 0x3000 0x40 64 with
        | some (i, w) => some (bits32 (8 * w) (s.arrivedBit (64 * d + i) (48 * d)))
        | none => match (if d = 0 then place r 0x5000 0x100 16 else none) with
          | some (j, w) => some (bits32 (8 * w) (s.arrivedBit (256 + j) 0))
          | none => none

/-- TG (R152). -/
def hwTg (s : State) (off : Nat) : Option Nat :=
  let count := fun (p : Xfer → Bool) => (s.tg.xfers.filter p).length
  if off = R.TG_STATUS then some (b2n s.tg.live + 256 * ((List.range 64).filter fun p => (s.pumpProg p).isSome).length)
  else if off = R.TG_INUSE_READ then some (s.inUse .read)
  else if off = R.TG_INUSE_WRITE then some (s.inUse .write)
  else if off = R.TG_INUSE_REMOTE then some (s.inUse .remote)
  else if off = R.TG_INUSE_HOST then some s.hostHeld
  else if off = R.TG_INUSE_PUMP then some (count fun x => isPump x.owner)
  else match place off R.TG_PUMP_STATE 4 64 with
    | none => none
    | some (p, _) => match s.pumpProg p with
      | none => some 0
      | some x =>
        some (Map.getD 0 s.tg.pumpK p % x.layers + 65536 * (((s.tg.runs.filter fun r => r.prog == p).map (·.layer)).eraseDups.length) + 2 ^ 31)

/-- KV (R226). -/
def hwKv (s : State) (off : Nat) : Option Nat :=
  if off = R.KV_STATUS then some (s.contextsUsed + 65536 * ((s.kv.ctxs.filter fun c => c.2.phase == .parked).length))
  else if off = R.KV_FREE_PAGES then some s.freePages
  else if off = R.KV_DRAINED_LO then some (s.drained % 2 ^ 32)
  else if off = R.KV_DRAINED_HI then some (s.drained / 2 ^ 32 % 65536)
  else if off = R.KV_SPOIL_PAGES then some ((s.kv.spoil.filter fun x => !x.block).length)
  else if off = R.KV_SEAM_VALID then some s.kv.seam.length
  else match place off R.KV_FB_SIZE 8 64 with
    | some (p, r) => some (if r = 0 then s.fbSize p else s.fbFree p)
    | none => none

/-- The partitions of R230 in KiB: base and size. -/
def quParts : List (Nat × Nat) := [(0, 256), (256, 1792), (2048, 5120), (7168, 8192), (15360, 16384), (31744, 1024)]

/-- Whole lists at the front of a unit's queue: they count as in progress while results may be added (R234). -/
def quLists (q : QuState) : Nat :=
  if Nat.ble 1048576 (heldBytes q) then 0 else min 4 (q.queue.filter fun d => bitOf d.word.toNat 64).length

/-- QU (R257). -/
def hwQu (s : State) (off : Nat) : Option Nat :=
  match place off 0x800000 0x10000 8 with
  | none => none
  | some (n, r) =>
    let q := s.quState n
    if r = 4 then
      some (min 8192 q.queue.length + 65536 * quLists q
        + 2 ^ 20 * min 4095 ((q.results.map fun x => match x.1 with | .parts _ _ ps _ => ps.length | _ => 0).sum))
    else match place r 0x20 4 6 with
      | some (i, _) => let x := quParts.getD i (0, 0); some (x.1 + 65536 * x.2)
      | none => none

/-- TI (R285). -/
def hwTi (s : State) (off : Nat) : Option Nat :=
  if off = R.TI_STATUS then
    some (b2n s.ti.ready + 2 * b2n (!s.ti.evac.isEmpty) + 256 * min 65535 ((s.ti.moves.filter fun m => m.phase != .decided && m.phase != .reserved).length))
  else if off = R.TI_SPILL_REG then some s.ti.spill.length
  else if off = R.TI_STACK_FREE then some (((List.range 8).map s.freeFrames).sum)
  else if off = R.TI_STACK_ZEROED then some (((List.range 8).map s.zeroedFree).sum)
  else if off = R.TI_SPILL_FREE then some s.openSpill
  else match place off R.TI_PC_RETIRED 8 8 with
    | some (st, r) => some (bits32 (8 * r) fun p => s.ti.retired.contains (64 * st + p))
    | none => match place off 0x900400 16 64 with
      | some (p, 8) => some (s.charged false p)
      | some (p, 12) => some (s.charged true p)
      | _ => none

/-- SL (R314). -/
def hwSl (s : State) (off : Nat) : Option Nat :=
  if off = R.SL_STATUS then
    some (((s.sl.execs.map fun x => State.slSlots x.2).sum) + 65536 * min 255 s.sl.tokens.length + 2 ^ 31 * b2n s.cu.slow)
  else none

/-- SK (R347): a merge publishes at the event that ends it. -/
def hwSk (s : State) (off : Nat) : Option Nat :=
  if off = R.SK_STATUS then
    some (s.sk.idx.length + 256 * min 4095 s.sk.batches.length + 2 ^ 24 * ((s.sk.idx.filter fun x => x.2.merge.isSome).length))
  else match place off R.SK_IDX 64 64 with
    | none => none
    | some (x, r) => match s.skIdx x with
      | none => none
      | some ix =>
        if r = 32 then some (ix.gen % 2 ^ 32)
        else if r = 36 then some (ix.gen / 2 ^ 32)
        else if r = 40 then some ix.head
        else if r = 44 then some ix.tail
        else if r = 48 then some (s.skLive x ix)
        else if r = 52 then some (b2n ix.merge.isSome)
        else none

/-- WIDTH of CU_STATUS: an 800GbE port runs on one half (R365, R380). -/
def portWidth (s : State) (n : Nat) : Nat :=
  let w := 3 - ((s.port n).gone ||| (s.port n).pgone)
  if w = 3 ∧ s.portRole n = 7 ∧ bitOf (s.reg (cuReg n 0x30)) 0 = false then 1 else w

/-- CU_LANE_RETRAIN: the charges in the window that ends now, and the stored total (R380). -/
def laneRetrain (s : State) (n lane : Nat) : Nat :=
  min (s.laneCharges n lane).length 255 + 256 * bitsOf (s.reg (cuReg n 0x80 + 4 * lane)) 31 8

/-- CU (R380). -/
def hwCu (s : State) (off : Nat) : Option Nat :=
  match place off 0xC00000 0x10000 18 with
  | none => none
  | some (n, r) =>
    let p := s.port n
    let up := [2, 3, 6, 7].contains p.phase
    if r = 4 then
      some (p.phase + 16 * (if up then s.portWidth n else 0) + 64 * b2n (s.portRole n == 7) + 128 * b2n p.latched
        + 256 * (if up then p.rev else 0) + 65536 * b2n (p.slowRx || p.tuns.any fun t => t.2.slow))
    else if r = 0x20 then some (p.lock % 256 + 256 * ((if bitOf p.gone 0 then 15 else 0) + (if bitOf p.gone 1 then 240 else 0)))
    else if Nat.ble 0x80 r && Nat.blt r 0xA0 then some (s.laneRetrain n (r / 4 - 32))
    else if r = 0x24 then
      let (rank, gidx, role, revs) := p.partner
      some (rank + 65536 * gidx + 2 ^ 20 * role + 2 ^ 24 * revs)
    else if r = 0x28 then some (credits p 0 0 + credits p 0 1 + 65536 * (credits p 1 0 + credits p 1 1))
    else if r = 0x2C then some (credits p 2 0 + credits p 2 1 + 65536 * (credits p 3 0 + credits p 3 1))
    else none

/-- PW (R510) and DT (R458). -/
def hwPw (s : State) (off : Nat) : Option Nat :=
  let p := s.pw
  let hot := fun (k : Nat) => s.reg (R.PW_TEMP + 4 * k) + 65536 * k
  if off = R.PW_STATUS then
    some (p.div + 16 * b2n p.hot + 32 * b2n p.above + 64 * b2n p.excursion + 128 * b2n p.pin + 256 * b2n p.held + 512 * b2n s.cu.slow
      + 1024 * b2n p.trip + 2048 * b2n (p.raise.isSome || (List.range 4).any fun d => Map.getD 750 p.vout d != Map.getD 750 p.target d))
  else if off = R.PW_CLK_STATUS then some (b2n p.pll + 2 * b2n p.sysRef + 4 * b2n p.peRef + 8 * b2n p.sysRef)
  else if off = R.PW_TEMP_MAX_DIE then some (hot (s.hottest 0 64))
  else if off = R.PW_TEMP_MAX_STK then some (hot (s.hottest 64 8))
  else if off = R.DT_SYNC_STATUS then some (b2n s.dt.latched.isSome + 2 * b2n s.dt.hold.isSome)
  else none

/-- The value of a register that hardware holds outside the stored words. -/
def hwReg (s : State) (off : Nat) : Option Nat :=
  let b := off / 0x100000
  if b = 0 then s.hwHi off
  else if b = 1 then s.hwGl off
  else if b = 2 then s.hwIm off
  else if b = 3 then s.hwEl off
  else if b = 4 then s.hwSq off
  else if b = 6 then s.hwTg off
  else if b = 7 then s.hwKv off
  else if b = 8 then s.hwQu off
  else if b = 9 then s.hwTi off
  else if b = 10 then s.hwSl off
  else if b = 11 then s.hwSk off
  else if b = 12 ∨ b = 13 then s.hwCu off
  else if b = 15 then s.hwPw off
  else none

/-- What a read of a BAR0 word returns (R13, R14): reserved offsets, reserved bits and WO registers read 0. -/
def regRead (s : State) (off : Nat) : Nat :=
  match regRow off with
  | none => 0
  | some r => if r.access = .wo then 0 else ((s.hwReg off).getD (s.reg off) % 2 ^ 32) &&& r.maskAt off

end State

end Sys2Proof.Machine
end

