-- ==== Sys2Proof/Machine/Regs.lean ====
section
/-! DEFINITION. Accesses of the host: BAR0 registers (R11–R16) and the debug windows of BAR2 (R386, R387). -/

namespace Sys2Proof.Machine

/-! ### Register pairs (R11) -/

/-- The half of a pair that an offset is: 1 _LO, 2 _HI, 0 neither. -/
def halfAt (off : Nat) : Nat :=
  match regRow off with
  | none => 0
  | some r => if r.half = 3 then 1 + (off - r.base) / 4 % 2 else r.half

/-- The MSI-X table and the pending-bit array, which also take 64-bit accesses (R12). -/
def takes64 (off : Nat) : Bool := (Nat.ble 0x80000 off && Nat.blt off 0x88000) || (Nat.ble 0x90000 off && Nat.blt off 0x90100)

/-- A naturally aligned 32-bit access, or a 64-bit one where R12 allows it. -/
def accessOk (off bytes : Nat) : Bool := (bytes == 4 && off % 4 == 0) || (bytes == 8 && off % 8 == 0 && takes64 off)

namespace State

/-! ### Reads -/

/-- A read of a word: a _LO captures the upper half, and a _HI takes what was captured. -/
def readWord (s : State) (off : Nat) : Nat × State :=
  if halfAt off = 1 then (s.regRead off, s.hiUpd fun h => { h with capt := h.capt.put (off + 4) (s.regRead (off + 4)) })
  else match s.hi.capt.get? off with
    | some v => (v, s.hiUpd fun h => { h with capt := h.capt.del off })
    | none => (s.regRead off, s)

/-- A BAR0 read of one or two words. -/
def readBar (s : State) (off bytes : Nat) : State :=
  let (a, s) := s.readWord off
  if bytes = 8 then let (b, s) := s.readWord (off + 4); s.send (.readData off (leBytes 4 a ++ leBytes 4 b))
  else s.send (.readData off (leBytes 4 a))

/-- An access that breaks R12: a read completes with Unsupported Request, and a write is discarded. -/
def badAccess (s : State) (off : Nat) (write : Bool) : State :=
  let s := if write then s else s.send (.completion 1 off)
  (s.orReg R.HI_ERR 0x200).report 0 0x02 0x01 0xFFFF 0

/-! ### Writes -/

/-- SF_STICKY bits are cleared here and in every core (R75).

DESIGN CHOICE: R75 names the bits of the cores only, so SL_ARITH keeps its bits while SF_STICKY reads 0. -/
def clearSticky (s : State) (v : Nat) : State :=
  let s := s.setReg R.SF_STICKY (s.reg R.SF_STICKY - (s.reg R.SF_STICKY &&& v))
  (List.range 192).foldl (fun s c =>
    let a := s.reg (coreReg c 4)
    let b := a - (a &&& v)
    if a = b then s
    else
      let s := s.setReg (coreReg c 4) b
      let f := R.SF_CORE_FLAG + c / 32 * 4
      if b = 0 ∧ bitOf (s.reg f) (c % 32) then s.setReg f (s.reg f - 2 ^ (c % 32)) else s) s

/-- SF_STICKY is the OR of the bits of all cores (R59) and of the Sluice adders: of the bits `gone` from one of them, those that none still has fall. -/
def refreshSticky (s : State) (gone : Nat) : State :=
  let kept := (List.range 192).foldl (fun k c => k ||| s.reg (coreReg c 4)) (s.reg R.SL_ARITH)
  let v := s.reg R.SF_STICKY
  let out := gone - (gone &&& kept)
  s.setReg R.SF_STICKY (v - (v &&& out))

/-- SF_STICKY is written while hardware sets `hwSet` of it: the core that raises them is not named, and free. -/
def writeSticky (s : State) (v hwSet : Nat) : State :=
  if hwSet % 128 = 0 then s.clearSticky v
  else let (k, s) := s.draw; s.raisedOver (k % 192) hwSet fun s => s.clearSticky v

/-- Bits of SF_CORE_FLAGi are cleared, with all status bits of those cores (R75); a core whose flag hardware sets in the same cycle raises status bits, which are not named and free, and keeps them and its flag (R15). -/
def clearCoreFlag (s : State) (i v hwSet : Nat) : State :=
  let s := ((List.range 32).filter fun b => bitOf hwSet b).foldl (fun s b =>
    let (k, s) := s.draw; s.arith (32 * i + b) ⟨1 + k % 127, 0, 0, 0⟩) s
  let f := R.SF_CORE_FLAG + 4 * i
  let old := s.reg f
  let cores := (List.range 32).filter fun b => bitOf v b && !bitOf hwSet b
  let gone := cores.foldl (fun k b => k ||| s.reg (coreReg (32 * i + b) 4)) 0
  let s := s.setReg f (old - (old &&& (v - (v &&& hwSet))))
  (cores.foldl (fun s b => s.setReg (coreReg (32 * i + b) 4) 0) s).refreshSticky gone

/-- SQ_CORE_ARITH bits are cleared for this core only; a core without status bits has no flag in SF_CORE_FLAG (R75, R121). -/
def clearArith (s : State) (c v hwSet : Nat) : State :=
  s.raisedOver c hwSet fun s =>
    let a := s.reg (coreReg c 4)
    let b := a - (a &&& v)
    let s := (s.setReg (coreReg c 4) b).refreshSticky (a - (a &&& b))
    let f := R.SF_CORE_FLAG + c / 32 * 4
    if b = 0 ∧ bitOf (s.reg f) (c % 32) then s.setReg f (s.reg f - 2 ^ (c % 32)) else s

/-- SL_ARITH bits of the Sluice adders are cleared (R305), and SF_STICKY follows; bits that hardware sets in the same cycle are raised and stay (R15). -/
def clearSlArith (s : State) (v hwSet : Nat) : State :=
  let s := if hwSet % 128 = 0 then s else s.arithSl ⟨hwSet % 128, 0, 0, 0⟩
  let a := s.reg R.SL_ARITH
  let gone := (a &&& v) - (a &&& v &&& (hwSet % 128))
  (s.setReg R.SL_ARITH (a - (a &&& gone))).refreshSticky gone

/-- A write that a loaded image has closed (R14, R16). -/
def rwlDiscard (s : State) (off : Nat) : State :=
  ((s.count32 R.IM_RWL_DISCARD 1).orReg R.IM_ERR 4).report 0 0x01 0x10 0 off

/-- A write by access code (R13–R16): `hwSet` are the bits that hardware sets in the same cycle. -/
def codeWrite (s : State) (off v hwSet : Nat) : State :=
  match regRow off with
  | none => s
  | some r =>
    match r.access with
    | .ro => s
    | .wo => s
    | .rw => s.setReg off (v &&& r.mask)
    | .rws => s.setReg off (v &&& r.mask)
    | .w1c => s.setReg off ((s.reg off - (s.reg off &&& (v &&& r.mask))) ||| (hwSet &&& r.mask))
    | .rwl => if s.loaded then s.rwlDiscard off else s.setReg off (v &&& r.mask)

/-- A _HI is written: the 64-bit value with the _LO held takes effect (R11). -/
def commitHi (s : State) (off v : Nat) : State :=
  let lo := off - 4
  let held := s.hi.held.get? lo
  let s := s.hiUpd fun h => { h with held := h.held.del lo }
  match regRow off with
  | none => s
  | some r =>
    if r.access = .rwl ∧ s.loaded then s.rwlDiscard off
    else
      let s := match held with | some x => s.codeWrite lo x 0 | none => s
      s.codeWrite off v 0

/-- A _LO is held, where it can be written; a _HI commits; any other word acts by its code. -/
def pairWrite (s : State) (off v hwSet : Nat) : State :=
  match regRow off with
  | none => s
  | some r =>
    let plain := r.access == .rw || r.access == .rws || r.access == .rwl
    if plain && halfAt off == 1 then s.hiUpd fun h => { h with held := h.held.put off v }
    else if plain && halfAt off == 2 then s.commitHi off v
    else s.codeWrite off v hwSet

/-- A write of a queue's window (R389, R390, R393). -/
def queueWrite (s : State) (q r off v : Nat) : State :=
  if r = 0 then (if bitOf v 0 then s.enableQueue q v else s.disableQueue q v)
  else if 8 ≤ r ∧ r < 0x28 ∧ (s.pair q).phase ≠ 0 then s.orReg R.HI_ERR 4
  else if halfAt off = 1 then s.hiUpd fun h => { h with held := h.held.put off v }
  else if halfAt off = 2 then s.commitHi off v
  else s.codeWrite off v 0

/-- A write of a CU block: ENABLE and TUN act as their commands do. -/
def portWrite (s : State) (n r off v hwSet : Nat) : State :=
  if r = 0xC then (if bitOf v 0 then s.portOn n else s.portOff n)
  else if r = 0x60 then s.selectTun n v
  else s.pairWrite off v hwSet

/-- A 32-bit write of a BAR0 register: the ones that act on more than their own word, and the others by access code. -/
def regWrite (s : State) (off v hwSet : Nat) : State :=
  if off = R.HI_QP_HANDSHAKE then s.handshake v
  else if off = R.HI_EV_CFG then s.writeEventCfg v
  else if off = R.GL_RESET then s.resetWrite v
  else if off = R.IM_FUSE_CMD then let (k, s) := s.draw; s.fuseCmd v (k % 2 == 1)
  else if off = R.EL_RD then s.writeElRd v
  else if off = R.EL_TEST then s.writeElTest v
  else if off = R.EL_ALERT then
    let keep := hwSet &&& (s.reg R.EL_ALERT &&& 0xF)
    (s.clearAlert (v - (v &&& keep))).alertEdge fun s => s.orReg R.EL_ALERT (hwSet &&& 0xF)
  else if off = R.EL_ALERT_EN then s.writeAlertEn v
  else if off = R.SF_STICKY then s.writeSticky v hwSet
  else if off = R.SL_ARITH then s.clearSlArith v hwSet
  else if off = R.KV_CTX_SEL then s.selectCtx v
  else if off = R.SL_OP_SEL then s.selectOp v
  else if off = R.TI_MAP_SEL_HI then s.selectGran v
  else match place off 0x10000 0x40 1024 with
    | some (q, r) => s.queueWrite q r off v
    | none => match place off 0x80000 16 2048 with
      | some (n, 12) => if bitOf v 0 then s.setReg off 1 else s.unmask n
      | some _ => s.codeWrite off v 0
      | none => match place off R.GL_POLDER_CTRL 4 64 with
        | some (p, _) => s.polderWrite p (bitOf v 0)
        | none => match place off R.SF_CORE_FLAG 4 6 with
          | some (i, _) => s.clearCoreFlag i v hwSet
          | none => match place off 0xC00000 0x10000 18 with
            | some (n, r) => s.portWrite n r off v hwSet
            | none => match place off 0x410000 0x40000 4 with
              | some (d, r) =>
                if r < 0x18000 ∧ r % 0x800 = 4 then s.clearArith (48 * d + r / 0x800) v hwSet else s.pairWrite off v hwSet
              | none => s.pairWrite off v hwSet

/-! ### BAR2 (R386, R387) -/

/-- A naturally aligned access of at most 4,096 B: a power of two, at a multiple of itself. -/
def windowOk (off len : Nat) : Bool := ((List.range 13).any fun k => len == 2 ^ k) && off % len == 0

/-- n bytes of a table of 2^20 words or fewer, from byte a: word i of `w` bytes is f i. -/
def tableBytes (w : Nat) (f : Nat → Nat) (a n : Nat) : List Byte :=
  let l := ((List.range (n / w + 2)).map fun i => leBytes w (f (a / w + i))).flatten
  (l.drop (a % w)).take n

/-- The 128 bits of a seam entry (R210). -/
def seamWord (s : State) (k : Nat) : Nat :=
  match s.kv.seam.get? k with
  | some e => 1 + 2 * e.polder + 2 ^ 8 * e.tag + 2 ^ 64 * (e.row / 1024) + 2 ^ 106 * e.age
  | none => 0

/-- Bytes the manual does not state. -/
def freeBytes (s : State) (n : Nat) : List Byte × State := let (v, s) := s.draw; (leBytes n v, s)

/-- n bytes of the map area of stack st from byte a: map entries, then the spillway frame table (R263, R265). -/
def mapBytes (s : State) (st a n : Nat) : List Byte :=
  if a < 65536 * s.mapF then
    tableBytes 16 (fun i => match findGran (8 * i + st) s.ti.regions with | some g => s.entryWord g | none => 0) a n
  else tableBytes 8 (fun i => s.ti.spill.getD (8 * i + st) 0) (a - 65536 * s.mapF) n

/-- The device address or map byte of an offset of the device window. -/
def windowAt (s : State) (off : Nat) : Nat := s.reg64 R.HI_WIN_BASE_LO + (off - 0x100000000)

def windowSpace (s : State) : Nat := s.reg R.HI_WIN_CTRL % 16

/-- A read of the device window through SPACE 0. A spillway home is read from the host and decrypted (R387): what the frame then holds is the host's, and free here. What is unwritten in an INDEX region reads as zero (R323); the bytes of another granule without contents are free. -/
def windowRead (s : State) (off a n : Nat) (ue : Bool) : State :=
  let g := granOf a
  if (s.entryNo g).isNone then s.send (.completion 1 off)
  else
    let x := s.entry g
    if x.poison || ue then s.send (.completion 4 off)
    else if x.undef then
      if s.isIndex g then s.send (.readData off (List.replicate n 0)) else let (d, s) := s.freeBytes n; s.send (.readData off d)
    else if x.spill then
      let s := s.hostRx (s.ti.spill.getD x.frame 0 + a % 65536) n
      let (c, s) := s.freeBytes 65536
      s.send (.readData off (((s.decrypt g c).drop (a % 65536)).take n))
    else s.send (.readData off (s.devRead a n))

/-- A write of the device window through SPACE 0. -/
def windowWrite (s : State) (off a : Nat) (data : List Byte) : State :=
  let g := granOf a
  if (s.entryNo g).isNone || (s.entry g).spill then s.send (.completion 1 off)
  else if s.moving g then s.hiUpd fun h => { h with waits := h.waits ++ [(a, data)] }
  else (s.devWrite a data).skSeen a data.length

/-- A discarded BAR2 write. -/
def debugDiscard (s : State) : State := (s.orReg R.HI_ERR 0x100).report 0 0x02 0x03 0xFFFF 0

/-- An access of the peer window leaves as a message; without a loaded rank table it completes with Unsupported Request. The form of the message's body is not given: it is free. -/
def peerAccess (s : State) (off len : Nat) (write : Bool) (data : List Byte) : State :=
  if !s.rankLoaded then s.send (.completion 1 off)
  else
    let (b, s) := s.freeBytes 16
    let s := (s.sendMsg (s.reg R.HI_PEER_RANK % 65536) 3 0x30 b data none).1
    s.hiUpd fun h => { h with peer := h.peer ++ [(off, len, write)] }

/-- Bytes of a base-die SRAM (R230, R258, R386): queued descriptors stand in the descriptor-queue partition, and held partials, one behind the other, in the results partition. -/
def sramRead (s : State) (off n : Nat) : List Byte :=
  let q := s.quState (off / 0x2000000 % 8)
  let a := off % 0x2000000
  let held := q.results.flatMap fun r => match r.1 with | .parts _ _ ps _ => ps.flatMap (·.data) | _ => []
  if a < 0x40000 then (List.range n).map fun i =>
    let k := (a + i) / 32
    match q.queue[(k + 8192 - q.head % 8192) % 8192]? with
    | some d => BitVec.ofNat 8 (d.word.toNat / 2 ^ (8 * ((a + i) % 32)))
    | none => 0
  else if a < 0x1F00000 then s.readMem off n
  else (List.range n).map fun i => held.getD (a + i - 0x1F00000) 0

/-- Bytes of a port's replay buffer (R354, R381): the unacknowledged frame with number SEQ in slot SEQ mod 1,024, as it was last sent; the acknowledgement and credit it then carried are free, and so are bytes that hold no frame. -/
def replayRead (s : State) (n a len : Nat) : List Byte × State :=
  let (v, s) := s.draw
  let (d, s) := s.freeBytes len
  let slot := fun (k : Nat) => match (s.port n).unacked.find? fun f => f.seq % 1024 == k with
    | some f => frameOf f.flit.lane (if f.flit.head then 2 else 3) f.flit.cls f.flit.eom f.seq v 1 0 (v / 4096) (v / 2 ^ 14) (v / 2 ^ 15) f.flit.data
    | none => []
  ((List.range len).map fun i => (slot ((a + i) / 512)).getD ((a + i) % 512) (d.getD i 0), s)

/-- Bytes of a port's receive buffers (R355, R381, R386): a frame's place is that of its lane and class. DESIGN CHOICE: within it the frames held stand oldest first, and the other bytes are free. -/
def rxRead (s : State) (n a len : Nat) : List Byte × State :=
  let (d, s) := s.freeBytes len
  let start := fun (k : Nat) => ((List.range k).map fun i => laneCap (i / 2)).sum
  let slot := fun (x : Nat) => match (List.range 8).find? fun k => Nat.ble (start k) x && Nat.blt x (start k + laneCap (k / 2)) with
    | some k => ((Map.getD [] (s.port n).rbuf k)[x - start k]?.map fun (f : Bool × List Byte) => f.2).getD []
    | none => []
  ((List.range len).map fun i => (slot ((a + i) / 512)).getD ((a + i) % 512) (d.getD i 0), s)

/-- A debug read (R387). -/
def debugRead (s : State) (off n : Nat) (ue : Bool) : State :=
  let give := fun (s : State) (d : List Byte) => if ue then s.send (.completion 4 off) else s.send (.readData off d)
  let open_ := fun (s : State) => let (d, s) := s.freeBytes n; give s d
  if off < 0x60000000 then
    let c := off / 0x800000
    let a := off % 0x800000
    if a < 0x600000 then (if s.badIn off n then s.send (.completion 4 off) else give s (s.readMem off n))
    else if a < 0x600800 then give s (tableBytes 64 (fun i => s.sctx (32 * c + i)) (a - 0x600000) n)
    else give s (List.replicate n 0)
  else if off < 0x80000000 then give s (List.replicate n 0)
  else if 0xA0000000 ≤ off ∧ off < 0xB0000000 then give s (s.sramRead off n)
  else if off < 0xB0000000 then (if s.badIn off n then s.send (.completion 4 off) else give s (s.readMem off n))
  else if off < 0xB0100000 then give s (tableBytes 64 (fun i => (s.ctx i).word) (off - 0xB0000000) n)
  else if off < 0xB0500000 then give s (tableBytes 16 s.seamWord (off - 0xB0100000) n)
  else if off < 0xB0600000 then give s (tableBytes 16 s.slRec (off - 0xB0500000) n)
  else if off < 0xB0610000 then open_ s
  else if off < 0xB1000000 then give s (List.replicate n 0)
  else if off < 0xB3400000 then
    let a := (off - 0xB1000000) % 0x200000
    if a < 0x80000 then let (d, s) := s.replayRead ((off - 0xB1000000) / 0x200000) a n; give s d
    else if a < 0x180000 then let (d, s) := s.rxRead ((off - 0xB1000000) / 0x200000) (a - 0x80000) n; give s d
    else give s (List.replicate n 0)
  else if off < 0x100000000 then give s (List.replicate n 0)
  else if off < 0x200000000 then
    if s.windowSpace = 0 then s.windowRead off (s.windowAt off) n ue
    else if s.windowSpace ≤ 8 then give s (s.mapBytes (s.windowSpace - 1) (s.windowAt off) n)
    else give s (List.replicate n 0)
  else if off < 0x400000000 then s.peerAccess (off - 0x200000000) n false []
  else give s (List.replicate n 0)

/-- A debug write (R387): a write through the peer window travels, and the chip that it reaches applies its own rules. -/
def debugWrite (s : State) (off : Nat) (data : List Byte) : State :=
  if !windowOk off data.length then s.debugDiscard
  else if 0x200000000 ≤ off ∧ off < 0x400000000 then s.peerAccess (off - 0x200000000) data.length true data
  else if !bitOf (s.reg R.HI_DBG_CTRL) 0 then s.debugDiscard
  else if off < 0x60000000 then (if off % 0x800000 < 0x600000 then s.writeMem off data else s.debugDiscard)
  else if 0x80000000 ≤ off ∧ off < 0xA0000000 then s.writeMem off data
  else if 0x100000000 ≤ off ∧ off < 0x200000000 ∧ s.windowSpace = 0 then s.windowWrite off (s.windowAt off) data
  else s.debugDiscard

/-- A host access has its effect only while the D8 is not held in reset. -/
def hosted (s : State) (f : State → State) : State := if s.pw.held0 then s else f s

end State

/-! ### The commands -/

/-- BAR_ACCESS (R12): a read of good size and alignment returns data; a good write acts in REGISTER_WRITE. -/
def execBarAccess (off bytes : Nat) (write : Bool) (s : State) : Outcome :=
  .next (s.hosted fun s => if accessOk off bytes then (if write then s else s.readBar off bytes) else s.badAccess off write)

/-- LO_READ_CAPTURE (R11): a read of a _LO. -/
def execLoReadCapture (off : Nat) (s : State) : Outcome :=
  .next (s.hosted fun s => if halfAt off = 1 then s.readBar off 4 else s)

/-- HI_WRITE_COMMIT (R11): a write of a _HI. -/
def execHiWriteCommit (off : Nat) (v : Word) (s : State) : Outcome :=
  .next (s.hosted fun s => if halfAt off = 2 then s.regWrite off v.toNat 0 else s)

/-- REGISTER_WRITE (R14): a 32-bit write; one that is not aligned is discarded (R12). -/
def execRegisterWrite (off : Nat) (v hwSet : Word) (s : State) : Outcome :=
  .next (s.hosted fun s => if off % 4 = 0 then s.regWrite off v.toNat hwSet.toNat else s.badAccess off true)

/-- SF_STICKY (R75). -/
def execSfSticky (v : Word) (s : State) : Outcome := .next (s.hosted fun s => s.clearSticky v.toNat)

/-- SF_CORE_FLAG (R75). -/
def execSfCoreFlag (i : Nat) (v : Word) (s : State) : Outcome := onUnit (decide (i < 6)) (s.hosted fun s => s.clearCoreFlag i v.toNat 0)

/-- BAR2_READ (R387): an uncorrectable error gives a poisoned completion. -/
def execBar2Read (off len : Nat) (ecc : Ecc) (s : State) : Outcome :=
  .next (s.hosted fun s => if State.windowOk off len then s.debugRead off len (ecc == .uncorrectable) else s.send (.completion 1 off))

/-- BAR2_WRITE (R387). -/
def execBar2Write (off : Nat) (data : List Byte) (s : State) : Outcome := .next (s.hosted fun s => s.debugWrite off data)

/-- PEER_WINDOW (R387): offset `off` of BAR2 on the chip of HI_PEER_RANK. -/
def execPeerWindow (off len : Nat) (write : Bool) (data : List Byte) (s : State) : Outcome :=
  .next (s.hosted fun s =>
    if State.windowOk off len then s.peerAccess off len write data
    else if write then s.debugDiscard else s.send (.completion 1 off))

/-- PEER_WINDOW_TIMEOUT (R387): the oldest access without an answer. -/
def execPeerWindowTimeout (s : State) : Outcome :=
  .next (match s.hi.peer with
    | (off, _, _) :: t => ((s.hiUpd fun h => { h with peer := t }).send (.completion 2 off)).orReg R.HI_ERR 0x80
    | [] => s)

end Sys2Proof.Machine
end

