-- ==== Sys2Proof/Machine/Dispatch.lean ====
section
/-! DEFINITION. One arm for each command. -/

namespace Sys2Proof.Machine

def exec (i : Instr) (s : State) : Host.Outcome State Fault Refusal :=
  match i with
  | .admissionCut => Sys2Proof.Machine.execAdmissionCut s
  | .dieStepReport die => Sys2Proof.Machine.execDieStepReport die s
  | .stepSyncPulse => Sys2Proof.Machine.execStepSyncPulse s
  | .syncHoldDeadline => Sys2Proof.Machine.execSyncHoldDeadline s
  | .stepBoundary => Sys2Proof.Machine.execStepBoundary s
  | .slotLaunch core slot pc model args => Sys2Proof.Machine.execSlotLaunch core slot pc model args s
  | .streamIn core slot => Sys2Proof.Machine.execStreamIn core slot s
  | .streamOut core slot => Sys2Proof.Machine.execStreamOut core slot s
  | .streamChainRecv core slot => Sys2Proof.Machine.execStreamChainRecv core slot s
  | .streamChainSend core slot => Sys2Proof.Machine.execStreamChainSend core slot s
  | .mma core slot => Sys2Proof.Machine.execMma core slot s
  | .mmaReduce core slot => Sys2Proof.Machine.execMmaReduce core slot s
  | .add core slot => Sys2Proof.Machine.execAdd core slot s
  | .mul core slot => Sys2Proof.Machine.execMul core slot s
  | .fma core slot => Sys2Proof.Machine.execFma core slot s
  | .addi core slot => Sys2Proof.Machine.execAddi core slot s
  | .muli core slot => Sys2Proof.Machine.execMuli core slot s
  | .max core slot => Sys2Proof.Machine.execMax core slot s
  | .min core slot => Sys2Proof.Machine.execMin core slot s
  | .cmpge core slot => Sys2Proof.Machine.execCmpge core slot s
  | .selge core slot => Sys2Proof.Machine.execSelge core slot s
  | .convert core slot => Sys2Proof.Machine.execConvert core slot s
  | .copy core slot => Sys2Proof.Machine.execCopy core slot s
  | .rsum core slot => Sys2Proof.Machine.execRsum core slot s
  | .rmax core slot => Sys2Proof.Machine.execRmax core slot s
  | .dropout core slot => Sys2Proof.Machine.execDropout core slot s
  | .exp2 core slot => Sys2Proof.Machine.execExp2 core slot s
  | .log2 core slot => Sys2Proof.Machine.execLog2 core slot s
  | .rcp core slot => Sys2Proof.Machine.execRcp core slot s
  | .rsqrt core slot => Sys2Proof.Machine.execRsqrt core slot s
  | .pwl core slot => Sys2Proof.Machine.execPwl core slot s
  | .geluErf core slot => Sys2Proof.Machine.execGeluErf core slot s
  | .geluTanh core slot => Sys2Proof.Machine.execGeluTanh core slot s
  | .erf core slot => Sys2Proof.Machine.execErf core slot s
  | .microProgram core slot => Sys2Proof.Machine.execMicroProgram core slot s
  | .norm core slot => Sys2Proof.Machine.execNorm core slot s
  | .rope core slot => Sys2Proof.Machine.execRope core slot s
  | .attnTile core slot => Sys2Proof.Machine.execAttnTile core slot s
  | .dike core slot => Sys2Proof.Machine.execDike core slot s
  | .dikeTimeout pkg die did => Sys2Proof.Machine.execDikeTimeout pkg die did s
  | .wait core slot => Sys2Proof.Machine.execWait core slot s
  | .signal core slot => Sys2Proof.Machine.execSignal core slot s
  | .signalDeliver n => Sys2Proof.Machine.execSignalDeliver n s
  | .emit core slot => Sys2Proof.Machine.execEmit core slot s
  | .emitReply die => Sys2Proof.Machine.execEmitReply die s
  | .halt core slot => Sys2Proof.Machine.execHalt core slot s
  | .unitStepComplete core unit ecc => Sys2Proof.Machine.execUnitStepComplete core unit ecc s
  | .slotFaultMessage core slot => Sys2Proof.Machine.execSlotFaultMessage core slot s
  | .chainArm id => Sys2Proof.Machine.execChainArm id s
  | .chainFlit id core => Sys2Proof.Machine.execChainFlit id core s
  | .chainTimeout core => Sys2Proof.Machine.execChainTimeout core s
  | .patrolScrub core word ecc => Sys2Proof.Machine.execPatrolScrub core word ecc s
  | .tagGrant cls => Sys2Proof.Machine.execTagGrant cls s
  | .transferComplete id status => Sys2Proof.Machine.execTransferComplete id status s
  | .haulFaultMessage core sc => Sys2Proof.Machine.execHaulFaultMessage core sc s
  | .haulResume core sc => Sys2Proof.Machine.execHaulResume core sc s
  | .pinExpire gran => Sys2Proof.Machine.execPinExpire gran s
  | .descEnqueue core sc desc => Sys2Proof.Machine.execDescEnqueue core sc desc s
  | .peerGrant core sc => Sys2Proof.Machine.execPeerGrant core sc s
  | .peerSegment core sc fill off last data => Sys2Proof.Machine.execPeerSegment core sc fill off last data s
  | .peerAbort core sc => Sys2Proof.Machine.execPeerAbort core sc s
  | .peerTimeout core sc => Sys2Proof.Machine.execPeerTimeout core sc s
  | .pageWalk ctx layer dst ecc => Sys2Proof.Machine.execPageWalk ctx layer dst ecc s
  | .kvCtxSel v => Sys2Proof.Machine.execKvCtxSel v s
  | .quDescEnqueue qu desc => Sys2Proof.Machine.execQuDescEnqueue qu desc s
  | .sketchScore qu ecc => Sys2Proof.Machine.execSketchScore qu ecc s
  | .sketchUpd qu ecc => Sys2Proof.Machine.execSketchUpd qu ecc s
  | .bench qu ecc => Sys2Proof.Machine.execBench qu ecc s
  | .benchLat qu ecc => Sys2Proof.Machine.execBenchLat qu ecc s
  | .dequant qu ecc => Sys2Proof.Machine.execDequant qu ecc s
  | .expand qu ecc => Sys2Proof.Machine.execExpand qu ecc s
  | .quarryCopy qu ecc => Sys2Proof.Machine.execQuarryCopy qu ecc s
  | .zero qu ecc => Sys2Proof.Machine.execZero qu ecc s
  | .move qu ecc => Sys2Proof.Machine.execMove qu ecc s
  | .searchCentroid qu ecc => Sys2Proof.Machine.execSearchCentroid qu ecc s
  | .searchList qu ecc => Sys2Proof.Machine.execSearchList qu ecc s
  | .searchSide qu ecc => Sys2Proof.Machine.execSearchSide qu ecc s
  | .searchGather qu ecc => Sys2Proof.Machine.execSearchGather qu ecc s
  | .searchScore qu ecc => Sys2Proof.Machine.execSearchScore qu ecc s
  | .searchMerge qu ecc => Sys2Proof.Machine.execSearchMerge qu ecc s
  | .quarryResultDeliver qu => Sys2Proof.Machine.execQuarryResultDeliver qu s
  | .pageSelection ctx layer => Sys2Proof.Machine.execPageSelection ctx layer s
  | .partialFold core n => Sys2Proof.Machine.execPartialFold core n s
  | .heatEpoch => Sys2Proof.Machine.execHeatEpoch s
  | .moveReserve gran frame => Sys2Proof.Machine.execMoveReserve gran frame s
  | .moveDataDone gran status => Sys2Proof.Machine.execMoveDataDone gran status s
  | .moveCommit gran => Sys2Proof.Machine.execMoveCommit gran s
  | .backgroundZero stack => Sys2Proof.Machine.execBackgroundZero stack s
  | .spillReadComplete gran good cipher => Sys2Proof.Machine.execSpillReadComplete gran good cipher s
  | .spillReadLate gran => Sys2Proof.Machine.execSpillReadLate gran s
  | .resupplyTimeout gran => Sys2Proof.Machine.execResupplyTimeout gran s
  | .tiMapSelHi v => Sys2Proof.Machine.execTiMapSelHi v s
  | .sluiceLaunch die opid => Sys2Proof.Machine.execSluiceLaunch die opid s
  | .claimToken opid exec => Sys2Proof.Machine.execClaimToken opid exec s
  | .start opid exec => Sys2Proof.Machine.execStart opid exec s
  | .startTimeout opid => Sys2Proof.Machine.execStartTimeout opid s
  | .sluiceGrant opid exec cidx pass origin => Sys2Proof.Machine.execSluiceGrant opid exec cidx pass origin s
  | .sluiceHop hdr payload => Sys2Proof.Machine.execSluiceHop hdr payload s
  | .hopTimeout opid cidx pass => Sys2Proof.Machine.execHopTimeout opid cidx pass s
  | .lateProbe opid exec cidx pass asker => Sys2Proof.Machine.execLateProbe opid exec cidx pass asker s
  | .probeAnswer opid rank waiting => Sys2Proof.Machine.execProbeAnswer opid rank waiting s
  | .probeTimeout opid rank => Sys2Proof.Machine.execProbeTimeout opid rank s
  | .abortNotice opid exec ring cause late detect => Sys2Proof.Machine.execAbortNotice opid exec ring cause late detect s
  | .abortSettle opid => Sys2Proof.Machine.execAbortSettle opid s
  | .slowNotice rank stands => Sys2Proof.Machine.execSlowNotice rank stands s
  | .slowNoticeHoldEnd => Sys2Proof.Machine.execSlowNoticeHoldEnd s
  | .slOpSel v => Sys2Proof.Machine.execSlOpSel v s
  | .frameReceive port frame => Sys2Proof.Machine.execFrameReceive port frame s
  | .replayTimeout port => Sys2Proof.Machine.execReplayTimeout port s
  | .ackTimer port => Sys2Proof.Machine.execAckTimer port s
  | .ctrlFrameTimer port => Sys2Proof.Machine.execCtrlFrameTimer port s
  | .pmdTrainingDone port => Sys2Proof.Machine.execPmdTrainingDone port s
  | .capabilityRecord port revs role gidx rank tgen inst => Sys2Proof.Machine.execCapabilityRecord port revs role gidx rank tgen inst s
  | .laneLockLoss port lane => Sys2Proof.Machine.execLaneLockLoss port lane s
  | .fecUncorrectable port lane => Sys2Proof.Machine.execFecUncorrectable port lane s
  | .linkSilence port => Sys2Proof.Machine.execLinkSilence port s
  | .retrainDone port ok => Sys2Proof.Machine.execRetrainDone port ok s
  | .trainingTimeout port => Sys2Proof.Machine.execTrainingTimeout port s
  | .portEnable port => Sys2Proof.Machine.execPortEnable port s
  | .portDisable port => Sys2Proof.Machine.execPortDisable port s
  | .portDrainDone port => Sys2Proof.Machine.execPortDrainDone port s
  | .ethFrameReceive port frame => Sys2Proof.Machine.execEthFrameReceive port frame s
  | .ethCoalesce port => Sys2Proof.Machine.execEthCoalesce port s
  | .tunnelIdle port tun => Sys2Proof.Machine.execTunnelIdle port tun s
  | .tunnelRto port tun => Sys2Proof.Machine.execTunnelRto port tun s
  | .cuTunSel port v => Sys2Proof.Machine.execCuTunSel port v s
  | .sqTail q v => Sys2Proof.Machine.execSqTail q v s
  | .cqHead q v => Sys2Proof.Machine.execCqHead q v s
  | .trHead q v => Sys2Proof.Machine.execTrHead q v s
  | .snoopedDoorbell q => Sys2Proof.Machine.execSnoopedDoorbell q s
  | .hiQpHandshake v => Sys2Proof.Machine.execHiQpHandshake v s
  | .queueEnable q v => Sys2Proof.Machine.execQueueEnable q v s
  | .queueDisable q v => Sys2Proof.Machine.execQueueDisable q v s
  | .queueDrained q => Sys2Proof.Machine.execQueueDrained q s
  | .eventRingEnable v => Sys2Proof.Machine.execEventRingEnable v s
  | .entryFetch => Sys2Proof.Machine.execEntryFetch s
  | .entryArrival q ok entry data dataOk => Sys2Proof.Machine.execEntryArrival q ok entry data dataOk s
  | .create q cid => Sys2Proof.Machine.execCreate q cid s
  | .append q cid => Sys2Proof.Machine.execAppend q cid s
  | .generate q cid logits tokenOk => Sys2Proof.Machine.execGenerate q cid logits tokenOk s
  | .fork q cid => Sys2Proof.Machine.execFork q cid s
  | .truncate q cid => Sys2Proof.Machine.execTruncate q cid s
  | .delete q cid => Sys2Proof.Machine.execDelete q cid s
  | .finetune q cid imm => Sys2Proof.Machine.execFinetune q cid imm s
  | .search q cid => Sys2Proof.Machine.execSearch q cid s
  | .insert q cid => Sys2Proof.Machine.execInsert q cid s
  | .remove q cid => Sys2Proof.Machine.execRemove q cid s
  | .allowLoad q cid => Sys2Proof.Machine.execAllowLoad q cid s
  | .merge q cid => Sys2Proof.Machine.execMerge q cid s
  | .rankTable q cid => Sys2Proof.Machine.execRankTable q cid s
  | .spillRegister q cid => Sys2Proof.Machine.execSpillRegister q cid s
  | .load q cid => Sys2Proof.Machine.execLoad q cid s
  | .supply q cid => Sys2Proof.Machine.execSupply q cid s
  | .abort q cid => Sys2Proof.Machine.execAbort q cid s
  | .nop q cid => Sys2Proof.Machine.execNop q cid s
  | .irqAggregationTimer q => Sys2Proof.Machine.execIrqAggregationTimer q s
  | .msixUnmask vec => Sys2Proof.Machine.execMsixUnmask vec s
  | .functionLevelReset => Sys2Proof.Machine.execFunctionLevelReset s
  | .pePerstN level => Sys2Proof.Machine.execPePerstN level s
  | .linkDown => Sys2Proof.Machine.execLinkDown s
  | .d3hot => Sys2Proof.Machine.execD3hot s
  | .barAccess off bytes write => Sys2Proof.Machine.execBarAccess off bytes write s
  | .bar2Read off len ecc => Sys2Proof.Machine.execBar2Read off len ecc s
  | .bar2Write off data => Sys2Proof.Machine.execBar2Write off data s
  | .peerWindow off len write data => Sys2Proof.Machine.execPeerWindow off len write data s
  | .peerWindowTimeout => Sys2Proof.Machine.execPeerWindowTimeout s
  | .loReadCapture off => Sys2Proof.Machine.execLoReadCapture off s
  | .hiWriteCommit off v => Sys2Proof.Machine.execHiWriteCommit off v s
  | .registerWrite off v hwSet => Sys2Proof.Machine.execRegisterWrite off v hwSet s
  | .sfSticky v => Sys2Proof.Machine.execSfSticky v s
  | .sfCoreFlag n v => Sys2Proof.Machine.execSfCoreFlag n v s
  | .polderEnable p => Sys2Proof.Machine.execPolderEnable p s
  | .polderDisable p => Sys2Proof.Machine.execPolderDisable p s
  | .polderDrained p => Sys2Proof.Machine.execPolderDrained p s
  | .elRd v => Sys2Proof.Machine.execElRd v s
  | .elTest v => Sys2Proof.Machine.execElTest v s
  | .elAlert v => Sys2Proof.Machine.execElAlert v s
  | .elAlertEn v => Sys2Proof.Machine.execElAlertEn v s
  | .warmStartRequest v => Sys2Proof.Machine.execWarmStartRequest v s
  | .warmRestart => Sys2Proof.Machine.execWarmRestart s
  | .raiseSvn v fuseOk => Sys2Proof.Machine.execRaiseSvn v fuseOk s
  | .revokeKey v fuseOk => Sys2Proof.Machine.execRevokeKey v fuseOk s
  | .resetNRise => Sys2Proof.Machine.execResetNRise s
  | .resetNLow => Sys2Proof.Machine.execResetNLow s
  | .startPhaseDone ms failed ok => Sys2Proof.Machine.execStartPhaseDone ms failed ok s
  | .imageSlotCheck slot readable => Sys2Proof.Machine.execImageSlotCheck slot readable s
  | .imageApply => Sys2Proof.Machine.execImageApply s
  | .pwrgoodRise => Sys2Proof.Machine.execPwrgoodRise s
  | .pwrgoodFall => Sys2Proof.Machine.execPwrgoodFall s
  | .errorReport code source phys data => Sys2Proof.Machine.execErrorReport code source phys data s
  | .logEntryWrite => Sys2Proof.Machine.execLogEntryWrite s
  | .platformEventAck => Sys2Proof.Machine.execPlatformEventAck s
  | .entdaa addr => Sys2Proof.Machine.execEntdaa addr s
  | .setdasa addr => Sys2Proof.Machine.execSetdasa addr s
  | .setEndpointId eid => Sys2Proof.Machine.execSetEndpointId eid s
  | .getEndpointId => Sys2Proof.Machine.execGetEndpointId s
  | .getEndpointUuid => Sys2Proof.Machine.execGetEndpointUuid s
  | .getMctpVersionSupport mtype => Sys2Proof.Machine.execGetMctpVersionSupport mtype s
  | .getMessageTypeSupport => Sys2Proof.Machine.execGetMessageTypeSupport s
  | .gettid => Sys2Proof.Machine.execGettid s
  | .settid tid => Sys2Proof.Machine.execSettid tid s
  | .getpldmversion ptype => Sys2Proof.Machine.execGetpldmversion ptype s
  | .getpldmtypes => Sys2Proof.Machine.execGetpldmtypes s
  | .getpldmcommands ptype => Sys2Proof.Machine.execGetpldmcommands ptype s
  | .getpdrrepositoryinfo => Sys2Proof.Machine.execGetpdrrepositoryinfo s
  | .getpdr record => Sys2Proof.Machine.execGetpdr record s
  | .getsensorreading sensor => Sys2Proof.Machine.execGetsensorreading sensor s
  | .getstatesensorreadings sensor => Sys2Proof.Machine.execGetstatesensorreadings sensor s
  | .effecterWarmStart state => Sys2Proof.Machine.execEffecterWarmStart state s
  | .effecterAlertClear state => Sys2Proof.Machine.execEffecterAlertClear state s
  | .seteventreceiver eid => Sys2Proof.Machine.execSeteventreceiver eid s
  | .pollforplatformeventmessage => Sys2Proof.Machine.execPollforplatformeventmessage s
  | .requestupdate => Sys2Proof.Machine.execRequestupdate s
  | .firmwareDataTransfer off data => Sys2Proof.Machine.execFirmwareDataTransfer off data s
  | .verifycomplete => Sys2Proof.Machine.execVerifycomplete s
  | .activatefirmware selfContained => Sys2Proof.Machine.execActivatefirmware selfContained s
  | .throttleRun temps => Sys2Proof.Machine.execThrottleRun temps s
  | .powerEstimate watts => Sys2Proof.Machine.execPowerEstimate watts s
  | .fastThrotN level => Sys2Proof.Machine.execFastThrotN level s
  | .voltageRaiseTimeout => Sys2Proof.Machine.execVoltageRaiseTimeout s
  | .pmbusPoll rail answer mv amps10mA watts status => Sys2Proof.Machine.execPmbusPoll rail answer mv amps10mA watts status s
  | .pmbAlertN rail answer status => Sys2Proof.Machine.execPmbAlertN rail answer status s
  | .thermtrip sensor temp => Sys2Proof.Machine.execThermtrip sensor temp s
  | .railFault rail => Sys2Proof.Machine.execRailFault rail s
  | .sysRefclkLoss => Sys2Proof.Machine.execSysRefclkLoss s
  | .peRefclkLoss => Sys2Proof.Machine.execPeRefclkLoss s
  | .untaggedTransferComplete core sc status => Sys2Proof.Machine.execUntaggedTransferComplete core sc status s
  | .pcRange core slot => Sys2Proof.Machine.execPcRange core slot s
  | .hostLinkUp cxl => Sys2Proof.Machine.execHostLinkUp cxl s
  | .configurationRequest toD0 => Sys2Proof.Machine.execConfigurationRequest toD0 s
  | .patrolRead stack pc gran ecc => Sys2Proof.Machine.execPatrolRead stack pc gran ecc s
  | .watchdog src => Sys2Proof.Machine.execWatchdog src s
  | .stepMarkFall => Sys2Proof.Machine.execStepMarkFall s
  | .postponedBoundary => Sys2Proof.Machine.execPostponedBoundary s
  | .voutCommandStep die => Sys2Proof.Machine.execVoutCommandStep die s
  | .tck tms tdi => Sys2Proof.Machine.execTck tms tdi s
  | .trstN level => Sys2Proof.Machine.execTrstN level s
  | .powerRemove rail => Sys2Proof.Machine.execPowerRemove rail s

end Sys2Proof.Machine
end

