-- ==== Sys2Proof/Machine/Tick.lean ====
section
/-! DEFINITION. What one PCLK cycle does when no command waits: the clock, and the counters that count cycles and microseconds. -/

namespace Sys2Proof.Machine

namespace State

/-! ### Stall counters (R283) -/

/-- Polder of the owner of a transfer to granule g (R123, R283). -/
def ownerPolder (s : State) (o : Owner) (g : Nat) : Option Nat :=
  match o with
  | .stream k => some (scPolder (s.sctx k))
  | .pump _ _ _ => (s.region g).map (·.polder)
  | .move g => some (s.entry g).polder
  | _ => none

/-- Waits of halted hauls: by cause and granule; a weight that its host must supply waits under RESUPPLY. -/
def haulWaits (s : State) : List (Nat × Nat) :=
  s.cores.flatMap fun (c : Nat × CoreState) => c.2.streams.filterMap fun (x : Nat × StreamRun) =>
    match x.2.halt with
    | some (cause, g) =>
      let k := if (s.ti.supply.get? g).isSome then 5 else if cause = 2 then 1 else 0
      some (scPolder (s.sctx (32 * c.1 + x.1)), k)
    | none => none

/-- Waits of the pump: halted entries, and layers that have started before their weights arrived (R143). -/
def pumpWaits (s : State) : List (Nat × Nat) :=
  s.tg.runs.flatMap fun r =>
    let g := granOf (bitsOf (s.pumpEntry r.prog r.entry) 51 0)
    let p := match s.region g with | some x => x.polder | none => 0
    let late := match s.pumpProg r.prog with | some x => r.layer == Map.getD 0 s.tg.pumpK r.prog % x.layers | none => false
    (match r.halt with | some (_, h) => [(p, if (s.ti.supply.get? h).isSome then 5 else 0)] | none => []) ++ (if late then [(p, 2)] else [])

/-- Waits of quarry lists and searches for promotion (R236, R340). -/
def listWaits (s : State) : List (Nat × Nat) :=
  let cause := fun (g : Nat) => if (s.unitGrans g).any s.awaitsZero then 7 else 3
  s.kv.walks.map (fun w => ((s.ctx w.ctx).polder, cause w.gran))
    ++ (s.sk.batches.filter (·.wait)).flatMap fun b => ((s.skWaitsFor b).map cause).eraseDups.map fun k => (bitsOf (s.skWord b.index 0) 5 0, k)

/-- Contexts that are parked, and GENERATEs without a free token entry (R400). -/
def parkWaits (s : State) : List (Nat × Nat) :=
  (s.kv.ctxs.filter fun c => c.2.phase == .parked).map (fun c => (c.2.polder, 6))
    ++ (s.hi.reqs.filter fun r => r.phase == .waiting && r.opcode == 3 && !s.tokenRoom r.q).map (fun r => (r.polder, 6))

/-- Spillway reads being retried (R279). -/
def retryWaits (s : State) : List (Nat × Nat) := (s.ti.moves.filter (·.late)).map fun m => ((s.entry m.gran).polder, 4)

/-- A move still has to take a frame, and its stack or the spillway holds none that it may take now (R265, R266). -/
def moveWaits (s : State) (m : Move) : Bool :=
  (m.phase == .decided || (m.phase == .reserved && Nat.blt m.frames.length m.size))
    && (if m.up then !s.frameReady m.dst (s.granPolder m.gran) || !s.spares m else s.openSpill == 0)

/-- A LOAD that has started and waits for frames, or for one to be zeroed (R266, R397). -/
def loadWaits (s : State) (r : Req) : Bool :=
  r.opcode == 0x22 && (r.phase == .chosen || r.phase == .admitted) && r.done.isNone
    && (loadExtent r).any fun e =>
      ((s.entry e.1).undef && Nat.blt s.freeBeyond (s.unitSize (s.unitStart e.1))) || s.awaitsZero e.1

/-- Moves, LOADs and transfers that wait for a frame, or for a frame to be zeroed (R265, R266, R269), and evacuations that nothing has been decided for (R284). -/
def frameWaits (s : State) : List (Nat × Nat) :=
  let zero := s.tg.reqs.filterMap fun q =>
    match s.nextXfer q with
    | some (a, _) => if s.awaitsZero (granOf a) then s.ownerPolder q.owner (granOf a) else none
    | none => none
  let stuck := s.evacUnits.filter fun g => (s.moveOf g).isNone && !s.decided g [.evac]
  ((s.ti.moves.filter s.moveWaits).map fun m => s.granPolder m.gran) ++ (s.ti.wanted.map s.granPolder) ++ (stuck.map s.granPolder) ++ zero
    ++ (s.hi.reqs.filter s.loadWaits).map (·.polder) |>.map fun p => (p, 7)

/-- Every polder and cause that something waits for. -/
def stalls (s : State) : List (Nat × Nat) :=
  (s.haulWaits ++ s.pumpWaits ++ s.listWaits ++ s.parkWaits ++ s.retryWaits ++ s.frameWaits).eraseDups

/-- A 48-bit counter counts one, saturating. -/
def count48 (s : State) (off : Nat) : State := s.setReg64 off (min (s.reg64 off + 1) (2 ^ 48 - 1))

/-! ### Cycles -/

/-- Cycles of MCLK, ÷3 of the root, in PCLK cycle n, ÷32 (R481). -/
def mclks (n : Nat) : Nat := 32 * n / 3 - 32 * (n - 1) / 3

/-- Frame slots of a port in PCLK cycle n (R353): 8 lanes of 211.65 Gb/s give one frame of 270 bytes every 1.276 ns; revision 1.2 and half width take twice as long each. -/
def frameSlots (p : Port) (n : Nat) : Nat :=
  let d := 1175040 * (if p.rev = 0x12 then 2 else 1) * (if p.gone ||| p.pgone = 0 then 1 else 2)
  3682816 * n / d - 3682816 * (n - 1) / d

/-- CU_NOCREDIT counts the slots in which a frame waits for a credit, or for room in the replay store (R356, R367). -/
def noCredit (s : State) : State :=
  s.cu.ports.foldl (fun s x =>
    let p := x.2
    let waits := if s.portRole x.1 = 7 then ethFull p else starved p && Nat.blt p.unacked.length 1024
    if [2, 6, 7].contains p.phase && waits then s.count (cuReg x.1 0x140) (frameSlots p s.clk) else s) s

/-- Counters of SCLK and MCLK cycles (R121, R152, R257, R314). -/
def cycles (s : State) : State :=
  let m := mclks s.clk
  let s := (List.range 192).foldl (fun s c =>
    if (s.core c).slots.any fun x => x.2.phase == .ready || x.2.phase == .current then s else s.count (coreReg c 0x310) 4) s
  let waits := fun (c : TagClass) => s.tg.reqs.any fun q => q.cls == c
  let s := if waits .read then s.count R.TG_WAIT_READ_LO m else s
  let s := if waits .write then s.count R.TG_WAIT_WRITE_LO m else s
  let s := if waits .remote then s.count R.TG_WAIT_REMOTE_LO m else s
  let s := (List.range 8).foldl (fun s n =>
    let q := s.quState n
    let s := if q.wait.isEmpty then s else s.count (quReg n 0x80) m
    if !q.queue.isEmpty && Nat.ble 1048576 (heldBytes q) then s.count (quReg n 0x88) m else s) s
  if s.sl.tokens.isEmpty then s else s.count R.SL_START_WAIT_LO 4

/-- Corrected FEC symbols of the lanes of the ports that run (R380); how many there are is free. -/
def fecCounts (s : State) : State :=
  ((List.range 18).filter fun n => [2, 6, 7].contains (s.port n).phase).foldl (fun s n =>
    ((List.range 8).filter fun l => bitOf (s.port n).lock l).foldl (fun s l =>
      let (k, s) := s.draw
      s.setReg (cuReg n 0xA0 + 4 * l) (min (s.reg (cuReg n 0xA0 + 4 * l) + k % 2 ^ 32) (2 ^ 32 - 1))) s) s

/-- Accesses of other chips to this chip's BAR2 are served, oldest first, as the host's are (R386, R387); where the manual does not lay out their messages, what an access asks for and how it is answered is open. -/
def servePeers (s : State) : State :=
  (s.cu.inbox.filter fun m => m.mtype == 0x30).foldl (fun s m =>
    let s : State := { s with cu := { s.cu with inbox := s.cu.inbox.erase m } }
    let off := Config.unstated 43 [ofLe m.body] % 2 ^ 33
    let len := Config.unstated 44 [ofLe m.body] % 8192
    let (b, s) := s.freeBytes 16
    if State.peerKind m = 3 then ((s.debugWrite off m.data).sendMsg m.src 3 0x30 b [] none).1
    else
      let (k, s) := s.draw
      let t := if windowOk off len then s.debugRead off len (k % 2 == 1) else s
      let data := match t.out.getLast? with | some (.readData _ d) => if t.out.length = s.out.length then [] else d | _ => []
      let out := if t.out.length = s.out.length then t.out else t.out.dropLast
      (({ t with out := out } : State).sendMsg m.src 3 0x30 b data none).1) s

/-- A microsecond has passed. -/
def micro (s : State) : State :=
  let s := s.fecCounts
  let s := s.stalls.foldl (fun s x => s.count48 (R.TI_STALL + 64 * x.1 + 8 * x.2)) s
  let s := if s.pw.div = 5 then s.count R.PW_DIV5_TIME_LO 1 else s
  let s := if s.pw.div = 6 then s.count R.PW_DIV6_TIME_LO 1 else s
  let s := if s.pw.held then s.count R.PW_HELD_TIME_LO 1 else s
  if s.i3cUp then s.sensorEvents else s

/-- An upset of a core-store word (R79, R80), where and when free values say: one bit of it flips, or two. What a word with a double-bit error then reads as is free. -/
def upset (s : State) : State :=
  let (v, s) := s.draw
  let w := v / 4 / 0xC0000 % 192 * 0x100000 + v / 4 % 0xC0000
  match v % 4 with
  | 1 => if s.bad.contains w || s.soft.contains w then s else { s with soft := s.soft ++ [w] }
  | 2 => if s.bad.contains w then s else
      let (d, s) := s.draw
      { s with mem := Memory.write 0 s.mem (8 * w) (leBytes 8 d), bad := s.bad ++ [w], soft := s.soft.filter (· != w) }
  | _ => s

/-- Targets that expect no partial, on every core that has one (R248). -/
def emptyAll (s : State) : State := (s.cores.filter fun c => !c.2.targets.isEmpty).foldl (fun s c => s.emptyTargets c.1) s

/-- One PCLK cycle: sluice executions that have become active and search batches that wait go on in it (R301, R331), and accesses of other chips are served; none passes while the D8 is held in reset, and SCLK and MCLK may be stopped (R484, R490, R494). -/
def tick (s : State) : State :=
  if s.pw.held0 then s
  else
    let s := ({ s with clk := s.clk + 1 } : State).upset.emptyAll
    let s := ((if s.pw.stopped then s else s.cycles.slRunAll.skRetry).noCredit).servePeers
    if s.clk % 250 = 0 then s.micro else s

end State

end Sys2Proof.Machine
end

