-- ==== Sys2Proof/WellFormed.lean ====
section
/-! DEFINITION. Commands whose operands name units that the D8 has (R4, R22, R41, R108, R123, R194, R289, R350, R390, R402, R461, R489, R492). -/

namespace Sys2Proof

/-- The operands of a command name units that the D8 has. -/
def Instr.wf (c : Instr) : Bool :=
  match c with
  | .admissionCut => true
  | .dieStepReport die => decide (die < 4)
  | .stepSyncPulse => true
  | .syncHoldDeadline => true
  | .stepBoundary => true
  | .slotLaunch core slot _ _ _ => decide (core < 192) && decide (slot < 8)
  | .streamIn core slot => decide (core < 192) && decide (slot < 8)
  | .streamOut core slot => decide (core < 192) && decide (slot < 8)
  | .streamChainRecv core slot => decide (core < 192) && decide (slot < 8)
  | .streamChainSend core slot => decide (core < 192) && decide (slot < 8)
  | .mma core slot => decide (core < 192) && decide (slot < 8)
  | .mmaReduce core slot => decide (core < 192) && decide (slot < 8)
  | .add core slot => decide (core < 192) && decide (slot < 8)
  | .mul core slot => decide (core < 192) && decide (slot < 8)
  | .fma core slot => decide (core < 192) && decide (slot < 8)
  | .addi core slot => decide (core < 192) && decide (slot < 8)
  | .muli core slot => decide (core < 192) && decide (slot < 8)
  | .max core slot => decide (core < 192) && decide (slot < 8)
  | .min core slot => decide (core < 192) && decide (slot < 8)
  | .cmpge core slot => decide (core < 192) && decide (slot < 8)
  | .selge core slot => decide (core < 192) && decide (slot < 8)
  | .convert core slot => decide (core < 192) && decide (slot < 8)
  | .copy core slot => decide (core < 192) && decide (slot < 8)
  | .rsum core slot => decide (core < 192) && decide (slot < 8)
  | .rmax core slot => decide (core < 192) && decide (slot < 8)
  | .dropout core slot => decide (core < 192) && decide (slot < 8)
  | .exp2 core slot => decide (core < 192) && decide (slot < 8)
  | .log2 core slot => decide (core < 192) && decide (slot < 8)
  | .rcp core slot => decide (core < 192) && decide (slot < 8)
  | .rsqrt core slot => decide (core < 192) && decide (slot < 8)
  | .pwl core slot => decide (core < 192) && decide (slot < 8)
  | .geluErf core slot => decide (core < 192) && decide (slot < 8)
  | .geluTanh core slot => decide (core < 192) && decide (slot < 8)
  | .erf core slot => decide (core < 192) && decide (slot < 8)
  | .microProgram core slot => decide (core < 192) && decide (slot < 8)
  | .norm core slot => decide (core < 192) && decide (slot < 8)
  | .rope core slot => decide (core < 192) && decide (slot < 8)
  | .attnTile core slot => decide (core < 192) && decide (slot < 8)
  | .dike core slot => decide (core < 192) && decide (slot < 8)
  | .dikeTimeout pkg die did => (pkg || decide (die < 4)) && decide (did < (if pkg then 16 else 64))
  | .wait core slot => decide (core < 192) && decide (slot < 8)
  | .signal core slot => decide (core < 192) && decide (slot < 8)
  | .signalDeliver _ => true
  | .emit core slot => decide (core < 192) && decide (slot < 8)
  | .emitReply die => decide (die < 4)
  | .halt core slot => decide (core < 192) && decide (slot < 8)
  | .unitStepComplete core _ _ => decide (core < 192)
  | .slotFaultMessage core slot => decide (core < 192) && decide (slot < 8)
  | .chainArm _ => true
  | .chainFlit _ core => decide (core < 192)
  | .chainTimeout core => decide (core < 192)
  | .patrolScrub core word _ => decide (core < 192) && decide (word < 786432)
  | .tagGrant _ => true
  | .transferComplete _ _ => true
  | .haulFaultMessage core sc => decide (core < 192) && decide (sc < 32)
  | .haulResume core sc => decide (core < 192) && decide (sc < 32)
  | .pinExpire _ => true
  | .descEnqueue core sc _ => decide (core < 192) && decide (sc < 32)
  | .peerGrant core sc => decide (core < 192) && decide (sc < 32)
  | .peerSegment core sc _ _ _ _ => decide (core < 192) && decide (sc < 32)
  | .peerAbort core sc => decide (core < 192) && decide (sc < 32)
  | .peerTimeout core sc => decide (core < 192) && decide (sc < 32)
  | .pageWalk ctx _ _ _ => decide (ctx < 16384)
  | .kvCtxSel _ => true
  | .quDescEnqueue qu _ => decide (qu < 8)
  | .sketchScore qu _ => decide (qu < 8)
  | .sketchUpd qu _ => decide (qu < 8)
  | .bench qu _ => decide (qu < 8)
  | .benchLat qu _ => decide (qu < 8)
  | .dequant qu _ => decide (qu < 8)
  | .expand qu _ => decide (qu < 8)
  | .quarryCopy qu _ => decide (qu < 8)
  | .zero qu _ => decide (qu < 8)
  | .move qu _ => decide (qu < 8)
  | .searchCentroid qu _ => decide (qu < 8)
  | .searchList qu _ => decide (qu < 8)
  | .searchSide qu _ => decide (qu < 8)
  | .searchGather qu _ => decide (qu < 8)
  | .searchScore qu _ => decide (qu < 8)
  | .searchMerge qu _ => decide (qu < 8)
  | .quarryResultDeliver qu => decide (qu < 8)
  | .pageSelection ctx _ => decide (ctx < 16384)
  | .partialFold core _ => decide (core < 192)
  | .heatEpoch => true
  | .moveReserve _ _ => true
  | .moveDataDone _ _ => true
  | .moveCommit _ => true
  | .backgroundZero stack => decide (stack < 8)
  | .spillReadComplete _ _ _ => true
  | .spillReadLate _ => true
  | .resupplyTimeout _ => true
  | .tiMapSelHi _ => true
  | .sluiceLaunch die opid => decide (die < 4) && decide (opid.opid < 65536)
  | .claimToken opid _ => decide (opid < 65536)
  | .start opid _ => decide (opid < 65536)
  | .startTimeout opid => decide (opid < 65536)
  | .sluiceGrant opid _ _ _ _ => decide (opid < 65536)
  | .sluiceHop _ _ => true
  | .hopTimeout opid _ _ => decide (opid < 65536)
  | .lateProbe opid _ _ _ _ => decide (opid < 65536)
  | .probeAnswer opid _ _ => decide (opid < 65536)
  | .probeTimeout opid _ => decide (opid < 65536)
  | .abortNotice opid _ ring _ _ _ => decide (opid < 65536) && decide (ring < 256)
  | .abortSettle opid => decide (opid < 65536)
  | .slowNotice rank _ => decide (rank < 65536)
  | .slowNoticeHoldEnd => true
  | .slOpSel _ => true
  | .frameReceive port _ => decide (port < 18)
  | .replayTimeout port => decide (port < 18)
  | .ackTimer port => decide (port < 18)
  | .ctrlFrameTimer port => decide (port < 18)
  | .pmdTrainingDone port => decide (port.port < 18)
  | .capabilityRecord port _ _ _ _ _ _ => decide (port < 18)
  | .laneLockLoss port lane => decide (port < 18) && decide (lane < 8)
  | .fecUncorrectable port lane => decide (port < 18) && decide (lane < 8)
  | .linkSilence port => decide (port < 18)
  | .retrainDone port _ => decide (port.port < 18)
  | .trainingTimeout port => decide (port < 18)
  | .portEnable port => decide (port < 18)
  | .portDisable port => decide (port < 18)
  | .portDrainDone port => decide (port < 18)
  | .ethFrameReceive port _ => decide (port < 18)
  | .ethCoalesce port => decide (port < 18)
  | .tunnelIdle port tun => decide (port < 18) && decide (tun < 256)
  | .tunnelRto port tun => decide (port < 18) && decide (tun < 256)
  | .cuTunSel port _ => decide (port < 18)
  | .sqTail q _ => decide (q < 1024)
  | .cqHead q _ => decide (q < 1024)
  | .trHead q _ => decide (q < 1024)
  | .snoopedDoorbell q => decide (q < 1024)
  | .hiQpHandshake _ => true
  | .queueEnable q _ => decide (q < 1024)
  | .queueDisable q _ => decide (q < 1024)
  | .queueDrained q => decide (q < 1024)
  | .eventRingEnable _ => true
  | .entryFetch => true
  | .entryArrival q _ _ _ _ => decide (q < 1024)
  | .create q _ => decide (q < 1024)
  | .append q _ => decide (q < 1024)
  | .generate q _ _ _ => decide (q < 1024)
  | .fork q _ => decide (q < 1024)
  | .truncate q _ => decide (q < 1024)
  | .delete q _ => decide (q < 1024)
  | .finetune q _ _ => decide (q < 1024)
  | .search q _ => decide (q < 1024)
  | .insert q _ => decide (q < 1024)
  | .remove q _ => decide (q < 1024)
  | .allowLoad q _ => decide (q < 1024)
  | .merge q _ => decide (q < 1024)
  | .rankTable q _ => decide (q < 1024)
  | .spillRegister q _ => decide (q < 1024)
  | .load q _ => decide (q < 1024)
  | .supply q _ => decide (q < 1024)
  | .abort q _ => decide (q < 1024)
  | .nop q _ => decide (q < 1024)
  | .irqAggregationTimer q => decide (q < 1024)
  | .msixUnmask vec => decide (vec < 2048)
  | .functionLevelReset => true
  | .pePerstN _ => true
  | .linkDown => true
  | .d3hot => true
  | .barAccess _ _ _ => true
  | .bar2Read _ _ _ => true
  | .bar2Write _ _ => true
  | .peerWindow _ _ _ _ => true
  | .peerWindowTimeout => true
  | .loReadCapture _ => true
  | .hiWriteCommit _ _ => true
  | .registerWrite _ _ _ => true
  | .sfSticky _ => true
  | .sfCoreFlag i _ => decide (i < 6)
  | .polderEnable p => decide (p < 64)
  | .polderDisable p => decide (p < 64)
  | .polderDrained p => decide (p < 64)
  | .elRd _ => true
  | .elTest _ => true
  | .elAlert _ => true
  | .elAlertEn _ => true
  | .warmStartRequest _ => true
  | .warmRestart => true
  | .raiseSvn _ _ => true
  | .revokeKey _ _ => true
  | .resetNRise => true
  | .resetNLow => true
  | .startPhaseDone _ _ _ => true
  | .imageSlotCheck slot _ => decide (slot < 2)
  | .imageApply => true
  | .pwrgoodRise => true
  | .pwrgoodFall => true
  | .errorReport _ _ _ _ => true
  | .logEntryWrite => true
  | .platformEventAck => true
  | .entdaa _ => true
  | .setdasa _ => true
  | .setEndpointId _ => true
  | .getEndpointId => true
  | .getEndpointUuid => true
  | .getMctpVersionSupport _ => true
  | .getMessageTypeSupport => true
  | .gettid => true
  | .settid _ => true
  | .getpldmversion _ => true
  | .getpldmtypes => true
  | .getpldmcommands _ => true
  | .getpdrrepositoryinfo => true
  | .getpdr _ => true
  | .getsensorreading _ => true
  | .getstatesensorreadings _ => true
  | .effecterWarmStart _ => true
  | .effecterAlertClear _ => true
  | .seteventreceiver _ => true
  | .pollforplatformeventmessage => true
  | .requestupdate => true
  | .firmwareDataTransfer _ _ => true
  | .verifycomplete => true
  | .activatefirmware _ => true
  | .throttleRun _ => true
  | .powerEstimate _ => true
  | .fastThrotN _ => true
  | .voltageRaiseTimeout => true
  | .pmbusPoll rail _ _ _ _ _ => decide (rail < 12)
  | .pmbAlertN rail _ _ => decide (rail < 12)
  | .thermtrip sensor _ => decide (sensor < 72)
  | .railFault rail => decide (rail < 12)
  | .sysRefclkLoss => true
  | .peRefclkLoss => true
  | .untaggedTransferComplete core sc _ => decide (core < 192) && decide (sc < 32)
  | .pcRange core slot => decide (core < 192) && decide (slot < 8)
  | .hostLinkUp _ => true
  | .configurationRequest _ => true
  | .patrolRead stack pc _ _ => decide (stack < 8) && decide (pc < 64)
  | .watchdog src => decide (src < 5)
  | .stepMarkFall => true
  | .postponedBoundary => true
  | .voutCommandStep die => decide (die.die < 4)
  | .tck _ _ => true
  | .trstN _ => true
  | .powerRemove rail => decide (rail < 12)

end Sys2Proof
end

