-- ==== Sys2Proof/Safety.lean ====
section
/-! DEFINITION. What a safe run keeps, in the terms that statements use. -/

namespace Sys2Proof.Machine

namespace State

/-- The memories stand in their canonical form: on-chip memory, the stacks, and the flash (whose erased bytes are FFH). -/
def canonical (s : State) : Prop :=
  Memory.wf 0 s.mem = true ∧ Memory.wf 0 s.stk = true ∧ Memory.wf 0xFF s.im.flash = true

/-- From s to t no fuse has been cleared or changed: OTP words, key digests and the key-encryption key stand, the fused SVN is no lower, and a revoked slot is still revoked (R424, R440). -/
def fusesKept (s t : State) : Prop :=
  t.gl.otp = s.gl.otp ∧ t.gl.fuseKeys = s.gl.fuseKeys ∧ t.gl.kek = s.gl.kek ∧ s.gl.svn ≤ t.gl.svn ∧ ∀ k ∈ s.gl.revoked, k ∈ t.gl.revoked

/-! ### What has changed from s to t -/

/-- Nothing but registers. -/
def regsOnly (s t : State) : Prop := t = { s with regs := t.regs }
/-- Nothing but registers and reports. -/
def logsOnly (s t : State) : Prop := t = { s with regs := t.regs, el := { s.el with raised := t.el.raised } }
/-- Nothing but the messages that wait for an engine. -/
def heard (s t : State) : Prop := t = { s with cu := { s.cu with inbox := t.cu.inbox } }
/-- Every register but those listed. -/
def keeps (s t : State) (l : List Nat) : Prop := ∀ o, o ∉ l → t.reg o = s.reg o
/-- A 64-bit counter has counted n, and stays at its largest value (R11). -/
def adds (s t : State) (off n : Nat) : Prop := t.reg64 off = min (s.reg64 off + n) (2 ^ 64 - 1)
/-- Bits m of a register are set. -/
def sets (s t : State) (off m : Nat) : Prop := t.reg off = s.reg off ||| m
/-- Bits m of a register are cleared, and its other bits stay. -/
def clears (s t : State) (off m : Nat) : Prop := t.reg off = s.reg off - (s.reg off &&& m)
/-- One report more, with this CODE, SOURCE and DATA. -/
def logs (s t : State) (code source data : Nat) : Prop := t.el.raised = s.el.raised ++ [⟨code, source, false, data, none⟩]
/-- Bytes [a, a + n) of on-chip memory hold no error (R79, R80). -/
def clean (s : State) (a n : Nat) : Prop := s.badIn a n = false ∧ s.softIn a n = 0
/-- On-chip memory holds these bytes from a on, and is otherwise as it was. -/
def wrote (s t : State) (a : Nat) (bs : List Byte) : Prop :=
  (∀ k, k < bs.length → Memory.read 0 t.mem (a + k) = bs.getD k 0) ∧
  ∀ b, ¬ (a ≤ b ∧ b < a + bs.length) → Memory.read 0 t.mem b = Memory.read 0 s.mem b
/-- A 32-bit counter has counted n, and stays at its largest value. -/
def adds32 (s t : State) (off n : Nat) : Prop := t.reg off = min (s.reg off + n) (2 ^ 32 - 1)
/-- The halted hauls of a slot are cancelled (R149). -/
def cancelHalted (s : State) (c i : Nat) : State :=
  (((s.core c).streams.filter fun r => r.2.slot == i && r.2.halt.isSome).map fun r => 32 * c + r.1).foldl cancelRun s

end State

/-- The W1C registers of the manual that act on their own word alone (R14): one for each block that has an error register. -/
def plainW1c : List Nat :=
  [R.HI_ERR, R.IM_ERR, R.TG_ERR, R.KV_ERR, R.TI_ERR, R.SL_ERR, R.SK_ERR, R.DT_ERR, R.PW_ERR]
    ++ (List.range 8).map (fun n => R.QU_ERR + 0x10000 * n) ++ (List.range 18).map (fun n => R.CU_ERR + 0x10000 * n)
    ++ (List.range 192).map fun c => State.coreReg c 8

/-! ### Steps at issue (R77, R86, R108–R113) -/

namespace State

/-- The step at the PC of slot i of core c. -/
def nextStep (s : State) (c i : Nat) : Nat := s.stepWord c ((s.core c).slot i).pc

/-- The step at the PC of slot i of core c may issue: clocks run, the sequencer serves the slot, the step lies in the table and reads without error, no condition of R104 or R108 blocks it, and no cause of R113 stands against it. -/
def canIssue (s : State) (c i : Nat) : Prop :=
  c < 192 ∧ i < 8 ∧ s.pw.stopped = false ∧ (s.core c).mayRun i = true ∧ ((s.core c).slot i).pc < s.steps c ∧
  (s.becomeCurrent c i).badIn (storeAt c (32 * ((s.core c).slot i).pc)) 32 = false ∧
  (s.becomeCurrent c i).softIn (storeAt c (32 * ((s.core c).slot i).pc)) 32 = 0 ∧
  (s.becomeCurrent c i).blocked c i = none ∧ (s.becomeCurrent c i).issueFault c i (s.nextStep c i) = none

/-- Flag bits that a step clears on issue (R84, R104): those it tested with CLR, and a WAIT's second ones with CLR2. -/
def clearedBits (w fw : Nat) (odd : Bool) : Nat :=
  (if stClr w = true ∧ fw = stWfw w then stWmask w odd else 0) |||
    (if stType w = 0x11 ∧ bitOf w 88 = true ∧ fw = bitsOf w 71 64 then bitsOf w 87 72 else 0)

/-- Step w of slot i of core c has issued between s and u: the slot is current, its PC and loops have moved as R112 says, the slot that was current before is READY, the bits the step clears are clear, SQ_ISSUED has counted it, and nothing else of the other cores or of the registers but SQ_SWITCH has changed. -/
def issuedStep (s u : State) (c i w : Nat) : Prop :=
  ((u.core c).slot i).pc = (((s.core c).slot i).advance w).pc ∧
  ((u.core c).slot i).loop0 = (((s.core c).slot i).advance w).loop0 ∧
  ((u.core c).slot i).loop1 = (((s.core c).slot i).advance w).loop1 ∧
  (∀ j, j ≠ i → (u.core c).slot j = if (s.core c).cur = some j then { (s.core c).slot j with phase := .ready } else (s.core c).slot j) ∧
  (∀ fw, (u.core c).flag fw = (s.core c).flag fw &&& (65535 - clearedBits w fw ((s.core c).slot i).odd)) ∧
  (∀ d, d ≠ c → u.core d = s.core d) ∧
  u.reg64 (coreReg c 0x300) = min (s.reg64 (coreReg c 0x300) + 1) (2 ^ 64 - 1) ∧
  (∀ o, o ∉ [coreReg c 0x300, coreReg c 0x304, coreReg c 0x308, coreReg c 0x30C] → u.reg o = s.reg o)

/-- A dike released, before what waits on its members' cores settles (R115). -/
def released (s : State) (k : Nat) : State :=
  (s.dike k).arrived.foldl (fun s a => s.orFlags a.core a.fw a.mask) (s.setDike k ⟨[], !(s.dike k).gen, 0⟩)

end State

/-! ### Quarry lists (R234, R244–R254) -/

namespace State

/-- The unit of stack n is about to run the list l of operation op: clocks run, l is whole and stands at the head of its queue, it is good (R235), no granule it reads is poisoned, no heaps are held back for it, and the results partition has room. -/
def quReady (s : State) (n op : Nat) (l : List QuDesc) : Prop :=
  n < 8 ∧ s.pw.stopped = false ∧ l ≠ [] ∧ takeList ((s.quState n).queue ++ (s.quState n).wait) = l ∧
  (∀ d, l.head? = some d → d.dead = false ∧ d.kind = op) ∧ QuDesc.knownKind op = true ∧ listWhole l = true ∧
  ((op = 0x20 ∨ op = 0x21) → ∀ b ∈ s.sk.batches, ∀ h ∈ b.heaps, h.1 / 4096 ≠ n) ∧
  heldBytes (s.quState n) < 1048576 ∧ s.listBad n l = false ∧ (s.listUe l .clean).1 = []

/-- The reads of a list heat its granules (R267). -/
def quWarm (s : State) (l : List QuDesc) : State := l.foldl (fun s d => if d.noAddr ∨ d.op = 0x41 then s else s.heat d.addr d.len) s

/-- After what list l wrote, in state v, it has left the queue of unit n with result r, in order behind the earlier results; QU_DESC and QU_LIST have counted it, and nothing but the counters of the unit has changed beside (R234, R257). -/
def quFinished (v t : State) (n : Nat) (l : List QuDesc) (r : QuResult) : Prop :=
  t.quState n = { quDrop (v.quState n) l.length with results := (v.quState n).results ++ [(r, l.head?.bind stepOf)] } ∧
  (∀ m, m ≠ n → t.quState m = v.quState m) ∧
  t.reg64 (quReg n 0x40) = min (v.reg64 (quReg n 0x40) + l.length) (2 ^ 64 - 1) ∧
  t.reg64 (quReg n 0x48) = min (v.reg64 (quReg n 0x48) + 1) (2 ^ 64 - 1) ∧
  (∀ o, ¬ (quReg n 0x40 ≤ o ∧ o < quReg n 0x70) → t.reg o = v.reg o) ∧ t = { v with qus := t.qus, regs := t.regs }

end State

/-! ### Streams (R101, R117, R125–R130) -/

namespace State

/-- The run that STREAM step w of slot i of core c starts: at POS for CONT = 1 and at 0 otherwise, with nothing opened, asked for or delivered; the peer limit runs if a grant has come already. -/
def startedRun (s : State) (c i w : Nat) : StreamRun :=
  let x := s.sctx (32 * c + bitsOf w 68 64)
  let kept := if bitOf w 164 && scSpace x == 5 then Map.getD ([], false) s.tg.rest (32 * c + bitsOf w 68 64) else ([], false)
  { slot := i, word := BitVec.ofNat 256 w, alt := if ((s.core c).slot i).odd then s.altOffset c i else 0, odd := ((s.core c).slot i).odd
    base := if bitOf w 164 then bitsOf x 355 320 * 64 else 0, opened := 0, asked := 0, pre := 0, parts := [], fills := 0, halt := none, err := none
    extents := kept.1, ended := kept.2, moved := if bitsOf w 71 69 = 1 ∧ scSpace x = 4 ∧ scGrants x ≠ 0 then some s.now else none
    stuck := false, epoch := s.epoch }

/-- The step takes its context: the run starts, ACTIVE is set, HALTED and HCAUSE are clear, OUT and CHAIN_SEND set both free bits, and a CHAIN_SEND's broadcast starts with no core armed. Other contexts and runs stay. -/
def tookContext (s u : State) (c i w : Nat) : Prop :=
  let k := 32 * c + bitsOf w 68 64; let x := s.sctx k; let mode := bitsOf w 71 69; let r := s.startedRun c i w; let n := bitsOf x 131 124 + 1
  u.run? k = some r ∧ ((u.core c).slot i).pc = (((s.core c).slot i).advance w).pc ∧
  bitOf (u.sctx k) 372 = true ∧ bitOf (u.sctx k) 373 = false ∧ bitsOf (u.sctx k) 383 376 = 0 ∧ bitsOf (u.sctx k) 355 320 = r.base / 64 % 2 ^ 36 ∧
  (∀ j, j ≠ k → u.sctx j = s.sctx j) ∧ (∀ j, j ≠ k → u.run? j = s.run? j) ∧
  ((mode = 1 ∨ mode = 3) → let m := 3 * 2 ^ bitsOf w 163 160 % 65536; (u.core c).flag (bitsOf w 159 152) &&& m = m) ∧
  u.chains = s.chains ++ (if mode = 3 then
    [⟨scChain x, c, bitsOf w 68 64, (List.range n).map fun j => (c + j) % 192, bitOf x 132, [], List.replicate n 0, r.stop, []⟩] else []) ∧
  u = { s with cores := u.cores, regs := u.regs, tg := { s.tg with ctxs := u.tg.ctxs }, chains := u.chains, el := { s.el with raised := u.el.raised } }

end State

/-! ### What a list leaves at its unit (R241, R244, R245, R250–R252, R332–R336) -/

namespace State

/-- The state that a good list l of operation op leaves, and its result: SKETCH_SCORE answers its ranked rows; SKETCH_UPD writes the records of its own stack and answers the others; a bench list joins its target, leaves the probabilities of its last head in the score rows (R180) and answers its partials; DEQUANT and EXPAND answer their pages for the slots and the notice of the delivery block; COPY, ZERO and MOVE write the bytes of their source, or zeros, and report success. -/
def listLeft (v : State) (n op : Nat) (l : List QuDesc) (d : QuDesc) (m : Model) : State × QuResult :=
  let h := v.readMem (blockAt d.qaddr) 64
  let g := granOf d.addr
  match op, d.frame with
  | 0x10, _ => (v, .ranks d.ctx d.layer (v.sketchRanks m l) none)
  | 0x11, _ =>
    let (ws, nan) := v.sketchWrites m d false
    let own := !(v.entry (granOf d.daddr)).spill && (v.entry (granOf d.daddr)).stack == n
    let u := if nan then v.orReg (quReg n 8) 0x10 else v
    (if own then u.heatWrites ws else u, .sketched d.ctx (v.updRow d) d.layer (if own then [] else ws) none)
  | 0x40, _ => ((v.devWrite d.daddr (v.devRead d.addr d.len)).heat d.daddr d.len, .copied d.ctx d.daddr none)
  | 0x41, none => ((v.devWrite d.addr (List.replicate d.len 0)).heat d.addr d.len, .zeroed (8 * 2 ^ 20 + State.senderDie d) true)
  | 0x41, some f => (if v.ti.zeroing.contains (n * 2 ^ 20 + f) then v.writeFrame n f 0 (List.replicate 65536 0) else v, .zeroed (n * 2 ^ 20 + f) true)
  | 0x42, none => (v.devWrite d.daddr (v.devRead d.addr d.len), .moved g true)
  | 0x42, some f => (v.writeFrame n f 0 (v.readFrame (v.entry g).stack (v.entry g).frame 0 65536), .moved g true)
  | k, _ =>
    if k = 0x20 ∨ k = 0x21 then
      let u := if (v.targetOf d.qaddr).isNone then v.addTarget d.ctx m d.qaddr h (leField h 20 2) else v
      (u.writeMem (State.sramAt n 0xF00000) (u.scoreRows m l false), .parts d.ctx d.qaddr (u.benchParts m l false) none)
    else (v, .page d.ctx
      (l.map fun e => (terraceAt (leField h 0 4 % 4) (leField h 4 4 * 64 + e.pidx * (leField h 8 4 * 64)), v.convertedPage m e false))
      (leField h 12 1) (leField h 13 1) (leField h 14 1 % 16) none)

/-- What phase ph of a search leaves at unit n, in t, for descriptor d of batch b: CENTROID ranks the lists of the extent for every query, LIST and SIDE offer their entries to the heaps of their queries, GATHER answers the neighbour ids, SCORE offers each valid record with its own sketch, and MERGE joins the eight heaps of each query named; the heaps of the unit stand in its score-rows partition. -/
def searchLeft (v t : State) (n ph : Nat) (d : QuDesc) (b : SkBatch) (ix : SkIdx) : Prop :=
  let items := Map.getD [] b.visits d.visit; let x := b.index; let sb := v.skSb x
  let done := fun (u : State) (ids : List (Nat × Nat)) => (u.skHeapRows b.num n ph).quFinished t n [d] (.search d.batch ids)
  (ph = 0 → ∃ b', done (v.setBatch b') [] ∧ b' = { b with heaps := b'.heaps } ∧
    (b.queries.length ≤ 4096 → (∀ j q, b.queries[j]? = some q → Map.getD [] b'.heaps (4096 * n + j) =
        (((List.range (ceilDiv d.len sb)).map fun i => ((d.addr - ix.cent) / sb + i, ofLe (v.devRead (d.addr + i * sb) sb))).filter
          fun l => Nat.blt l.1 (v.skLists x)).foldl
            (fun h l => skKeep b.nprobe h (hamming (8 * sb) q.sketch l.2 * 2 ^ 48 + l.1)) (Map.getD [] b.heaps (4096 * n + j))) ∧
      ∀ k, k / 4096 ≠ n → Map.getD [] b'.heaps k = Map.getD [] b.heaps k)) ∧
  (ph = 1 → done (v.skScan b.num n items (v.skBlocks x d)) []) ∧
  (ph = 2 → done (v.skScan b.num n (List.range b.queries.length)
    (((v.skSide x ix).filter fun e => e / 64 / v.skPer x == (d.addr - ix.side) / 65536).map fun e => v.skEntry x ix.side e)) []) ∧
  (ph = 3 → ∃ ids, done (v.count R.SK_NEIGH_MISSING_LO (ids.filter fun p => Nat.ble (v.skCap x) p.2).length) ids ∧
    ∀ j id, (j, id) ∈ ids ↔ ∃ i ∈ items, ∃ k, k < v.skNeigh x ∧ j = i / 2 ^ 48 ∧
      v.skRecField x ix (i % 2 ^ 48) (32 + sb + 8 * k) 8 ≠ skNone ∧ id = v.skRecField x ix (i % 2 ^ 48) (32 + sb + 8 * k) 8 % 2 ^ 48) ∧
  (ph = 4 → done (items.foldl (fun u i => if u.skValid x ix (i % 2 ^ 48)
      then u.skOffer b.num n (i / 2 ^ 48) (u.skRecField x ix (i % 2 ^ 48) 32 sb) (i % 2 ^ 48)
      else u.count R.SK_NEIGH_MISSING_LO 1) v) []) ∧
  (ph = 5 → ∃ b', done (v.setBatch b') [] ∧ b' = { b with queries := b'.queries, heaps := b.heaps.filter fun h => !items.contains (h.1 % 4096) } ∧
    ∀ j q, b.queries[j]? = some q → let keys := ((List.range 8).map fun u => Map.getD [] b.heaps (4096 * u + j)).flatten
      b'.queries[j]? = some (if !items.contains j then q
        else if b.phase = 1 then { q with lists := (keys.foldl (skKeep b.nprobe) []).map fun k => k % 2 ^ 48 }
        else { q with cand := keys.foldl (skKeep b.cand) q.cand }))

end State

/-! ### Partials (R248) -/

/-- A target that has folded one partial more of its head. -/
def BenchTarget.foldedBy (b : BenchTarget) (p : Partial) : BenchTarget := { b with folded := b.folded.put p.head (Map.getD 0 b.folded p.head + 1) }

/-- The rows of a partial's head stand at their target, folded by R177 into what stood there. -/
def State.foldedInto (s : State) (c : Nat) (b : BenchTarget) (p : Partial) : State :=
  let oAt := b.obase + p.head * b.ostep
  let stAt := b.stbase + p.head * b.ststep
  s.writeTarget c oAt stAt b.dim (foldRows (bitOf (s.reg R.SF_CTRL) 0) b.dim (s.readTarget c oAt stAt b.rows b.dim) (partialRows b.rows b.dim p.data)).1

/-- The commands that issue a step to a unit of a core, with the unit that takes it (R77), the TYPE and, where the TYPE has several operations, the codes that name this one (R88, R94, R95). -/
def unitCommands (c i : Nat) : List (Instr × UnitId × Nat × (Nat → Bool)) :=
  let vop := fun (n w : Nat) => bitsOf w 71 64 == n
  [(.mma c i, .matrix, 0x02, fun _ => true), (.mmaReduce c i, .matrix, 0x03, fun _ => true), (.attnTile c i, .matrix, 0x08, fun _ => true),
   (.add c i, .vector, 0x04, vop 0x01), (.mul c i, .vector, 0x04, vop 0x02), (.fma c i, .vector, 0x04, vop 0x03),
   (.addi c i, .vector, 0x04, vop 0x04), (.muli c i, .vector, 0x04, vop 0x05), (.max c i, .vector, 0x04, vop 0x06),
   (.min c i, .vector, 0x04, vop 0x07), (.cmpge c i, .vector, 0x04, vop 0x08), (.selge c i, .vector, 0x04, vop 0x09),
   (.convert c i, .vector, 0x04, vop 0x10), (.copy c i, .vector, 0x04, vop 0x11), (.rsum c i, .vector, 0x04, vop 0x18),
   (.rmax c i, .vector, 0x04, vop 0x19), (.dropout c i, .vector, 0x04, vop 0x20),
   (.exp2 c i, .sfu, 0x05, vop 0x01), (.log2 c i, .sfu, 0x05, vop 0x02), (.rcp c i, .sfu, 0x05, vop 0x03), (.rsqrt c i, .sfu, 0x05, vop 0x04),
   (.pwl c i, .sfu, 0x05, vop 0x05), (.geluErf c i, .sfu, 0x05, vop 0x08), (.geluTanh c i, .sfu, 0x05, vop 0x09), (.erf c i, .sfu, 0x05, vop 0x0A),
   (.microProgram c i, .sfu, 0x05, fun w => decide (0x80 ≤ bitsOf w 71 64)),
   (.norm c i, .vector, 0x06, fun _ => true), (.rope c i, .vector, 0x07, fun _ => true)]

/-- The operations of the quarry units: OP, with the phase of a SEARCH, and the command that runs it (R233, R334). -/
def quarryCommands (n : Nat) : List (Nat × Instr) :=
  [(0x10, .sketchScore n .clean), (0x11, .sketchUpd n .clean), (0x20, .bench n .clean), (0x21, .benchLat n .clean), (0x30, .dequant n .clean),
   (0x31, .expand n .clean), (0x40, .quarryCopy n .clean), (0x41, .zero n .clean), (0x42, .move n .clean),
   (0x500, .searchCentroid n .clean), (0x501, .searchList n .clean), (0x502, .searchSide n .clean), (0x503, .searchGather n .clean),
   (0x504, .searchScore n .clean), (0x505, .searchMerge n .clean)]

end Sys2Proof.Machine
end

