-- ==== Sys2Proof/Certificates/Slice0/Obligations.lean ====
section
/-! DEFINITION. The statements for the provers. -/

open Sys2Proof Sys2Proof.Machine

/-- O1. A step runs the command at the front of the queue; with none waiting one PCLK cycle passes (the idle tick is the model's choice). -/
def Obligations.StepRunsFrontCommand : Prop :=
  (∀ (s : State) (c : Instr) (rest : List Instr), s.pending = c :: rest → step s = exec c { s with pending := rest }) ∧
  (∀ s : State, s.pending = [] → step s = .next s.tick)

/-- O2. Aligned reads of BAR0 return the words of their registers and change nothing else. -/
def Obligations.BarReadsReturnTheirWords : Prop :=
  ∀ (s : State) (off : Nat), s.pw.held0 = false →
    (off % 4 = 0 → halfAt off ≠ 1 → s.hi.capt.get? off = none →
      exec (.barAccess off 4 false) s = .next (s.send (.readData off (leBytes 4 (s.regRead off))))) ∧
    (off % 8 = 0 → takes64 off = true → s.hi.capt.get? off = none → s.hi.capt.get? (off + 4) = none →
      exec (.barAccess off 8 false) s = .next (s.send (.readData off (leBytes 4 (s.regRead off) ++ leBytes 4 (s.regRead (off + 4)))))) ∧
    (∀ n, accessOk off n = true → exec (.barAccess off n true) s = .next s)

/-- O3. BAR0 takes aligned 32-bit accesses, and 64-bit ones of the MSI-X structures; all others are refused and reported. -/
def Obligations.AccessSizesAreChecked : Prop :=
  ∀ (s : State) (off n : Nat), s.pw.held0 = false →
    let good := n = 4 ∧ off % 4 = 0 ∨ n = 8 ∧ off % 8 = 0 ∧ (0x80000 ≤ off ∧ off < 0x88000 ∨ 0x90000 ≤ off ∧ off < 0x90100)
    (good → (∃ t d, exec (.barAccess off n false) s = .next t ∧ t.out = s.out ++ [.readData off d] ∧ d.length = n ∧
        t = { s with out := t.out, hi := { s.hi with capt := t.hi.capt } }) ∧ exec (.barAccess off n true) s = .next s) ∧
    (¬ good →
      (∃ t, exec (.barAccess off n false) s = .next t ∧
        t.out = s.out ++ [.completion 1 off] ∧ s.logs t 0x81 0xFFFF 0 ∧
        t = { s with out := t.out, el := { s.el with raised := t.el.raised }, regs := t.regs } ∧
        s.sets t R.HI_ERR 0x200 ∧ s.keeps t [R.HI_ERR]) ∧
      (∃ t, exec (.barAccess off n true) s = .next t ∧
        s.logs t 0x81 0xFFFF 0 ∧
        s.logsOnly t ∧
        s.sets t R.HI_ERR 0x200 ∧ s.keeps t [R.HI_ERR]) ∧
      (∀ v h : Word, off % 4 ≠ 0 → exec (.registerWrite off v h) s = exec (.barAccess off 4 true) s))

/-- O4. A read of a _LO captures the upper half for the next read of its _HI. -/
def Obligations.LoReadCapturesTheUpperHalf : Prop :=
  ∀ (s : State) (lo : Nat), s.pw.held0 = false → halfAt lo = 1 → halfAt (lo + 4) = 2 → lo % 4 = 0 →
    (∃ t, exec (.loReadCapture lo) s = .next t ∧
      t.out = s.out ++ [.readData lo (leBytes 4 (s.regRead lo))] ∧
      t.hi.capt.get? (lo + 4) = some (s.regRead (lo + 4)) ∧ (∀ o, o ≠ lo + 4 → t.hi.capt.get? o = s.hi.capt.get? o) ∧
      t = { s with out := t.out, hi := { s.hi with capt := t.hi.capt } }) ∧
    (∀ v, s.hi.capt.get? (lo + 4) = some v → ∃ t, exec (.barAccess (lo + 4) 4 false) s = .next t ∧
      t.out = s.out ++ [.readData (lo + 4) (leBytes 4 v)] ∧
      t.hi.capt.get? (lo + 4) = none ∧ (∀ o, o ≠ lo + 4 → t.hi.capt.get? o = s.hi.capt.get? o) ∧
      t = { s with out := t.out, hi := { s.hi with capt := t.hi.capt } }) ∧
    (s.hi.capt.get? (lo + 4) = none →
      exec (.barAccess (lo + 4) 4 false) s = .next (s.send (.readData (lo + 4) (leBytes 4 (s.regRead (lo + 4))))))

/-- O5. A write of a _LO is held until its _HI is written. -/
def Obligations.HiWriteCommitsThePair : Prop :=
  ∀ (s : State) (a b h : Word) (lo : Nat), s.pw.held0 = false → lo ∈ [R.HI_WIN_BASE_LO, R.HI_EV_BASE_LO] →
    (∃ t, exec (.registerWrite lo a h) s = .next t ∧ t = { s with hi := { s.hi with held := t.hi.held } } ∧
      t.hi.held.get? lo = some a.toNat ∧ ∀ o, o ≠ lo → t.hi.held.get? o = s.hi.held.get? o) ∧
    (s.hi.held.get? lo = some a.toNat → ∃ t, exec (.hiWriteCommit (lo + 4) b) s = .next t ∧
      t.reg lo = a.toNat ∧ t.reg (lo + 4) = b.toNat &&& (if lo = R.HI_WIN_BASE_LO then 0xFFFFF else 0xFFFFFFFF) ∧
      t.hi.held.get? lo = none ∧ (∀ o, o ≠ lo → t.hi.held.get? o = s.hi.held.get? o) ∧
      s.keeps t [lo, lo + 4] ∧ t = { s with regs := t.regs, hi := { s.hi with held := t.hi.held } })

/-- O6. Reserved offsets read 0 and discard writes. -/
def Obligations.ReservedOffsetsReadZero : Prop :=
  ∀ (s : State) (off : Nat) (v h : Word), s.pw.held0 = false → off % 4 = 0 → regRow off = none → s.hi.capt.get? off = none →
    exec (.barAccess off 4 false) s = .next (s.send (.readData off [0, 0, 0, 0])) ∧ exec (.registerWrite off v h) s = .next s

/-- O7. Writing 1 clears a W1C bit unless hardware sets it in the same cycle. -/
def Obligations.W1cWritesClearBits : Prop :=
  ∀ (s : State) (off : Nat) (v h : Word), s.pw.held0 = false →
    (off ∈ plainW1c → ∃ t m, exec (.registerWrite off v h) s = .next t ∧ (regRow off).map (·.mask) = some m ∧
      (∀ b, b < 32 → Nat.testBit m b = true →
        Nat.testBit (t.reg off) b = ((Nat.testBit (s.reg off) b && !Nat.testBit v.toNat b) || Nat.testBit h.toNat b)) ∧
      s.keeps t [off] ∧ s.regsOnly t) ∧
    (∃ t, exec (.registerWrite R.SL_ARITH v h) s = .next t ∧
      (∀ b, b < 7 → Nat.testBit (t.reg R.SL_ARITH) b =
        ((Nat.testBit (s.reg R.SL_ARITH) b && !Nat.testBit v.toNat b) || Nat.testBit h.toNat b)) ∧
      s.keeps t [R.SL_ARITH, R.SF_STICKY] ∧ s.logsOnly t)

/-- O8. A launch readies an IDLE slot and writes its argument block. -/
def Obligations.SlotLaunchReadiesAnIdleSlot : Prop :=
  ∀ (s : State) (c i : Nat) (pc : BitVec 14) (model : Byte) (args : List Byte), c < 192 → i < 8 →
    (((s.core c).slot i).phase = .idle → ∃ t, exec (.slotLaunch c i pc model args) s = .next t ∧
      (t.core c).slot i = { Slot.idle with phase := .ready, pc := pc.toNat, model := model.toNat } ∧
      (∀ j, j ≠ i → (t.core c).slot j = (s.core c).slot j) ∧ (∀ fw, (t.core c).flag fw = (s.core c).flag fw) ∧
      (∀ d, d ≠ c → t.core d = s.core d) ∧ s.wrote t (State.storeAt c (0x5FFE00 + 64 * i)) ((args ++ List.replicate 64 0).take 64) ∧
      t = { s with cores := t.cores, mem := t.mem, bad := t.bad, soft := t.soft }) ∧
    (((s.core c).slot i).phase ≠ .idle → exec (.slotLaunch c i pc model args) s = .next s)

/-- O9. A unit step that may issue enters the queue of its unit. -/
def Obligations.UnitStepsEnterTheirQueues : Prop :=
  ∀ (s : State) (c i : Nat) (x : Instr × UnitId × Nat × (Nat → Bool)), x ∈ unitCommands c i → s.canIssue c i →
    stType (s.nextStep c i) = x.2.2.1 → x.2.2.2 (s.nextStep c i) = true →
    ∃ u, exec x.1 s = .next (u.settle c) ∧ s.issuedStep u c i (s.nextStep c i) ∧
      (u.core c).queue x.2.1 = (s.core c).queue x.2.1 ++
        [⟨i, BitVec.ofNat 256 (s.nextStep c i), if ((s.core c).slot i).odd then s.altOffset c i else 0, ((s.core c).slot i).odd⟩] ∧
      (∀ v, v ≠ x.2.1 → (u.core c).queue v = (s.core c).queue v) ∧
      (u.core c).streams = (s.core c).streams ∧ u = { s with cores := u.cores, regs := u.regs }

/-- O10. WAIT, SIGNAL and HALT act when they issue. -/
def Obligations.SequencerStepsActOnIssue : Prop :=
  ∀ (s : State) (c i : Nat), s.canIssue c i → let w := s.nextStep c i; let odd := ((s.core c).slot i).odd
    (stType w = 0x11 → ∃ u, exec (.wait c i) s = .next ((u.setFlags c (stSfw w) (stSmask w odd)).settle c) ∧ s.issuedStep u c i w ∧
      u = { s with cores := u.cores, regs := u.regs }) ∧
    (stType w = 0x12 → ∃ u, exec (.signal c i) s = .next ((u.setFlags c (stSfw w) (stSmask w odd)).settle c) ∧ s.issuedStep u c i w ∧
      u.signals = s.signals ++ [⟨c, if bitsOf w 71 64 = 0xFF then c else bitsOf w 71 64, bitsOf w 79 72, bitsOf w 95 80⟩] ∧
      u = { s with cores := u.cores, regs := u.regs, signals := u.signals }) ∧
    (stType w = 0x1F → ∃ u, exec (.halt c i) s = .next (u.settle c) ∧ s.issuedStep u c i w ∧
      (u.core c).cur = none ∧ ((u.core c).slot i).phase = .draining ∧
      ((u.core c).slot i).fin = some (stSfw w, stSmask w odd, bitOf w 64) ∧ u = { s with cores := u.cores, regs := u.regs })

/-- O11. EMIT queues its message, and the reply sets the bits it names. -/
def Obligations.EmitQueuesAndReplies : Prop :=
  (∀ (s : State) (c i : Nat), s.canIssue c i → let w := s.nextStep c i; let odd := ((s.core c).slot i).odd
    let a := operandAt w 75 (if odd then s.altOffset c i else 0)
    stType w = 0x13 → (bitOf w 93 = true → s.clean (State.storeAt c a) 64) → (bitOf w 66 = true → s.clean (State.storeAt c (argAt i)) 1) →
    ∃ u d m, exec (.emit c i) s = .next ((u.setFlags c (stSfw w) (stSmask w odd)).settle c) ∧ s.issuedStep u c i w ∧
      d = (if bitOf w 66 then ((s.readStore c (argAt i) 1).headD 0).toNat % 4 else bitsOf w 65 64) ∧
      m = (⟨c, i, bitsOf w 74 67, bitsOf w 181 118, if bitOf w 93 then s.readStore c a 64 else [], bitsOf w 101 94, bitsOf w 117 102⟩ : EmitMsg) ∧
      Map.getD [] u.emits d = Map.getD [] s.emits d ++ [m] ∧ (∀ e, e ≠ d → Map.getD [] u.emits e = Map.getD [] s.emits e) ∧
      u.out = s.out ++ [.control d [0x13, c, i, m.code, m.imm] m.payload] ∧
      u = { s with cores := u.cores, regs := u.regs, emits := u.emits, out := u.out }) ∧
  (∀ (s : State) (die : Nat) (m : EmitMsg) (rest : List EmitMsg), die < 4 → Map.getD [] s.emits die = m :: rest →
    ∃ u : State, exec (.emitReply die) s = .next ((u.setFlags m.core m.rfw m.rmask).cores.keys.foldl State.wake (u.setFlags m.core m.rfw m.rmask)) ∧
      Map.getD [] u.emits die = rest ∧ (∀ e, e ≠ die → Map.getD [] u.emits e = Map.getD [] s.emits e) ∧ u = { s with emits := u.emits }) ∧
  (∀ (s : State) (die : Nat), die < 4 → Map.getD [] s.emits die = [] → exec (.emitReply die) s = .next s)

/-- O12. Signals from one core to another arrive in order. -/
def Obligations.SignalsArriveInOrder : Prop :=
  ∀ (s : State) (n : Nat),
    (∀ g, s.signals[n]? = some g → (∀ h ∈ s.signals.take n, ¬ (h.src = g.src ∧ h.core = g.core)) →
      exec (.signalDeliver n) s = .next (({ s with signals := s.signals.eraseIdx n } : State).setFlags g.core g.fw g.mask)) ∧
    (∀ g, s.signals[n]? = some g → (∃ h ∈ s.signals.take n, h.src = g.src ∧ h.core = g.core) → exec (.signalDeliver n) s = .next s) ∧
    (s.signals[n]? = none → exec (.signalDeliver n) s = .next s)

/-- O13. A step outside the table, or of a reserved TYPE, faults its slot with PC_RANGE. -/
def Obligations.PcRangeFaultsTheSlot : Prop :=
  ∀ (s : State) (c i : Nat), c < 192 → i < 8 → s.pw.stopped = false → (s.core c).mayRun i = true → let x := (s.core c).slot i
    (s.steps c ≤ x.pc ∨ knownType (stType (s.nextStep c i)) = false ∧ s.clean (State.storeAt c (32 * x.pc)) 32) → x.phase ≠ .idle → x.phase ≠ .faulted →
    ∃ u : State, exec (.pcRange c i) s = .next (u.cancelHalted c i) ∧
      ((u.core c).slot i).phase = .faulted ∧ ((u.core c).slot i).cause = 0x03 ∧ ((u.core c).slot i).pc = x.pc ∧
      (u.core c).cur = none ∧ (u.core c).faults = (s.core c).faults ++ [i] ∧ (u.core c).resetDue = true ∧
      (∀ fw, (u.core c).flag fw = (s.core c).flag fw) ∧ (∀ n, (u.core c).queue n = (s.core c).queue n) ∧ (u.core c).streams = (s.core c).streams ∧
      (∀ d, d ≠ c → u.core d = s.core d) ∧ s.logs u (0x4000 + (0x0C + c / 48) * 64 + 0x03) c 0 ∧ s.sets u (State.coreReg c 8) 8 ∧
      u = { s with cores := u.cores, regs := u.regs, el := { s.el with raised := u.el.raised } }

/-- O14. A slot's fault message ends the batch step of its model with STEP_FAULT. -/
def Obligations.SlotFaultMessageEndsTheStep : Prop :=
  ∀ (s : State) (c i : Nat), c < 192 → i < 8 →
    (i ∈ (s.core c).faults → ∃ u : State, exec (.slotFaultMessage c i) s = .next (u.endStep ((s.core c).slot i).model 0x10 0 (c + 256 * ((s.core c).slot i).cause)) ∧
      (u.core c) = { s.core c with faults := (s.core c).faults.erase i } ∧ (∀ d, d ≠ c → u.core d = s.core d) ∧ u = { s with cores := u.cores }) ∧
    (i ∉ (s.core c).faults → exec (.slotFaultMessage c i) s = .next s)

/-- O15. The head of a unit queue completes: it writes its results, or faults with ECC_DATA. -/
def Obligations.UnitStepsCompleteInOrder : Prop :=
  ∀ (s : State) (c : Nat) (u : UnitId) (q : QStep) (rest : List QStep), c < 192 → s.pw.stopped = false →
    (s.core c).running u = true → (s.core c).queue u = q :: rest → let m := ((s.core c).slot q.slot).model
    ∃ v : State, v = { s with cores := v.cores } ∧ (v.core c).queue u = rest ∧ (∀ x, x ≠ u → (v.core c).queue x = (s.core c).queue x) ∧
      (∀ i, (v.core c).slot i = (s.core c).slot i) ∧ (∀ fw, (v.core c).flag fw = (s.core c).flag fw) ∧ (∀ d, d ≠ c → v.core d = s.core d) ∧
      let finish := fun (w : State) => ((w.orFlags c (stSfw q.word.toNat) (stSmask q.word.toNat q.odd)).settle c).emptyTargets c
      (∀ e, e ≠ .uncorrectable → s.operandBad c m q = none → ∃ z : State,
        exec (.unitStepComplete c u e) s = .next (finish ((z.operandSeep c m q).runUnit c m q)) ∧ (e = .clean → z = v) ∧ v.logsOnly z ∧
        (e = .corrected → s.adds32 z (State.coreReg c 0x320) 1 ∧ s.logs z (0x1000 + (0x0C + c / 48) * 64 + 0x10) c 0)) ∧
      (∀ e, e = .uncorrectable ∨ (s.operandBad c m q).isSome = true →
        ∃ (w : State) (a : Nat), exec (.unitStepComplete c u e) s = .next (finish w) ∧ w.mem = s.mem ∧ (∀ b, s.operandBad c m q = some b → a = b) ∧
          (((s.core c).slot q.slot).phase ≠ .idle → ((s.core c).slot q.slot).phase ≠ .faulted →
            ((w.core c).slot q.slot).phase = .faulted ∧ ((w.core c).slot q.slot).cause = 0x02) ∧
          (⟨0x4000 + (0x0C + c / 48) * 64 + 0x11, c, false, 0, some a⟩ : Report) ∈ w.el.raised)

/-- O16. The patrol scrubber reports and counts errors and changes no byte. -/
def Obligations.PatrolScrubReports : Prop :=
  ∀ (s : State) (c word : Nat), c < 192 → word < 786432 → let k := State.storeAt c (8 * word) / 8
    (k ∉ s.soft → k ∉ s.bad → exec (.patrolScrub c word .clean) s = .next s) ∧
    (∀ e, k ∉ s.bad → e = .corrected ∨ e = .clean ∧ k ∈ s.soft → ∃ t, exec (.patrolScrub c word e) s = .next t ∧ s.sets t (State.coreReg c 8) 2 ∧
      s.adds32 t (State.coreReg c 0x320) 1 ∧ s.keeps t [State.coreReg c 8, State.coreReg c 0x320] ∧
      s.logs t (0x1000 + (0x0C + c / 48) * 64 + 0x10) c 0 ∧ t.soft = s.soft.filter (· != k) ∧
      t = { s with regs := t.regs, soft := t.soft, el := { s.el with raised := t.el.raised } }) ∧
    (∀ e, e = .uncorrectable ∨ k ∈ s.bad → ∃ t, exec (.patrolScrub c word e) s = .next t ∧ s.sets t (State.coreReg c 8) 4 ∧ s.keeps t [State.coreReg c 8] ∧
      t.el.raised = s.el.raised ++ [⟨0x4000 + (0x0C + c / 48) * 64 + 0x11, c, false, 0, some (State.storeAt c (8 * word))⟩] ∧ k ∈ t.bad ∧
      t = { s with regs := t.regs, bad := t.bad, soft := t.soft, el := { s.el with raised := t.el.raised } })

/-- O17. An arrival at a dike is recorded; the one that completes it releases the dike. -/
def Obligations.DikeArrivalsReleaseTogether : Prop :=
  ∀ (s : State) (c i : Nat), s.canIssue c i → let w := s.nextStep c i; let k := dikeOf c w
    let a : Arrival := ⟨c, i, stSfw w, stSmask w ((s.core c).slot i).odd⟩
    stType w = 0x10 → s.dikeMember k c i = true → (∀ b ∈ (s.dike k).arrived, ¬ (b.core = c ∧ b.slot = i)) →
    ((s.dike k).arrived.length + 1 < (s.dikeMembers k).length → ∃ u, exec (.dike c i) s = .next (u.settle c) ∧ s.issuedStep u c i w ∧
      u.dike k = ⟨(s.dike k).arrived ++ [a], (s.dike k).gen, if (s.dike k).arrived.isEmpty then s.now else (s.dike k).since⟩ ∧
      (∀ j, j ≠ k → u.dike j = s.dike j) ∧ u = { s with cores := u.cores, regs := u.regs, dikes := u.dikes }) ∧
    ((s.dikeMembers k).length ≤ (s.dike k).arrived.length + 1 → ∃ u, exec (.dike c i) s = .next ((u.releaseDike k).settle c) ∧ s.issuedStep u c i w ∧
      (u.dike k).arrived = (s.dike k).arrived ++ [a] ∧ (u.dike k).gen = (s.dike k).gen)

/-- O18. A dike timeout faults every slot that had arrived. -/
def Obligations.DikeTimeoutFaultsTheArrived : Prop :=
  ∀ (s : State) (pkg : Bool) (die did : Nat), (pkg = false → die < 4) → did < (if pkg then 16 else 64) →
    let k := State.dikeKey pkg die did
    ((s.dike k).arrived = [] ∨ s.now < (s.dike k).since + s.dikeLimit pkg die → exec (.dikeTimeout pkg die did) s = .next s) ∧
    ((s.dike k).arrived ≠ [] → (s.dike k).since + s.dikeLimit pkg die ≤ s.now → ∃ t, exec (.dikeTimeout pkg die did) s = .next t ∧
      t.dike k = ⟨[], (s.dike k).gen, 0⟩ ∧ (∀ j, j ≠ k → t.dike j = s.dike j) ∧ t.mem = s.mem ∧
      (∀ a ∈ (s.dike k).arrived, ((s.core a.core).slot a.slot).phase ≠ .faulted →
        ((t.core a.core).slot a.slot).phase = .faulted ∧ ((t.core a.core).slot a.slot).cause = 0x08) ∧
      ((∀ a ∈ (s.dike k).arrived, ∀ r ∈ (s.core a.core).streams, r.2.slot = a.slot → r.2.halt = none) →
        t = { s with cores := t.cores, regs := t.regs, dikes := t.dikes, free := t.free, el := { s.el with raised := t.el.raised } }))

/-- O19. A STREAM that may issue takes its context or is refused with its cause. -/
def Obligations.StreamsTakeTheirContexts : Prop :=
  ∀ (s : State) (c i mode : Nat) (x : Instr), (mode, x) ∈ [(0, .streamIn c i), (1, .streamOut c i), (2, .streamChainRecv c i), (3, .streamChainSend c i)] →
    s.canIssue c i → let w := s.nextStep c i; let k := 32 * c + bitsOf w 68 64; let r := s.startedRun c i w
    let short := if scSpace (s.sctx k) = 5 then r.ended = true ∧ r.have_ < r.stop else scLen (s.sctx k) < r.base + r.stop
    stType w = 0x01 → bitsOf w 71 69 = mode →
    (State.spaceBad (s.sctx k) mode = false → ¬ short → ∃ u : State, exec x s = .next (u.settle c) ∧ s.tookContext u c i w) ∧
    (∀ e, (e = 0x11 ∧ State.spaceBad (s.sctx k) mode = true ∨ e = 0x10 ∧ State.spaceBad (s.sctx k) mode = false ∧ short) → ∃ u : State,
      exec x s = .next ((u.streamErr k e).settle c) ∧ u.run? k = some r ∧ u = { s with cores := u.cores, regs := u.regs, tg := { s.tg with ctxs := u.tg.ctxs } })

/-- O20. Tags are granted in arrival order past requests that a cap blocks. -/
def Obligations.TagsAreGrantedInOrder : Prop :=
  ∀ (s : State) (cls : TagClass),
    (s.poolSize cls ≤ s.inUse cls ∨ (∀ q ∈ s.tg.reqs, q.cls = cls → s.grantable q = false) → exec (.tagGrant cls) s = .next s) ∧
    (∀ (before after : List TagReq) (q : TagReq) (k a n : Nat) (r : StreamRun), s.pw.stopped = false → s.inUse cls < s.poolSize cls →
      s.tg.reqs = before ++ q :: after → (∀ p ∈ before, p.cls = cls → s.grantable p = false) → q.cls = cls → s.grantable q = true →
      q.owner = .stream k → s.nextXfer q = some (a, n) → s.run? k = some r → scSpace (s.sctx k) ≠ 4 →
      s.translate (granOf a) (scPolder (s.sctx k)) (r.mode == 1) = .go →
      ∃ t, exec (.tagGrant cls) s = .next t ∧
        t.tg.xfers = s.tg.xfers ++ [⟨s.tg.nextId, cls, .stream k, q.off, n, a, false, none⟩] ∧ t.tg.nextId = s.tg.nextId + 1 ∧
        (∀ p ∈ t.tg.reqs, p ∈ s.tg.reqs ∨ p = { q with off := q.off + n }) ∧
        t = { s with regs := t.regs, tg := { s.tg with reqs := t.tg.reqs, xfers := t.tg.xfers, nextId := t.tg.nextId } } ∧
        s.keeps t [R.TG_HWM_READ, R.TG_HWM_WRITE, R.TG_HWM_REMOTE])

/-- O21. A transfer that ends without error moves its bytes. -/
def Obligations.TransfersMoveTheirBytes : Prop :=
  ∀ (s : State), s.pw.stopped = false →
    (∀ (id : Nat) (st : XferStatus), (∀ x ∈ s.tg.xfers, x.id ≠ id) → exec (.transferComplete id st) s = .next s) ∧
    (∀ (x : Xfer) (k : Nat) (r : StreamRun), s.tg.xfers.find? (fun y => y.id == x.id) = some x → x.owner = .stream k → s.run? k = some r →
      r.err = none → r.stuck = false → scSpace (s.sctx k) ≠ 4 →
      let u := ((s.tgUpd fun t => { t with xfers := t.xfers.filter fun y => y.id != x.id }).slotLent x).heat x.addr x.len
      (r.mode ≠ 1 → exec (.transferComplete x.id .ok) s =
        .next (((u.writeStore (k / 32) (r.near x.off) (u.xferBytes x)).moved k x.off x.len).drainEnd k)) ∧
      (r.mode = 1 → u.nearBad k r x.off x.len = false → let v := u.seep (k / 32) (r.near x.off) x.len; exec (.transferComplete x.id .ok) s =
        .next (((v.devWrite x.addr (v.readStore (k / 32) (r.near x.off) x.len)).moved k x.off x.len).drainEnd k))) ∧
    (∀ (c sc a left : Nat) (r : StreamRun), c < 192 → sc < 32 → let k := 32 * c + sc; s.run? k = some r → r.err = none → r.stuck = false →
      let sp := scSpace (s.sctx k); let d := bitsOf (scFar (s.sctx k)) 63 56
      (sp = 1 ∨ sp = 2) → r.pre < r.opened * r.chunk → s.farAt k r r.pre = some (a, left) →
      let n := State.cutAt r r.pre a left (r.opened * r.chunk); let near := State.storeAt c (r.near r.pre)
      let far := if sp = 1 then State.terraceAt (bitsOf (scFar (s.sctx k)) 57 56) a else State.storeAt d a
      (r.mode ≠ 1 → s.badIn far n = false → let v := if sp = 2 then s.seep d a n else s
        exec (.untaggedTransferComplete c sc .ok) s = .next ((v.writeMem near (v.readMem far n)).moved k r.pre n)) ∧
      (r.mode = 1 → s.badIn near n = false → let v := s.seep c (r.near r.pre) n
        exec (.untaggedTransferComplete c sc .ok) s = .next ((v.writeMem far (v.readMem near n)).moved k r.pre n)))

/-- O22. A NOT_RESIDENT halt asks for its granule and resumes with a pin. -/
def Obligations.HaltsResumeWithAPin : Prop :=
  ∀ (s : State) (c sc : Nat), c < 192 → sc < 32 → let k := 32 * c + sc
    (∀ (r : StreamRun) (g : Nat), sc ∈ (s.core c).halts → s.run? k = some r → r.halt = some (0x01, g) → ∃ u : State,
      exec (.haulFaultMessage c sc) s = .next ((u.needGran ((s.core c).slot r.slot).model g).demand g) ∧ (u.core c).halts = (s.core c).halts.erase sc ∧
      u = { s with cores := u.cores }) ∧
    (sc ∉ (s.core c).halts → exec (.haulFaultMessage c sc) s = .next s) ∧
    (∀ (r : StreamRun) (g : Nat), s.run? k = some r → r.halt = some (0x01, g) → bitOf (s.sctx k) 373 = true →
      (s.entry g).spill = false → (s.entry g).poison = false → s.moveOf g = none → ∃ u : State,
      exec (.haulResume c sc) s = .next (u.settle c) ∧ bitOf (u.sctx k) 373 = false ∧
      u.run? k = some { r with halt := none, parts := [], asked := r.pre } ∧
      u.tg.pins = s.tg.pins ++ [⟨g, .stream k, s.now + s.reg R.TG_PIN_TIME⟩] ∧ s.adds u R.TG_RESUME_LO 1 ∧
      u = { s with cores := u.cores, regs := u.regs, tg := { s.tg with ctxs := u.tg.ctxs, pins := u.tg.pins } }) ∧
    ((∀ r, s.run? k = some r → r.halt = none) → exec (.haulResume c sc) s = .next s) ∧
    (∀ g, (∃ p ∈ s.tg.pins, p.gran = g ∧ p.stop ≤ s.now) → ∃ t, exec (.pinExpire g) s = .next t ∧
      t.tg.pins = s.tg.pins.filter (fun p => !(p.gran == g && decide (p.stop ≤ s.now))) ∧ s.sets t R.TG_ERR 2 ∧ s.keeps t [R.TG_ERR] ∧
      t = { s with regs := t.regs, tg := { s.tg with pins := t.tg.pins } }) ∧
    (∀ g, (∀ p ∈ s.tg.pins, p.gran = g → s.now < p.stop) → exec (.pinExpire g) s = .next s)

/-- O23. PEER hauls and descriptor queues follow their grants and limits. -/
def Obligations.PeerHaulsFollowTheirGrants : Prop :=
  ∀ (s : State) (c sc : Nat), c < 192 → sc < 32 → let k := 32 * c + sc
    let q := fun (t : State) (j : Nat) => Map.getD [] t.tg.descs j ++ Map.getD [] t.tg.descWait j
    (∀ d, (Map.getD [] s.tg.descs k).length ≤ 16 → ∃ u : State, exec (.descEnqueue c sc d) s = .next (u.settle c) ∧
      q u k = q s k ++ [d] ∧ (Map.getD [] u.tg.descs k).length = min 16 (q u k).length ∧ (∀ j, j ≠ k → q u j = q s j) ∧
      u = { s with tg := { s.tg with descs := u.tg.descs, descWait := u.tg.descWait } }) ∧
    (∀ r, s.run? k = some r → scGrants (s.sctx k) < 65535 → ∃ u : State, exec (.peerGrant c sc) s = .next (u.settle c) ∧
      scGrants (u.sctx k) = scGrants (s.sctx k) + 1 ∧
      u.run? k = some { r with moved := if r.moved.isSome then r.moved else some s.now } ∧
      u = { s with cores := u.cores, tg := { s.tg with ctxs := u.tg.ctxs }, cu := { s.cu with inbox := u.cu.inbox } }) ∧
    (∀ r fill off last data, s.run? k = some r → r.mode = 0 → scSpace (s.sctx k) = 4 → r.err = none →
      let good := fill = r.pre / r.chunk ∧ fill < r.opened ∧ off + data.length ≤ r.chunk ∧ last = decide (off + data.length = r.chunk)
      (¬ good → ∃ u : State, exec (.peerSegment c sc fill off last data) s = .next (u.failStream k 0x14) ∧ s.heard u) ∧
      (good → ∃ u : State, exec (.peerSegment c sc fill off last data) s =
          .next ((u.writeStore c (r.near (fill * r.chunk + off)) data).moved k (fill * r.chunk + off) data.length) ∧
        u.run? k = some { r with moved := some s.now } ∧ scGrants (u.sctx k) = scGrants (s.sctx k) - (if last then 1 else 0) ∧
        u = { s with cores := u.cores, tg := { s.tg with ctxs := u.tg.ctxs }, cu := { s.cu with inbox := u.cu.inbox } })) ∧
    (scSpace (s.sctx k) = 4 → ∃ u : State, exec (.peerAbort c sc) s = .next (u.failStream k 0x16) ∧ s.heard u) ∧
    (∀ r t, s.run? k = some r → scSpace (s.sctx k) = 4 → r.moved = some t → t + s.peerLimit k ≤ s.now →
      exec (.peerTimeout c sc) s = .next (s.failStream k 0x15))

/-- O24. A chain carries flits only when every receiver is armed. -/
def Obligations.ChainsArmBeforeTheyRun : Prop :=
  ∀ (s : State),
    (∀ (id : Nat) (ch : Chain), s.chains.find? (fun c => c.id == id) = some ch → let need := if ch.self then ch.span else ch.span.drop 1
      (ch.armed = [] → (∀ c ∈ need, (s.chainRecv c id).isSome = true) →
        exec (.chainArm id) s = .next { s with chains := s.chains.map fun x => if x = ch then { ch with armed := ch.span } else x }) ∧
      ((∃ c ∈ need, s.chainRecv c id = none) → exec (.chainArm id) s = .next s)) ∧
    (∀ (id core : Nat) (ch : Chain) (j : Nat), core < 192 → s.chains.find? (fun c => c.id == id) = some ch → ch.span.idxOf? core = some j →
      exec (.chainFlit id core) s = .next (s.chainFlit ch j) ∧
      (ch.armed = [] → s.chainFlit ch j = s) ∧ (0 < j → ch.past.getD (j - 1) 0 ≤ ch.past.getD j 0 → s.chainFlit ch j = s) ∧
      (0 < j → j + 1 < ch.span.length → ch.armed ≠ [] → (∀ c ∈ ch.span.drop (j + 1), c ∉ s.hopsStopped ch) → core ∉ s.hopsStopped ch → (s.core core).held = none →
        ch.past.getD j 0 < ch.past.getD (j - 1) 0 → 256 * ch.past.getD j 0 < ch.total → s.chainRecv core id = none →
        (s.chainFlit ch j).chains = s.chains.map fun x => if x = ch then { ch with past := ch.past.set j (ch.past.getD j 0 + 1) } else x)) ∧
    (∀ (core id at_ k : Nat) (r : StreamRun), core < 192 → (s.core core).held = some (id, at_) → s.chainRecv core id = some k → s.run? k = some r →
      at_ + s.reg (State.dieReg (core / 48) 0x14) < s.now → exec (.chainTimeout core) s = .next (s.slotFault core r.slot 0x0A)) ∧
    (∀ core, core < 192 → (s.core core).held = none → exec (.chainTimeout core) s = .next s)

/-- O25. A whole good list leaves the results of its operation at its unit. -/
def Obligations.QuarryListsLeaveResults : Prop :=
  ∀ (s : State) (n op : Nat) (x : Instr) (l : List QuDesc) (d : QuDesc) (m : Model), (op, x) ∈ quarryCommands n → op < 0x50 → s.quReady n op l →
    l.head? = some d → (op < 0x40 → s.model d.mod = some m) → let v := s.quWarm l
    ∃ t, exec x s = .next t ∧ (v.listLeft n op l d m).1.quFinished t n l (v.listLeft n op l d m).2

/-- O26. Each phase of a search runs at its units. -/
def Obligations.SearchPhasesRunAtTheirUnits : Prop :=
  ∀ (s : State) (n ph : Nat) (x : Instr) (d : QuDesc) (b : SkBatch) (ix : SkIdx), (0x500 + ph, x) ∈ quarryCommands n → s.quReady n (0x500 + ph) [d] →
    s.sk.batches.find? (fun b => b.num % 65536 == d.batch) = some b → s.skIdx b.index = some ix →
    ∃ t, exec x s = .next t ∧ (s.quWarm [d]).searchLeft t n ph d b ix

/-- O27. A selector write captures the record it names. -/
def Obligations.SelectorsCaptureTheirRecords : Prop :=
  ∀ (s : State) (v : Word),
    (∃ t, exec (.kvCtxSel v) s = .next t ∧ t.reg R.KV_CTX_SEL = v.toNat % 16384 ∧
      (∀ i, i < 16 → t.reg (R.KV_CTX_DATA + 4 * i) = (s.ctx (v.toNat % 16384)).word / 2 ^ (32 * i) % 2 ^ 32) ∧
      (∀ o, o ≠ R.KV_CTX_SEL → ¬ (R.KV_CTX_DATA ≤ o ∧ o < R.KV_CTX_DATA + 64) → t.reg o = s.reg o) ∧ s.regsOnly t) ∧
    (∃ t g, exec (.tiMapSelHi v) s = .next t ∧
      g = (Map.getD (s.reg R.TI_MAP_SEL_LO) s.hi.held R.TI_MAP_SEL_LO) % 2 ^ 32 + 2 ^ 32 * (v.toNat % 16) ∧ t.reg64 R.TI_MAP_SEL_LO = g ∧
      (Map.getD (s.reg R.TI_MAP_SEL_LO) s.hi.held R.TI_MAP_SEL_LO < 2 ^ 32 → ∀ i, i < 4 → t.reg (R.TI_MAP_DATA + 4 * i) =
        (if (s.entryNo g).isSome then s.entryWord g else 0) / 2 ^ (32 * i) % 2 ^ 32) ∧
      (∀ o, o ≠ R.TI_MAP_SEL_LO → o ≠ R.TI_MAP_SEL_HI → ¬ (R.TI_MAP_DATA ≤ o ∧ o < R.TI_MAP_DATA + 16) → t.reg o = s.reg o) ∧
      t = { s with regs := t.regs, hi := { s.hi with held := s.hi.held.del R.TI_MAP_SEL_LO } }) ∧
    (∃ t, exec (.slOpSel v) s = .next t ∧ t.reg R.SL_OP_SEL = v.toNat % 65536 ∧ let l := s.slExecs (v.toNat % 65536); let n := s.slCount (v.toNat % 65536)
      (∀ i, i < 4 → t.reg (R.SL_OP_DATA + 4 * i) = s.slRec (v.toNat % 65536) / 2 ^ (32 * i) % 2 ^ 32) ∧
      (n < 65536 → (l = [] → (∀ x ∈ s.sl.tokens, x.1 ≠ v.toNat % 65536) → t.reg (R.SL_OP_DATA + 16) = n ∧ t.reg (R.SL_OP_DATA + 20) = 0) ∧
        ∀ k x, l = [(k, x)] → (x.phase = 2 ∨ x.phase = 3) → x.slots < 2 ^ 32 →
          t.reg (R.SL_OP_DATA + 16) = n + x.phase * 65536 ∧ t.reg (R.SL_OP_DATA + 20) = if x.phase = 3 then 0 else x.slots - x.fin.length) ∧
      (∀ o, o ≠ R.SL_OP_SEL → ¬ (R.SL_OP_DATA ≤ o ∧ o < R.SL_OP_DATA + 24) → t.reg o = s.reg o) ∧ s.regsOnly t) ∧
    (∀ n, n < 18 → let k := v.toNat % 256; let u := State.tunnel (s.port n) k; ∃ t, exec (.cuTunSel n v) s = .next t ∧
      t.reg (cuReg n 0x60) = k ∧ (u.rank < 65536 → u.phase < 4 → t.reg (cuReg n 0x64) = u.rank + u.phase * 65536 + min u.unacked.length 1024 * 2 ^ 20) ∧
      t.reg (cuReg n 0x68) = u.next % 2 ^ 32 ∧ s.keeps t [cuReg n 0x60, cuReg n 0x64, cuReg n 0x68] ∧ s.regsOnly t)

/-- O28. Walks issue descriptors, selections keep their pages and partials fold behind their gate. -/
def Obligations.WalksSelectAndFold : Prop :=
  (∀ (s : State) (x layer core sc : Nat) (m : Model), x < 16384 → ((s.ctx x).phase = .active ∨ (s.ctx x).phase = .parked) →
    (∀ d, exec (.pageWalk x layer d .uncorrectable) s = .next (s.failTable x)) ∧
    (s.pw.stopped = false → s.model (s.ctx x).model = some m → m.krec = false → s.mustWait ((s.ctx x).root :: (s.rowsOf x).map (·.2)) = [] →
      s.layersBad x m [layer] = false → let v := s.walkReads x layer; let ps := v.walkPages x layer; let key := 32 * core + sc
      ∃ (u : State) (l : List (BitVec 256)), exec (.pageWalk x layer (.stream core sc) .clean) s = .next (u.settle core) ∧ l.length = ps.length ∧
        Map.getD [] u.tg.descs key ++ Map.getD [] u.tg.descWait key = Map.getD [] s.tg.descs key ++ Map.getD [] s.tg.descWait key ++ l ∧
        (∀ i p, ps[i]? = some p → l[i]? = some (BitVec.ofNat 256 (v.pageDesc x layer 0 0 (decide (i + 1 = ps.length)) p))) ∧
        (∀ j, j ≠ key → Map.getD [] u.tg.descs j = Map.getD [] s.tg.descs j) ∧
        u = { s with regs := u.regs, ti := { s.ti with map := u.ti.map }, tg := { s.tg with descs := u.tg.descs, descWait := u.tg.descWait } })) ∧
  (∀ (s : State) (n : Nat) (w : BitVec 256), n < 8 → (s.quState n).skip = false → ∃ t, exec (.quDescEnqueue n w) s = .next t ∧
    t.quState n = State.quFill (s.quState n) ((s.quState n).queue ++ (s.quState n).wait ++ [⟨w, .die (n / 2), none, s.epoch, bitsOf w.toNat 167 160, false⟩]) ∧
    (∀ k, k ≠ n → t.quState k = s.quState k) ∧ t = { s with qus := t.qus }) ∧
  (∀ (s : State) (x layer : Nat) (m : Model), x < 16384 → s.model (s.ctx x).model = some m →
    (s.pw.stopped = false → m.select = true → s.ranksPending x layer = false → s.updating x = false → let rows := (s.walkPages x layer).map (·.1); let key := 4096 * x + layer
      let top := (((Map.getD [] s.kv.ranks key).mergeSort State.rankOrder).take m.p).map (·.2)
      ∃ t pick, exec (.pageSelection x layer) s = .next t ∧ t.kv.chosen.get? key = some pick ∧ pick.Sublist rows ∧
        (rows.length ≤ m.p + m.recent + m.sinkp → pick = rows) ∧
        (m.p + m.recent + m.sinkp < rows.length → ∀ r, r ∈ pick ↔ r ∈ rows ∧ (r ∈ top ∨ rows.length - m.recent ≤ r ∨ r < m.sinkp)) ∧
        t.kv.ranks.get? key = none ∧ (∀ k, k ≠ key → t.kv.chosen.get? k = s.kv.chosen.get? k ∧ t.kv.ranks.get? k = s.kv.ranks.get? k) ∧
        t = { s with kv := { s.kv with chosen := t.kv.chosen, ranks := t.kv.ranks } }) ∧
    ((m.select = false ∨ s.ranksPending x layer = true ∨ s.updating x = true) → exec (.pageSelection x layer) s = .next s)) ∧
  (∀ (s : State) (c n : Nat) (p : Partial) (b : BenchTarget), c < 192 → (s.core c).partials[n]? = some p →
    (s.core c).targets.find? (fun t => t.qaddr == p.qaddr) = some b →
    (s.mayFold c b p = false → exec (.partialFold c n) s = .next s) ∧
    (s.mayFold c b p = true → ((b.foldedBy p).folded.map (·.2)).sum < b.npart * b.heads →
      ∃ t, exec (.partialFold c n) s = .next t ∧ t.mem = (s.foldedInto c b p).mem ∧ (t.core c).partials = (s.core c).partials.erase p ∧
        (t.core c).targets = (s.core c).targets.map (fun a => if a = b then b.foldedBy p else a) ∧
        (∀ d, d ≠ c → t.core d = s.core d) ∧ (∀ fw, (t.core c).flag fw = (s.core c).flag fw)))

/-- O29. The oldest result of a unit goes to its emitter. -/
def Obligations.ResultsReachTheirEmitters : Prop :=
  ∀ (s : State) (n : Nat) (e : Option (Nat × Nat)) (r : QuResult) (rest : List (QuResult × Option (Nat × Nat))), n < 8 → let x := exec (.quarryResultDeliver n) s
    ((s.quState n).results = [] → x = .next s.returnSpoil) ∧
    (s.pw.stopped = false → (s.quState n).results = (r, e) :: rest → let v := s.setQu n { s.quState n with results := rest }
      (∀ y layer rows, r = .ranks y layer rows none → ∃ u : State, x = .next u.returnSpoil ∧
        Map.getD [] u.kv.ranks (4096 * y + layer) = Map.getD [] s.kv.ranks (4096 * y + layer) ++ rows ∧
        (∀ k, k ≠ 4096 * y + layer → Map.getD [] u.kv.ranks k = Map.getD [] s.kv.ranks k) ∧
        u = { v with regs := u.regs, kv := { s.kv with ranks := u.kv.ranks } }) ∧
      (∀ y ws core fw bit, r = .page y ws core fw bit none → ∃ u : State, x = .next (u.setFlags core fw (2 ^ bit)).returnSpoil ∧
        u.mem = (ws.foldl (fun s w => s.writeMem w.1 w.2) v).mem ∧ u = { v with mem := u.mem, bad := u.bad, soft := u.soft, regs := u.regs }) ∧
      (∀ y qaddr ps c t, r = .parts y qaddr ps none → s.targetOf qaddr = some (c, t) →
        (s.mayDeliver c t ps = false → x = .next s.returnSpoil) ∧
        (s.mayDeliver c t ps = true → ∃ u : State, x = .next u.returnSpoil ∧
          (u.core c) = { s.core c with partials := (s.core c).partials ++ ps.map fun p => ⟨qaddr, p.head, p.pidx, p.data⟩ } ∧
          (∀ d, d ≠ c → u.core d = s.core d) ∧ u = { v with cores := u.cores, regs := u.regs })) ∧
      (∀ y row layer ws, r = .sketched y row layer ws none → ∃ u : State, x = .next u.returnSpoil ∧ u = { v.heatWrites ws with
        regs := u.regs, kv := { s.kv with updates := s.kv.updates.filter fun a => !(a.ctx == y && a.row == row && a.layer == layer) } }) ∧
      (∀ y dst, r = .copied y dst none → x = .next (v.copyDone y dst none).returnSpoil) ∧
      (∀ key, key < 8 * 2 ^ 20 → r = .zeroed key true → ∃ u : State, x = .next u.afterHome.returnSpoil ∧ s.adds u R.TI_ZERO_LO 1 ∧
        u = { v with regs := u.regs, stk := (s.ti.after.filter fun w => w.1 / 65536 == key).foldl (fun k w => Memory.write 0 k w.1 w.2) s.stk, ti := { s.ti with zeroing := s.ti.zeroing.filter (· != key), after := s.ti.after.filter fun w => w.1 / 65536 != key } }) ∧
      (∀ g mv, r = .moved g true → s.moveOf g = some mv → mv.phase = .copying → g ∉ mv.got →
        x = .next (v.setMove mv { mv with got := mv.got ++ [g] }).returnSpoil) ∧
      (∀ b rows, r = .search b rows → x = .next (v.skDeliver b rows).returnSpoil) ∧
      (∀ y g, r = .bad y g → x = .next (v.failCtx y 0x12 0 (g % 2 ^ 36)).returnSpoil))

/-- O30. A heat epoch halves every heat, ends every grace and moves nothing. -/
def Obligations.HeatEpochHalvesHeat : Prop :=
  ∀ s : State, ∃ t, exec .heatEpoch s = .next t ∧
    t.ti.map = ((s.ti.map.map fun e => (e.1, { e.2 with heat := e.2.heat / 2, grace := false })).filter fun e => e.2 != MapEntry.undefined) ∧
    (∀ m ∈ s.ti.moves, m ∈ t.ti.moves) ∧ (∀ m ∈ t.ti.moves, m ∈ s.ti.moves ∨ m.phase = .decided ∧ m.frames = []) ∧
    (s.ti.evac = [] → t.ti.moved = s.ti.moved ∧ t.ti.dirty = s.ti.dirty ∧ t.el = s.el) ∧
    t = { s with regs := t.regs, el := t.el, ti := { s.ti with map := t.ti.map, moves := t.ti.moves, wanted := t.ti.wanted, moved := t.ti.moved, dirty := t.ti.dirty } }

/-- O31. A move reserves its frames, copies, and commits its homes. -/
def Obligations.MovesReserveCopyAndCommit : Prop :=
  ∀ (s : State) (m : Move) (g f : Nat),
    ((∀ d ∈ s.ti.moves, State.Move.covers d g = false) → exec (.moveReserve g f) s = .next s) ∧
    (m ∈ s.ti.moves → State.Move.covers m g = true → (∀ d ∈ s.ti.moves, State.Move.covers d g = true → d = m) → m.phase = .reserved → m.frames.get? g = none →
      m.up = true → (s.entry g).undef = false → s.takes m g f (s.entry g).polder = true → let m' := { m with frames := m.frames.put g f }
      let u := s.setMove m m'
      exec (.moveReserve g f) s = .next (if m'.frames.length = m.size then u.startCopy m' else u)) ∧
    (s.moveOf g = some m → m.phase = .copying → let x := s.entry g
      (s.pw.stopped = false → s.moveTags g none = false → g ∉ m.fin → s.awaitsZero g = false →
        (m.up = false → let c := s.encrypt g (s.readFrame x.stack x.frame 0 65536); let m' := { m with crcs := m.crcs.put g (crc32c c) }
          exec (.moveDataDone g .ok) s = .next (((s.send (.hostWrite (s.ti.spill.getD (Map.getD 0 m.frames g) 0) c)).setMove m m').finish m' g)) ∧
        (m.up = true → x.spill = false → x.stack ≠ m.dst →
          exec (.moveDataDone g .ok) s = .next ((s.writeFrame m.dst (Map.getD 0 m.frames g) 0 (s.readFrame x.stack x.frame 0 65536)).finish m g)) ∧
        (m.up = true → (x.spill = true ∨ x.stack = m.dst) → exec (.moveDataDone g .ok) s = .next (if g ∈ m.got then s.finish m g else s))) ∧
      (∀ c : List Byte, m.up = true → x.spill = true → g ∉ m.got →
        (s.moveTags g (some .remote) = false → c.length = 65536 →
          (crc32c c = x.crc → exec (.spillReadComplete g true c) s = .next
            ((s.writeFrame m.dst (Map.getD 0 m.frames g) 0 (s.decrypt g c)).setMove m (State.arrived m g))) ∧
          (crc32c c ≠ x.crc → ∃ u : State, exec (.spillReadComplete g true c) s = .next (u.retryRead m g) ∧
            s.sets u R.TI_ERR 2 ∧ s.adds u R.TI_CRC_FAIL_LO 1 ∧ s.logsOnly u)) ∧
        exec (.spillReadComplete g false c) s = .next (s.retryRead m g) ∧ exec (.spillReadLate g) s = .next (s.retryRead m g))) ∧
    (s.ti.moves.find? (fun m => State.Move.covers m g && m.phase == .commitWait) = some m →
      (s.commitReady m = true → s.tablesInUse m = false → exec (.moveCommit g) s = .next ((s.commitMove m).afterMove m.gran m.size)) ∧
      (m.size = 1 → (s.entryNo m.gran).isSome = true → s.ti.evac = [] → (s.commitMove m).entry m.gran =
        if m.up then { s.entry m.gran with spill := false, stack := m.dst, frame := Map.getD 0 m.frames m.gran, crc := 0, grace := true }
        else { s.entry m.gran with spill := true, stack := 0, frame := Map.getD 0 m.frames m.gran, crc := Map.getD 0 m.crcs m.gran, grace := true }) ∧
      (s.commitReady m = false → m.defer = true → exec (.moveCommit g) s = .next s)) ∧
    (∀ st k p, st < 8 → (s.ti.dirty.filter fun x => x.1 / 2 ^ 20 == st && s.frameFree st (x.1 % 2 ^ 20)).head? = some (k, p) → let q := s.quState st
      (s.zeroedFree st < 1024 → q.skip = false → ∃ t, exec (.backgroundZero st) s = .next t ∧
        t.quState st = State.quFill q (q.queue ++ q.wait ++ [State.zeroDesc (k % 2 ^ 20)]) ∧
        t = { s with qus := t.qus, ti := { s.ti with zeroing := s.ti.zeroing ++ [k], dirty := s.ti.dirty.del k } }) ∧
      (1024 ≤ s.zeroedFree st → exec (.backgroundZero st) s = .next s)) ∧
    (∀ due, s.ti.supply.get? g = some due →
      (s.now < due → exec (.resupplyTimeout g) s = .next s) ∧
      (due ≤ s.now → s.waitingModels g = [] → ∃ t, exec (.resupplyTimeout g) s = .next t ∧ s.sets t R.TI_ERR 4 ∧ s.keeps t [R.TI_ERR] ∧
        t = { s with regs := t.regs, el := { s.el with raised := t.el.raised }, ti := { s.ti with supply := s.ti.supply.del g, expired := s.ti.expired ++ [g] } })) ∧
    (∀ st pc, st < 8 → pc < 64 → exec (.patrolRead st pc g .clean) s = .next s ∧ exec (.patrolRead st pc g .corrected) s = .next (s.stackCorr st pc) ∧
      ∃ u : State, exec (.patrolRead st pc g .uncorrectable) s = .next (if (s.entry g).spill then u else u.poison g) ∧
        s.sets u R.TI_ERR 0x20 ∧ s.keeps u [R.TI_ERR] ∧ u = { s with regs := u.regs, free := s.free + 1, el := { s.el with raised := u.el.raised } })

/-- O32. Claims, grants and hops of a collective move as its ring says. -/
def Obligations.ClaimsStartAndHopsMove : Prop :=
  ∀ (s : State) (opid e : Nat), opid < 65536 → e < 65536 → let r := s.slRec opid; let k := State.slKey opid e; let ring := slRing r; let x := (s.slExec k).getD (State.SlExecNew e)
    (∀ d counts, d < 4 →
      (slValid r = true → 2 ≤ slKind r → s.ownRank ∈ s.ringRanks ring → s.slExecs opid = [] → s.slCount opid = e → ∃ u : State,
        exec (.sluiceLaunch d ⟨opid, counts⟩) s = .next ((u.slWant k fun x => { x with die := some d }).slRunAll) ∧
        (slKind r = 4 → ∀ i n, counts[i]? = some n → i < slChunks r → Map.getD (slK r) u.sl.staged (4096 * k + i) = min n (slK r)) ∧
        (slKind r ≠ 4 → u = s) ∧ u = { s with sl := { s.sl with staged := u.sl.staged } }) ∧
      ((slValid r = false ∨ slKind r < 2) → exec (.sluiceLaunch d ⟨opid, counts⟩) s = .next s)) ∧
    (slValid r = true → ∃ u : State, exec (.claimToken opid e) s = .next ((u.slToken k).slRunAll) ∧ s.heard u) ∧
    (s.slHeld (slModel r) + slChunks r ≤ s.slBudget (slModel r) → x.phase = 0 → (s.slExec k = none → s.slPast opid e = false) → ∃ v : State,
      (∀ n, s.ringNext ring = some n → s.slToken k = v.sendControl n 0x12 (slBody opid e 0 0 0 0 0 0)) ∧
      (s.ringNext ring = none → s.slToken k = (v.tellRing ring 0x13 (slBody opid e 0 0 0 0 0 0)).slActivate k) ∧
      v.slExec k = some { x with phase := 1, slots := slChunks r } ∧ (∀ o, o ≠ k → v.slExec o = s.slExec o) ∧
      v = { s with sl := { s.sl with execs := v.sl.execs, tokens := s.sl.tokens.filter fun t => !(t.1 == opid && t.2.1 == e) } }) ∧
    (s.slBudget (slModel r) < s.slHeld (slModel r) + slChunks r → x.phase = 0 → (s.slExec k = none → s.slPast opid e = false) → ∃ since, let t := s.slToken k
      t.sl.tokens = (s.sl.tokens.filter fun t => !(t.1 == opid && t.2.1 == e)) ++ [(opid, e, since)] ∧ s.sets t R.SL_ERR 0x10 ∧
      t = { s with sl := { s.sl with tokens := t.sl.tokens }, regs := t.regs }) ∧
    (∀ y, s.slExec k = some y → y.phase = 1 → ∃ u : State, exec (.start opid e) s = .next ((u.slActivate k).slRun k) ∧ s.heard u ∧
      ∃ ext, (u.slActivate k).slExec k = some { y with phase := 2, ext := ext }) ∧
    (∀ t since, s.sl.tokens = [(opid, t, since)] → exec (.startTimeout opid) s = .next
      (if since + 1000 * s.reg R.SL_START_TIMEOUT ≤ s.now then s.slAbort (State.slKey opid t) 0x06 s.ownRank else s)) ∧
    (∀ (c o : Nat) (p : HopPass × Nat), p ∈ [(HopPass.reduce, 0), (.gather, 1), (.data, 2)] → ∃ u : State, s.heard u ∧
      (∀ y, s.slExec k = some y → y.phase ≠ 3 →
        exec (.sluiceGrant opid e c p.1 o) s = .next ((u.setExec k { y with grants := y.grants ++ [(c, p.2, o)] }).slRun k)) ∧
      ((∀ y, s.slExec k = some y → y.phase = 3) → exec (.sluiceGrant opid e c p.1 o) s = .next (u.count R.SL_DROPS_LO 1))) ∧
    (∀ (h : BitVec 512) (data : List Byte) (c p o n : Nat), bitsOf h.toNat 15 0 = opid → bitsOf h.toNat 31 16 = e → bitsOf h.toNat 47 32 = c →
      bitsOf h.toNat 55 48 = p → bitsOf h.toNat 143 128 = o → bitsOf h.toNat 95 80 = n → ∃ u : State, s.heard u ∧ let go := exec (.sluiceHop h data) s
      ((s.slExec k = none ∧ s.slPast opid e = true ∨ s.slExec k = some x ∧ x.phase = 3) → go = .next (u.count R.SL_DROPS_LO 1)) ∧
      (s.slExec k = some x → x.phase ≠ 3 → let awaited := ∃ w ∈ x.waits, w.cidx = c ∧ w.pass = p ∧ w.origin = o
        (¬ awaited → go = .next (u.slAbort k 0x03 (s.ringPred ring))) ∧
        (awaited → x.phase = 2 → bitsOf h.toNat 79 72 = 0 → bitsOf h.toNat 159 144 = 0 → bitsOf h.toNat 511 192 = 0 →
          bitsOf h.toNat 127 96 = data.length → s.hopLenOk k x c data.length = true → n = State.hopsFrom (s.ringRanks ring).length (s.ringPos ring) o →
          (crc32c data = bitsOf h.toNat 191 160 → go = .next ((u.hopTake k x c p o n (crc32c data) data).slRun k)) ∧
          (crc32c data ≠ bitsOf h.toNat 191 160 → go = .next ((u.count R.SL_CRC_FAIL_LO 1).slAbort k 0x02 (s.ringPred ring))))))

/-- O33. A late hop finds its late rank, and an abort frees its slots. -/
def Obligations.LateHopsEndInAborts : Prop :=
  ∀ (s : State) (opid e : Nat) (x : SlExec), opid < 65536 → e < 65536 → let k := State.slKey opid e; s.slExecs opid = [(k, x)] → let r := s.slRec opid; let ring := slRing r
    (∀ (c : Nat) (p : HopPass × Nat), p ∈ [(HopPass.reduce, 0), (.gather, 1), (.data, 2)] →
      (∀ w, x.phase = 2 → s.waitDue x c p.2 = some w → exec (.hopTimeout opid c p.1) s = .next (s.hopExpires k x w) ∧ (x.probe = none → ∃ u : State,
        s.hopExpires k x w = u.sendControl (s.ringPred ring) 0x15 (slBody opid x.exec w.cidx w.pass 0 s.ownRank 0 0) ∧ s.sets u R.SL_ERR 2 ∧ s.adds u R.SL_TIMEOUTS_LO 1 ∧
        u.slExec k = some { x with probe := some (w.cidx, w.pass, s.ringPred ring), asked := s.now, waits := x.waits.map fun v => if v = w then { v with late := true } else v } ∧
        u = { s with regs := u.regs, sl := { s.sl with execs := u.sl.execs } })) ∧
      ((x.phase ≠ 2 ∨ s.waitDue x c p.2 = none) → exec (.hopTimeout opid c p.1) s = .next s) ∧
      (∀ (asker : Nat) (w : Bool), w = (x.phase == 2 && x.waits.any fun w => w.cidx == c && w.pass == p.2) → ∃ u : State,
        s.heard u ∧ let v := u.sendControl asker 0x16 (slBody opid e c p.2 0 s.ownRank (b2n w) 0)
        exec (.lateProbe opid e c p.1 asker) s = .next (if w then v.sendControl (v.ringPred (slRing (v.slRec opid))) 0x15 (slBody opid e c p.2 0 asker 0 0) else v))) ∧
    (∀ c p rank, x.probe = some (c, p, rank) → ∃ u : State, s.heard u ∧
      exec (.probeAnswer opid rank false) s = .next (u.slAbort k 0x01 rank) ∧
      exec (.probeTimeout opid rank) s = .next (if x.asked + 50 ≤ s.now then s.slAbort k 0x01 rank else s) ∧
      (let l := s.ringRanks ring; let prev := l.getD (((l.idxOf? rank).getD 0 + l.length - 1) % max 1 l.length) rank
        exec (.probeAnswer opid rank true) s = .next (if prev = s.ownRank then u.slAbort k 0x01 prev else u.setExec k { x with probe := some (c, p, prev), asked := s.now }))) ∧
    (∀ (rg late det : Nat) (cause : Byte), rg < 256 → ∃ u : State, s.heard u ∧ exec (.abortNotice opid e rg cause late det) s = .next
      (if x.phase = 3 then u.setExec k { x with notices := x.notices ++ [(cause.toNat, late, det)] } else u.slStop k cause.toNat late det)) ∧
    (s.sl.tokens = [] → (∀ b ∈ s.berm, b.opid ≠ opid) → ∀ cause late det, let t := s.slStop k cause late det
      t.slExec k = some { x with phase := 3, slots := 0, out := [], grants := [], waits := [], got := [], probe := none, notices := [(cause, late, det)], since := s.now } ∧
      t.slCount opid = (s.slCount opid + 1) % 65536 ∧ s.sets t R.SL_ERR 1 ∧ s.adds t R.SL_ABORTS_LO 1 ∧
      t = { s with regs := t.regs, sl := t.sl, tg := { s.tg with reqs := t.tg.reqs } }) ∧
    ((x.phase ≠ 3 ∨ s.now < x.since + s.reg R.SL_ABORT_SETTLE) → exec (.abortSettle opid) s = .next s) ∧
    (∀ cause late det, x.phase = 3 → x.since + s.reg R.SL_ABORT_SETTLE ≤ s.now → x.notices = [(cause, late, det)] → x.die = none → ∃ u : State, u.slExec k = none ∧
      (let v := (u.resetCores (slModel r)).endStep (slModel r) 0x15 0 (opid + x.exec * 2 ^ 16 + late * 2 ^ 32 + cause * 2 ^ 48);
        (∀ b ∈ v.sk.batches, v.skWaits b opid x.exec = false) → exec (.abortSettle opid) s = .next v) ∧
      u.reg R.SL_LAST_ABORT0 = (opid + x.exec * 65536) % 2 ^ 32 ∧ u.reg R.SL_LAST_ABORT1 = (ring + cause * 256 + late * 65536) % 2 ^ 32 ∧
      u.reg R.SL_LAST_ABORT2 = (det + 65536) % 2 ^ 32 ∧ u = { s with regs := u.regs, sl := { s.sl with execs := u.sl.execs }, el := { s.el with raised := u.el.raised } }) ∧
    (∀ rank on, rank < 65536 → ∃ t, exec (.slowNotice rank on) s = .next t ∧ s.adds t R.SL_SLOW_RX_LO 1 ∧
      (rank ∉ s.ringMates → t = { s with regs := t.regs, cu := { s.cu with inbox := t.cu.inbox } }) ∧
      (rank ∈ s.ringMates → s.sets t R.SL_ERR 0x20 ∧ (rank ∈ t.cu.slowRanks ↔ on = true) ∧ (∀ q, q ≠ rank → (q ∈ t.cu.slowRanks ↔ q ∈ s.cu.slowRanks)) ∧
        (on = true → x.phase = 2 → rank ∈ s.ringRanks ring → t.slExec k = some { x with ext := true }) ∧
        t = { s with regs := t.regs, sl := { s.sl with execs := t.sl.execs }, cu := { s.cu with inbox := t.cu.inbox, slowRanks := t.cu.slowRanks } })) ∧
    (s.cu.hold = none → exec .slowNoticeHoldEnd s = .next s) ∧
    (∀ t, s.cu.hold = some t → exec .slowNoticeHoldEnd s = .next (if t + bitsOf (s.reg R.SL_SLOW_CTRL) 31 8 ≤ s.now then s.postSlow false else s))

/-- O34. Frames are accepted in sequence, and others are replayed or refused. -/
def Obligations.FramesArriveInSequence : Prop :=
  ∀ (s : State) (n : Nat), n < 18 → let p := s.port n
    ((p.phase ∉ [2, 6, 7] ∨ s.portRole n = 7) → ∀ f, exec (.frameReceive n f) s = .next s) ∧
    (p.phase ∈ [2, 6, 7] → s.portRole n ≠ 7 → ∀ f : List Byte, (f.length ≠ 270 ∨ leField f 266 4 ≠ crc32 (f.take 266)) → ∃ u : State,
      exec (.frameReceive n f) s = .next (u.nakOnce n) ∧ s.sets u (cuReg n 8) 1 ∧ s.adds u (cuReg n 0x110) 1 ∧ s.regsOnly u) ∧
    (p.phase ∈ [2, 6, 7] → s.portRole n ≠ 7 → ∀ (vl cls ack crvl crcls crcnt : Nat) (head eom : Bool) (data : List Byte),
      vl < 4 → cls < 2 → crvl < 4 → crcls < 2 → crcnt < 2048 → ack < 4096 → 0 < data.length → data.length ≤ 256 → p.expect < 4096 → (∀ f ∈ p.unacked, f.tries < 16) →
      let go := fun seq => exec (.frameReceive n (State.frameOf vl (if head then 2 else 3) cls eom seq ack 0 0 crvl crcls crcnt data)) s
      let v := s.setPort n { p with seen := p.seen.put (2 * crvl + crcls) crcnt }
      (let w := v.acceptFlit n vl cls head eom (State.frameOf vl (if head then 2 else 3) cls eom p.expect ack 0 0 crvl crcls crcnt data) data;
        let u := if (w.port n).unacked.any fun f => Nat.ble 16 f.tries then w.startRetrain n [] else w;
        go p.expect = .next (State.portRun n (u.port n).queue.length u)) ∧
      (∀ seq, seq < 4096 → seq ≠ p.expect → let w := v.updPort n fun p => { p with owe := p.owe + 1 }
        go seq = .next (State.portRun n p.queue.length
          (if (seq + 4096 - p.expect) % 4096 < 2048 then w.nakOnce n else if 64 ≤ p.owe + 1 then w.sendIdle n false else w))) ∧
      (eom = false → p.owe + 1 < 64 → p.fwd.get? vl = none → (head = true → p.rx.get? vl = none) → ∀ frame, let t := s.acceptFlit n vl cls head eom frame data
        (head = false ∨ s.passOn n vl cls data = none →
          (t.port n).expect = (p.expect + 1) % 4096 ∧ (t.port n).gap = false ∧
          Map.getD [] (t.port n).rx vl = Map.getD [] p.rx vl ++ data ∧ (∀ l, l ≠ vl → Map.getD [] (t.port n).rx l = Map.getD [] p.rx l) ∧
          Map.getD [] (t.port n).rbuf (2 * vl + cls) = Map.getD [] p.rbuf (2 * vl + cls) ++ [(false, frame)] ∧ (t.port n).freed = p.freed ∧
          (∀ m, m ≠ n → t.port m = s.port m) ∧ t = { s with regs := t.regs, cu := { s.cu with ports := t.cu.ports } }) ∧
        (∀ flow role c m, head = true → s.passOn n vl cls data = some (flow, role, c) → s.portTo flow role = some m → m ≠ n → s.portRole m ≠ 7 → (s.port m).phase = 3 →
          (t.port m).queue = (s.port m).queue ++ [⟨vl, c, true, false, data, none, flow, false, some (n, 2 * vl + cls)⟩] ∧ (t.port n).fwd.get? vl = some (some (flow, c)) ∧
          Map.getD [] (t.port n).rbuf (2 * vl + cls) = Map.getD [] p.rbuf (2 * vl + cls) ++ [(true, frame)] ∧
          (t.port n).expect = (p.expect + 1) % 4096 ∧ (t.port n).rx = p.rx ∧ (t.port n).freed = p.freed))) ∧
    (p.unacked ≠ [] → p.phase ∈ [2, 6, 7] → (∀ f ∈ p.unacked, f.tries < 15) → ∃ u : State, exec (.replayTimeout n) s = .next (u.count (cuReg n 0x118) 1) ∧
      u = p.unacked.foldl (fun s f => s.sendFlit n f.seq f.flit) (s.setPort n { p with unacked := p.unacked.map fun f => { f with tries := f.tries + 1, sent := s.now } }) ∧
      (s.pw.stopped = false → u.out.length = s.out.length + p.unacked.length)) ∧
    (p.phase ∈ [2, 6, 7] →
      (s.portRole n ≠ 7 → exec (.ackTimer n) s = .next (if 0 < p.owe then s.sendFrame n 0 0 0 false 0 false [] else s)) ∧
      (s.portRole n ≠ 7 → p.rev = 0x20 →
        exec (.ctrlFrameTimer n) s = .next (s.sendFrame n 0 1 0 false 0 false (leBytes 4 (b2n s.cu.slow + 2 * b2n (p.phase != 2))))) ∧
      (p.rev ≠ 0x20 → exec (.ctrlFrameTimer n) s = .next s)) ∧
    (∀ f, s.portRole n = 7 → p.phase ∈ [2, 6, 7] →
      ((s.ethParse n f = none ∨ ∃ l ip, s.ethParse n f = some (l, ip) ∧ s.ethShimOk l ip = false) → ∃ t, exec (.ethFrameReceive n f) s = .next t ∧
        s.sets t (cuReg n 8) 0x80 ∧ s.adds t (cuReg n 0x138) 1 ∧ s.regsOnly t) ∧
      (∀ l ip k t, s.ethParse n f = some (l, ip) → s.ethShimOk l ip = true → p.tuns.find? (fun t => t.2.rank == leField l 4 2 && t.2.phase == 1) = some (k, t) →
        ∃ u : State, exec (.ethFrameReceive n f) s = .next (u.runPort n) ∧
          (bitOf (leField l 1 1) 2 = false → bitOf (leField l 1 1) 3 = false → State.tunnel p k = t → leField l 2 1 ≠ 0 → leField l 8 4 = t.expect →
            State.rxFull p (leField l 1 1 % 4) (256 * leField l 2 1) = false → ∃ v w : State,
            u = (State.takeFlits n k (leField l 2 1) (l.drop 16) v).ethAck n k false ∧ v = w.count (cuReg n 0x108) 1 ∧ w = { s with cu := { s.cu with ports := w.cu.ports } } ∧
            State.tunnel (w.port n) k = { t with expect := (t.expect + 1) % 2 ^ 32, gap := false } ∧ (∀ m, m ≠ n → w.port m = s.port m)))) ∧
    (s.portRole n = 7 → ∃ u : State, exec (.ethCoalesce n) s = .next (u.runPort n) ∧ (u.port n).tuns = p.tuns.map (fun t => (t.1, { t.2 with due := State.heldLanes t.2 })) ∧
      (∀ m, m ≠ n → u.port m = s.port m) ∧ u = { s with cu := { s.cu with ports := u.cu.ports } }) ∧
    (∀ k t l b vl, s.portRole n = 7 → p.phase ∈ [2, 6, 7] → s.pw.stopped = false → p.tuns = [(k, t)] → t.phase = 1 → t.unacked = [] → vl < 4 → (∀ f ∈ t.hold, f.lane = vl ∧ f.held = none) →
      State.ethNext p t vl = (l, [], b) → l ≠ [] → l.length < 32 → ∃ u, exec (.ethCoalesce n) s = .next u ∧
      u.out = s.out ++ [.frame n (s.ethBytes n k t.rank vl (t.expect + 2 ^ 32 - 1) t.next false l)] ∧ (State.tunnel (u.port n) k).hold = [] ∧ (State.tunnel (u.port n) k).next = (t.next + 1) % 2 ^ 32) ∧
    (∀ k, k < 256 → let t := State.tunnel p k
      (t.phase = 1 → t.unacked = [] → t.hold = [] → t.begun = [] → exec (.tunnelIdle n k) s = .next ((s.setPort n { p with tuns := p.tuns.del k }).requeue n)) ∧
      ((t.unacked ≠ [] ∨ t.hold ≠ []) → exec (.tunnelIdle n k) s = .next s) ∧
      (p.phase ∉ [2, 6, 7] → exec (.tunnelRto n k) s = .next s) ∧
      (p.phase ∈ [2, 6, 7] → t.phase = 1 → t.unacked ≠ [] → t.rto < 15 → ∃ u : State, exec (.tunnelRto n k) s = .next (u.ethReplay n k) ∧
        State.tunnel (u.port n) k = { t with rto := t.rto + 1 } ∧ u = { s with cu := { s.cu with ports := u.cu.ports } }) ∧
      (p.phase ∈ [2, 6, 7] → t.phase = 1 → t.unacked ≠ [] → 15 ≤ t.rto → exec (.tunnelRto n k) s = .next (s.tunnelDown n k)))

/-- O35. A port trains, retrains, serves and drains. -/
def Obligations.PortsTrainAndDrain : Prop :=
  ∀ (s : State) (n : Nat), n < 18 → let p := s.port n
    (∀ half : BitVec 2, p.pmd = false → p.retire = 0 → let q := { p with pgone := half.toNat }; let v := s.setPort n q; let done := exec (.pmdTrainingDone ⟨n, half⟩) s
      (State.liveLanes q = 0 → (p.phase = 1 → done = .next (v.portDown n)) ∧ (p.phase = 3 → exec (.retrainDone ⟨n, half⟩ true) s = .next (v.portDown n))) ∧
      (State.liveLanes q ≠ 0 →
        (p.phase = 1 → s.im.phase ≠ 4 → done = .next (v.setPort n { q with pmd := true, full := true })) ∧
        (p.phase = 1 → s.im.phase = 4 → s.portRole n ≠ 7 → done = .next ((v.setPort n { q with pmd := true, full := true }).sendCapability n)) ∧
        (p.phase = 1 → s.im.phase = 4 → s.portRole n = 7 → done = .next ((v.setPort n { q with rev := 0x20 }).portUp n (!p.trained))) ∧
        (p.phase = 3 → s.portRole n ≠ 7 →
          exec (.retrainDone ⟨n, half⟩ true) s = .next ((v.setPort n { q with pmd := true, fails := 0, lock := State.liveLanes q }).sendCapability n)))) ∧
    (∀ half : BitVec 2, p.phase = 3 → p.pmd = false → exec (.retrainDone ⟨n, half⟩ false) s =
      .next (s.setPort n (if p.fails < 2 then { p with fails := p.fails + 1 } else { p with phase := 1, full := true, fails := 0 }))) ∧
    (∀ (revs : BitVec 2) (role g : BitVec 4) (rank : BitVec 16) (tg inst : Word), p.pmd = true → p.phase = 1 → s.portRole n ≠ 7 →
      let q := { p with partner := (rank.toNat, g.toNat, role.toNat, revs.toNat), rev := (if bitOf revs.toNat 1 then 0x20 else if bitOf revs.toNat 0 then 0x12 else 0),
                        slowRx := (if bitOf revs.toNat 1 then p.slowRx else false) }
      let u := s.setPort n q; let go := exec (.capabilityRecord n revs role g rank tg inst) s
      (revs = 0 → ∃ w : State, go = .next (w.portDown n) ∧ s.sets w (cuReg n 8) 0x40 ∧ w = { u with regs := w.regs, el := { s.el with raised := w.el.raised } }) ∧
      (revs ≠ 0 → u.wiredOk n = false → go = .next ((u.miswire n).reroute n)) ∧
      (revs ≠ 0 → u.wiredOk n = true →
        go = .next ((u.setPort n { q with inst := some inst.toNat }).portUp n (!p.trained || (if bitOf revs.toNat 1 then p.inst != some inst.toNat else p.full))))) ∧
    (let t := s.miswire n;
      (t.port n).phase = 4 ∧ (t.port n).pmd = false ∧ s.sets t (cuReg n 8) 0x10 ∧ ∀ m, m ≠ n → t.port m = s.port m) ∧
    (∀ lane, lane < 8 → exec (.laneLockLoss n lane) s =
        .next (if bitOf p.lock lane then (s.setPort n { p with lock := p.lock - 2 ^ lane }).startRetrain n [lane] else s) ∧
      (let l := (Map.getD [] p.fec lane).filter (fun t => Nat.blt s.now (t + 1000)) ++ [s.now];
        let u := s.count (cuReg n 0x128) 1;
        exec (.fecUncorrectable n lane) s = .next (if 4 < l.length then (u.setPort n { p with fec := p.fec.del lane }).startRetrain n [lane]
          else u.setPort n { p with fec := p.fec.put lane l }))) ∧
    (p.phase = 2 → let t := s.startRetrain n [];
      exec (.linkSilence n) s = .next t ∧ (t.port n).phase = 3 ∧ (t.port n).back = 2 ∧ (t.port n).queue = p.queue ∧ (t.port n).unacked = p.unacked ∧
      s.sets t (cuReg n 8) 2 ∧ s.adds t (cuReg n 0x120) 1 ∧ s.logs t (0x2000 + (0x20 + n) * 64 + 1) 0xFF 0 ∧ (∀ m, m ≠ n → t.port m = s.port m)) ∧
    (p.phase ≠ 2 → exec (.linkSilence n) s = .next s) ∧
    ((p.phase = 1 ∧ s.im.phase = 4 ∧ (p.trained = true ∨ p.pmd = true) ∨ p.phase = 6 ∨ p.phase = 7) → exec (.trainingTimeout n) s = .next (s.portDown n)) ∧
    (p.phase = 1 → (s.im.phase ≠ 4 ∨ p.trained = false ∧ p.pmd = false) → exec (.trainingTimeout n) s = .next s) ∧
    (let u := s.setReg (cuReg n 0xC) 1;
      ((p.phase = 0 ∨ p.phase = 4 ∨ p.phase = 5) → s.portRole n ≠ 0 →
        exec (.portEnable n) s = .next (u.setPort n { p with phase := 1, full := true, pmd := false, latched := false })) ∧
      (p.phase = 6 → exec (.portEnable n) s = .next (u.setPort n { p with phase := 7, latched := true }))) ∧
    (let u := s.setReg (cuReg n 0xC) 0; let off := exec (.portDisable n) s;
      (p.phase = 2 → off = .next ((u.setPort n { p with phase := 6 }).sendCtrl n)) ∧
      ((p.phase = 3 ∨ p.phase = 1 ∧ p.retrain = true) → off = .next (u.setPort n { p with back := 6, latched := false })) ∧
      (p.phase = 1 → p.retrain = false → off = .next ((u.setPort n { p with phase := 0, pmd := false }).reroute n))) ∧
    (p.unacked = [] → p.begun = [] → p.tuns = [] →
      (p.phase = 6 → exec (.portDrainDone n) s = .next (((s.setPort n { p with phase := 0 }).reroute n).updPort n fun p => { p with tuns := [] })) ∧
      (p.phase = 7 → exec (.portDrainDone n) s = .next ((s.setPort n { p with phase := 1, latched := false, full := true, pmd := false }).reroute n))) ∧
    ((p.unacked ≠ [] ∨ p.begun ≠ []) → exec (.portDrainDone n) s = .next s)

/-- O36. Doorbells, the handshake, queues and the event ring act on good configurations. -/
def Obligations.QueuesAndRingsAreEnabled : Prop :=
  ∀ (s : State) (q : Nat) (v : Word), q < 1024 → let x := s.pair q
    (let u := s.badDoorbell q; s.sets u R.HI_ERR 1 ∧ s.keeps u [R.HI_ERR] ∧ s.logs u 0x82 q 0 ∧ s.logsOnly u) ∧
    (exec (.sqTail q v) s = .next (if v.toNat < s.sqSize q then s.setPair q { x with tail := v.toNat } else s.badDoorbell q)) ∧
    (exec (.cqHead q v) s = .next (if 0 < s.cqSize q ∧ v.toNat < s.cqSize q ∧
      State.ringDist (s.cqSize q) x.cqHead v.toNat ≤ State.ringDist (s.cqSize q) x.cqHead (s.reg (qReg q 0x2C) % 65536)
      then s.setPair q { x with cqHead := v.toNat } else s.badDoorbell q)) ∧
    (exec (.trHead q v) s = .next (if 0 < s.trSize q ∧ v.toNat < s.trSize q ∧
      State.ringDist (s.trSize q) x.trHead v.toNat ≤ State.ringDist (s.trSize q) x.trHead (s.reg (qReg q 0x30) % 65536)
      then s.setPair q { x with trHead := v.toNat } else s.badDoorbell q)) ∧
    (exec (.snoopedDoorbell q) s = .next (if s.hi.up ∧ s.hi.cxl ∧ bitOf (s.reg (qReg q 0)) 1 ∧ x.phase = 1
      then (s.setPair q { x with snoop := true }).count R.HI_SNOOP_DB_LO 1 else s)) ∧
    (s.queuesOn = 0 → s.hi.evOn = false → ∃ t, exec (.hiQpHandshake v) s = .next t ∧ t.reg R.HI_QP_HANDSHAKE = v.toNat % 65536 ∧
      t.reg R.HI_QP_AGREED = (if bitsOf v.toNat 15 8 = 3 ∧ s.im.phase ≠ 5 then 0x10300 + min (v.toNat % 256) 1 else 0x20000) ∧
      s.keeps t [R.HI_QP_HANDSHAKE, R.HI_QP_AGREED] ∧ s.regsOnly t) ∧
    ((s.queuesOn ≠ 0 ∨ s.hi.evOn = true) → exec (.hiQpHandshake v) s = .next (s.orReg R.HI_ERR 4)) ∧
    (s.agreed = false → exec (.queueEnable q v) s = .next (s.orReg R.HI_ERR 2) ∧
      (bitOf v.toNat 0 = true → exec (.eventRingEnable v) s = .next (s.orReg R.HI_ERR 2))) ∧
    (s.agreed = true →
      (x.phase = 0 → s.queueCfgOk q = true → ∃ t, exec (.queueEnable q v) s = .next t ∧ t.pair q = { QPair.off with phase := 1 } ∧
        t.reg (qReg q 0) = (v.toNat ||| 1) % 8 ∧ (∀ o ∈ [0x28, 0x2C, 0x30], t.reg (qReg q o) = 0x10000) ∧ (∀ p, p ≠ q → t.pair p = s.pair p) ∧
        t = { s with regs := t.regs, hi := { s.hi with pairs := t.hi.pairs } }) ∧
      (x.phase = 0 → s.queueCfgOk q = false → ∃ t, exec (.queueEnable q v) s = .next t ∧ bitOf (t.reg (qReg q 0)) 0 = false ∧ s.sets t R.HI_ERR 8 ∧ s.regsOnly t) ∧
      (x.phase = 2 → exec (.queueEnable q v) s = .next ((s.setReg (qReg q 0) ((v.toNat ||| 1) % 8)).setPair q { x with phase := 3 }))) ∧
    ((x.phase = 1 ∨ x.phase = 3) → ∃ t, exec (.queueDisable q v) s = .next t ∧ t.pair q = { x with phase := 2, snoop := false } ∧
      bitOf (t.reg (qReg q 0)) 0 = false ∧ (∀ p, p ≠ q → t.pair p = s.pair p) ∧ (∀ r ∈ t.hi.reqs, r.q = q → r.opcode = 3 → r.phase = .admitted → r.stop ≠ none) ∧
      t = { s with regs := t.regs, hi := { s.hi with pairs := t.hi.pairs, reqs := t.hi.reqs } }) ∧
    (exec (.queueDrained q) s = .next (if s.outstanding q ≠ 0 then s else if x.phase = 2 then s.setPair q { x with phase := 0 }
      else if x.phase = 3 then s.setPair q { x with phase := 1 } else if x.phase = 4 ∧ bitOf (s.reg (qReg q 0)) 0 = false then s.setPair q { x with phase := 0 } else s)) ∧
    (s.agreed = true → s.hi.evOn = false → bitOf v.toNat 0 = true → 4 ≤ bitsOf v.toNat 12 8 → bitsOf v.toNat 12 8 ≤ 16 → ∃ t, exec (.eventRingEnable v) s = .next t ∧
      t.reg R.HI_EV_TAIL = 0x10000 ∧ t.reg R.HI_EV_HEAD = 0 ∧ t.reg R.HI_EV_CFG = v.toNat &&& 0x7FF1F01 ∧ t = { s with regs := t.regs, hi := { s.hi with evOn := true } }) ∧
    (let irq := s.reg (qReg q 0xC);
      exec (.irqAggregationTimer q) s = .next (if x.quiet ≠ 0 ∧ x.since + bitsOf irq 31 24 ≤ s.now then (s.setPair q { x with quiet := 0 }).msix (bitsOf irq 10 0) else s)) ∧
    (∀ k, k < 2048 → ∃ u : State, u.reg (0x80000 + 16 * k + 12) = s.reg (0x80000 + 16 * k + 12) / 2 * 2 ∧ s.regsOnly u ∧
      (bitOf (s.reg (0x90000 + k / 32 * 4)) (k % 32) = true → exec (.msixUnmask k) s = .next (u.msix k) ∧ bitOf (u.reg (0x90000 + k / 32 * 4)) (k % 32) = false) ∧
      (bitOf (s.reg (0x90000 + k / 32 * 4)) (k % 32) = false → exec (.msixUnmask k) s = .next u))

/-- O37. The host port resets, comes up and fetches entries in turn. -/
def Obligations.HostPortResetsAndFetches : Prop :=
  ∀ s : State, let t := s.linkReset
    ((∀ q, t.pair q = QPair.off) ∧ t.hi.evOn = false ∧ t.hi.peer = [] ∧ (∀ r ∈ t.hi.reqs, (r.phase = .chosen ∨ r.phase = .admitted) ∧ 1024 ≤ r.q) ∧
      s.logs t 0x2087 0xFFFF 0 ∧ (∀ o, 0x100000 ≤ o → t.reg o = s.reg o) ∧ t.mem = s.mem ∧ t.stk = s.stk ∧ t.cores = s.cores ∧ t.kv = s.kv) ∧
    exec .functionLevelReset s = .next t ∧
    exec (.pePerstN true) s = .next { s with hi := { s.hi with perst := true } } ∧
    exec (.pePerstN false) s = .next (if s.hi.perst then { t with hi := { t.hi with perst := false, up := false, cxl := false, d3 := false } } else s) ∧
    exec .linkDown s = .next (if s.hi.up then { t with hi := { t.hi with up := false, cxl := false } } else s) ∧
    exec .d3hot s = .next (if s.hi.d3 then s else { t with hi := { t.hi with d3 := true } }) ∧
    (∀ cxl, s.hi.perst = true → s.pw.held0 = false → (s.gl.kind ≠ 0 ∨ s.gl.running = false ∨ s.gl.phase ≠ 1) →
      exec (.hostLinkUp cxl) s = .next { s with hi := { s.hi with up := true, cxl := cxl }, pw := { s.pw with peRef := true } }) ∧
    (∀ cxl, s.hi.perst = false → exec (.hostLinkUp cxl) s = .next s) ∧
    (∀ d, exec (.configurationRequest d) s = .next (if s.gl.kind = 0 ∧ s.gl.running ∧ s.gl.phase ≤ 2 then s.send (.completion 3 0)
      else ({ s with hi := { s.hi with d3 := if d then false else s.hi.d3 } } : State).send (.completion 0 0))) ∧
    (∀ q, q < 1024 → s.nextQueue = some q → s.fetchable q = 1 → let h := s.reg (qReg q 0x28); ∃ t, exec .entryFetch s = .next t ∧
      t.reg (qReg q 0x28) = State.bump h (s.sqSize q) % 2 ^ 32 ∧ t.inUse .remote = s.inUse .remote + 1 ∧
      t = { s with regs := t.regs, out := s.out ++ [.hostRead (s.reg64 (qReg q 0x10) + 64 * (h % 65536)) 64]
                   hi := { (s.probeNext q).hi with last := q, reqs := s.hi.reqs ++ [State.blankReq q (h % 65536) (bitsOf (s.reg (qReg q 8)) 5 0)] } }) ∧
    (∀ q, s.hostTags = 0 → s.fetchable q = 0) ∧
    (s.nextQueue = none → exec .entryFetch s = .next s) ∧
    (∀ q e d ok, q < 1024 →
      (s.hi.reqs.find? (fun r => r.q == q && r.phase == .fetching) = none → ∀ b, exec (.entryArrival q b e d ok) s = .next s) ∧
      (∀ r, s.hi.reqs.find? (fun r => r.q == q && r.phase == .fetching) = some r →
        exec (.entryArrival q false e d ok) s =
          .next (({ s.unprobe q with hi := { (s.unprobe q).hi with reqs := s.hi.reqs.filter fun y => !(y.q == r.q && y.index == r.index) } } : State).queueError q 1 r.index) ∧
        ((s.pair q).probe = false → let r' : Req := { r with entry := e.toNat, data := d, dataOk := ok, phase := .waiting }
          let u := (s.count R.HI_FETCH_LO 1).updReq r fun _ => r'
          (∀ st dt, u.fetchError r' = some (st, dt) → exec (.entryArrival q true e d ok) s = .next (u.complete r' st dt 0)) ∧
          (u.fetchError r' = none → (u.modelOf r' = none ∨ u.ti.lost = []) → exec (.entryArrival q true e d ok) s = .next u))))

/-- O38. Each request does its work and posts its completion. -/
def Obligations.RequestsRunAndComplete : Prop :=
  ∀ (s : State) (q : Nat) (cid : BitVec 16) (r : Req), q < 1024 → let go := fun (i : Nat → BitVec 16 → Instr) => exec (i q cid) s
    let starts := fun op => s.started q cid.toNat op = some r; let runs := fun op => s.findReq q cid.toNat op .admitted = some r
    ((∀ op ∈ [4, 5, 6, 0x20, 0x21, 0x22, 0x23, 0x24, 0x25], s.started q cid.toNat op = none ∧ s.findReq q cid.toNat op .waiting = none) →
      ∀ x ∈ [Instr.fork, .truncate, .delete, .rankTable, .spillRegister, .load, .supply, .abort, .nop], go x = .next s) ∧
    (starts 0x25 → go .nop = .next (s.complete r 0 0 s.now)) ∧
    (let v := s.atOnce q cid.toNat 5; let t := v.truncate r.ctx (r.field 16 4);
      (s.findReq q cid.toNat 5 .waiting = none → v = s) ∧ (v.started q cid.toNat 5 = some r → go .truncate = .next (t.complete r 0 0 ((t.ctx r.ctx).len * 2 ^ 32)) ∧
        ((v.model (v.ctx r.ctx).model).isSome = true → (t.ctx r.ctx).len = min (v.ctx r.ctx).len (r.field 16 4)))) ∧
    (let v := s.atOnce q cid.toNat 6;
      (s.findReq q cid.toNat 6 .waiting = none → v = s) ∧
      (v.started q cid.toNat 6 = some r → go .delete = .next ((v.deleteCtx r.ctx).complete r 0 0 0) ∧ (v.deleteCtx r.ctx).ctx r.ctx = Ctx.empty)) ∧
    (starts 4 → let plan := s.kv.forks.find? fun f => f.q == r.q % 1024 && f.index == r.index; let c := s.ctx r.ctx
      (plan = none → go .fork = .next (s.updReq r fun q => { q with phase := .waiting })) ∧
      (∀ f m, plan = some f → s.model c.model = some m → s.forkAway m r.ctx ≠ [] → go .fork = .next ((s.forkAway m r.ctx).foldl State.demand s)) ∧
      (∀ f m left u, plan = some f → s.model c.model = some m → s.forkAway m r.ctx = [] →
        State.forkRows m r.ctx f.child c.polder ((s.rowsNext r.ctx).filter fun a => s.rowTok a.2 != 0) f s = .ok (left, u) → ∃ t : State,
        go .fork = .next (t.complete r 0 0 f.child) ∧ (t.ctx f.child).phase = .active ∧ (t.ctx f.child).seq = r.field 16 8 ∧
        (t.ctx f.child).prio = r.field 24 1 % 8 ∧ (t.ctx f.child).root = f.root ∧ (t.ctx f.child).len = c.len)) ∧
    (let v := s.atOnce q cid.toNat 0x20;
      (s.findReq q cid.toNat 0x20 .waiting = none → v = s) ∧
      (v.started q cid.toNat 0x20 = some r → (∀ d, v.tableRefused r.data = some d → go .rankTable = .next (v.complete r 0x1B d 0)) ∧
        (v.tableRefused r.data = none → ∃ t, go .rankTable = .next t ∧ t = { v with cu := { v.cu with next := some r.data }, hi := { v.hi with reqs := t.hi.reqs } }))) ∧
    (starts 0x21 → let n := s.reg R.TI_SPILL_GRANULES; let k := r.field 24 4 % 2 ^ 29
      (s.ti.ready = true → go .spillRegister = .next (s.complete r 9 0 0)) ∧
      (s.ti.ready = false → n ≤ k → (∀ i, i < k → leField r.data (8 * i) 8 % 65536 = 0) → go .spillRegister = .next
        (({ s with ti := { s.ti with spill := ((List.range k).map fun i => leField r.data (8 * i) 8).take n, ready := true } } : State).complete r 0 0 n))) ∧
    (starts 0x22 → go .load = .next (s.load r) ∧
      (s.loadHomes r = (true, s) → (∀ e ∈ State.loadExtent r, s.awaitsZero e.1 = false) → s.loadPages r = [] → let n := 64 * r.field 32 4; ∃ u : State,
        s.load r = u.complete r 0 0 (r.field 32 4) ∧ u = { s with stk := (s.devWrite (r.field 24 8) ((r.data ++ List.replicate n 0).take n)).stk, ti := { s.ti with map := u.ti.map }, sk := { s.sk with valid := u.sk.valid } })) ∧
    (starts 0x23 → let g := r.field 24 8
      (s.ti.supply.get? g = none → g ∉ s.ti.expired → go .supply = .next (s.complete r 9 0 0)) ∧
      ((s.ti.supply.get? g).isSome = true → s.planned g = false → (s.entry g).spill = false → s.awaitsZero g = false → (s.entryNo g).isSome = true → ∃ u : State,
        go .supply = .next (((u.count R.TI_RESUPPLY_OK_LO 1).pumpResume g).complete r 0 0 0) ∧ (u.entry g).poison = false ∧
        u.ti.supply = s.ti.supply.del g ∧ u.stk = (s.devWrite (g * 65536) ((r.data ++ List.replicate 65536 0).take 65536)).stk)) ∧
    (starts 0x24 → let hit := s.hi.reqs.find? fun t => t.q == r.q && t.cid == r.field 16 2 && t.index != r.index && t.phase != .fetching
      (r.tokens ≠ [] → go .abort = .next (s.complete r 0 0 1)) ∧
      (r.tokens = [] → hit = none → go .abort = .next (s.complete r 0 0 0)) ∧
      (∀ t, r.tokens = [] → hit = some t → t.phase = .waiting → (t.opcode = 3 ∨ t.start = none) →
        go .abort = .next (((s.writeBuffer t).complete t 0x19 (State.genDetail t) (s.genResult t)).complete r 0 0 1)) ∧
      (∀ t, r.tokens = [] → hit = some t → t.phase ≠ .waiting → t.done = none → t.err = none → t.opcode ≠ 3 → go .abort = .next (s.complete r 0 0 2))) ∧
    (∀ c, r.target = some c → r.err = none → r.done = none →
      (∀ op x, (op, x) ∈ [(1, Instr.create), (2, .append)] → runs op → ∃ t, go x = .next t ∧
        t = { s with kv := { s.kv with growth := t.kv.growth }, hi := { s.hi with reqs := t.hi.reqs } } ∧ (∀ g ∈ t.kv.growth, g.ctx = c → g.epoch = s.epoch → g.ran = true)) ∧
      (∀ zs ok e, runs 3 → (s.kv.growth.any fun g => g.ctx == c && g.epoch == s.epoch && !g.ran) = true →
        sample (zs.map fun z : Word => fp32L.decode z.toNat) (fp32L.decode (r.field 28 4)) (if r.field 48 2 = 0 then 1024 else r.field 48 2)
          (fp32L.decode (r.field 52 4)) (State.tokenDraw r (s.seqLen c)) = e →
        (∀ tok, e = .token tok → exec (.generate q cid zs ok) s = .next (s.takeToken r c tok ok)) ∧
        (e = .invalidLogits → ∃ u : State, exec (.generate q cid zs ok) s = .next ((u.failReq r 0x16 0 0).dropNext c) ∧ u = { s with kv := { s.kv with growth := u.kv.growth } })) ∧
      (∀ imm, runs 7 → exec (.finetune q cid imm) s = .next (s.updReq r fun y => { y with done := some (0, imm.toNat) }))) ∧
    (∀ op x, (op, x) ∈ [(0x11, Instr.insert), (0x12, .remove), (0x13, .allowLoad)] → runs op →
      go x = .next { s with sk := { s.sk with updates := s.sk.updates.map fun u => if u.q = r.q ∧ u.slot = r.index then { u with ran := true } else u } }) ∧
    (∀ ix, runs 0x14 → s.skIdx r.ctx = some ix → go .merge = .next ((s.setIdx r.ctx { ix with want := true }).updReq r fun y => { y with done := some (0, 0) })) ∧
    (∀ b, runs 0x10 → (s.sk.batches.filter fun b => !b.begun && b.parts.any (fun p => p.1 == r.q && p.2.1 == r.index)
        && !s.sk.updates.any fun u => u.index == b.index && Nat.ble u.gen b.gen) = [b] →
      go .search = .next (State.skGo b.num 9 (s.setBatch { b with begun := true })).skRetry)

/-- O39. Step sync holds, matches or times out the boundary of a step. -/
def Obligations.StepsEndAtBoundaries : Prop :=
  ∀ s : State,
    ((s.admits = false ∨ s.dt.cut = true) → exec .admissionCut s = .next s) ∧ (s.admits = true → s.dt.cut = false → ∃ t, exec .admissionCut s = .next t ∧ t.dt.cut = true) ∧
    (∀ d, d < 4 → s.dt.hold = none → s.admits = true → s.stepBusy = false → s.dt.declared = none → s.dt.postponed = none → d ∉ s.dt.reported →
      let u : State := { s with dt := { s.dt with reported := s.dt.reported ++ [d] } }
      exec (.dieStepReport d) s = .next (if s.dt.reported.length = 3 then u.readyPoint else u)) ∧
    (∀ d, d < 4 → s.dt.hold = none → s.stepBusy = true → exec (.dieStepReport d) s = .next s) ∧
    (s.syncOn = false → s.readyPoint = s.declare s.clk s.clk) ∧
    (s.syncOn = true → s.dt.latched = none → s.readyPoint = { s with dt := { s.dt with hold := some (s.clk, s.clk + s.syncWindow), latched := none } }) ∧
    (∀ p, s.syncOn = true → s.dt.latched = some p → s.clk ≤ p + s.syncWindow →
      s.readyPoint = (({ s with dt := { s.dt with latched := none } } : State).count R.DT_MATCH_LO 1).declare s.clk s.clk) ∧
    (∀ r x, (s.dt.mark = true → s.declare r x = { s with dt := { s.dt with hold := none, postponed := some r } }) ∧
      (s.dt.mark = false → (s.dt.markAt = 0 ∨ s.dt.markAt + 64 ≤ x) → ∃ t, s.declare r x = t ∧ t.reg64 R.DT_MARK_TIME_LO = x % 2 ^ 64 ∧ s.adds t R.DT_HOLD_LO (x - r) ∧
        t = { s with regs := t.regs, dt := { s.dt with hold := none, postponed := none, declared := some x, mark := true, markAt := x } })) ∧
    (∀ r d, s.dt.hold = some (r, d) →
      (s.clk < d → exec .syncHoldDeadline s = .next s ∧ (s.syncOn = true → s.admits = true → ∃ u : State,
        exec .stepSyncPulse s = .next ((u.count R.DT_MATCH_LO 1).declare r s.clk) ∧ s.regsOnly u)) ∧
      (d ≤ s.clk → exec .syncHoldDeadline s = .next (((s.count R.DT_MISSED_LO 1).orReg R.DT_ERR 1).declare r d))) ∧
    (s.dt.hold = none → exec .syncHoldDeadline s = .next s ∧
      ((s.syncOn = false ∨ s.admits = false) → ∃ t, exec .stepSyncPulse s = .next t ∧ s.sets t R.DT_ERR 8 ∧ s.regsOnly t) ∧
      (s.syncOn = true → s.admits = true → s.dt.latched = none → ∃ t, exec .stepSyncPulse s = .next t ∧
        t = { s with regs := t.regs, dt := { s.dt with latched := some s.clk } })) ∧
    ((s.dt.declared = none ∨ s.stepBusy = true) → exec .stepBoundary s = .next s) ∧
    (s.dt.declared ≠ none → s.stepBusy = false → let v := (({ s with dt := { s.dt with declared := none, reported := [], cut := false } } : State).commitAll).switchRoots
      ∃ u : State, exec .stepBoundary s = .next u.beginStep ∧ u.epoch = (v.epoch + 1) % 2 ^ 48 ∧ v.keeps u [R.KV_EPOCH_LO, R.KV_EPOCH_HI] ∧ v.regsOnly u) ∧
    (let due := s.dt.markAt + 64 ≤ s.clk;
      (s.dt.mark = true → due → exec .stepMarkFall s = .next { s with dt := { s.dt with mark := false, markAt := s.dt.markAt + 64 } }) ∧
      ((s.dt.mark = false ∨ ¬ due) → exec .stepMarkFall s = .next s) ∧
      (∀ r, s.dt.postponed = some r → s.dt.mark = false → due → exec .postponedBoundary s = .next (s.declare r (s.dt.markAt + 64))) ∧
      ((s.dt.postponed = none ∨ s.dt.mark = true ∨ ¬ due) → exec .postponedBoundary s = .next s))

/-- O40. Closed registers, arithmetic flags and debug windows. -/
def Obligations.DebugWindowsAndSpecialWrites : Prop :=
  ∀ s : State, s.pw.held0 = false →
    (∀ (off : Nat) (v h : Word) (r : RegRow), off % 4 = 0 → regRow off = some r → r.access = .rwl → halfAt off = 0 →
      (s.loaded = false → exec (.registerWrite off v h) s = .next (s.setReg off (v.toNat &&& r.mask))) ∧
      (s.loaded = true → ∃ t, exec (.registerWrite off v h) s = .next t ∧ s.adds32 t R.IM_RWL_DISCARD 1 ∧
        s.sets t R.IM_ERR 4 ∧ s.keeps t [R.IM_RWL_DISCARD, R.IM_ERR] ∧ s.logs t 0x50 0 off ∧ s.logsOnly t)) ∧
    (∀ v : Word, ∃ t, exec (.sfSticky v) s = .next t ∧ s.clears t R.SF_STICKY v.toNat ∧ (∀ c, c < 192 → s.clears t (State.coreReg c 4) v.toNat) ∧ s.regsOnly t) ∧
    (∀ (i : Nat) (v : Word), i < 6 → ∃ t, exec (.sfCoreFlag i v) s = .next t ∧ s.clears t (R.SF_CORE_FLAG + 4 * i) v.toNat ∧
      (∀ c, c < 192 → t.reg (State.coreReg c 4) = if c / 32 = i ∧ bitOf v.toNat (c % 32) then 0 else s.reg (State.coreReg c 4)) ∧ s.regsOnly t) ∧
    (∀ off n, State.windowOk off n = true →
      ((off < 0x60000000 ∧ off % 0x800000 < 0x600000 ∨ 0x80000000 ≤ off ∧ off < 0xA0000000) →
        exec (.bar2Read off n .clean) s = .next (s.send (if s.badIn off n then .completion 4 off else .readData off (s.readMem off n))) ∧
        exec (.bar2Read off n .uncorrectable) s = .next (s.send (.completion 4 off))) ∧
      (0xA0000000 ≤ off → off < 0xB0000000 → 0x40000 ≤ off % 0x2000000 → off % 0x2000000 < 0x1F00000 →
        exec (.bar2Read off n .clean) s = .next (s.send (.readData off (s.readMem off n))))) ∧
    (∀ off n e, State.windowOk off n = false → exec (.bar2Read off n e) s = .next (s.send (.completion 1 off))) ∧
    (let u := s.debugDiscard; s.sets u R.HI_ERR 0x100 ∧ s.keeps u [R.HI_ERR] ∧ s.logs u 0x83 0xFFFF 0 ∧ s.logsOnly u) ∧
    (∀ off d, (State.windowOk off d.length = false ∨ bitOf (s.reg R.HI_DBG_CTRL) 0 = false ∧ ¬ (0x200000000 ≤ off ∧ off < 0x400000000)) →
      exec (.bar2Write off d) s = .next s.debugDiscard) ∧
    (∀ off d, State.windowOk off d.length = true → bitOf (s.reg R.HI_DBG_CTRL) 0 = true →
      (off < 0x60000000 ∧ off % 0x800000 < 0x600000 ∨ 0x80000000 ≤ off ∧ off < 0xA0000000) → exec (.bar2Write off d) s = .next (s.writeMem off d)) ∧
    (∀ off n w d, State.windowOk off n = true →
      (s.rankLoaded = false → exec (.peerWindow off n w d) s = .next (s.send (.completion 1 off))) ∧
      (s.rankLoaded = true → ∃ (u : State) (b : List Byte), exec (.peerWindow off n w d) s = .next { u with hi := { u.hi with peer := u.hi.peer ++ [(off, n, w)] } } ∧
        u = (({ s with free := s.free + 1 } : State).sendMsg (s.reg R.HI_PEER_RANK % 65536) 3 0x30 b d none).1)) ∧
    (∀ off n w t, s.hi.peer = (off, n, w) :: t → ∃ u, exec .peerWindowTimeout s = .next u ∧ s.sets u R.HI_ERR 0x80 ∧
      u = { s with regs := u.regs, out := s.out ++ [.completion 2 off], hi := { s.hi with peer := t } }) ∧
    (s.hi.peer = [] → exec .peerWindowTimeout s = .next s)

/-- O41. Resets, starts, images, fuses and polders. -/
def Obligations.StartsRunInPhases : Prop :=
  ∀ s : State, let pw := fun (f : PwState → PwState) => ({ s with pw := f s.pw } : State)
    (let d := s.discardAll;
      d.gl.otp = s.gl.otp ∧ d.gl.fuseKeys = s.gl.fuseKeys ∧ d.gl.revoked = s.gl.revoked ∧ d.gl.svn = s.gl.svn ∧ d.gl.kek = s.gl.kek ∧ d.im.flash = s.im.flash ∧ d.pending = s.pending ∧
      d.mem = [] ∧ d.stk = [] ∧ d.cores = [] ∧ d.regs = State.reset.regs ∧ d.pw.trip = s.pw.trip ∧ d.gl.phase = 1 ∧ d.gl.running = true ∧ d.gl.kind = 0 ∧ d.pw.held0 = false) ∧
    (s.pw.pwrgood = true → s.pw.sysRef = true → s.pw.pll = true → exec .resetNRise s = .next (pw fun p => { p with resetN := true }).coldStart) ∧
    ((s.pw.pwrgood = false ∨ s.pw.sysRef = false) → exec .resetNRise s = .next (pw fun p => { p with resetN := true })) ∧
    (s.pw.pwrgood = true → exec .resetNLow s = .next (pw fun p => { p with resetN := false, sysRef := true, pll := true }).coldStart) ∧
    (s.pw.resetN = true → s.pw.sysRef = true → s.pw.pll = true → exec .pwrgoodRise s = .next (pw fun p => { p with pwrgood := true }).coldStart) ∧
    (∃ t, exec .pwrgoodFall s = .next t ∧ t.pw.held0 = true ∧ t.gl.running = false ∧ t.pw.pwrgood = false ∧ t.out = s.out) ∧
    (∃ t, exec .sysRefclkLoss s = .next t ∧ t.pw.held0 = true ∧ t.gl.running = false ∧ t.pw.sysRef = false ∧ t.el.raised = []) ∧
    (s.hi.up = false → exec .peRefclkLoss s = .next (pw fun p => { p with peRef := false })) ∧
    (∀ r, r < 12 → exec (.powerRemove r) s = .next { s with
      stk := if r = 5 then [] else s.stk, pw := { s.pw with rails := s.pw.rails.filter (· != r), trip := if r = 10 then false else s.pw.trip } }) ∧
    (∀ v : Word, (bitsOf v.toNat 15 8 ≠ 0xA5 ∨ bitOf v.toNat 0 = false) → exec (.warmStartRequest v) s = .next s) ∧
    (∀ v : Word, bitsOf v.toNat 15 8 = 0xA5 → bitOf v.toNat 0 = true → ∃ t, exec (.warmStartRequest v) s = .next t ∧
      ((s.gl.running = true ∨ s.el.fatal = true) → s.adds32 t R.GL_START_REFUSED 1 ∧ s.logs t 5 0 0 ∧ s.logsOnly t) ∧
      (s.gl.running = false → s.el.fatal = false → t.gl.running = true ∧ t.gl.kind = 1 ∧ t.gl.phase = 0 ∧ t.gl.cause = 1)) ∧
    (s.gl.running = true → s.gl.kind = 1 → s.gl.phase = 0 → s.logDrained = true → ∃ t, exec .warmRestart s = .next t ∧ t.gl.phase = 1 ∧ t.cores = [] ∧
      (s.ti.zeroing = [] → t.qus = []) ∧ t.stk = s.stk ∧ t.models = s.models ∧ t.kv.seam = s.kv.seam ∧ t.gl.otp = s.gl.otp ∧ t.im.flash = s.im.flash) ∧
    ((s.gl.running = false ∨ s.logDrained = false) → exec .warmRestart s = .next s) ∧
    (∀ ms l ok, let done := exec (.startPhaseDone ms l ok) s
      ((s.gl.running = false ∨ s.pw.stopped = true) → done = .next s) ∧
      (s.gl.running = true → s.pw.stopped = false → s.gl.kind = 0 →
        ((s.gl.phase = 1 ∨ s.gl.phase = 6) → ∃ t, done = .next t ∧ t.reg (R.GL_PHASE_MS + 4 * (s.gl.phase - 1)) = ms % 2 ^ 32 ∧
          (s.gl.phase = 1 → t.cu = s.cu) ∧ (s.gl.phase = 6 → ∀ n, n < 18 → (t.port n).phase = 1) ∧
          t = { s with regs := t.regs, gl := { s.gl with phase := s.gl.phase + 1 }, cu := { s.cu with ports := t.cu.ports } }) ∧
        (s.gl.phase = 2 → ok = false → ∃ t, done = .next t ∧ t.gl.stuck = true ∧ t.gl.running = false ∧ s.logs t 0x5001 0 0) ∧
        (s.gl.phase = 9 → ∃ t, done = .next t ∧ t.gl = { s.gl with running := false } ∧ s.logs t 4 0 0))) ∧
    (∀ slot r, slot < 2 → (s.readsImage = false → exec (.imageSlotCheck slot r) s = .next s) ∧
      (s.readsImage = true → s.nextSlot = some slot → s.im.tried ≠ [] → exec (.imageSlotCheck slot r) s = .next (if s.reusable slot r then s.takeSlot slot true else
        match s.slotCheck slot r with | .error c => s.failSlot slot c | .ok _ => s.takeSlot slot false))) ∧
    (∀ slot c, s.im.tried = [1 - slot] → (s.failSlot slot c).im.phase = 5 ∧ (s.failSlot slot c).gl.running = false) ∧
    (∀ slot, s.gl.running = true → s.gl.kind = 0 → s.gl.phase = 8 → s.im.phase = 3 → s.im.reused = false → s.im.good = some slot → exec .imageApply s = .next
      (match s.slotCheck slot true with | .ok (rs, k0, k1, keys) => (s.applyImage slot rs k0 k1 keys).enterLoaded | .error _ => s)) ∧
    (s.gl.running = false → exec .imageApply s = .next s) ∧
    (∀ (v : Word) (ok : Bool), bitsOf v.toNat 31 24 = 0x5C → let k := bitsOf v.toNat 5 4; let u := fun (t : State) (n : Nat) => t.setReg R.IM_FUSE_RESULT n
      (v.toNat % 4 = 1 → exec (.raiseSvn v ok) s = .next (if s.im.phase ≠ 4 then u s 257 else if s.im.imgSvn ≤ s.gl.svn then u s 769 else if ok then
        u { s with gl := { s.gl with svn := s.im.imgSvn } } 3 else u s 1025)) ∧
      (v.toNat % 4 = 2 → exec (.revokeKey v ok) s = .next (if s.im.phase ≠ 4 then u s 257 else if k = s.im.key then u s 513 else if ok then
        u { s with gl := { s.gl with revoked := if s.gl.revoked.contains k then s.gl.revoked else s.gl.revoked ++ [k] } } 3 else u s 1025))) ∧
    (∀ p, p < 64 → let n := s.polderState p; let put := fun (e k : Nat) => Host.Outcome.next ((s.setReg (R.GL_POLDER_CTRL + 4 * p) e).setPolder p k)
      (s.gl.defined.contains p = false → exec (.polderEnable p) s = .next s ∧ exec (.polderDisable p) s = .next s) ∧
      (s.gl.defined.contains p = true → (n = 0 → exec (.polderEnable p) s = put 1 1) ∧ (n = 2 → exec (.polderEnable p) s = put 1 3) ∧
        ((n = 1 ∨ n = 3) → exec (.polderDisable p) s = put 0 2)) ∧
      (exec (.polderDrained p) s = .next (if s.polderOutstanding p ≠ 0 then s else if n = 2 then s.setPolder p 0 else if n = 3 then s.setPolder p 1 else s)))

/-- O42. Reports are counted, queued, coalesced and recorded. That a refused ring write reports QUEUE_ERROR is the model's choice (log). -/
def Obligations.ReportsReachTheLog : Prop :=
  ∀ s : State,
    (∀ (code source : BitVec 16) (phys : Bool) (data : DWord), (∀ x ∈ s.el.raised, ({ x with addr := none } : Report) ≠ ⟨code.toNat, source.toNat, phys, data.toNat, none⟩) →
      let r : Report := ⟨code.toNat, source.toNat, phys, data.toNat, none⟩; let u := ((s.count (R.EL_CLASS_CNT + 8 * r.cls) 1).intake r).retireTest r; let t := s.takeReport r
      exec (.errorReport code source phys data) s = .next (t.ringRefused r) ∧ (code ≠ 0x2084 → t.ringRefused r = t) ∧
      (5 < r.cls → t = s) ∧ (r.cls < 5 → t = u) ∧ (r.cls = 5 → t = u.fatal)) ∧
    (∀ r : Report, (r.cls = 3 ∨ r.cls = 5) → s.intake r = { s with el := if s.el.high.length < 16
      then { s.el with high := s.el.high ++ [⟨r, 1, s.now, s.now⟩] } else { s.el with held := s.el.held ++ [r] } }) ∧
    (∀ r : Report, r.cls < 3 → ((s.el.high ++ s.el.low).any fun q => q.rep.sameKey r) = false → s.joinable r = none →
      s.intake r = if s.el.low.length < 256 then { s with el := { s.el with low := s.el.low ++ [⟨r, 1, s.now, s.now⟩] } } else s.overflow) ∧
    (∀ r : Report, r.cls ≠ 3 → r.cls ≠ 5 → ((s.el.high ++ s.el.low).any fun q => q.rep.sameKey r) = true → let t := s.intake r
      s.adds t R.EL_COALESCED_LO 1 ∧ t.el.high.length = s.el.high.length ∧ t.el.low.length = s.el.low.length ∧
      t = { s with regs := t.regs, el := { s.el with high := t.el.high, low := t.el.low } }) ∧
    (∀ q t, s.el.high = q :: t → s.el.held = [] → exec .logEntryWrite s = .next (({ s with el := { s.el with high := t } } : State).logEntry q false)) ∧
    (∀ q t, s.el.high = [] → s.el.ovf = none → s.el.low = q :: t → exec .logEntryWrite s = .next (({ s with el := { s.el with low := t } } : State).logEntry q false)) ∧
    (s.el.high = [] → s.el.low = [] → s.el.ovf = none → exec .logEntryWrite s = .next s) ∧
    (∀ (q : Queued) (b : Bool), let i := bitsOf (s.reg R.EL_WR) 9 0; i < 1023 → s.el.unread < 1024 → q.rep.cls < 2 → q.rep.cls < bitsOf (s.reg R.EL_CTRL) 2 0 → q.rep.cls < bitsOf (s.reg R.EL_CTRL) 6 4 →
      q.rep.code < 65536 → q.rep.source < 65536 → let t := s.logEntry q b
      t.reg (State.entryReg i 0) = q.rep.code + q.rep.source * 65536 ∧ t.reg (State.entryReg i 1) = 1 + 2 * b2n q.rep.phys + 4 * b2n b ∧
      t.reg (State.entryReg i 2) = min q.count (2 ^ 32 - 1) ∧ t.reg (State.entryReg i 6) = q.rep.data % 2 ^ 32 ∧ bitsOf (t.reg R.EL_WR) 9 0 = i + 1 ∧
      t = { s with regs := t.regs, el := { s.el with unread := s.el.unread + 1 } }) ∧
    (∀ v : Word, let d := (v.toNat % 1024 + 1024 - s.reg R.EL_RD % 1024) % 1024; exec (.elRd v) s = .next (if d ≤ s.el.unread then
      ({ s.setReg R.EL_RD (v.toNat % 1024) with el := { s.el with unread := s.el.unread - d } }) else s)) ∧
    (∀ v : Word, exec (.elTest v) s = .next (if bitsOf v.toNat 31 24 = 0x3C then s.report 0 0x03 0x02 (v.toNat % 65536) 0 else s)) ∧
    (∀ v : Word, ∃ t, exec (.elAlert v) s = .next t ∧ s.clears t R.EL_ALERT (v.toNat % 16) ∧
      s.keeps t [R.EL_ALERT] ∧ t = { s with regs := t.regs, el := { s.el with ovfArmed := t.el.ovfArmed } }) ∧
    (∀ v : Word, let u := s.setReg R.EL_ALERT_EN (v.toNat % 32); exec (.elAlertEn v) s = .next (if s.alertLow = false ∧ u.alertLow = true then u.count R.EL_ALERTS_LO 1 else u)) ∧
    (exec .platformEventAck s = .next { s with el := { s.el with pldm := s.el.pldm.tail } })

/-- O43. Throttling, voltage, PMBus, trips, the watchdog and the TAP. -/
def Obligations.PowerThrottlesAndTrips : Prop :=
  ∀ s : State,
    (∀ d l e, (d ≠ s.pw.div → ∃ u : State, s.setDiv d l e = (u.setTargets d).slowUpdate ∧ u.pw.div = d ∧ u.pw.raise = none ∧ u.pw.excursion = e ∧
      s.sets u R.PW_ERR 1 ∧ s.adds u R.PW_DIVCHG_LO 1 ∧ u.el.raised = s.el.raised ++ l.map (fun x => ⟨0x101, x, false, 0, none⟩)) ∧
      s.setDiv s.pw.div l e = s ∧ s.slower d l e = s.dropRaise.setDiv d l e) ∧
    (let t := s.dropRaise; (s.pw.raise = none → t = s) ∧ (s.pw.raise ≠ none → t.pw.raise = none ∧ t.pw.div = s.pw.div ∧ s.sets t R.PW_ERR 0x20 ∧ s.adds t R.PW_PMB_ERR_LO 1)) ∧
    (exec (.fastThrotN false) s = .next (({ s with pw := { s.pw with pin := true } } : State).slower 6 [0xFFFE] false)) ∧
    (exec (.fastThrotN true) s = .next { s with pw := { s.pw with pin := false } }) ∧
    (∀ temps, ∃ u v : State, exec (.throttleRun temps) s = .next v.slowUpdate ∧ (∀ n, n < 72 → u.reg (R.PW_TEMP + 4 * n) = s.sensorWord n (temps.getD n 0)) ∧
      (∀ o, ¬ (R.PW_TEMP ≤ o ∧ o < R.PW_TEMP + 288) → u.reg o = s.reg o) ∧ s.regsOnly u ∧ (s.pw.pin = false → s.pw.raise = none → u.isHot = false → u.overLimit = true →
        s.pw.div = 6 → v = { u with pw := { s.pw with hot := false, above := true, calm := 0, held := false } })) ∧
    (∀ w, let l := (w :: s.pw.watts).take 10000
      (w ≤ 2100 → ∃ t, exec (.powerEstimate w) s = .next t ∧ t.reg R.PW_POWER = min (l.sum / max 1 l.length) 4095 + 65536 * w ∧
        s.keeps t [R.PW_POWER, R.PW_POWER_MAX] ∧ t = { s with regs := t.regs, pw := { s.pw with watts := l } }) ∧
      (2100 < w → ∃ u : State, exec (.powerEstimate w) s = .next (u.slower 6 [0xFFFF] true) ∧ s.sets u R.PW_ERR 4 ∧ s.adds u R.PW_EXCURSION_LO 1 ∧
        s.logs u 0x2103 0xFFFF 0 ∧ u = { s with regs := u.regs, el := { s.el with raised := u.el.raised }, pw := { s.pw with watts := l } })) ∧
    (∀ r, s.pw.raise = some r → exec .voltageRaiseTimeout s = .next (if r.stop ≤ s.now then s.dropRaise else s)) ∧ (s.pw.raise = none → exec .voltageRaiseTimeout s = .next s) ∧
    (∀ r mv a w (st : BitVec 16), r < 12 → s.onBus r = true → s.pw.moded.contains r = true → State.statusFault st.toNat = false → ∃ u : State,
      exec (.pmbusPoll r true mv a w st) s = .next u.confirmRaise ∧ u.reg (R.PW_RAIL_V + 4 * r) = mv % 4096 ∧ u.reg (R.PW_RAIL_I + 4 * r) = a % 2 ^ 20 ∧
      u = { s with regs := u.regs, out := s.out ++ [.pmbus r 0x8B 0, .pmbus r 0x8C 0, .pmbus r 0x96 0, .pmbus r 0x79 0] }) ∧
    (∀ r b mv a w (st : BitVec 16), r < 12 → s.onBus r = false → exec (.pmbusPoll r b mv a w st) s = .next s ∧ exec (.pmbAlertN r b st) s = .next s) ∧
    (∀ r (st : BitVec 16), r < 12 → s.onBus r = true → let u := s.send (.pmbus r 0x79 0)
      exec (.pmbAlertN r true st) s = .next ((if State.statusFault st.toNat then u.railFaultAt r else u).send (.pmbus r 0x03 0))) ∧
    (∀ n (t : BitVec 12), n < 72 → let lim : Int := if n < 64 then 460 else 420
      (lim ≤ signedOf 12 t.toNat → s.pw.trip = false → ∃ v, exec (.thermtrip n t) s = .next v ∧ v.reg R.PW_TRIP_INFO = n + 65536 * t.toNat + 2 ^ 31 ∧
        s.sets v R.PW_ERR 16 ∧ s.logs v 0x5105 n 0 ∧ v = { s with regs := v.regs, pw := { s.pw with trip := true, stopped := true }, el := { s.el with raised := v.el.raised } }) ∧
      ((signedOf 12 t.toNat < lim ∨ s.pw.trip = true) → exec (.thermtrip n t) s = .next s)) ∧
    (∀ r, r < 12 → (s.pw.pwrgood = true → ∃ t, exec (.railFault r) s = .next t ∧ s.sets t R.PW_ERR 8 ∧
      s.logs t 0x5104 r 0 ∧ t = { s with regs := t.regs, pw := { s.pw with stopped := true }, el := { s.el with raised := t.el.raised } }) ∧
      (s.pw.pwrgood = false → exec (.railFault r) s = .next s)) ∧
    (∀ w, w < 5 → exec (.watchdog w) s = .next (s.report 5 0x0B 0x03 w 0)) ∧
    (∀ d ans, d < 4 → let v := Map.getD 750 s.pw.vout d; let g := Map.getD 750 s.pw.target d
      (s.onBus d = true → v ≠ g → s.pw.vstep.get? d = none → ∃ t, exec (.voutCommandStep ⟨d, ans⟩) s = .next t ∧
        Map.getD 750 t.pw.vout d = (if ans then (if v < g then min g (v + 5) else max g (v - 5)) else v) ∧ t.pw.vstep.get? d = some s.now ∧
        (∀ e, e ≠ d → Map.getD 750 t.pw.vout e = Map.getD 750 s.pw.vout e) ∧ (ans = true → t.regs = s.regs) ∧ (ans = false → s.sets t R.PW_ERR 0x20 ∧ s.adds t R.PW_PMB_ERR_LO 1) ∧
        t = { s with regs := t.regs, out := t.out, pw := { s.pw with vout := t.pw.vout, vstep := t.pw.vstep } }) ∧
      (v = g → exec (.voutCommandStep ⟨d, ans⟩) s = .next s)) ∧
    (∀ tms tdi, (s.jt.trstN = false → exec (.tck tms tdi) s = .next s) ∧
      (s.jt.trstN = true → ∃ t, exec (.tck tms tdi) s = .next t ∧ t.jt.tap = s.jt.tap.next tms ∧ t = { s with jt := t.jt, out := t.out, free := t.free } ∧
        (s.jt.tap = .shiftDr → t.jt.dr = s.jt.dr.drop 1 ++ [tdi] ∧ t.out = s.out ++ [.tdo (s.jt.dr.headD false)]) ∧
        (s.jt.tap = .captureDr → s.jt.instr = .idcode → t.jt.dr = (List.range 32).map (bitOf 0x1D851C6F)))) ∧
    (exec (.trstN false) s = .next { s with jt := JtState.reset }) ∧ (exec (.trstN true) s = .next { s with jt := { s.jt with trstN := true } })

/-- O44. Management over I3C is answered as its tables say (the wire forms are the model's). -/
def Obligations.ManagementAnswers : Prop :=
  ∀ s : State, let ok := fun (cmd : Nat) (f : List Nat) (d : List Byte) => s.send (.mctp 0 cmd (0 :: f) d)
    let pl := fun (s : State) (ty cmd code : Nat) (f : List Nat) (d : List Byte) => s.send (.mctp 1 cmd (ty :: code :: f) d)
    let mg := fun (f : MgState → MgState) => ({ s with mg := f s.mg } : State); let half := s.im.capacity / 2
    let go := fun (x : Instr) (t : State) => exec x s = .next (if s.i3cUp then t else s)
    (∀ a, let t := if s.mg.daddr = 0 then mg fun m => { m with daddr := a.toNat } else s; go (.entdaa a) t ∧ go (.setdasa a) t) ∧
    (∀ e : Byte, go (.setEndpointId e) (if e = 0 ∨ e = 0xFF then s.send (.mctp 0 0x01 [2] []) else (mg fun m => { m with eid := e.toNat, eidValid := true }).send (.mctp 0 0x01 [0, e.toNat] []))) ∧
    go .getEndpointId (ok 0x02 [if s.mg.eidValid then s.mg.eid else 0] []) ∧ (∃ u, u.length = 16 ∧ go .getEndpointUuid (ok 0x03 [] u)) ∧
    (∀ t : Byte, ∃ l, go (.getMctpVersionSupport t) (if t.toNat < 2 ∨ t = 0xFF then ok 0x04 [] l else s.send (.mctp 0 0x04 [0x80] []))) ∧
    go .getMessageTypeSupport (ok 0x05 [2] [0, 1]) ∧ go .gettid (pl s 0 0x02 0 [s.mg.tid] []) ∧
    (∀ t : Byte, go (.settid t) (if t = 0 ∨ t = 0xFF then pl s 0 0x01 2 [] [] else pl (mg fun m => { m with tid := t.toNat }) 0 0x01 0 [] []) ∧
      (∃ l, go (.getpldmversion t) (if t.toNat ∈ [0, 2, 5] then pl s 0 0x03 0 [] l else pl s 0 0x03 0x83 [] [])) ∧
      go (.getpldmcommands t) (if t.toNat ∈ [0, 2, 5] then pl s 0 0x05 0 (State.pldmCommands t.toNat) [] else pl s 0 0x05 0x83 [] [])) ∧
    go .getpldmtypes (pl s 0 0x04 0 [2 ^ 0 + 2 ^ 2 + 2 ^ 5] []) ∧ go .getpdrrepositoryinfo (pl s 2 0x50 0 [0, 40] []) ∧
    (∀ n, ∃ l, let k := max 1 n; go (.getpdr n) (if n ≤ 40 then pl s 2 0x51 0 (k :: (if k < 40 then k + 1 else 0) :: l) [] else pl s 2 0x51 0x82 [] [])) ∧
    (∀ n v, s.numericReading n = some v → go (.getsensorreading n) (pl s 2 0x11 0 [n, (v % 2 ^ 32).toNat] [])) ∧ (∀ n, 1 ≤ n → n ≤ 17 → (s.numericReading n).isSome = true) ∧
    (∀ n v, s.stateReading n = some v → go (.getstatesensorreadings n) (pl s 2 0x21 0 [n, v] [])) ∧
    go (.effecterWarmStart 2) ((pl s 2 0x39 0 [1] []).warmRequest 2) ∧ (∃ u : State, s.clears u R.EL_ALERT 15 ∧ go (.effecterAlertClear 2) (pl u 2 0x39 0 [2] [])) ∧
    (∀ e : Byte, go (.seteventreceiver e) (pl (mg fun m => { m with receiver := e.toNat }) 2 0x04 0 [] [])) ∧
    go .pollforplatformeventmessage (pl s 2 0x0B 0 [s.el.pldm.length] (s.el.pldm.headD [])) ∧
    (0 < half → go .requestupdate (if s.startReadsFlash then pl s 5 0x10 0x8E [] [] else if s.mg.update.isSome then pl s 5 0x10 0x81 [] []
      else (pl (mg fun m => { m with update := some ⟨s.updateSlot, 1⟩ }) 5 0x10 0 [0x000A, 0x0001, s.im.version % 2 ^ 32] []).send (.mctp 1 0x15 [5, 0, 4096] []))) ∧
    (∀ off d slot, s.mg.update = some ⟨slot, 1⟩ → off % 4096 = 0 → off < half → d.length ≤ 4096 → ∃ t, go (.firmwareDataTransfer off d) t ∧
      (∀ k, k < 4096 → Memory.read 0xFF t.im.flash (slot * half + off + k) = d.getD k 0xFF) ∧
      (∀ a, ¬ (slot * half + off ≤ a ∧ a < slot * half + off + 4096) → Memory.read 0xFF t.im.flash a = Memory.read 0xFF s.im.flash a) ∧
      t = { s with out := t.out, im := { s.im with flash := t.im.flash } }) ∧
    (∀ slot, s.mg.update = some ⟨slot, 1⟩ → go .verifycomplete (if s.verifies slot
      then (mg fun m => { m with update := some ⟨slot, 2⟩ }).send (.mctp 1 0x17 [5, 0] []) else s.send (.mctp 1 0x17 [5, 1] []))) ∧
    (∀ slot, s.mg.update = some ⟨slot, 2⟩ → ∃ u : State, go (.activatefirmware false) (pl u 5 0x1A 0 [] []) ∧
      s.sets u R.IM_BOOT_SEL 2 ∧ u = { s with regs := u.regs, mg := { s.mg with update := none } })

/-- O45. Setting flag bits ORs them in, and a bit already 1 is counted and reported. -/
def Obligations.FlagSetsAreOrsAndCountOverruns : Prop :=
  ∀ (s : State) (c fw mask : Nat), mask < 65536 → let t := s.orFlags c fw mask; let lost := popcount16 ((s.core c).flag fw &&& mask)
    (t.core c).flag fw = (s.core c).flag fw ||| mask ∧ (∀ g, g ≠ fw → (t.core c).flag g = (s.core c).flag g) ∧
    (∀ d, d ≠ c → t.core d = s.core d) ∧ (t.core c) = { s.core c with flags := (t.core c).flags } ∧
    (lost = 0 → t = { s with cores := t.cores }) ∧
    (lost ≠ 0 → t = { s with cores := t.cores, regs := t.regs, el := { s.el with raised := t.el.raised } } ∧
      s.sets t (State.coreReg c 8) 1 ∧
      s.adds32 t (State.coreReg c 0x324) lost ∧
      s.keeps t [State.coreReg c 8, State.coreReg c 0x324] ∧
      t.el.raised = s.el.raised ++ List.replicate lost ⟨(0x0C + c / 48) * 64 + 0x12, c, false, 0, none⟩)

/-- O46. A conversion to a scalar format produces only canonical NaNs. -/
def Obligations.NansAreCanonical : Prop :=
  ∀ x ∈ [(Fmt.fp32, 0x7FC00000), (.bf16, 0x7FC0), (.fp16, 0x7E00), (.e4m3, 0x7F), (.e5m2, 0x7E)], ∀ (sat : Bool) (v : FVal),
    (x.1.scalar.convert sat .nan).1 = x.2 ∧
    (x.1.scalar.decode (x.1.scalar.convert sat v).1 = .nan → (x.1.scalar.convert sat v).1 = x.2)

/-- O47. A value that a scalar format represents converts to its own code. -/
def Obligations.RepresentableValuesConvertExactly : Prop :=
  ∀ f ∈ [Fmt.fp32, .bf16, .fp16, .e4m3, .e5m2], ∀ (sat : Bool) (x : Nat), x < 2 ^ f.bits →
    f.scalar.decode x ≠ .nan → f.scalar.convert sat (f.scalar.decode x) = (x, .none)

/-- O48. Overflow gives the largest finite value or infinity as SAT says. -/
def Obligations.OverflowFollowsSat : Prop :=
  ∀ f ∈ [Fmt.fp32, .bf16, .fp16, .e4m3, .e5m2], ∀ (neg : Bool) (m : Nat) (e : Int),
    f.scalar.maxCode < f.scalar.roundCode m 1 e →
    f.scalar.convert true (.fin neg m e) = ((if neg then f.scalar.signBit else 0) + f.scalar.maxCode, .saturated) ∧
    (f ≠ .e4m3 → f.scalar.convert false (.fin neg m e) = ((if neg then f.scalar.signBit else 0) + f.scalar.infCode, .overflow)) ∧
    (f = .e4m3 → (f.scalar.convert false (.fin neg m e)).1 = 0x7F ∧ (f.scalar.convert false (.fin neg m e)).2.bits = 0x02)

/-- O49. Minimum, maximum and comparisons treat NaN and signed zeros as R58 says. -/
def Obligations.MinMaxAndComparisons : Prop :=
  (∀ a, FVal.max .nan a = .nan ∧ FVal.max a .nan = .nan ∧ FVal.min .nan a = .nan ∧ FVal.min a .nan = .nan) ∧
  (∀ e f : Int, FVal.max (.fin true 0 e) (.fin false 0 f) = .fin false 0 f ∧ FVal.max (.fin false 0 f) (.fin true 0 e) = .fin false 0 f ∧
    FVal.min (.fin true 0 e) (.fin false 0 f) = .fin true 0 e ∧ FVal.min (.fin false 0 f) (.fin true 0 e) = .fin true 0 e) ∧
  (∀ a b imm, (vecElem 0x08 imm .nan b .zero).1 = .zero ∧ (vecElem 0x08 imm a .nan .zero).1 = .zero ∧ (vecElem 0x09 imm .nan a b).1 = b) ∧
  (∀ (e : Int) (n : Bool) (b c imm : FVal), (vecElem 0x09 imm (.fin n 0 e) b c).1 = b) ∧
  (∀ (m n : Nat) (e : Int) (imm : FVal), (vecElem 0x08 imm (.fin false m e) (.fin false n e) .zero).1 = if n ≤ m then FVal.one else .zero)

/-- O50. A matrix tile's window does not depend on the order of its products. -/
def Obligations.WindowSumsHaveNoOrder : Prop :=
  (∀ (fa fb : Fmt) (ps qs : List (Int × List FVal)), ps.Perm qs → fp8Window fa fb ps = fp8Window fa fb qs ∧ halfWindow ps = halfWindow qs) ∧
  (∀ (q : Int) (xs ys : List FVal), xs.Perm ys → sumUnits q xs = sumUnits q ys) ∧
  (∀ (fa fb : Fmt) (k : Int) (xs ys : List FVal), xs.Perm ys → fp8Window fa fb [(k, xs)] = fp8Window fa fb [(k, ys)])

/-- O51. A VEC step writes its result at D and nowhere else. -/
def Obligations.VectorResultsLandAtD : Prop :=
  ∀ (s : State) (c m : Nat) (q : QStep), stType q.word.toNat = 0x04 →
    let w := q.word.toNat
    let d := State.storeAt c (operandAt w 126 q.alt)
    let n := bitsOf w 159 144 + 1
    let bytes := if bitsOf w 71 64 = 0x11 then s.readStore c (operandAt w 72 q.alt) ((fmtOf (bitsOf w 163 160)).vecBytes n)
      else ((fmtOf (bitsOf w 167 164)).vecWrite (s.satOf w) (s.vecResult c q).1).1
    let t := s.runUnit c m q
    s.wrote t d bytes ∧ t = { s with mem := t.mem, bad := t.bad, soft := t.soft, regs := t.regs, el := { s.el with raised := t.el.raised } } ∧
    (∀ o, o ∉ [State.coreReg c 4, R.SF_STICKY, R.SF_CORE_FLAG + c / 32 * 4, R.SF_NAN_OUT_LO, R.SF_NAN_OUT_HI, R.SF_SAT_LO, R.SF_SAT_HI, R.SF_INEXACT_LO, R.SF_INEXACT_HI] →
      t.reg o = s.reg o)

/-- O52. A release clears the arrivals, inverts the generation and sets every member's bits. -/
def Obligations.ReleaseSetsEveryMembersBits : Prop :=
  ∀ (s : State) (k : Nat),
    (s.released k).dike k = ⟨[], !(s.dike k).gen, 0⟩ ∧ (∀ j, j ≠ k → (s.released k).dike j = s.dike j) ∧
    (∀ a ∈ (s.dike k).arrived, ((s.released k).core a.core).flag a.fw &&& (a.mask % 65536) = a.mask % 65536) ∧
    (∀ c fw, ((s.released k).core c).flag fw &&& (s.core c).flag fw = (s.core c).flag fw) ∧
    (s.released k).mem = s.mem ∧
    s.releaseDike k =
      let u := ((s.dike k).arrived.map (·.core)).eraseDups.foldl State.settle (s.released k)
      (List.range u.tg.pumps.length).foldl (fun s p => match s.pumpProg p with
        | some y => if State.dikeKey y.pkg y.die y.dike = k then s.pumpRelease p else s
        | none => s) u

/-- O53. A search heap keeps the smallest distinct keys whatever the order of the offers. -/
def Obligations.SearchHeapsKeepTheSmallestKeys : Prop :=
  ∀ (lim : Nat) (ks : List Nat), ks.foldl (State.skKeep lim) [] = ((ks.eraseDups).mergeSort Nat.ble).take lim

/-- O54. A bad list leaves its queue with an error report, for every operation. -/
def Obligations.QuarryErrorsAreReported : Prop :=
  ∀ (s : State) (n op : Nat) (x : Instr), (op, x) ∈ quarryCommands n → n < 8 → let u := s.quState n
    (∀ d l, s.pw.stopped = false → State.takeList (u.queue ++ u.wait) = d :: l → d.dead = false → d.kind = op → State.listWhole (d :: l) = true →
      ((op = 0x20 ∨ op = 0x21) → ∀ b ∈ s.sk.batches, ∀ h ∈ b.heaps, h.1 / 4096 ≠ n) →
      State.heldBytes u < 1048576 → s.listBad n (d :: l) = true → ∃ t, exec x s = .next t ∧
        t.quState n = { State.quDrop u (l.length + 1) with results := u.results ++ [(s.badResult n d, State.stepOf d)] } ∧
        s.sets t (State.quReg n 8) 1 ∧ s.logs t (0x4000 + (0x10 + n) * 64 + 1) 0 0 ∧
        (∀ m, m ≠ n → t.quState m = s.quState m) ∧ t = { s with qus := t.qus, regs := t.regs, el := { s.el with raised := t.el.raised } }) ∧
    (∀ d, (u.queue ++ u.wait).head? = some d → d.dead = false → QuDesc.knownKind d.kind = true → d.kind ≠ op → exec x s = .next s) ∧
    (u.queue = [] → u.wait = [] → exec x s = .next s)

/-- O55. Every well-formed command completes in every state, and any other stops with noSuchUnit. -/
def Obligations.CommandsStopOnlyOffTheirUnits : Prop :=
  ∀ (c : Instr) (s : State),
    (c.wf = true → ∃ t, exec c s = .next t) ∧ (c.wf = false → exec c s = .fault .noSuchUnit)

/-- O56. Every step takes the front command and leaves the other waiting commands in order. -/
def Obligations.QueueIsFirstInFirstOut : Prop :=
  ∀ s t : State, step s = .next t → t.pending = s.pending.tail

/-- O57. Every step keeps the canonical form of on-chip memory, stack memory and flash. -/
def Obligations.MemoriesStayCanonical : Prop :=
  ∀ s t : State, s.canonical → step s = .next t → t.canonical

/-- O58. The reset state is canonical and idle. -/
def Obligations.ResetIsCanonicalAndIdle : Prop :=
  State.reset.canonical ∧ State.reset.pending = [] ∧ State.reset.loaded = false ∧ State.reset.hi.reqs = [] ∧
  (∀ c i, ((State.reset.core c).slot i).phase = .idle) ∧ (∀ c fw, (State.reset.core c).flag fw = 0) ∧ (∀ q, (State.reset.pair q).phase = 0)

/-- O59. No step clears or changes a fuse. -/
def Obligations.FusesArePermanent : Prop :=
  ∀ s t : State, step s = .next t → s.fusesKept t

/-- O60. GL_ID reads the part identity 0xD80512B0. -/
def Obligations.PartIdentityReadsBack : Prop :=
  ∀ s : State, s.gl.otp = State.reset.gl.otp →
    bitsOf (s.regRead R.GL_ID) 31 24 = 0xD8 ∧ bitsOf (s.regRead R.GL_ID) 23 8 = 0x0512 ∧ bitsOf (s.regRead R.GL_ID) 7 0 = 0xB0 ∧ s.regRead R.GL_ID = 0xD80512B0 ∧
    (s.pw.held0 = false → s.hi.capt.get? R.GL_ID = none → exec (.barAccess R.GL_ID 4 false) s = .next (s.send (.readData R.GL_ID [0xB0, 0x12, 0x05, 0xD8])))
end

