-- ==== Sys2Proof/Laws/Maps.lean ====
section
/-! SUPPORT. Laws of sparse tables and byte memories: what a store changes, and that each operation keeps the canonical form. -/

namespace Sys2Proof.Machine

/-! ### Tables -/

namespace Map

variable {α : Type}

@[simp] theorem get?_nil (k : Nat) : Map.get? ([] : Map α) k = none := rfl
@[simp] theorem getD_nil (d : α) (k : Nat) : Map.getD d [] k = d := rfl

theorem get?_cons (j : Nat) (w : α) (t : Map α) (k : Nat) :
    Map.get? ((j, w) :: t) k = if j = k then some w else Map.get? t k := by
  by_cases h : j = k
  · simp [Map.get?, h]
  · have : (j == k) = false := by simpa using h
    simp [Map.get?, List.find?, h, this]

theorem get?_put_self (m : Map α) (k : Nat) (v : α) : (m.put k v).get? k = some v := by
  induction m with
  | nil => simp [put, get?_cons]
  | cons x t ih =>
    obtain ⟨j, w⟩ := x
    simp only [put]
    split
    · simp [get?_cons]
    · split
      · simp [get?_cons]
      · rw [get?_cons, if_neg (by omega)]; exact ih

theorem get?_put_other (m : Map α) {k j : Nat} (v : α) (h : j ≠ k) : (m.put k v).get? j = m.get? j := by
  induction m with
  | nil => simp [put, get?_cons, Ne.symm h]
  | cons x t ih =>
    obtain ⟨i, w⟩ := x
    simp only [put]
    split
    · simp [get?_cons, Ne.symm h]
    · split
      · subst_vars; simp [get?_cons, Ne.symm h]
      · simp only [get?_cons, ih]

theorem get?_del_self (m : Map α) (k : Nat) : (m.del k).get? k = none := by
  simp only [get?, del, Option.map_eq_none_iff, List.find?_eq_none, List.mem_filter]
  rintro x ⟨_, hx⟩; simpa using hx

theorem get?_del_other (m : Map α) {k j : Nat} (h : j ≠ k) : (m.del k).get? j = m.get? j := by
  induction m with
  | nil => rfl
  | cons x t ih =>
    obtain ⟨i, w⟩ := x
    by_cases hi : i = k
    · subst hi
      have : Map.del ((i, w) :: t) i = Map.del t i := by simp [del]
      rw [this, ih, get?_cons, if_neg (Ne.symm h)]
    · have : Map.del ((i, w) :: t) k = (i, w) :: Map.del t k := by simp [del, hi]
      rw [this, get?_cons, get?_cons, ih]

theorem getD_put_self (d : α) (m : Map α) (k : Nat) (v : α) : Map.getD d (m.put k v) k = v := by
  simp [getD, get?_put_self]

theorem getD_put_other (d : α) (m : Map α) {k j : Nat} (v : α) (h : j ≠ k) : Map.getD d (m.put k v) j = Map.getD d m j := by
  simp [getD, get?_put_other m v h]

theorem getD_del_other (d : α) (m : Map α) {k j : Nat} (h : j ≠ k) : Map.getD d (m.del k) j = Map.getD d m j := by
  simp [getD, get?_del_other m h]

@[simp] theorem getD_del_self (d : α) (m : Map α) (k : Nat) : Map.getD d (m.del k) k = d := by
  simp [getD, get?_del_self]

@[simp] theorem getD_store_self [DecidableEq α] (d : α) (m : Map α) (k : Nat) (v : α) : Map.getD d (Map.store d m k v) k = v := by
  by_cases h : v = d
  · simp [store, h]
  · simp [store, h, getD_put_self]

theorem getD_store_other [DecidableEq α] (d e : α) (m : Map α) {k j : Nat} (v : α) (h : j ≠ k) :
    Map.getD e (Map.store d m k v) j = Map.getD e m j := by
  by_cases hv : v = d
  · simp [store, hv, getD_del_other e m h]
  · simp [store, hv, getD_put_other e m v h]

/-- A key smaller than every key of a table, or none where the table is empty. -/
theorem sorted_cons (a : Nat × α) (t : Map α) : sorted (a :: t) = true ↔ (∀ b, b ∈ t → a.1 < b.1) ∧ sorted t = true := by
  induction t generalizing a with
  | nil => simp [sorted]
  | cons b t ih =>
    simp only [sorted, Bool.and_eq_true, decide_eq_true_eq, List.mem_cons, forall_eq_or_imp]
    constructor
    · rintro ⟨h1, h2⟩
      exact ⟨⟨h1, fun c hc => Nat.lt_trans h1 (((ih b).1 h2).1 c hc)⟩, h2⟩
    · rintro ⟨⟨h1, _⟩, h3⟩
      exact ⟨h1, h3⟩

theorem sorted_filter {m : Map α} (p : Nat × α → Bool) (h : sorted m = true) : sorted (m.filter p) = true := by
  induction m with
  | nil => rfl
  | cons x t ih =>
    obtain ⟨h1, h2⟩ := (sorted_cons x t).1 h
    by_cases hp : p x
    · rw [List.filter_cons_of_pos hp]
      exact (sorted_cons _ _).2 ⟨fun b hb => h1 b (List.mem_filter.1 hb).1, ih h2⟩
    · rw [List.filter_cons_of_neg hp]; exact ih h2

theorem sorted_append {m n : Map α} (hm : sorted m = true) (hn : sorted n = true) (h : ∀ a, a ∈ m → ∀ b, b ∈ n → a.1 < b.1) :
    sorted (m ++ n) = true := by
  induction m with
  | nil => exact hn
  | cons x t ih =>
    obtain ⟨h1, h2⟩ := (sorted_cons x t).1 hm
    refine (sorted_cons _ _).2 ⟨fun b hb => ?_, ih h2 fun a ha => h a (List.mem_cons_of_mem _ ha)⟩
    rcases List.mem_append.1 hb with hb | hb
    · exact h1 b hb
    · exact h x (List.mem_cons_self ..) b hb

theorem mem_put {m : Map α} {k : Nat} {v : α} {x : Nat × α} (h : x ∈ m.put k v) : x = (k, v) ∨ x ∈ m := by
  induction m with
  | nil => simpa [put] using h
  | cons y t ih =>
    obtain ⟨j, w⟩ := y
    simp only [put] at h
    split at h
    · simpa using h
    · split at h
      · rcases List.mem_cons.1 h with h | h
        · exact .inl h
        · exact .inr (List.mem_cons_of_mem _ h)
      · rcases List.mem_cons.1 h with h | h
        · exact .inr (h ▸ List.mem_cons_self ..)
        · exact (ih h).imp_right (List.mem_cons_of_mem _)

theorem sorted_put {m : Map α} (k : Nat) (v : α) (h : sorted m = true) : sorted (m.put k v) = true := by
  induction m with
  | nil => rfl
  | cons x t ih =>
    obtain ⟨j, w⟩ := x
    obtain ⟨h1, h2⟩ := (sorted_cons _ t).1 h
    simp only [put]
    split
    · rename_i hk
      refine (sorted_cons _ _).2 ⟨fun b hb => ?_, h⟩
      rcases List.mem_cons.1 hb with hb | hb
      · subst hb; exact hk
      · exact Nat.lt_trans hk (h1 b hb)
    · split
      · subst_vars; exact (sorted_cons _ _).2 ⟨h1, h2⟩
      · refine (sorted_cons _ _).2 ⟨fun b hb => ?_, ih h2⟩
        rcases mem_put hb with hb | hb
        · subst hb; simp only; omega
        · exact h1 b hb

theorem sorted_store [DecidableEq α] (d : α) {m : Map α} (k : Nat) (v : α) (h : sorted m = true) : sorted (Map.store d m k v) = true := by
  simp only [store]
  split
  · exact sorted_filter _ h
  · exact sorted_put k v h

end Map

/-! ### Byte memories -/

namespace Memory

@[simp] theorem read_nil (fill : Byte) (a : Nat) : Memory.read fill [] a = fill := rfl

theorem get?_append {α : Type} (m n : Map α) (k : Nat) : Map.get? (m ++ n) k = (Map.get? m k).or (Map.get? n k) := by
  induction m with
  | nil => simp
  | cons x t ih =>
    obtain ⟨j, w⟩ := x
    simp only [List.cons_append, Map.get?_cons, ih]
    split <;> simp

theorem get?_filter {α : Type} (m : Map α) (p : Nat → Bool) (k : Nat) :
    Map.get? (m.filter fun c => p c.1) k = if p k then Map.get? m k else none := by
  induction m with
  | nil => simp
  | cons x t ih =>
    obtain ⟨j, w⟩ := x
    by_cases hj : p j
    · rw [List.filter_cons_of_pos (by simpa using hj), Map.get?_cons, Map.get?_cons, ih]
      by_cases h : j = k
      · subst h; simp [hj]
      · simp [h]
    · rw [List.filter_cons_of_neg (by simpa using hj), ih, Map.get?_cons]
      by_cases h : j = k
      · subst h; simp [hj]
      · simp [h]

theorem get?_cells (fill : Byte) (a : Nat) (bs : List Byte) (k : Nat) :
    Map.get? (cells fill a bs) k = if a ≤ k then ((bs[k - a]?).bind fun b => if b = fill then none else some b) else none := by
  induction bs generalizing a with
  | nil => simp [cells]
  | cons b t ih =>
    simp only [cells]
    by_cases hk : k = a
    · subst hk
      split
      · next hb => rw [ih, if_neg (by omega)]; simp [hb]
      · next hb => simp [Map.get?_cons, hb]
    · have h2 : a ≤ k → (b :: t)[k - a]? = t[k - (a + 1)]? := by
        intro h
        rw [show k - a = (k - (a + 1)) + 1 by omega, List.getElem?_cons_succ]
      split
      · rw [ih]
        by_cases h : a ≤ k
        · rw [if_pos (by omega), if_pos h, h2 h]
        · rw [if_neg (by omega), if_neg h]
      · rw [Map.get?_cons, if_neg (Ne.symm hk), ih]
        by_cases h : a ≤ k
        · rw [if_pos (by omega), if_pos h, h2 h]
        · rw [if_neg (by omega), if_neg h]

/-- A byte read after a store: the stored byte inside it, the old byte elsewhere. -/
theorem read_write (fill : Byte) (m : Memory) (a : Nat) (bs : List Byte) (k : Nat) :
    Memory.read fill (Memory.write fill m a bs) k =
      if a ≤ k ∧ k < a + bs.length then (bs[k - a]?).getD fill else Memory.read fill m k := by
  have f1 := get?_filter (α := Byte) m (fun x => decide (x < a)) k
  have f2 := get?_filter (α := Byte) m (fun x => decide (a + bs.length ≤ x)) k
  have e : Map.get? (Memory.write fill m a bs) k =
      ((if k < a then Map.get? m k else none).or (Map.get? (cells fill a bs) k)).or (if a + bs.length ≤ k then Map.get? m k else none) := by
    simp only [decide_eq_true_eq] at f1 f2
    simp only [write, get?_append]
    rw [f1, f2]
  simp only [Memory.read, Map.getD, e, get?_cells]
  by_cases h1 : k < a
  · have : ¬ a ≤ k := by omega
    have h3 : ¬ (a + bs.length ≤ k) := by omega
    simp [h1, this, h3]
  · have h2 : a ≤ k := by omega
    by_cases h3 : k < a + bs.length
    · have h4 : ¬ (a + bs.length ≤ k) := by omega
      simp only [if_neg h1, h3, and_self, if_true, if_neg h4, Option.none_or, Option.or_none, h2]
      cases hb : bs[k - a]? with
      | none => rfl
      | some b => by_cases hf : b = fill <;> simp [hf]
    · have h4 : a + bs.length ≤ k := by omega
      have h5 : bs[k - a]? = none := List.getElem?_eq_none (by omega)
      simp [h1, h3, h4, h5]

theorem read_write_outside (fill : Byte) (m : Memory) (a : Nat) (bs : List Byte) {k : Nat} (h : k < a ∨ a + bs.length ≤ k) :
    Memory.read fill (Memory.write fill m a bs) k = Memory.read fill m k := by
  rw [read_write, if_neg (by omega)]

theorem read_write_inside (fill : Byte) (m : Memory) (a : Nat) (bs : List Byte) {i : Nat} (h : i < bs.length) :
    Memory.read fill (Memory.write fill m a bs) (a + i) = bs[i] := by
  rw [read_write, if_pos (by omega)]; simp [h]

theorem mem_cells {fill : Byte} {a : Nat} {bs : List Byte} {x : Nat × Byte} (h : x ∈ cells fill a bs) :
    a ≤ x.1 ∧ x.1 < a + bs.length ∧ x.2 ≠ fill := by
  induction bs generalizing a with
  | nil => simp [cells] at h
  | cons b t ih =>
    simp only [cells] at h
    simp only [List.length_cons]
    split at h
    · have := ih h; exact ⟨by omega, by omega, this.2.2⟩
    · next hb =>
      rcases List.mem_cons.1 h with h | h
      · subst h; exact ⟨Nat.le_refl _, by omega, hb⟩
      · have := ih h; exact ⟨by omega, by omega, this.2.2⟩

theorem sorted_cells (fill : Byte) (a : Nat) (bs : List Byte) : Map.sorted (cells fill a bs) = true := by
  induction bs generalizing a with
  | nil => rfl
  | cons b t ih =>
    simp only [cells]
    split
    · exact ih _
    · exact (Map.sorted_cons _ _).2 ⟨fun x hx => by have := mem_cells hx; simp only; omega, ih _⟩

theorem wf_iff (fill : Byte) (m : Memory) : Memory.wf fill m = true ↔ Map.sorted m = true ∧ ∀ c, c ∈ m → c.2 ≠ fill := by
  simp [wf]

@[simp] theorem wf_nil (fill : Byte) : Memory.wf fill [] = true := rfl

/-- A store keeps the canonical form. -/
theorem wf_write {fill : Byte} {m : Memory} (a : Nat) (bs : List Byte) (h : Memory.wf fill m = true) :
    Memory.wf fill (Memory.write fill m a bs) = true := by
  obtain ⟨h1, h2⟩ := (wf_iff fill m).1 h
  refine (wf_iff _ _).2 ⟨Map.sorted_append (Map.sorted_append (Map.sorted_filter _ h1) (sorted_cells ..) ?_) (Map.sorted_filter _ h1) ?_, ?_⟩
  · intro x hx y hy
    have := (List.mem_filter.1 hx).2; have hy := mem_cells hy
    simp only [decide_eq_true_eq] at this; omega
  · intro x hx y hy
    have hy := (List.mem_filter.1 hy).2
    simp only [decide_eq_true_eq] at hy
    rcases List.mem_append.1 hx with hx | hx
    · have := (List.mem_filter.1 hx).2; simp only [decide_eq_true_eq] at this; omega
    · have := mem_cells hx; omega
  · intro c hc
    rcases List.mem_append.1 hc with hc | hc
    · rcases List.mem_append.1 hc with hc | hc
      · exact h2 c (List.mem_filter.1 hc).1
      · exact (mem_cells hc).2.2
    · exact h2 c (List.mem_filter.1 hc).1

/-- Dropping cells keeps the canonical form. -/
theorem wf_filter {fill : Byte} {m : Memory} (p : Nat × Byte → Bool) (h : Memory.wf fill m = true) : Memory.wf fill (m.filter p) = true := by
  obtain ⟨h1, h2⟩ := (wf_iff fill m).1 h
  exact (wf_iff _ _).2 ⟨Map.sorted_filter p h1, fun c hc => h2 c (List.mem_filter.1 hc).1⟩

/-- In the canonical form the bytes from an address are the bytes read one by one. -/
theorem readCells_eq (fill : Byte) (n : Nat) (m : Memory) (a : Nat) (h : Map.sorted m = true) (hb : ∀ c, c ∈ m → a ≤ c.1) :
    readCells fill m a n = (List.range n).map fun i => Memory.read fill m (a + i) := by
  induction n generalizing m a with
  | zero => cases m <;> rfl
  | succ n ih =>
    have shift : ∀ m' : Memory, (List.range (n + 1)).map (fun i => Memory.read fill m' (a + i))
        = Memory.read fill m' a :: (List.range n).map fun i => Memory.read fill m' (a + 1 + i) := by
      intro m'
      rw [List.range_succ_eq_map]
      simp [Function.comp_def, Nat.add_comm, Nat.add_left_comm]
    cases m with
    | nil =>
      rw [shift]
      simp only [readCells, read_nil]
      rw [ih [] (a + 1) rfl (by simp)]
      simp
    | cons x t =>
      obtain ⟨k, b⟩ := x
      obtain ⟨h1, h2⟩ := (Map.sorted_cons _ t).1 h
      have hk : a ≤ k := hb (k, b) (List.mem_cons_self ..)
      rw [shift]
      simp only [readCells]
      split
      · subst_vars
        rw [ih t (k + 1) h2 fun c hc => h1 c hc]
        congr 1
        · simp [Memory.read, Map.getD, Map.get?_cons]
        · refine List.map_congr_left fun i _ => ?_
          simp only [Memory.read, Map.getD, Map.get?_cons]
          rw [if_neg (by omega)]
      · rename_i hne
        rw [ih ((k, b) :: t) (a + 1) h fun c hc => ?_]
        · congr 1
          have : Map.get? ((k, b) :: t) a = none := by
            simp only [Map.get?, Option.map_eq_none_iff, List.find?_eq_none]
            intro c hc
            have : a < c.1 := by
              rcases List.mem_cons.1 hc with hc | hc
              · subst hc; simp only; omega
              · have := h1 c hc; simp only at this; omega
            simp; omega
          simp [Memory.read, Map.getD, this]
        · rcases List.mem_cons.1 hc with hc | hc
          · subst hc; simp only; omega
          · have := h1 c hc; simp only at this; omega

theorem readBytes_eq (fill : Byte) {m : Memory} (a n : Nat) (h : Map.sorted m = true) :
    readBytes fill m a n = (List.range n).map fun i => Memory.read fill m (a + i) := by
  rw [readBytes, readCells_eq _ _ _ _ (Map.sorted_filter _ h) fun c hc => by simpa using (List.mem_filter.1 hc).2]
  refine List.map_congr_left fun i _ => ?_
  have := get?_filter (α := Byte) m (fun x => decide (a ≤ x)) (a + i)
  simp only [decide_eq_true_eq] at this
  simp only [Memory.read, Map.getD]
  rw [this, if_pos (by omega)]

end Memory

end Sys2Proof.Machine
end

