-- ==== Sys2Proof/Laws/State.lean ====
section
/-! SUPPORT. For each update of the state, what it leaves as it was: one lemma a field, by unfolding. -/

namespace Sys2Proof.Machine.State

variable (s : State)

/-! setReg -/

@[simp] theorem setReg_pending (off v : Nat) : (s.setReg off v).pending = s.pending := rfl
@[simp] theorem setReg_clk (off v : Nat) : (s.setReg off v).clk = s.clk := rfl
@[simp] theorem setReg_free (off v : Nat) : (s.setReg off v).free = s.free := rfl
@[simp] theorem setReg_mem (off v : Nat) : (s.setReg off v).mem = s.mem := rfl
@[simp] theorem setReg_bad (off v : Nat) : (s.setReg off v).bad = s.bad := rfl
@[simp] theorem setReg_soft (off v : Nat) : (s.setReg off v).soft = s.soft := rfl
@[simp] theorem setReg_out (off v : Nat) : (s.setReg off v).out = s.out := rfl
@[simp] theorem setReg_el (off v : Nat) : (s.setReg off v).el = s.el := rfl
@[simp] theorem setReg_cores (off v : Nat) : (s.setReg off v).cores = s.cores := rfl
@[simp] theorem setReg_signals (off v : Nat) : (s.setReg off v).signals = s.signals := rfl
@[simp] theorem setReg_dikes (off v : Nat) : (s.setReg off v).dikes = s.dikes := rfl
@[simp] theorem setReg_emits (off v : Nat) : (s.setReg off v).emits = s.emits := rfl
@[simp] theorem setReg_chains (off v : Nat) : (s.setReg off v).chains = s.chains := rfl
@[simp] theorem setReg_berm (off v : Nat) : (s.setReg off v).berm = s.berm := rfl
@[simp] theorem setReg_tg (off v : Nat) : (s.setReg off v).tg = s.tg := rfl
@[simp] theorem setReg_models (off v : Nat) : (s.setReg off v).models = s.models := rfl
@[simp] theorem setReg_ti (off v : Nat) : (s.setReg off v).ti = s.ti := rfl
@[simp] theorem setReg_stk (off v : Nat) : (s.setReg off v).stk = s.stk := rfl
@[simp] theorem setReg_kv (off v : Nat) : (s.setReg off v).kv = s.kv := rfl
@[simp] theorem setReg_qus (off v : Nat) : (s.setReg off v).qus = s.qus := rfl
@[simp] theorem setReg_sl (off v : Nat) : (s.setReg off v).sl = s.sl := rfl
@[simp] theorem setReg_cu (off v : Nat) : (s.setReg off v).cu = s.cu := rfl
@[simp] theorem setReg_sk (off v : Nat) : (s.setReg off v).sk = s.sk := rfl
@[simp] theorem setReg_hi (off v : Nat) : (s.setReg off v).hi = s.hi := rfl
@[simp] theorem setReg_dt (off v : Nat) : (s.setReg off v).dt = s.dt := rfl
@[simp] theorem setReg_gl (off v : Nat) : (s.setReg off v).gl = s.gl := rfl
@[simp] theorem setReg_im (off v : Nat) : (s.setReg off v).im = s.im := rfl
@[simp] theorem setReg_mg (off v : Nat) : (s.setReg off v).mg = s.mg := rfl
@[simp] theorem setReg_pw (off v : Nat) : (s.setReg off v).pw = s.pw := rfl
@[simp] theorem setReg_jt (off v : Nat) : (s.setReg off v).jt = s.jt := rfl
@[simp] theorem setReg_seamKey (off v : Nat) : (s.setReg off v).seamKey = s.seamKey := rfl
@[simp] theorem setReg_keys (off v : Nat) : (s.setReg off v).keys = s.keys := rfl

/-! orReg -/

@[simp] theorem orReg_pending (off v : Nat) : (s.orReg off v).pending = s.pending := rfl
@[simp] theorem orReg_clk (off v : Nat) : (s.orReg off v).clk = s.clk := rfl
@[simp] theorem orReg_free (off v : Nat) : (s.orReg off v).free = s.free := rfl
@[simp] theorem orReg_mem (off v : Nat) : (s.orReg off v).mem = s.mem := rfl
@[simp] theorem orReg_bad (off v : Nat) : (s.orReg off v).bad = s.bad := rfl
@[simp] theorem orReg_soft (off v : Nat) : (s.orReg off v).soft = s.soft := rfl
@[simp] theorem orReg_out (off v : Nat) : (s.orReg off v).out = s.out := rfl
@[simp] theorem orReg_el (off v : Nat) : (s.orReg off v).el = s.el := rfl
@[simp] theorem orReg_cores (off v : Nat) : (s.orReg off v).cores = s.cores := rfl
@[simp] theorem orReg_signals (off v : Nat) : (s.orReg off v).signals = s.signals := rfl
@[simp] theorem orReg_dikes (off v : Nat) : (s.orReg off v).dikes = s.dikes := rfl
@[simp] theorem orReg_emits (off v : Nat) : (s.orReg off v).emits = s.emits := rfl
@[simp] theorem orReg_chains (off v : Nat) : (s.orReg off v).chains = s.chains := rfl
@[simp] theorem orReg_berm (off v : Nat) : (s.orReg off v).berm = s.berm := rfl
@[simp] theorem orReg_tg (off v : Nat) : (s.orReg off v).tg = s.tg := rfl
@[simp] theorem orReg_models (off v : Nat) : (s.orReg off v).models = s.models := rfl
@[simp] theorem orReg_ti (off v : Nat) : (s.orReg off v).ti = s.ti := rfl
@[simp] theorem orReg_stk (off v : Nat) : (s.orReg off v).stk = s.stk := rfl
@[simp] theorem orReg_kv (off v : Nat) : (s.orReg off v).kv = s.kv := rfl
@[simp] theorem orReg_qus (off v : Nat) : (s.orReg off v).qus = s.qus := rfl
@[simp] theorem orReg_sl (off v : Nat) : (s.orReg off v).sl = s.sl := rfl
@[simp] theorem orReg_cu (off v : Nat) : (s.orReg off v).cu = s.cu := rfl
@[simp] theorem orReg_sk (off v : Nat) : (s.orReg off v).sk = s.sk := rfl
@[simp] theorem orReg_hi (off v : Nat) : (s.orReg off v).hi = s.hi := rfl
@[simp] theorem orReg_dt (off v : Nat) : (s.orReg off v).dt = s.dt := rfl
@[simp] theorem orReg_gl (off v : Nat) : (s.orReg off v).gl = s.gl := rfl
@[simp] theorem orReg_im (off v : Nat) : (s.orReg off v).im = s.im := rfl
@[simp] theorem orReg_mg (off v : Nat) : (s.orReg off v).mg = s.mg := rfl
@[simp] theorem orReg_pw (off v : Nat) : (s.orReg off v).pw = s.pw := rfl
@[simp] theorem orReg_jt (off v : Nat) : (s.orReg off v).jt = s.jt := rfl
@[simp] theorem orReg_seamKey (off v : Nat) : (s.orReg off v).seamKey = s.seamKey := rfl
@[simp] theorem orReg_keys (off v : Nat) : (s.orReg off v).keys = s.keys := rfl

/-! setReg64 -/

@[simp] theorem setReg64_pending (off v : Nat) : (s.setReg64 off v).pending = s.pending := rfl
@[simp] theorem setReg64_clk (off v : Nat) : (s.setReg64 off v).clk = s.clk := rfl
@[simp] theorem setReg64_free (off v : Nat) : (s.setReg64 off v).free = s.free := rfl
@[simp] theorem setReg64_mem (off v : Nat) : (s.setReg64 off v).mem = s.mem := rfl
@[simp] theorem setReg64_bad (off v : Nat) : (s.setReg64 off v).bad = s.bad := rfl
@[simp] theorem setReg64_soft (off v : Nat) : (s.setReg64 off v).soft = s.soft := rfl
@[simp] theorem setReg64_out (off v : Nat) : (s.setReg64 off v).out = s.out := rfl
@[simp] theorem setReg64_el (off v : Nat) : (s.setReg64 off v).el = s.el := rfl
@[simp] theorem setReg64_cores (off v : Nat) : (s.setReg64 off v).cores = s.cores := rfl
@[simp] theorem setReg64_signals (off v : Nat) : (s.setReg64 off v).signals = s.signals := rfl
@[simp] theorem setReg64_dikes (off v : Nat) : (s.setReg64 off v).dikes = s.dikes := rfl
@[simp] theorem setReg64_emits (off v : Nat) : (s.setReg64 off v).emits = s.emits := rfl
@[simp] theorem setReg64_chains (off v : Nat) : (s.setReg64 off v).chains = s.chains := rfl
@[simp] theorem setReg64_berm (off v : Nat) : (s.setReg64 off v).berm = s.berm := rfl
@[simp] theorem setReg64_tg (off v : Nat) : (s.setReg64 off v).tg = s.tg := rfl
@[simp] theorem setReg64_models (off v : Nat) : (s.setReg64 off v).models = s.models := rfl
@[simp] theorem setReg64_ti (off v : Nat) : (s.setReg64 off v).ti = s.ti := rfl
@[simp] theorem setReg64_stk (off v : Nat) : (s.setReg64 off v).stk = s.stk := rfl
@[simp] theorem setReg64_kv (off v : Nat) : (s.setReg64 off v).kv = s.kv := rfl
@[simp] theorem setReg64_qus (off v : Nat) : (s.setReg64 off v).qus = s.qus := rfl
@[simp] theorem setReg64_sl (off v : Nat) : (s.setReg64 off v).sl = s.sl := rfl
@[simp] theorem setReg64_cu (off v : Nat) : (s.setReg64 off v).cu = s.cu := rfl
@[simp] theorem setReg64_sk (off v : Nat) : (s.setReg64 off v).sk = s.sk := rfl
@[simp] theorem setReg64_hi (off v : Nat) : (s.setReg64 off v).hi = s.hi := rfl
@[simp] theorem setReg64_dt (off v : Nat) : (s.setReg64 off v).dt = s.dt := rfl
@[simp] theorem setReg64_gl (off v : Nat) : (s.setReg64 off v).gl = s.gl := rfl
@[simp] theorem setReg64_im (off v : Nat) : (s.setReg64 off v).im = s.im := rfl
@[simp] theorem setReg64_mg (off v : Nat) : (s.setReg64 off v).mg = s.mg := rfl
@[simp] theorem setReg64_pw (off v : Nat) : (s.setReg64 off v).pw = s.pw := rfl
@[simp] theorem setReg64_jt (off v : Nat) : (s.setReg64 off v).jt = s.jt := rfl
@[simp] theorem setReg64_seamKey (off v : Nat) : (s.setReg64 off v).seamKey = s.seamKey := rfl
@[simp] theorem setReg64_keys (off v : Nat) : (s.setReg64 off v).keys = s.keys := rfl

/-! count32 -/

@[simp] theorem count32_pending (off n : Nat) : (s.count32 off n).pending = s.pending := rfl
@[simp] theorem count32_clk (off n : Nat) : (s.count32 off n).clk = s.clk := rfl
@[simp] theorem count32_free (off n : Nat) : (s.count32 off n).free = s.free := rfl
@[simp] theorem count32_mem (off n : Nat) : (s.count32 off n).mem = s.mem := rfl
@[simp] theorem count32_bad (off n : Nat) : (s.count32 off n).bad = s.bad := rfl
@[simp] theorem count32_soft (off n : Nat) : (s.count32 off n).soft = s.soft := rfl
@[simp] theorem count32_out (off n : Nat) : (s.count32 off n).out = s.out := rfl
@[simp] theorem count32_el (off n : Nat) : (s.count32 off n).el = s.el := rfl
@[simp] theorem count32_cores (off n : Nat) : (s.count32 off n).cores = s.cores := rfl
@[simp] theorem count32_signals (off n : Nat) : (s.count32 off n).signals = s.signals := rfl
@[simp] theorem count32_dikes (off n : Nat) : (s.count32 off n).dikes = s.dikes := rfl
@[simp] theorem count32_emits (off n : Nat) : (s.count32 off n).emits = s.emits := rfl
@[simp] theorem count32_chains (off n : Nat) : (s.count32 off n).chains = s.chains := rfl
@[simp] theorem count32_berm (off n : Nat) : (s.count32 off n).berm = s.berm := rfl
@[simp] theorem count32_tg (off n : Nat) : (s.count32 off n).tg = s.tg := rfl
@[simp] theorem count32_models (off n : Nat) : (s.count32 off n).models = s.models := rfl
@[simp] theorem count32_ti (off n : Nat) : (s.count32 off n).ti = s.ti := rfl
@[simp] theorem count32_stk (off n : Nat) : (s.count32 off n).stk = s.stk := rfl
@[simp] theorem count32_kv (off n : Nat) : (s.count32 off n).kv = s.kv := rfl
@[simp] theorem count32_qus (off n : Nat) : (s.count32 off n).qus = s.qus := rfl
@[simp] theorem count32_sl (off n : Nat) : (s.count32 off n).sl = s.sl := rfl
@[simp] theorem count32_cu (off n : Nat) : (s.count32 off n).cu = s.cu := rfl
@[simp] theorem count32_sk (off n : Nat) : (s.count32 off n).sk = s.sk := rfl
@[simp] theorem count32_hi (off n : Nat) : (s.count32 off n).hi = s.hi := rfl
@[simp] theorem count32_dt (off n : Nat) : (s.count32 off n).dt = s.dt := rfl
@[simp] theorem count32_gl (off n : Nat) : (s.count32 off n).gl = s.gl := rfl
@[simp] theorem count32_im (off n : Nat) : (s.count32 off n).im = s.im := rfl
@[simp] theorem count32_mg (off n : Nat) : (s.count32 off n).mg = s.mg := rfl
@[simp] theorem count32_pw (off n : Nat) : (s.count32 off n).pw = s.pw := rfl
@[simp] theorem count32_jt (off n : Nat) : (s.count32 off n).jt = s.jt := rfl
@[simp] theorem count32_seamKey (off n : Nat) : (s.count32 off n).seamKey = s.seamKey := rfl
@[simp] theorem count32_keys (off n : Nat) : (s.count32 off n).keys = s.keys := rfl

/-! send -/

@[simp] theorem send_pending (m : Out) : (s.send m).pending = s.pending := rfl
@[simp] theorem send_clk (m : Out) : (s.send m).clk = s.clk := rfl
@[simp] theorem send_free (m : Out) : (s.send m).free = s.free := rfl
@[simp] theorem send_regs (m : Out) : (s.send m).regs = s.regs := rfl
@[simp] theorem send_mem (m : Out) : (s.send m).mem = s.mem := rfl
@[simp] theorem send_bad (m : Out) : (s.send m).bad = s.bad := rfl
@[simp] theorem send_soft (m : Out) : (s.send m).soft = s.soft := rfl
@[simp] theorem send_el (m : Out) : (s.send m).el = s.el := rfl
@[simp] theorem send_cores (m : Out) : (s.send m).cores = s.cores := rfl
@[simp] theorem send_signals (m : Out) : (s.send m).signals = s.signals := rfl
@[simp] theorem send_dikes (m : Out) : (s.send m).dikes = s.dikes := rfl
@[simp] theorem send_emits (m : Out) : (s.send m).emits = s.emits := rfl
@[simp] theorem send_chains (m : Out) : (s.send m).chains = s.chains := rfl
@[simp] theorem send_berm (m : Out) : (s.send m).berm = s.berm := rfl
@[simp] theorem send_tg (m : Out) : (s.send m).tg = s.tg := rfl
@[simp] theorem send_models (m : Out) : (s.send m).models = s.models := rfl
@[simp] theorem send_ti (m : Out) : (s.send m).ti = s.ti := rfl
@[simp] theorem send_stk (m : Out) : (s.send m).stk = s.stk := rfl
@[simp] theorem send_kv (m : Out) : (s.send m).kv = s.kv := rfl
@[simp] theorem send_qus (m : Out) : (s.send m).qus = s.qus := rfl
@[simp] theorem send_sl (m : Out) : (s.send m).sl = s.sl := rfl
@[simp] theorem send_cu (m : Out) : (s.send m).cu = s.cu := rfl
@[simp] theorem send_sk (m : Out) : (s.send m).sk = s.sk := rfl
@[simp] theorem send_hi (m : Out) : (s.send m).hi = s.hi := rfl
@[simp] theorem send_dt (m : Out) : (s.send m).dt = s.dt := rfl
@[simp] theorem send_gl (m : Out) : (s.send m).gl = s.gl := rfl
@[simp] theorem send_im (m : Out) : (s.send m).im = s.im := rfl
@[simp] theorem send_mg (m : Out) : (s.send m).mg = s.mg := rfl
@[simp] theorem send_pw (m : Out) : (s.send m).pw = s.pw := rfl
@[simp] theorem send_jt (m : Out) : (s.send m).jt = s.jt := rfl
@[simp] theorem send_seamKey (m : Out) : (s.send m).seamKey = s.seamKey := rfl
@[simp] theorem send_keys (m : Out) : (s.send m).keys = s.keys := rfl

/-! raise -/

@[simp] theorem raise_pending (r : Report) : (s.raise r).pending = s.pending := rfl
@[simp] theorem raise_clk (r : Report) : (s.raise r).clk = s.clk := rfl
@[simp] theorem raise_free (r : Report) : (s.raise r).free = s.free := rfl
@[simp] theorem raise_regs (r : Report) : (s.raise r).regs = s.regs := rfl
@[simp] theorem raise_mem (r : Report) : (s.raise r).mem = s.mem := rfl
@[simp] theorem raise_bad (r : Report) : (s.raise r).bad = s.bad := rfl
@[simp] theorem raise_soft (r : Report) : (s.raise r).soft = s.soft := rfl
@[simp] theorem raise_out (r : Report) : (s.raise r).out = s.out := rfl
@[simp] theorem raise_cores (r : Report) : (s.raise r).cores = s.cores := rfl
@[simp] theorem raise_signals (r : Report) : (s.raise r).signals = s.signals := rfl
@[simp] theorem raise_dikes (r : Report) : (s.raise r).dikes = s.dikes := rfl
@[simp] theorem raise_emits (r : Report) : (s.raise r).emits = s.emits := rfl
@[simp] theorem raise_chains (r : Report) : (s.raise r).chains = s.chains := rfl
@[simp] theorem raise_berm (r : Report) : (s.raise r).berm = s.berm := rfl
@[simp] theorem raise_tg (r : Report) : (s.raise r).tg = s.tg := rfl
@[simp] theorem raise_models (r : Report) : (s.raise r).models = s.models := rfl
@[simp] theorem raise_ti (r : Report) : (s.raise r).ti = s.ti := rfl
@[simp] theorem raise_stk (r : Report) : (s.raise r).stk = s.stk := rfl
@[simp] theorem raise_kv (r : Report) : (s.raise r).kv = s.kv := rfl
@[simp] theorem raise_qus (r : Report) : (s.raise r).qus = s.qus := rfl
@[simp] theorem raise_sl (r : Report) : (s.raise r).sl = s.sl := rfl
@[simp] theorem raise_cu (r : Report) : (s.raise r).cu = s.cu := rfl
@[simp] theorem raise_sk (r : Report) : (s.raise r).sk = s.sk := rfl
@[simp] theorem raise_hi (r : Report) : (s.raise r).hi = s.hi := rfl
@[simp] theorem raise_dt (r : Report) : (s.raise r).dt = s.dt := rfl
@[simp] theorem raise_gl (r : Report) : (s.raise r).gl = s.gl := rfl
@[simp] theorem raise_im (r : Report) : (s.raise r).im = s.im := rfl
@[simp] theorem raise_mg (r : Report) : (s.raise r).mg = s.mg := rfl
@[simp] theorem raise_pw (r : Report) : (s.raise r).pw = s.pw := rfl
@[simp] theorem raise_jt (r : Report) : (s.raise r).jt = s.jt := rfl
@[simp] theorem raise_seamKey (r : Report) : (s.raise r).seamKey = s.seamKey := rfl
@[simp] theorem raise_keys (r : Report) : (s.raise r).keys = s.keys := rfl

/-! report -/

@[simp] theorem report_pending (cls blk cause source data : Nat) : (s.report cls blk cause source data).pending = s.pending := rfl
@[simp] theorem report_clk (cls blk cause source data : Nat) : (s.report cls blk cause source data).clk = s.clk := rfl
@[simp] theorem report_free (cls blk cause source data : Nat) : (s.report cls blk cause source data).free = s.free := rfl
@[simp] theorem report_regs (cls blk cause source data : Nat) : (s.report cls blk cause source data).regs = s.regs := rfl
@[simp] theorem report_mem (cls blk cause source data : Nat) : (s.report cls blk cause source data).mem = s.mem := rfl
@[simp] theorem report_bad (cls blk cause source data : Nat) : (s.report cls blk cause source data).bad = s.bad := rfl
@[simp] theorem report_soft (cls blk cause source data : Nat) : (s.report cls blk cause source data).soft = s.soft := rfl
@[simp] theorem report_out (cls blk cause source data : Nat) : (s.report cls blk cause source data).out = s.out := rfl
@[simp] theorem report_cores (cls blk cause source data : Nat) : (s.report cls blk cause source data).cores = s.cores := rfl
@[simp] theorem report_signals (cls blk cause source data : Nat) : (s.report cls blk cause source data).signals = s.signals := rfl
@[simp] theorem report_dikes (cls blk cause source data : Nat) : (s.report cls blk cause source data).dikes = s.dikes := rfl
@[simp] theorem report_emits (cls blk cause source data : Nat) : (s.report cls blk cause source data).emits = s.emits := rfl
@[simp] theorem report_chains (cls blk cause source data : Nat) : (s.report cls blk cause source data).chains = s.chains := rfl
@[simp] theorem report_berm (cls blk cause source data : Nat) : (s.report cls blk cause source data).berm = s.berm := rfl
@[simp] theorem report_tg (cls blk cause source data : Nat) : (s.report cls blk cause source data).tg = s.tg := rfl
@[simp] theorem report_models (cls blk cause source data : Nat) : (s.report cls blk cause source data).models = s.models := rfl
@[simp] theorem report_ti (cls blk cause source data : Nat) : (s.report cls blk cause source data).ti = s.ti := rfl
@[simp] theorem report_stk (cls blk cause source data : Nat) : (s.report cls blk cause source data).stk = s.stk := rfl
@[simp] theorem report_kv (cls blk cause source data : Nat) : (s.report cls blk cause source data).kv = s.kv := rfl
@[simp] theorem report_qus (cls blk cause source data : Nat) : (s.report cls blk cause source data).qus = s.qus := rfl
@[simp] theorem report_sl (cls blk cause source data : Nat) : (s.report cls blk cause source data).sl = s.sl := rfl
@[simp] theorem report_cu (cls blk cause source data : Nat) : (s.report cls blk cause source data).cu = s.cu := rfl
@[simp] theorem report_sk (cls blk cause source data : Nat) : (s.report cls blk cause source data).sk = s.sk := rfl
@[simp] theorem report_hi (cls blk cause source data : Nat) : (s.report cls blk cause source data).hi = s.hi := rfl
@[simp] theorem report_dt (cls blk cause source data : Nat) : (s.report cls blk cause source data).dt = s.dt := rfl
@[simp] theorem report_gl (cls blk cause source data : Nat) : (s.report cls blk cause source data).gl = s.gl := rfl
@[simp] theorem report_im (cls blk cause source data : Nat) : (s.report cls blk cause source data).im = s.im := rfl
@[simp] theorem report_mg (cls blk cause source data : Nat) : (s.report cls blk cause source data).mg = s.mg := rfl
@[simp] theorem report_pw (cls blk cause source data : Nat) : (s.report cls blk cause source data).pw = s.pw := rfl
@[simp] theorem report_jt (cls blk cause source data : Nat) : (s.report cls blk cause source data).jt = s.jt := rfl
@[simp] theorem report_seamKey (cls blk cause source data : Nat) : (s.report cls blk cause source data).seamKey = s.seamKey := rfl
@[simp] theorem report_keys (cls blk cause source data : Nat) : (s.report cls blk cause source data).keys = s.keys := rfl

/-! reportAt -/

@[simp] theorem reportAt_pending (cls blk cause source addr : Nat) : (s.reportAt cls blk cause source addr).pending = s.pending := rfl
@[simp] theorem reportAt_clk (cls blk cause source addr : Nat) : (s.reportAt cls blk cause source addr).clk = s.clk := rfl
@[simp] theorem reportAt_free (cls blk cause source addr : Nat) : (s.reportAt cls blk cause source addr).free = s.free := rfl
@[simp] theorem reportAt_regs (cls blk cause source addr : Nat) : (s.reportAt cls blk cause source addr).regs = s.regs := rfl
@[simp] theorem reportAt_mem (cls blk cause source addr : Nat) : (s.reportAt cls blk cause source addr).mem = s.mem := rfl
@[simp] theorem reportAt_bad (cls blk cause source addr : Nat) : (s.reportAt cls blk cause source addr).bad = s.bad := rfl
@[simp] theorem reportAt_soft (cls blk cause source addr : Nat) : (s.reportAt cls blk cause source addr).soft = s.soft := rfl
@[simp] theorem reportAt_out (cls blk cause source addr : Nat) : (s.reportAt cls blk cause source addr).out = s.out := rfl
@[simp] theorem reportAt_cores (cls blk cause source addr : Nat) : (s.reportAt cls blk cause source addr).cores = s.cores := rfl
@[simp] theorem reportAt_signals (cls blk cause source addr : Nat) : (s.reportAt cls blk cause source addr).signals = s.signals := rfl
@[simp] theorem reportAt_dikes (cls blk cause source addr : Nat) : (s.reportAt cls blk cause source addr).dikes = s.dikes := rfl
@[simp] theorem reportAt_emits (cls blk cause source addr : Nat) : (s.reportAt cls blk cause source addr).emits = s.emits := rfl
@[simp] theorem reportAt_chains (cls blk cause source addr : Nat) : (s.reportAt cls blk cause source addr).chains = s.chains := rfl
@[simp] theorem reportAt_berm (cls blk cause source addr : Nat) : (s.reportAt cls blk cause source addr).berm = s.berm := rfl
@[simp] theorem reportAt_tg (cls blk cause source addr : Nat) : (s.reportAt cls blk cause source addr).tg = s.tg := rfl
@[simp] theorem reportAt_models (cls blk cause source addr : Nat) : (s.reportAt cls blk cause source addr).models = s.models := rfl
@[simp] theorem reportAt_ti (cls blk cause source addr : Nat) : (s.reportAt cls blk cause source addr).ti = s.ti := rfl
@[simp] theorem reportAt_stk (cls blk cause source addr : Nat) : (s.reportAt cls blk cause source addr).stk = s.stk := rfl
@[simp] theorem reportAt_kv (cls blk cause source addr : Nat) : (s.reportAt cls blk cause source addr).kv = s.kv := rfl
@[simp] theorem reportAt_qus (cls blk cause source addr : Nat) : (s.reportAt cls blk cause source addr).qus = s.qus := rfl
@[simp] theorem reportAt_sl (cls blk cause source addr : Nat) : (s.reportAt cls blk cause source addr).sl = s.sl := rfl
@[simp] theorem reportAt_cu (cls blk cause source addr : Nat) : (s.reportAt cls blk cause source addr).cu = s.cu := rfl
@[simp] theorem reportAt_sk (cls blk cause source addr : Nat) : (s.reportAt cls blk cause source addr).sk = s.sk := rfl
@[simp] theorem reportAt_hi (cls blk cause source addr : Nat) : (s.reportAt cls blk cause source addr).hi = s.hi := rfl
@[simp] theorem reportAt_dt (cls blk cause source addr : Nat) : (s.reportAt cls blk cause source addr).dt = s.dt := rfl
@[simp] theorem reportAt_gl (cls blk cause source addr : Nat) : (s.reportAt cls blk cause source addr).gl = s.gl := rfl
@[simp] theorem reportAt_im (cls blk cause source addr : Nat) : (s.reportAt cls blk cause source addr).im = s.im := rfl
@[simp] theorem reportAt_mg (cls blk cause source addr : Nat) : (s.reportAt cls blk cause source addr).mg = s.mg := rfl
@[simp] theorem reportAt_pw (cls blk cause source addr : Nat) : (s.reportAt cls blk cause source addr).pw = s.pw := rfl
@[simp] theorem reportAt_jt (cls blk cause source addr : Nat) : (s.reportAt cls blk cause source addr).jt = s.jt := rfl
@[simp] theorem reportAt_seamKey (cls blk cause source addr : Nat) : (s.reportAt cls blk cause source addr).seamKey = s.seamKey := rfl
@[simp] theorem reportAt_keys (cls blk cause source addr : Nat) : (s.reportAt cls blk cause source addr).keys = s.keys := rfl

/-! writeMem -/

@[simp] theorem writeMem_pending (a : Nat) (bs : List Byte) : (s.writeMem a bs).pending = s.pending := rfl
@[simp] theorem writeMem_clk (a : Nat) (bs : List Byte) : (s.writeMem a bs).clk = s.clk := rfl
@[simp] theorem writeMem_free (a : Nat) (bs : List Byte) : (s.writeMem a bs).free = s.free := rfl
@[simp] theorem writeMem_regs (a : Nat) (bs : List Byte) : (s.writeMem a bs).regs = s.regs := rfl
@[simp] theorem writeMem_out (a : Nat) (bs : List Byte) : (s.writeMem a bs).out = s.out := rfl
@[simp] theorem writeMem_el (a : Nat) (bs : List Byte) : (s.writeMem a bs).el = s.el := rfl
@[simp] theorem writeMem_cores (a : Nat) (bs : List Byte) : (s.writeMem a bs).cores = s.cores := rfl
@[simp] theorem writeMem_signals (a : Nat) (bs : List Byte) : (s.writeMem a bs).signals = s.signals := rfl
@[simp] theorem writeMem_dikes (a : Nat) (bs : List Byte) : (s.writeMem a bs).dikes = s.dikes := rfl
@[simp] theorem writeMem_emits (a : Nat) (bs : List Byte) : (s.writeMem a bs).emits = s.emits := rfl
@[simp] theorem writeMem_chains (a : Nat) (bs : List Byte) : (s.writeMem a bs).chains = s.chains := rfl
@[simp] theorem writeMem_berm (a : Nat) (bs : List Byte) : (s.writeMem a bs).berm = s.berm := rfl
@[simp] theorem writeMem_tg (a : Nat) (bs : List Byte) : (s.writeMem a bs).tg = s.tg := rfl
@[simp] theorem writeMem_models (a : Nat) (bs : List Byte) : (s.writeMem a bs).models = s.models := rfl
@[simp] theorem writeMem_ti (a : Nat) (bs : List Byte) : (s.writeMem a bs).ti = s.ti := rfl
@[simp] theorem writeMem_stk (a : Nat) (bs : List Byte) : (s.writeMem a bs).stk = s.stk := rfl
@[simp] theorem writeMem_kv (a : Nat) (bs : List Byte) : (s.writeMem a bs).kv = s.kv := rfl
@[simp] theorem writeMem_qus (a : Nat) (bs : List Byte) : (s.writeMem a bs).qus = s.qus := rfl
@[simp] theorem writeMem_sl (a : Nat) (bs : List Byte) : (s.writeMem a bs).sl = s.sl := rfl
@[simp] theorem writeMem_cu (a : Nat) (bs : List Byte) : (s.writeMem a bs).cu = s.cu := rfl
@[simp] theorem writeMem_sk (a : Nat) (bs : List Byte) : (s.writeMem a bs).sk = s.sk := rfl
@[simp] theorem writeMem_hi (a : Nat) (bs : List Byte) : (s.writeMem a bs).hi = s.hi := rfl
@[simp] theorem writeMem_dt (a : Nat) (bs : List Byte) : (s.writeMem a bs).dt = s.dt := rfl
@[simp] theorem writeMem_gl (a : Nat) (bs : List Byte) : (s.writeMem a bs).gl = s.gl := rfl
@[simp] theorem writeMem_im (a : Nat) (bs : List Byte) : (s.writeMem a bs).im = s.im := rfl
@[simp] theorem writeMem_mg (a : Nat) (bs : List Byte) : (s.writeMem a bs).mg = s.mg := rfl
@[simp] theorem writeMem_pw (a : Nat) (bs : List Byte) : (s.writeMem a bs).pw = s.pw := rfl
@[simp] theorem writeMem_jt (a : Nat) (bs : List Byte) : (s.writeMem a bs).jt = s.jt := rfl
@[simp] theorem writeMem_seamKey (a : Nat) (bs : List Byte) : (s.writeMem a bs).seamKey = s.seamKey := rfl
@[simp] theorem writeMem_keys (a : Nat) (bs : List Byte) : (s.writeMem a bs).keys = s.keys := rfl

/-! writeStore -/

@[simp] theorem writeStore_pending (c a : Nat) (bs : List Byte) : (s.writeStore c a bs).pending = s.pending := rfl
@[simp] theorem writeStore_clk (c a : Nat) (bs : List Byte) : (s.writeStore c a bs).clk = s.clk := rfl
@[simp] theorem writeStore_free (c a : Nat) (bs : List Byte) : (s.writeStore c a bs).free = s.free := rfl
@[simp] theorem writeStore_regs (c a : Nat) (bs : List Byte) : (s.writeStore c a bs).regs = s.regs := rfl
@[simp] theorem writeStore_out (c a : Nat) (bs : List Byte) : (s.writeStore c a bs).out = s.out := rfl
@[simp] theorem writeStore_el (c a : Nat) (bs : List Byte) : (s.writeStore c a bs).el = s.el := rfl
@[simp] theorem writeStore_cores (c a : Nat) (bs : List Byte) : (s.writeStore c a bs).cores = s.cores := rfl
@[simp] theorem writeStore_signals (c a : Nat) (bs : List Byte) : (s.writeStore c a bs).signals = s.signals := rfl
@[simp] theorem writeStore_dikes (c a : Nat) (bs : List Byte) : (s.writeStore c a bs).dikes = s.dikes := rfl
@[simp] theorem writeStore_emits (c a : Nat) (bs : List Byte) : (s.writeStore c a bs).emits = s.emits := rfl
@[simp] theorem writeStore_chains (c a : Nat) (bs : List Byte) : (s.writeStore c a bs).chains = s.chains := rfl
@[simp] theorem writeStore_berm (c a : Nat) (bs : List Byte) : (s.writeStore c a bs).berm = s.berm := rfl
@[simp] theorem writeStore_tg (c a : Nat) (bs : List Byte) : (s.writeStore c a bs).tg = s.tg := rfl
@[simp] theorem writeStore_models (c a : Nat) (bs : List Byte) : (s.writeStore c a bs).models = s.models := rfl
@[simp] theorem writeStore_ti (c a : Nat) (bs : List Byte) : (s.writeStore c a bs).ti = s.ti := rfl
@[simp] theorem writeStore_stk (c a : Nat) (bs : List Byte) : (s.writeStore c a bs).stk = s.stk := rfl
@[simp] theorem writeStore_kv (c a : Nat) (bs : List Byte) : (s.writeStore c a bs).kv = s.kv := rfl
@[simp] theorem writeStore_qus (c a : Nat) (bs : List Byte) : (s.writeStore c a bs).qus = s.qus := rfl
@[simp] theorem writeStore_sl (c a : Nat) (bs : List Byte) : (s.writeStore c a bs).sl = s.sl := rfl
@[simp] theorem writeStore_cu (c a : Nat) (bs : List Byte) : (s.writeStore c a bs).cu = s.cu := rfl
@[simp] theorem writeStore_sk (c a : Nat) (bs : List Byte) : (s.writeStore c a bs).sk = s.sk := rfl
@[simp] theorem writeStore_hi (c a : Nat) (bs : List Byte) : (s.writeStore c a bs).hi = s.hi := rfl
@[simp] theorem writeStore_dt (c a : Nat) (bs : List Byte) : (s.writeStore c a bs).dt = s.dt := rfl
@[simp] theorem writeStore_gl (c a : Nat) (bs : List Byte) : (s.writeStore c a bs).gl = s.gl := rfl
@[simp] theorem writeStore_im (c a : Nat) (bs : List Byte) : (s.writeStore c a bs).im = s.im := rfl
@[simp] theorem writeStore_mg (c a : Nat) (bs : List Byte) : (s.writeStore c a bs).mg = s.mg := rfl
@[simp] theorem writeStore_pw (c a : Nat) (bs : List Byte) : (s.writeStore c a bs).pw = s.pw := rfl
@[simp] theorem writeStore_jt (c a : Nat) (bs : List Byte) : (s.writeStore c a bs).jt = s.jt := rfl
@[simp] theorem writeStore_seamKey (c a : Nat) (bs : List Byte) : (s.writeStore c a bs).seamKey = s.seamKey := rfl
@[simp] theorem writeStore_keys (c a : Nat) (bs : List Byte) : (s.writeStore c a bs).keys = s.keys := rfl

/-! setCore -/

@[simp] theorem setCore_pending (c : Nat) (x : CoreState) : (s.setCore c x).pending = s.pending := rfl
@[simp] theorem setCore_clk (c : Nat) (x : CoreState) : (s.setCore c x).clk = s.clk := rfl
@[simp] theorem setCore_free (c : Nat) (x : CoreState) : (s.setCore c x).free = s.free := rfl
@[simp] theorem setCore_regs (c : Nat) (x : CoreState) : (s.setCore c x).regs = s.regs := rfl
@[simp] theorem setCore_mem (c : Nat) (x : CoreState) : (s.setCore c x).mem = s.mem := rfl
@[simp] theorem setCore_bad (c : Nat) (x : CoreState) : (s.setCore c x).bad = s.bad := rfl
@[simp] theorem setCore_soft (c : Nat) (x : CoreState) : (s.setCore c x).soft = s.soft := rfl
@[simp] theorem setCore_out (c : Nat) (x : CoreState) : (s.setCore c x).out = s.out := rfl
@[simp] theorem setCore_el (c : Nat) (x : CoreState) : (s.setCore c x).el = s.el := rfl
@[simp] theorem setCore_signals (c : Nat) (x : CoreState) : (s.setCore c x).signals = s.signals := rfl
@[simp] theorem setCore_dikes (c : Nat) (x : CoreState) : (s.setCore c x).dikes = s.dikes := rfl
@[simp] theorem setCore_emits (c : Nat) (x : CoreState) : (s.setCore c x).emits = s.emits := rfl
@[simp] theorem setCore_chains (c : Nat) (x : CoreState) : (s.setCore c x).chains = s.chains := rfl
@[simp] theorem setCore_berm (c : Nat) (x : CoreState) : (s.setCore c x).berm = s.berm := rfl
@[simp] theorem setCore_tg (c : Nat) (x : CoreState) : (s.setCore c x).tg = s.tg := rfl
@[simp] theorem setCore_models (c : Nat) (x : CoreState) : (s.setCore c x).models = s.models := rfl
@[simp] theorem setCore_ti (c : Nat) (x : CoreState) : (s.setCore c x).ti = s.ti := rfl
@[simp] theorem setCore_stk (c : Nat) (x : CoreState) : (s.setCore c x).stk = s.stk := rfl
@[simp] theorem setCore_kv (c : Nat) (x : CoreState) : (s.setCore c x).kv = s.kv := rfl
@[simp] theorem setCore_qus (c : Nat) (x : CoreState) : (s.setCore c x).qus = s.qus := rfl
@[simp] theorem setCore_sl (c : Nat) (x : CoreState) : (s.setCore c x).sl = s.sl := rfl
@[simp] theorem setCore_cu (c : Nat) (x : CoreState) : (s.setCore c x).cu = s.cu := rfl
@[simp] theorem setCore_sk (c : Nat) (x : CoreState) : (s.setCore c x).sk = s.sk := rfl
@[simp] theorem setCore_hi (c : Nat) (x : CoreState) : (s.setCore c x).hi = s.hi := rfl
@[simp] theorem setCore_dt (c : Nat) (x : CoreState) : (s.setCore c x).dt = s.dt := rfl
@[simp] theorem setCore_gl (c : Nat) (x : CoreState) : (s.setCore c x).gl = s.gl := rfl
@[simp] theorem setCore_im (c : Nat) (x : CoreState) : (s.setCore c x).im = s.im := rfl
@[simp] theorem setCore_mg (c : Nat) (x : CoreState) : (s.setCore c x).mg = s.mg := rfl
@[simp] theorem setCore_pw (c : Nat) (x : CoreState) : (s.setCore c x).pw = s.pw := rfl
@[simp] theorem setCore_jt (c : Nat) (x : CoreState) : (s.setCore c x).jt = s.jt := rfl
@[simp] theorem setCore_seamKey (c : Nat) (x : CoreState) : (s.setCore c x).seamKey = s.seamKey := rfl
@[simp] theorem setCore_keys (c : Nat) (x : CoreState) : (s.setCore c x).keys = s.keys := rfl

/-! updCore -/

@[simp] theorem updCore_pending (c : Nat) (f : CoreState → CoreState) : (s.updCore c f).pending = s.pending := rfl
@[simp] theorem updCore_clk (c : Nat) (f : CoreState → CoreState) : (s.updCore c f).clk = s.clk := rfl
@[simp] theorem updCore_free (c : Nat) (f : CoreState → CoreState) : (s.updCore c f).free = s.free := rfl
@[simp] theorem updCore_regs (c : Nat) (f : CoreState → CoreState) : (s.updCore c f).regs = s.regs := rfl
@[simp] theorem updCore_mem (c : Nat) (f : CoreState → CoreState) : (s.updCore c f).mem = s.mem := rfl
@[simp] theorem updCore_bad (c : Nat) (f : CoreState → CoreState) : (s.updCore c f).bad = s.bad := rfl
@[simp] theorem updCore_soft (c : Nat) (f : CoreState → CoreState) : (s.updCore c f).soft = s.soft := rfl
@[simp] theorem updCore_out (c : Nat) (f : CoreState → CoreState) : (s.updCore c f).out = s.out := rfl
@[simp] theorem updCore_el (c : Nat) (f : CoreState → CoreState) : (s.updCore c f).el = s.el := rfl
@[simp] theorem updCore_signals (c : Nat) (f : CoreState → CoreState) : (s.updCore c f).signals = s.signals := rfl
@[simp] theorem updCore_dikes (c : Nat) (f : CoreState → CoreState) : (s.updCore c f).dikes = s.dikes := rfl
@[simp] theorem updCore_emits (c : Nat) (f : CoreState → CoreState) : (s.updCore c f).emits = s.emits := rfl
@[simp] theorem updCore_chains (c : Nat) (f : CoreState → CoreState) : (s.updCore c f).chains = s.chains := rfl
@[simp] theorem updCore_berm (c : Nat) (f : CoreState → CoreState) : (s.updCore c f).berm = s.berm := rfl
@[simp] theorem updCore_tg (c : Nat) (f : CoreState → CoreState) : (s.updCore c f).tg = s.tg := rfl
@[simp] theorem updCore_models (c : Nat) (f : CoreState → CoreState) : (s.updCore c f).models = s.models := rfl
@[simp] theorem updCore_ti (c : Nat) (f : CoreState → CoreState) : (s.updCore c f).ti = s.ti := rfl
@[simp] theorem updCore_stk (c : Nat) (f : CoreState → CoreState) : (s.updCore c f).stk = s.stk := rfl
@[simp] theorem updCore_kv (c : Nat) (f : CoreState → CoreState) : (s.updCore c f).kv = s.kv := rfl
@[simp] theorem updCore_qus (c : Nat) (f : CoreState → CoreState) : (s.updCore c f).qus = s.qus := rfl
@[simp] theorem updCore_sl (c : Nat) (f : CoreState → CoreState) : (s.updCore c f).sl = s.sl := rfl
@[simp] theorem updCore_cu (c : Nat) (f : CoreState → CoreState) : (s.updCore c f).cu = s.cu := rfl
@[simp] theorem updCore_sk (c : Nat) (f : CoreState → CoreState) : (s.updCore c f).sk = s.sk := rfl
@[simp] theorem updCore_hi (c : Nat) (f : CoreState → CoreState) : (s.updCore c f).hi = s.hi := rfl
@[simp] theorem updCore_dt (c : Nat) (f : CoreState → CoreState) : (s.updCore c f).dt = s.dt := rfl
@[simp] theorem updCore_gl (c : Nat) (f : CoreState → CoreState) : (s.updCore c f).gl = s.gl := rfl
@[simp] theorem updCore_im (c : Nat) (f : CoreState → CoreState) : (s.updCore c f).im = s.im := rfl
@[simp] theorem updCore_mg (c : Nat) (f : CoreState → CoreState) : (s.updCore c f).mg = s.mg := rfl
@[simp] theorem updCore_pw (c : Nat) (f : CoreState → CoreState) : (s.updCore c f).pw = s.pw := rfl
@[simp] theorem updCore_jt (c : Nat) (f : CoreState → CoreState) : (s.updCore c f).jt = s.jt := rfl
@[simp] theorem updCore_seamKey (c : Nat) (f : CoreState → CoreState) : (s.updCore c f).seamKey = s.seamKey := rfl
@[simp] theorem updCore_keys (c : Nat) (f : CoreState → CoreState) : (s.updCore c f).keys = s.keys := rfl

/-! hiUpd -/

@[simp] theorem hiUpd_pending (f : HiState → HiState) : (s.hiUpd f).pending = s.pending := rfl
@[simp] theorem hiUpd_clk (f : HiState → HiState) : (s.hiUpd f).clk = s.clk := rfl
@[simp] theorem hiUpd_free (f : HiState → HiState) : (s.hiUpd f).free = s.free := rfl
@[simp] theorem hiUpd_regs (f : HiState → HiState) : (s.hiUpd f).regs = s.regs := rfl
@[simp] theorem hiUpd_mem (f : HiState → HiState) : (s.hiUpd f).mem = s.mem := rfl
@[simp] theorem hiUpd_bad (f : HiState → HiState) : (s.hiUpd f).bad = s.bad := rfl
@[simp] theorem hiUpd_soft (f : HiState → HiState) : (s.hiUpd f).soft = s.soft := rfl
@[simp] theorem hiUpd_out (f : HiState → HiState) : (s.hiUpd f).out = s.out := rfl
@[simp] theorem hiUpd_el (f : HiState → HiState) : (s.hiUpd f).el = s.el := rfl
@[simp] theorem hiUpd_cores (f : HiState → HiState) : (s.hiUpd f).cores = s.cores := rfl
@[simp] theorem hiUpd_signals (f : HiState → HiState) : (s.hiUpd f).signals = s.signals := rfl
@[simp] theorem hiUpd_dikes (f : HiState → HiState) : (s.hiUpd f).dikes = s.dikes := rfl
@[simp] theorem hiUpd_emits (f : HiState → HiState) : (s.hiUpd f).emits = s.emits := rfl
@[simp] theorem hiUpd_chains (f : HiState → HiState) : (s.hiUpd f).chains = s.chains := rfl
@[simp] theorem hiUpd_berm (f : HiState → HiState) : (s.hiUpd f).berm = s.berm := rfl
@[simp] theorem hiUpd_tg (f : HiState → HiState) : (s.hiUpd f).tg = s.tg := rfl
@[simp] theorem hiUpd_models (f : HiState → HiState) : (s.hiUpd f).models = s.models := rfl
@[simp] theorem hiUpd_ti (f : HiState → HiState) : (s.hiUpd f).ti = s.ti := rfl
@[simp] theorem hiUpd_stk (f : HiState → HiState) : (s.hiUpd f).stk = s.stk := rfl
@[simp] theorem hiUpd_kv (f : HiState → HiState) : (s.hiUpd f).kv = s.kv := rfl
@[simp] theorem hiUpd_qus (f : HiState → HiState) : (s.hiUpd f).qus = s.qus := rfl
@[simp] theorem hiUpd_sl (f : HiState → HiState) : (s.hiUpd f).sl = s.sl := rfl
@[simp] theorem hiUpd_cu (f : HiState → HiState) : (s.hiUpd f).cu = s.cu := rfl
@[simp] theorem hiUpd_sk (f : HiState → HiState) : (s.hiUpd f).sk = s.sk := rfl
@[simp] theorem hiUpd_dt (f : HiState → HiState) : (s.hiUpd f).dt = s.dt := rfl
@[simp] theorem hiUpd_gl (f : HiState → HiState) : (s.hiUpd f).gl = s.gl := rfl
@[simp] theorem hiUpd_im (f : HiState → HiState) : (s.hiUpd f).im = s.im := rfl
@[simp] theorem hiUpd_mg (f : HiState → HiState) : (s.hiUpd f).mg = s.mg := rfl
@[simp] theorem hiUpd_pw (f : HiState → HiState) : (s.hiUpd f).pw = s.pw := rfl
@[simp] theorem hiUpd_jt (f : HiState → HiState) : (s.hiUpd f).jt = s.jt := rfl
@[simp] theorem hiUpd_seamKey (f : HiState → HiState) : (s.hiUpd f).seamKey = s.seamKey := rfl
@[simp] theorem hiUpd_keys (f : HiState → HiState) : (s.hiUpd f).keys = s.keys := rfl
@[simp] theorem hiUpd_hi (f : HiState → HiState) : (s.hiUpd f).hi = f s.hi := rfl

/-! setPair -/

@[simp] theorem setPair_pending (q : Nat) (x : QPair) : (s.setPair q x).pending = s.pending := rfl
@[simp] theorem setPair_clk (q : Nat) (x : QPair) : (s.setPair q x).clk = s.clk := rfl
@[simp] theorem setPair_free (q : Nat) (x : QPair) : (s.setPair q x).free = s.free := rfl
@[simp] theorem setPair_regs (q : Nat) (x : QPair) : (s.setPair q x).regs = s.regs := rfl
@[simp] theorem setPair_mem (q : Nat) (x : QPair) : (s.setPair q x).mem = s.mem := rfl
@[simp] theorem setPair_bad (q : Nat) (x : QPair) : (s.setPair q x).bad = s.bad := rfl
@[simp] theorem setPair_soft (q : Nat) (x : QPair) : (s.setPair q x).soft = s.soft := rfl
@[simp] theorem setPair_out (q : Nat) (x : QPair) : (s.setPair q x).out = s.out := rfl
@[simp] theorem setPair_el (q : Nat) (x : QPair) : (s.setPair q x).el = s.el := rfl
@[simp] theorem setPair_cores (q : Nat) (x : QPair) : (s.setPair q x).cores = s.cores := rfl
@[simp] theorem setPair_signals (q : Nat) (x : QPair) : (s.setPair q x).signals = s.signals := rfl
@[simp] theorem setPair_dikes (q : Nat) (x : QPair) : (s.setPair q x).dikes = s.dikes := rfl
@[simp] theorem setPair_emits (q : Nat) (x : QPair) : (s.setPair q x).emits = s.emits := rfl
@[simp] theorem setPair_chains (q : Nat) (x : QPair) : (s.setPair q x).chains = s.chains := rfl
@[simp] theorem setPair_berm (q : Nat) (x : QPair) : (s.setPair q x).berm = s.berm := rfl
@[simp] theorem setPair_tg (q : Nat) (x : QPair) : (s.setPair q x).tg = s.tg := rfl
@[simp] theorem setPair_models (q : Nat) (x : QPair) : (s.setPair q x).models = s.models := rfl
@[simp] theorem setPair_ti (q : Nat) (x : QPair) : (s.setPair q x).ti = s.ti := rfl
@[simp] theorem setPair_stk (q : Nat) (x : QPair) : (s.setPair q x).stk = s.stk := rfl
@[simp] theorem setPair_kv (q : Nat) (x : QPair) : (s.setPair q x).kv = s.kv := rfl
@[simp] theorem setPair_qus (q : Nat) (x : QPair) : (s.setPair q x).qus = s.qus := rfl
@[simp] theorem setPair_sl (q : Nat) (x : QPair) : (s.setPair q x).sl = s.sl := rfl
@[simp] theorem setPair_cu (q : Nat) (x : QPair) : (s.setPair q x).cu = s.cu := rfl
@[simp] theorem setPair_sk (q : Nat) (x : QPair) : (s.setPair q x).sk = s.sk := rfl
@[simp] theorem setPair_dt (q : Nat) (x : QPair) : (s.setPair q x).dt = s.dt := rfl
@[simp] theorem setPair_gl (q : Nat) (x : QPair) : (s.setPair q x).gl = s.gl := rfl
@[simp] theorem setPair_im (q : Nat) (x : QPair) : (s.setPair q x).im = s.im := rfl
@[simp] theorem setPair_mg (q : Nat) (x : QPair) : (s.setPair q x).mg = s.mg := rfl
@[simp] theorem setPair_pw (q : Nat) (x : QPair) : (s.setPair q x).pw = s.pw := rfl
@[simp] theorem setPair_jt (q : Nat) (x : QPair) : (s.setPair q x).jt = s.jt := rfl
@[simp] theorem setPair_seamKey (q : Nat) (x : QPair) : (s.setPair q x).seamKey = s.seamKey := rfl
@[simp] theorem setPair_keys (q : Nat) (x : QPair) : (s.setPair q x).keys = s.keys := rfl

/-! tgUpd -/

@[simp] theorem tgUpd_pending (f : TgState → TgState) : (s.tgUpd f).pending = s.pending := rfl
@[simp] theorem tgUpd_clk (f : TgState → TgState) : (s.tgUpd f).clk = s.clk := rfl
@[simp] theorem tgUpd_free (f : TgState → TgState) : (s.tgUpd f).free = s.free := rfl
@[simp] theorem tgUpd_regs (f : TgState → TgState) : (s.tgUpd f).regs = s.regs := rfl
@[simp] theorem tgUpd_mem (f : TgState → TgState) : (s.tgUpd f).mem = s.mem := rfl
@[simp] theorem tgUpd_bad (f : TgState → TgState) : (s.tgUpd f).bad = s.bad := rfl
@[simp] theorem tgUpd_soft (f : TgState → TgState) : (s.tgUpd f).soft = s.soft := rfl
@[simp] theorem tgUpd_out (f : TgState → TgState) : (s.tgUpd f).out = s.out := rfl
@[simp] theorem tgUpd_el (f : TgState → TgState) : (s.tgUpd f).el = s.el := rfl
@[simp] theorem tgUpd_cores (f : TgState → TgState) : (s.tgUpd f).cores = s.cores := rfl
@[simp] theorem tgUpd_signals (f : TgState → TgState) : (s.tgUpd f).signals = s.signals := rfl
@[simp] theorem tgUpd_dikes (f : TgState → TgState) : (s.tgUpd f).dikes = s.dikes := rfl
@[simp] theorem tgUpd_emits (f : TgState → TgState) : (s.tgUpd f).emits = s.emits := rfl
@[simp] theorem tgUpd_chains (f : TgState → TgState) : (s.tgUpd f).chains = s.chains := rfl
@[simp] theorem tgUpd_berm (f : TgState → TgState) : (s.tgUpd f).berm = s.berm := rfl
@[simp] theorem tgUpd_models (f : TgState → TgState) : (s.tgUpd f).models = s.models := rfl
@[simp] theorem tgUpd_ti (f : TgState → TgState) : (s.tgUpd f).ti = s.ti := rfl
@[simp] theorem tgUpd_stk (f : TgState → TgState) : (s.tgUpd f).stk = s.stk := rfl
@[simp] theorem tgUpd_kv (f : TgState → TgState) : (s.tgUpd f).kv = s.kv := rfl
@[simp] theorem tgUpd_qus (f : TgState → TgState) : (s.tgUpd f).qus = s.qus := rfl
@[simp] theorem tgUpd_sl (f : TgState → TgState) : (s.tgUpd f).sl = s.sl := rfl
@[simp] theorem tgUpd_cu (f : TgState → TgState) : (s.tgUpd f).cu = s.cu := rfl
@[simp] theorem tgUpd_sk (f : TgState → TgState) : (s.tgUpd f).sk = s.sk := rfl
@[simp] theorem tgUpd_hi (f : TgState → TgState) : (s.tgUpd f).hi = s.hi := rfl
@[simp] theorem tgUpd_dt (f : TgState → TgState) : (s.tgUpd f).dt = s.dt := rfl
@[simp] theorem tgUpd_gl (f : TgState → TgState) : (s.tgUpd f).gl = s.gl := rfl
@[simp] theorem tgUpd_im (f : TgState → TgState) : (s.tgUpd f).im = s.im := rfl
@[simp] theorem tgUpd_mg (f : TgState → TgState) : (s.tgUpd f).mg = s.mg := rfl
@[simp] theorem tgUpd_pw (f : TgState → TgState) : (s.tgUpd f).pw = s.pw := rfl
@[simp] theorem tgUpd_jt (f : TgState → TgState) : (s.tgUpd f).jt = s.jt := rfl
@[simp] theorem tgUpd_seamKey (f : TgState → TgState) : (s.tgUpd f).seamKey = s.seamKey := rfl
@[simp] theorem tgUpd_keys (f : TgState → TgState) : (s.tgUpd f).keys = s.keys := rfl
@[simp] theorem tgUpd_tg (f : TgState → TgState) : (s.tgUpd f).tg = f s.tg := rfl

/-! kvUpd -/

@[simp] theorem kvUpd_pending (f : KvState → KvState) : (s.kvUpd f).pending = s.pending := rfl
@[simp] theorem kvUpd_clk (f : KvState → KvState) : (s.kvUpd f).clk = s.clk := rfl
@[simp] theorem kvUpd_free (f : KvState → KvState) : (s.kvUpd f).free = s.free := rfl
@[simp] theorem kvUpd_regs (f : KvState → KvState) : (s.kvUpd f).regs = s.regs := rfl
@[simp] theorem kvUpd_mem (f : KvState → KvState) : (s.kvUpd f).mem = s.mem := rfl
@[simp] theorem kvUpd_bad (f : KvState → KvState) : (s.kvUpd f).bad = s.bad := rfl
@[simp] theorem kvUpd_soft (f : KvState → KvState) : (s.kvUpd f).soft = s.soft := rfl
@[simp] theorem kvUpd_out (f : KvState → KvState) : (s.kvUpd f).out = s.out := rfl
@[simp] theorem kvUpd_el (f : KvState → KvState) : (s.kvUpd f).el = s.el := rfl
@[simp] theorem kvUpd_cores (f : KvState → KvState) : (s.kvUpd f).cores = s.cores := rfl
@[simp] theorem kvUpd_signals (f : KvState → KvState) : (s.kvUpd f).signals = s.signals := rfl
@[simp] theorem kvUpd_dikes (f : KvState → KvState) : (s.kvUpd f).dikes = s.dikes := rfl
@[simp] theorem kvUpd_emits (f : KvState → KvState) : (s.kvUpd f).emits = s.emits := rfl
@[simp] theorem kvUpd_chains (f : KvState → KvState) : (s.kvUpd f).chains = s.chains := rfl
@[simp] theorem kvUpd_berm (f : KvState → KvState) : (s.kvUpd f).berm = s.berm := rfl
@[simp] theorem kvUpd_tg (f : KvState → KvState) : (s.kvUpd f).tg = s.tg := rfl
@[simp] theorem kvUpd_models (f : KvState → KvState) : (s.kvUpd f).models = s.models := rfl
@[simp] theorem kvUpd_ti (f : KvState → KvState) : (s.kvUpd f).ti = s.ti := rfl
@[simp] theorem kvUpd_stk (f : KvState → KvState) : (s.kvUpd f).stk = s.stk := rfl
@[simp] theorem kvUpd_qus (f : KvState → KvState) : (s.kvUpd f).qus = s.qus := rfl
@[simp] theorem kvUpd_sl (f : KvState → KvState) : (s.kvUpd f).sl = s.sl := rfl
@[simp] theorem kvUpd_cu (f : KvState → KvState) : (s.kvUpd f).cu = s.cu := rfl
@[simp] theorem kvUpd_sk (f : KvState → KvState) : (s.kvUpd f).sk = s.sk := rfl
@[simp] theorem kvUpd_hi (f : KvState → KvState) : (s.kvUpd f).hi = s.hi := rfl
@[simp] theorem kvUpd_dt (f : KvState → KvState) : (s.kvUpd f).dt = s.dt := rfl
@[simp] theorem kvUpd_gl (f : KvState → KvState) : (s.kvUpd f).gl = s.gl := rfl
@[simp] theorem kvUpd_im (f : KvState → KvState) : (s.kvUpd f).im = s.im := rfl
@[simp] theorem kvUpd_mg (f : KvState → KvState) : (s.kvUpd f).mg = s.mg := rfl
@[simp] theorem kvUpd_pw (f : KvState → KvState) : (s.kvUpd f).pw = s.pw := rfl
@[simp] theorem kvUpd_jt (f : KvState → KvState) : (s.kvUpd f).jt = s.jt := rfl
@[simp] theorem kvUpd_seamKey (f : KvState → KvState) : (s.kvUpd f).seamKey = s.seamKey := rfl
@[simp] theorem kvUpd_keys (f : KvState → KvState) : (s.kvUpd f).keys = s.keys := rfl
@[simp] theorem kvUpd_kv (f : KvState → KvState) : (s.kvUpd f).kv = f s.kv := rfl

/-! upd -/

@[simp] theorem upd_pending (f : TiState → TiState) : (s.upd f).pending = s.pending := rfl
@[simp] theorem upd_clk (f : TiState → TiState) : (s.upd f).clk = s.clk := rfl
@[simp] theorem upd_free (f : TiState → TiState) : (s.upd f).free = s.free := rfl
@[simp] theorem upd_regs (f : TiState → TiState) : (s.upd f).regs = s.regs := rfl
@[simp] theorem upd_mem (f : TiState → TiState) : (s.upd f).mem = s.mem := rfl
@[simp] theorem upd_bad (f : TiState → TiState) : (s.upd f).bad = s.bad := rfl
@[simp] theorem upd_soft (f : TiState → TiState) : (s.upd f).soft = s.soft := rfl
@[simp] theorem upd_out (f : TiState → TiState) : (s.upd f).out = s.out := rfl
@[simp] theorem upd_el (f : TiState → TiState) : (s.upd f).el = s.el := rfl
@[simp] theorem upd_cores (f : TiState → TiState) : (s.upd f).cores = s.cores := rfl
@[simp] theorem upd_signals (f : TiState → TiState) : (s.upd f).signals = s.signals := rfl
@[simp] theorem upd_dikes (f : TiState → TiState) : (s.upd f).dikes = s.dikes := rfl
@[simp] theorem upd_emits (f : TiState → TiState) : (s.upd f).emits = s.emits := rfl
@[simp] theorem upd_chains (f : TiState → TiState) : (s.upd f).chains = s.chains := rfl
@[simp] theorem upd_berm (f : TiState → TiState) : (s.upd f).berm = s.berm := rfl
@[simp] theorem upd_tg (f : TiState → TiState) : (s.upd f).tg = s.tg := rfl
@[simp] theorem upd_models (f : TiState → TiState) : (s.upd f).models = s.models := rfl
@[simp] theorem upd_stk (f : TiState → TiState) : (s.upd f).stk = s.stk := rfl
@[simp] theorem upd_kv (f : TiState → TiState) : (s.upd f).kv = s.kv := rfl
@[simp] theorem upd_qus (f : TiState → TiState) : (s.upd f).qus = s.qus := rfl
@[simp] theorem upd_sl (f : TiState → TiState) : (s.upd f).sl = s.sl := rfl
@[simp] theorem upd_cu (f : TiState → TiState) : (s.upd f).cu = s.cu := rfl
@[simp] theorem upd_sk (f : TiState → TiState) : (s.upd f).sk = s.sk := rfl
@[simp] theorem upd_hi (f : TiState → TiState) : (s.upd f).hi = s.hi := rfl
@[simp] theorem upd_dt (f : TiState → TiState) : (s.upd f).dt = s.dt := rfl
@[simp] theorem upd_gl (f : TiState → TiState) : (s.upd f).gl = s.gl := rfl
@[simp] theorem upd_im (f : TiState → TiState) : (s.upd f).im = s.im := rfl
@[simp] theorem upd_mg (f : TiState → TiState) : (s.upd f).mg = s.mg := rfl
@[simp] theorem upd_pw (f : TiState → TiState) : (s.upd f).pw = s.pw := rfl
@[simp] theorem upd_jt (f : TiState → TiState) : (s.upd f).jt = s.jt := rfl
@[simp] theorem upd_seamKey (f : TiState → TiState) : (s.upd f).seamKey = s.seamKey := rfl
@[simp] theorem upd_keys (f : TiState → TiState) : (s.upd f).keys = s.keys := rfl
@[simp] theorem upd_ti (f : TiState → TiState) : (s.upd f).ti = f s.ti := rfl

/-! skUpd -/

@[simp] theorem skUpd_pending (f : SkState → SkState) : (s.skUpd f).pending = s.pending := rfl
@[simp] theorem skUpd_clk (f : SkState → SkState) : (s.skUpd f).clk = s.clk := rfl
@[simp] theorem skUpd_free (f : SkState → SkState) : (s.skUpd f).free = s.free := rfl
@[simp] theorem skUpd_regs (f : SkState → SkState) : (s.skUpd f).regs = s.regs := rfl
@[simp] theorem skUpd_mem (f : SkState → SkState) : (s.skUpd f).mem = s.mem := rfl
@[simp] theorem skUpd_bad (f : SkState → SkState) : (s.skUpd f).bad = s.bad := rfl
@[simp] theorem skUpd_soft (f : SkState → SkState) : (s.skUpd f).soft = s.soft := rfl
@[simp] theorem skUpd_out (f : SkState → SkState) : (s.skUpd f).out = s.out := rfl
@[simp] theorem skUpd_el (f : SkState → SkState) : (s.skUpd f).el = s.el := rfl
@[simp] theorem skUpd_cores (f : SkState → SkState) : (s.skUpd f).cores = s.cores := rfl
@[simp] theorem skUpd_signals (f : SkState → SkState) : (s.skUpd f).signals = s.signals := rfl
@[simp] theorem skUpd_dikes (f : SkState → SkState) : (s.skUpd f).dikes = s.dikes := rfl
@[simp] theorem skUpd_emits (f : SkState → SkState) : (s.skUpd f).emits = s.emits := rfl
@[simp] theorem skUpd_chains (f : SkState → SkState) : (s.skUpd f).chains = s.chains := rfl
@[simp] theorem skUpd_berm (f : SkState → SkState) : (s.skUpd f).berm = s.berm := rfl
@[simp] theorem skUpd_tg (f : SkState → SkState) : (s.skUpd f).tg = s.tg := rfl
@[simp] theorem skUpd_models (f : SkState → SkState) : (s.skUpd f).models = s.models := rfl
@[simp] theorem skUpd_ti (f : SkState → SkState) : (s.skUpd f).ti = s.ti := rfl
@[simp] theorem skUpd_stk (f : SkState → SkState) : (s.skUpd f).stk = s.stk := rfl
@[simp] theorem skUpd_kv (f : SkState → SkState) : (s.skUpd f).kv = s.kv := rfl
@[simp] theorem skUpd_qus (f : SkState → SkState) : (s.skUpd f).qus = s.qus := rfl
@[simp] theorem skUpd_sl (f : SkState → SkState) : (s.skUpd f).sl = s.sl := rfl
@[simp] theorem skUpd_cu (f : SkState → SkState) : (s.skUpd f).cu = s.cu := rfl
@[simp] theorem skUpd_hi (f : SkState → SkState) : (s.skUpd f).hi = s.hi := rfl
@[simp] theorem skUpd_dt (f : SkState → SkState) : (s.skUpd f).dt = s.dt := rfl
@[simp] theorem skUpd_gl (f : SkState → SkState) : (s.skUpd f).gl = s.gl := rfl
@[simp] theorem skUpd_im (f : SkState → SkState) : (s.skUpd f).im = s.im := rfl
@[simp] theorem skUpd_mg (f : SkState → SkState) : (s.skUpd f).mg = s.mg := rfl
@[simp] theorem skUpd_pw (f : SkState → SkState) : (s.skUpd f).pw = s.pw := rfl
@[simp] theorem skUpd_jt (f : SkState → SkState) : (s.skUpd f).jt = s.jt := rfl
@[simp] theorem skUpd_seamKey (f : SkState → SkState) : (s.skUpd f).seamKey = s.seamKey := rfl
@[simp] theorem skUpd_keys (f : SkState → SkState) : (s.skUpd f).keys = s.keys := rfl
@[simp] theorem skUpd_sk (f : SkState → SkState) : (s.skUpd f).sk = f s.sk := rfl

/-! slUpd -/

@[simp] theorem slUpd_pending (f : SlState → SlState) : (s.slUpd f).pending = s.pending := rfl
@[simp] theorem slUpd_clk (f : SlState → SlState) : (s.slUpd f).clk = s.clk := rfl
@[simp] theorem slUpd_free (f : SlState → SlState) : (s.slUpd f).free = s.free := rfl
@[simp] theorem slUpd_regs (f : SlState → SlState) : (s.slUpd f).regs = s.regs := rfl
@[simp] theorem slUpd_mem (f : SlState → SlState) : (s.slUpd f).mem = s.mem := rfl
@[simp] theorem slUpd_bad (f : SlState → SlState) : (s.slUpd f).bad = s.bad := rfl
@[simp] theorem slUpd_soft (f : SlState → SlState) : (s.slUpd f).soft = s.soft := rfl
@[simp] theorem slUpd_out (f : SlState → SlState) : (s.slUpd f).out = s.out := rfl
@[simp] theorem slUpd_el (f : SlState → SlState) : (s.slUpd f).el = s.el := rfl
@[simp] theorem slUpd_cores (f : SlState → SlState) : (s.slUpd f).cores = s.cores := rfl
@[simp] theorem slUpd_signals (f : SlState → SlState) : (s.slUpd f).signals = s.signals := rfl
@[simp] theorem slUpd_dikes (f : SlState → SlState) : (s.slUpd f).dikes = s.dikes := rfl
@[simp] theorem slUpd_emits (f : SlState → SlState) : (s.slUpd f).emits = s.emits := rfl
@[simp] theorem slUpd_chains (f : SlState → SlState) : (s.slUpd f).chains = s.chains := rfl
@[simp] theorem slUpd_berm (f : SlState → SlState) : (s.slUpd f).berm = s.berm := rfl
@[simp] theorem slUpd_tg (f : SlState → SlState) : (s.slUpd f).tg = s.tg := rfl
@[simp] theorem slUpd_models (f : SlState → SlState) : (s.slUpd f).models = s.models := rfl
@[simp] theorem slUpd_ti (f : SlState → SlState) : (s.slUpd f).ti = s.ti := rfl
@[simp] theorem slUpd_stk (f : SlState → SlState) : (s.slUpd f).stk = s.stk := rfl
@[simp] theorem slUpd_kv (f : SlState → SlState) : (s.slUpd f).kv = s.kv := rfl
@[simp] theorem slUpd_qus (f : SlState → SlState) : (s.slUpd f).qus = s.qus := rfl
@[simp] theorem slUpd_cu (f : SlState → SlState) : (s.slUpd f).cu = s.cu := rfl
@[simp] theorem slUpd_sk (f : SlState → SlState) : (s.slUpd f).sk = s.sk := rfl
@[simp] theorem slUpd_hi (f : SlState → SlState) : (s.slUpd f).hi = s.hi := rfl
@[simp] theorem slUpd_dt (f : SlState → SlState) : (s.slUpd f).dt = s.dt := rfl
@[simp] theorem slUpd_gl (f : SlState → SlState) : (s.slUpd f).gl = s.gl := rfl
@[simp] theorem slUpd_im (f : SlState → SlState) : (s.slUpd f).im = s.im := rfl
@[simp] theorem slUpd_mg (f : SlState → SlState) : (s.slUpd f).mg = s.mg := rfl
@[simp] theorem slUpd_pw (f : SlState → SlState) : (s.slUpd f).pw = s.pw := rfl
@[simp] theorem slUpd_jt (f : SlState → SlState) : (s.slUpd f).jt = s.jt := rfl
@[simp] theorem slUpd_seamKey (f : SlState → SlState) : (s.slUpd f).seamKey = s.seamKey := rfl
@[simp] theorem slUpd_keys (f : SlState → SlState) : (s.slUpd f).keys = s.keys := rfl
@[simp] theorem slUpd_sl (f : SlState → SlState) : (s.slUpd f).sl = f s.sl := rfl

/-! elUpd -/

@[simp] theorem elUpd_pending (f : ElState → ElState) : (s.elUpd f).pending = s.pending := rfl
@[simp] theorem elUpd_clk (f : ElState → ElState) : (s.elUpd f).clk = s.clk := rfl
@[simp] theorem elUpd_free (f : ElState → ElState) : (s.elUpd f).free = s.free := rfl
@[simp] theorem elUpd_regs (f : ElState → ElState) : (s.elUpd f).regs = s.regs := rfl
@[simp] theorem elUpd_mem (f : ElState → ElState) : (s.elUpd f).mem = s.mem := rfl
@[simp] theorem elUpd_bad (f : ElState → ElState) : (s.elUpd f).bad = s.bad := rfl
@[simp] theorem elUpd_soft (f : ElState → ElState) : (s.elUpd f).soft = s.soft := rfl
@[simp] theorem elUpd_out (f : ElState → ElState) : (s.elUpd f).out = s.out := rfl
@[simp] theorem elUpd_cores (f : ElState → ElState) : (s.elUpd f).cores = s.cores := rfl
@[simp] theorem elUpd_signals (f : ElState → ElState) : (s.elUpd f).signals = s.signals := rfl
@[simp] theorem elUpd_dikes (f : ElState → ElState) : (s.elUpd f).dikes = s.dikes := rfl
@[simp] theorem elUpd_emits (f : ElState → ElState) : (s.elUpd f).emits = s.emits := rfl
@[simp] theorem elUpd_chains (f : ElState → ElState) : (s.elUpd f).chains = s.chains := rfl
@[simp] theorem elUpd_berm (f : ElState → ElState) : (s.elUpd f).berm = s.berm := rfl
@[simp] theorem elUpd_tg (f : ElState → ElState) : (s.elUpd f).tg = s.tg := rfl
@[simp] theorem elUpd_models (f : ElState → ElState) : (s.elUpd f).models = s.models := rfl
@[simp] theorem elUpd_ti (f : ElState → ElState) : (s.elUpd f).ti = s.ti := rfl
@[simp] theorem elUpd_stk (f : ElState → ElState) : (s.elUpd f).stk = s.stk := rfl
@[simp] theorem elUpd_kv (f : ElState → ElState) : (s.elUpd f).kv = s.kv := rfl
@[simp] theorem elUpd_qus (f : ElState → ElState) : (s.elUpd f).qus = s.qus := rfl
@[simp] theorem elUpd_sl (f : ElState → ElState) : (s.elUpd f).sl = s.sl := rfl
@[simp] theorem elUpd_cu (f : ElState → ElState) : (s.elUpd f).cu = s.cu := rfl
@[simp] theorem elUpd_sk (f : ElState → ElState) : (s.elUpd f).sk = s.sk := rfl
@[simp] theorem elUpd_hi (f : ElState → ElState) : (s.elUpd f).hi = s.hi := rfl
@[simp] theorem elUpd_dt (f : ElState → ElState) : (s.elUpd f).dt = s.dt := rfl
@[simp] theorem elUpd_gl (f : ElState → ElState) : (s.elUpd f).gl = s.gl := rfl
@[simp] theorem elUpd_im (f : ElState → ElState) : (s.elUpd f).im = s.im := rfl
@[simp] theorem elUpd_mg (f : ElState → ElState) : (s.elUpd f).mg = s.mg := rfl
@[simp] theorem elUpd_pw (f : ElState → ElState) : (s.elUpd f).pw = s.pw := rfl
@[simp] theorem elUpd_jt (f : ElState → ElState) : (s.elUpd f).jt = s.jt := rfl
@[simp] theorem elUpd_seamKey (f : ElState → ElState) : (s.elUpd f).seamKey = s.seamKey := rfl
@[simp] theorem elUpd_keys (f : ElState → ElState) : (s.elUpd f).keys = s.keys := rfl
@[simp] theorem elUpd_el (f : ElState → ElState) : (s.elUpd f).el = f s.el := rfl

/-! dtUpd -/

@[simp] theorem dtUpd_pending (f : DtState → DtState) : (s.dtUpd f).pending = s.pending := rfl
@[simp] theorem dtUpd_clk (f : DtState → DtState) : (s.dtUpd f).clk = s.clk := rfl
@[simp] theorem dtUpd_free (f : DtState → DtState) : (s.dtUpd f).free = s.free := rfl
@[simp] theorem dtUpd_regs (f : DtState → DtState) : (s.dtUpd f).regs = s.regs := rfl
@[simp] theorem dtUpd_mem (f : DtState → DtState) : (s.dtUpd f).mem = s.mem := rfl
@[simp] theorem dtUpd_bad (f : DtState → DtState) : (s.dtUpd f).bad = s.bad := rfl
@[simp] theorem dtUpd_soft (f : DtState → DtState) : (s.dtUpd f).soft = s.soft := rfl
@[simp] theorem dtUpd_out (f : DtState → DtState) : (s.dtUpd f).out = s.out := rfl
@[simp] theorem dtUpd_el (f : DtState → DtState) : (s.dtUpd f).el = s.el := rfl
@[simp] theorem dtUpd_cores (f : DtState → DtState) : (s.dtUpd f).cores = s.cores := rfl
@[simp] theorem dtUpd_signals (f : DtState → DtState) : (s.dtUpd f).signals = s.signals := rfl
@[simp] theorem dtUpd_dikes (f : DtState → DtState) : (s.dtUpd f).dikes = s.dikes := rfl
@[simp] theorem dtUpd_emits (f : DtState → DtState) : (s.dtUpd f).emits = s.emits := rfl
@[simp] theorem dtUpd_chains (f : DtState → DtState) : (s.dtUpd f).chains = s.chains := rfl
@[simp] theorem dtUpd_berm (f : DtState → DtState) : (s.dtUpd f).berm = s.berm := rfl
@[simp] theorem dtUpd_tg (f : DtState → DtState) : (s.dtUpd f).tg = s.tg := rfl
@[simp] theorem dtUpd_models (f : DtState → DtState) : (s.dtUpd f).models = s.models := rfl
@[simp] theorem dtUpd_ti (f : DtState → DtState) : (s.dtUpd f).ti = s.ti := rfl
@[simp] theorem dtUpd_stk (f : DtState → DtState) : (s.dtUpd f).stk = s.stk := rfl
@[simp] theorem dtUpd_kv (f : DtState → DtState) : (s.dtUpd f).kv = s.kv := rfl
@[simp] theorem dtUpd_qus (f : DtState → DtState) : (s.dtUpd f).qus = s.qus := rfl
@[simp] theorem dtUpd_sl (f : DtState → DtState) : (s.dtUpd f).sl = s.sl := rfl
@[simp] theorem dtUpd_cu (f : DtState → DtState) : (s.dtUpd f).cu = s.cu := rfl
@[simp] theorem dtUpd_sk (f : DtState → DtState) : (s.dtUpd f).sk = s.sk := rfl
@[simp] theorem dtUpd_hi (f : DtState → DtState) : (s.dtUpd f).hi = s.hi := rfl
@[simp] theorem dtUpd_gl (f : DtState → DtState) : (s.dtUpd f).gl = s.gl := rfl
@[simp] theorem dtUpd_im (f : DtState → DtState) : (s.dtUpd f).im = s.im := rfl
@[simp] theorem dtUpd_mg (f : DtState → DtState) : (s.dtUpd f).mg = s.mg := rfl
@[simp] theorem dtUpd_pw (f : DtState → DtState) : (s.dtUpd f).pw = s.pw := rfl
@[simp] theorem dtUpd_jt (f : DtState → DtState) : (s.dtUpd f).jt = s.jt := rfl
@[simp] theorem dtUpd_seamKey (f : DtState → DtState) : (s.dtUpd f).seamKey = s.seamKey := rfl
@[simp] theorem dtUpd_keys (f : DtState → DtState) : (s.dtUpd f).keys = s.keys := rfl
@[simp] theorem dtUpd_dt (f : DtState → DtState) : (s.dtUpd f).dt = f s.dt := rfl

/-! glUpd -/

@[simp] theorem glUpd_pending (f : GlState → GlState) : (s.glUpd f).pending = s.pending := rfl
@[simp] theorem glUpd_clk (f : GlState → GlState) : (s.glUpd f).clk = s.clk := rfl
@[simp] theorem glUpd_free (f : GlState → GlState) : (s.glUpd f).free = s.free := rfl
@[simp] theorem glUpd_regs (f : GlState → GlState) : (s.glUpd f).regs = s.regs := rfl
@[simp] theorem glUpd_mem (f : GlState → GlState) : (s.glUpd f).mem = s.mem := rfl
@[simp] theorem glUpd_bad (f : GlState → GlState) : (s.glUpd f).bad = s.bad := rfl
@[simp] theorem glUpd_soft (f : GlState → GlState) : (s.glUpd f).soft = s.soft := rfl
@[simp] theorem glUpd_out (f : GlState → GlState) : (s.glUpd f).out = s.out := rfl
@[simp] theorem glUpd_el (f : GlState → GlState) : (s.glUpd f).el = s.el := rfl
@[simp] theorem glUpd_cores (f : GlState → GlState) : (s.glUpd f).cores = s.cores := rfl
@[simp] theorem glUpd_signals (f : GlState → GlState) : (s.glUpd f).signals = s.signals := rfl
@[simp] theorem glUpd_dikes (f : GlState → GlState) : (s.glUpd f).dikes = s.dikes := rfl
@[simp] theorem glUpd_emits (f : GlState → GlState) : (s.glUpd f).emits = s.emits := rfl
@[simp] theorem glUpd_chains (f : GlState → GlState) : (s.glUpd f).chains = s.chains := rfl
@[simp] theorem glUpd_berm (f : GlState → GlState) : (s.glUpd f).berm = s.berm := rfl
@[simp] theorem glUpd_tg (f : GlState → GlState) : (s.glUpd f).tg = s.tg := rfl
@[simp] theorem glUpd_models (f : GlState → GlState) : (s.glUpd f).models = s.models := rfl
@[simp] theorem glUpd_ti (f : GlState → GlState) : (s.glUpd f).ti = s.ti := rfl
@[simp] theorem glUpd_stk (f : GlState → GlState) : (s.glUpd f).stk = s.stk := rfl
@[simp] theorem glUpd_kv (f : GlState → GlState) : (s.glUpd f).kv = s.kv := rfl
@[simp] theorem glUpd_qus (f : GlState → GlState) : (s.glUpd f).qus = s.qus := rfl
@[simp] theorem glUpd_sl (f : GlState → GlState) : (s.glUpd f).sl = s.sl := rfl
@[simp] theorem glUpd_cu (f : GlState → GlState) : (s.glUpd f).cu = s.cu := rfl
@[simp] theorem glUpd_sk (f : GlState → GlState) : (s.glUpd f).sk = s.sk := rfl
@[simp] theorem glUpd_hi (f : GlState → GlState) : (s.glUpd f).hi = s.hi := rfl
@[simp] theorem glUpd_dt (f : GlState → GlState) : (s.glUpd f).dt = s.dt := rfl
@[simp] theorem glUpd_im (f : GlState → GlState) : (s.glUpd f).im = s.im := rfl
@[simp] theorem glUpd_mg (f : GlState → GlState) : (s.glUpd f).mg = s.mg := rfl
@[simp] theorem glUpd_pw (f : GlState → GlState) : (s.glUpd f).pw = s.pw := rfl
@[simp] theorem glUpd_jt (f : GlState → GlState) : (s.glUpd f).jt = s.jt := rfl
@[simp] theorem glUpd_seamKey (f : GlState → GlState) : (s.glUpd f).seamKey = s.seamKey := rfl
@[simp] theorem glUpd_keys (f : GlState → GlState) : (s.glUpd f).keys = s.keys := rfl
@[simp] theorem glUpd_gl (f : GlState → GlState) : (s.glUpd f).gl = f s.gl := rfl

/-! imUpd -/

@[simp] theorem imUpd_pending (f : ImState → ImState) : (s.imUpd f).pending = s.pending := rfl
@[simp] theorem imUpd_clk (f : ImState → ImState) : (s.imUpd f).clk = s.clk := rfl
@[simp] theorem imUpd_free (f : ImState → ImState) : (s.imUpd f).free = s.free := rfl
@[simp] theorem imUpd_regs (f : ImState → ImState) : (s.imUpd f).regs = s.regs := rfl
@[simp] theorem imUpd_mem (f : ImState → ImState) : (s.imUpd f).mem = s.mem := rfl
@[simp] theorem imUpd_bad (f : ImState → ImState) : (s.imUpd f).bad = s.bad := rfl
@[simp] theorem imUpd_soft (f : ImState → ImState) : (s.imUpd f).soft = s.soft := rfl
@[simp] theorem imUpd_out (f : ImState → ImState) : (s.imUpd f).out = s.out := rfl
@[simp] theorem imUpd_el (f : ImState → ImState) : (s.imUpd f).el = s.el := rfl
@[simp] theorem imUpd_cores (f : ImState → ImState) : (s.imUpd f).cores = s.cores := rfl
@[simp] theorem imUpd_signals (f : ImState → ImState) : (s.imUpd f).signals = s.signals := rfl
@[simp] theorem imUpd_dikes (f : ImState → ImState) : (s.imUpd f).dikes = s.dikes := rfl
@[simp] theorem imUpd_emits (f : ImState → ImState) : (s.imUpd f).emits = s.emits := rfl
@[simp] theorem imUpd_chains (f : ImState → ImState) : (s.imUpd f).chains = s.chains := rfl
@[simp] theorem imUpd_berm (f : ImState → ImState) : (s.imUpd f).berm = s.berm := rfl
@[simp] theorem imUpd_tg (f : ImState → ImState) : (s.imUpd f).tg = s.tg := rfl
@[simp] theorem imUpd_models (f : ImState → ImState) : (s.imUpd f).models = s.models := rfl
@[simp] theorem imUpd_ti (f : ImState → ImState) : (s.imUpd f).ti = s.ti := rfl
@[simp] theorem imUpd_stk (f : ImState → ImState) : (s.imUpd f).stk = s.stk := rfl
@[simp] theorem imUpd_kv (f : ImState → ImState) : (s.imUpd f).kv = s.kv := rfl
@[simp] theorem imUpd_qus (f : ImState → ImState) : (s.imUpd f).qus = s.qus := rfl
@[simp] theorem imUpd_sl (f : ImState → ImState) : (s.imUpd f).sl = s.sl := rfl
@[simp] theorem imUpd_cu (f : ImState → ImState) : (s.imUpd f).cu = s.cu := rfl
@[simp] theorem imUpd_sk (f : ImState → ImState) : (s.imUpd f).sk = s.sk := rfl
@[simp] theorem imUpd_hi (f : ImState → ImState) : (s.imUpd f).hi = s.hi := rfl
@[simp] theorem imUpd_dt (f : ImState → ImState) : (s.imUpd f).dt = s.dt := rfl
@[simp] theorem imUpd_gl (f : ImState → ImState) : (s.imUpd f).gl = s.gl := rfl
@[simp] theorem imUpd_mg (f : ImState → ImState) : (s.imUpd f).mg = s.mg := rfl
@[simp] theorem imUpd_pw (f : ImState → ImState) : (s.imUpd f).pw = s.pw := rfl
@[simp] theorem imUpd_jt (f : ImState → ImState) : (s.imUpd f).jt = s.jt := rfl
@[simp] theorem imUpd_seamKey (f : ImState → ImState) : (s.imUpd f).seamKey = s.seamKey := rfl
@[simp] theorem imUpd_keys (f : ImState → ImState) : (s.imUpd f).keys = s.keys := rfl
@[simp] theorem imUpd_im (f : ImState → ImState) : (s.imUpd f).im = f s.im := rfl

/-! mgUpd -/

@[simp] theorem mgUpd_pending (f : MgState → MgState) : (s.mgUpd f).pending = s.pending := rfl
@[simp] theorem mgUpd_clk (f : MgState → MgState) : (s.mgUpd f).clk = s.clk := rfl
@[simp] theorem mgUpd_free (f : MgState → MgState) : (s.mgUpd f).free = s.free := rfl
@[simp] theorem mgUpd_regs (f : MgState → MgState) : (s.mgUpd f).regs = s.regs := rfl
@[simp] theorem mgUpd_mem (f : MgState → MgState) : (s.mgUpd f).mem = s.mem := rfl
@[simp] theorem mgUpd_bad (f : MgState → MgState) : (s.mgUpd f).bad = s.bad := rfl
@[simp] theorem mgUpd_soft (f : MgState → MgState) : (s.mgUpd f).soft = s.soft := rfl
@[simp] theorem mgUpd_out (f : MgState → MgState) : (s.mgUpd f).out = s.out := rfl
@[simp] theorem mgUpd_el (f : MgState → MgState) : (s.mgUpd f).el = s.el := rfl
@[simp] theorem mgUpd_cores (f : MgState → MgState) : (s.mgUpd f).cores = s.cores := rfl
@[simp] theorem mgUpd_signals (f : MgState → MgState) : (s.mgUpd f).signals = s.signals := rfl
@[simp] theorem mgUpd_dikes (f : MgState → MgState) : (s.mgUpd f).dikes = s.dikes := rfl
@[simp] theorem mgUpd_emits (f : MgState → MgState) : (s.mgUpd f).emits = s.emits := rfl
@[simp] theorem mgUpd_chains (f : MgState → MgState) : (s.mgUpd f).chains = s.chains := rfl
@[simp] theorem mgUpd_berm (f : MgState → MgState) : (s.mgUpd f).berm = s.berm := rfl
@[simp] theorem mgUpd_tg (f : MgState → MgState) : (s.mgUpd f).tg = s.tg := rfl
@[simp] theorem mgUpd_models (f : MgState → MgState) : (s.mgUpd f).models = s.models := rfl
@[simp] theorem mgUpd_ti (f : MgState → MgState) : (s.mgUpd f).ti = s.ti := rfl
@[simp] theorem mgUpd_stk (f : MgState → MgState) : (s.mgUpd f).stk = s.stk := rfl
@[simp] theorem mgUpd_kv (f : MgState → MgState) : (s.mgUpd f).kv = s.kv := rfl
@[simp] theorem mgUpd_qus (f : MgState → MgState) : (s.mgUpd f).qus = s.qus := rfl
@[simp] theorem mgUpd_sl (f : MgState → MgState) : (s.mgUpd f).sl = s.sl := rfl
@[simp] theorem mgUpd_cu (f : MgState → MgState) : (s.mgUpd f).cu = s.cu := rfl
@[simp] theorem mgUpd_sk (f : MgState → MgState) : (s.mgUpd f).sk = s.sk := rfl
@[simp] theorem mgUpd_hi (f : MgState → MgState) : (s.mgUpd f).hi = s.hi := rfl
@[simp] theorem mgUpd_dt (f : MgState → MgState) : (s.mgUpd f).dt = s.dt := rfl
@[simp] theorem mgUpd_gl (f : MgState → MgState) : (s.mgUpd f).gl = s.gl := rfl
@[simp] theorem mgUpd_im (f : MgState → MgState) : (s.mgUpd f).im = s.im := rfl
@[simp] theorem mgUpd_pw (f : MgState → MgState) : (s.mgUpd f).pw = s.pw := rfl
@[simp] theorem mgUpd_jt (f : MgState → MgState) : (s.mgUpd f).jt = s.jt := rfl
@[simp] theorem mgUpd_seamKey (f : MgState → MgState) : (s.mgUpd f).seamKey = s.seamKey := rfl
@[simp] theorem mgUpd_keys (f : MgState → MgState) : (s.mgUpd f).keys = s.keys := rfl
@[simp] theorem mgUpd_mg (f : MgState → MgState) : (s.mgUpd f).mg = f s.mg := rfl

/-! pwUpd -/

@[simp] theorem pwUpd_pending (f : PwState → PwState) : (s.pwUpd f).pending = s.pending := rfl
@[simp] theorem pwUpd_clk (f : PwState → PwState) : (s.pwUpd f).clk = s.clk := rfl
@[simp] theorem pwUpd_free (f : PwState → PwState) : (s.pwUpd f).free = s.free := rfl
@[simp] theorem pwUpd_regs (f : PwState → PwState) : (s.pwUpd f).regs = s.regs := rfl
@[simp] theorem pwUpd_mem (f : PwState → PwState) : (s.pwUpd f).mem = s.mem := rfl
@[simp] theorem pwUpd_bad (f : PwState → PwState) : (s.pwUpd f).bad = s.bad := rfl
@[simp] theorem pwUpd_soft (f : PwState → PwState) : (s.pwUpd f).soft = s.soft := rfl
@[simp] theorem pwUpd_out (f : PwState → PwState) : (s.pwUpd f).out = s.out := rfl
@[simp] theorem pwUpd_el (f : PwState → PwState) : (s.pwUpd f).el = s.el := rfl
@[simp] theorem pwUpd_cores (f : PwState → PwState) : (s.pwUpd f).cores = s.cores := rfl
@[simp] theorem pwUpd_signals (f : PwState → PwState) : (s.pwUpd f).signals = s.signals := rfl
@[simp] theorem pwUpd_dikes (f : PwState → PwState) : (s.pwUpd f).dikes = s.dikes := rfl
@[simp] theorem pwUpd_emits (f : PwState → PwState) : (s.pwUpd f).emits = s.emits := rfl
@[simp] theorem pwUpd_chains (f : PwState → PwState) : (s.pwUpd f).chains = s.chains := rfl
@[simp] theorem pwUpd_berm (f : PwState → PwState) : (s.pwUpd f).berm = s.berm := rfl
@[simp] theorem pwUpd_tg (f : PwState → PwState) : (s.pwUpd f).tg = s.tg := rfl
@[simp] theorem pwUpd_models (f : PwState → PwState) : (s.pwUpd f).models = s.models := rfl
@[simp] theorem pwUpd_ti (f : PwState → PwState) : (s.pwUpd f).ti = s.ti := rfl
@[simp] theorem pwUpd_stk (f : PwState → PwState) : (s.pwUpd f).stk = s.stk := rfl
@[simp] theorem pwUpd_kv (f : PwState → PwState) : (s.pwUpd f).kv = s.kv := rfl
@[simp] theorem pwUpd_qus (f : PwState → PwState) : (s.pwUpd f).qus = s.qus := rfl
@[simp] theorem pwUpd_sl (f : PwState → PwState) : (s.pwUpd f).sl = s.sl := rfl
@[simp] theorem pwUpd_cu (f : PwState → PwState) : (s.pwUpd f).cu = s.cu := rfl
@[simp] theorem pwUpd_sk (f : PwState → PwState) : (s.pwUpd f).sk = s.sk := rfl
@[simp] theorem pwUpd_hi (f : PwState → PwState) : (s.pwUpd f).hi = s.hi := rfl
@[simp] theorem pwUpd_dt (f : PwState → PwState) : (s.pwUpd f).dt = s.dt := rfl
@[simp] theorem pwUpd_gl (f : PwState → PwState) : (s.pwUpd f).gl = s.gl := rfl
@[simp] theorem pwUpd_im (f : PwState → PwState) : (s.pwUpd f).im = s.im := rfl
@[simp] theorem pwUpd_mg (f : PwState → PwState) : (s.pwUpd f).mg = s.mg := rfl
@[simp] theorem pwUpd_jt (f : PwState → PwState) : (s.pwUpd f).jt = s.jt := rfl
@[simp] theorem pwUpd_seamKey (f : PwState → PwState) : (s.pwUpd f).seamKey = s.seamKey := rfl
@[simp] theorem pwUpd_keys (f : PwState → PwState) : (s.pwUpd f).keys = s.keys := rfl
@[simp] theorem pwUpd_pw (f : PwState → PwState) : (s.pwUpd f).pw = f s.pw := rfl

/-! setPort -/

@[simp] theorem setPort_pending (n : Nat) (p : Port) : (s.setPort n p).pending = s.pending := rfl
@[simp] theorem setPort_clk (n : Nat) (p : Port) : (s.setPort n p).clk = s.clk := rfl
@[simp] theorem setPort_free (n : Nat) (p : Port) : (s.setPort n p).free = s.free := rfl
@[simp] theorem setPort_regs (n : Nat) (p : Port) : (s.setPort n p).regs = s.regs := rfl
@[simp] theorem setPort_mem (n : Nat) (p : Port) : (s.setPort n p).mem = s.mem := rfl
@[simp] theorem setPort_bad (n : Nat) (p : Port) : (s.setPort n p).bad = s.bad := rfl
@[simp] theorem setPort_soft (n : Nat) (p : Port) : (s.setPort n p).soft = s.soft := rfl
@[simp] theorem setPort_out (n : Nat) (p : Port) : (s.setPort n p).out = s.out := rfl
@[simp] theorem setPort_el (n : Nat) (p : Port) : (s.setPort n p).el = s.el := rfl
@[simp] theorem setPort_cores (n : Nat) (p : Port) : (s.setPort n p).cores = s.cores := rfl
@[simp] theorem setPort_signals (n : Nat) (p : Port) : (s.setPort n p).signals = s.signals := rfl
@[simp] theorem setPort_dikes (n : Nat) (p : Port) : (s.setPort n p).dikes = s.dikes := rfl
@[simp] theorem setPort_emits (n : Nat) (p : Port) : (s.setPort n p).emits = s.emits := rfl
@[simp] theorem setPort_chains (n : Nat) (p : Port) : (s.setPort n p).chains = s.chains := rfl
@[simp] theorem setPort_berm (n : Nat) (p : Port) : (s.setPort n p).berm = s.berm := rfl
@[simp] theorem setPort_tg (n : Nat) (p : Port) : (s.setPort n p).tg = s.tg := rfl
@[simp] theorem setPort_models (n : Nat) (p : Port) : (s.setPort n p).models = s.models := rfl
@[simp] theorem setPort_ti (n : Nat) (p : Port) : (s.setPort n p).ti = s.ti := rfl
@[simp] theorem setPort_stk (n : Nat) (p : Port) : (s.setPort n p).stk = s.stk := rfl
@[simp] theorem setPort_kv (n : Nat) (p : Port) : (s.setPort n p).kv = s.kv := rfl
@[simp] theorem setPort_qus (n : Nat) (p : Port) : (s.setPort n p).qus = s.qus := rfl
@[simp] theorem setPort_sl (n : Nat) (p : Port) : (s.setPort n p).sl = s.sl := rfl
@[simp] theorem setPort_sk (n : Nat) (p : Port) : (s.setPort n p).sk = s.sk := rfl
@[simp] theorem setPort_hi (n : Nat) (p : Port) : (s.setPort n p).hi = s.hi := rfl
@[simp] theorem setPort_dt (n : Nat) (p : Port) : (s.setPort n p).dt = s.dt := rfl
@[simp] theorem setPort_gl (n : Nat) (p : Port) : (s.setPort n p).gl = s.gl := rfl
@[simp] theorem setPort_im (n : Nat) (p : Port) : (s.setPort n p).im = s.im := rfl
@[simp] theorem setPort_mg (n : Nat) (p : Port) : (s.setPort n p).mg = s.mg := rfl
@[simp] theorem setPort_pw (n : Nat) (p : Port) : (s.setPort n p).pw = s.pw := rfl
@[simp] theorem setPort_jt (n : Nat) (p : Port) : (s.setPort n p).jt = s.jt := rfl
@[simp] theorem setPort_seamKey (n : Nat) (p : Port) : (s.setPort n p).seamKey = s.seamKey := rfl
@[simp] theorem setPort_keys (n : Nat) (p : Port) : (s.setPort n p).keys = s.keys := rfl

/-! setQu -/

@[simp] theorem setQu_pending (n : Nat) (q : QuState) : (s.setQu n q).pending = s.pending := rfl
@[simp] theorem setQu_clk (n : Nat) (q : QuState) : (s.setQu n q).clk = s.clk := rfl
@[simp] theorem setQu_free (n : Nat) (q : QuState) : (s.setQu n q).free = s.free := rfl
@[simp] theorem setQu_regs (n : Nat) (q : QuState) : (s.setQu n q).regs = s.regs := rfl
@[simp] theorem setQu_mem (n : Nat) (q : QuState) : (s.setQu n q).mem = s.mem := rfl
@[simp] theorem setQu_bad (n : Nat) (q : QuState) : (s.setQu n q).bad = s.bad := rfl
@[simp] theorem setQu_soft (n : Nat) (q : QuState) : (s.setQu n q).soft = s.soft := rfl
@[simp] theorem setQu_out (n : Nat) (q : QuState) : (s.setQu n q).out = s.out := rfl
@[simp] theorem setQu_el (n : Nat) (q : QuState) : (s.setQu n q).el = s.el := rfl
@[simp] theorem setQu_cores (n : Nat) (q : QuState) : (s.setQu n q).cores = s.cores := rfl
@[simp] theorem setQu_signals (n : Nat) (q : QuState) : (s.setQu n q).signals = s.signals := rfl
@[simp] theorem setQu_dikes (n : Nat) (q : QuState) : (s.setQu n q).dikes = s.dikes := rfl
@[simp] theorem setQu_emits (n : Nat) (q : QuState) : (s.setQu n q).emits = s.emits := rfl
@[simp] theorem setQu_chains (n : Nat) (q : QuState) : (s.setQu n q).chains = s.chains := rfl
@[simp] theorem setQu_berm (n : Nat) (q : QuState) : (s.setQu n q).berm = s.berm := rfl
@[simp] theorem setQu_tg (n : Nat) (q : QuState) : (s.setQu n q).tg = s.tg := rfl
@[simp] theorem setQu_models (n : Nat) (q : QuState) : (s.setQu n q).models = s.models := rfl
@[simp] theorem setQu_ti (n : Nat) (q : QuState) : (s.setQu n q).ti = s.ti := rfl
@[simp] theorem setQu_stk (n : Nat) (q : QuState) : (s.setQu n q).stk = s.stk := rfl
@[simp] theorem setQu_kv (n : Nat) (q : QuState) : (s.setQu n q).kv = s.kv := rfl
@[simp] theorem setQu_sl (n : Nat) (q : QuState) : (s.setQu n q).sl = s.sl := rfl
@[simp] theorem setQu_cu (n : Nat) (q : QuState) : (s.setQu n q).cu = s.cu := rfl
@[simp] theorem setQu_sk (n : Nat) (q : QuState) : (s.setQu n q).sk = s.sk := rfl
@[simp] theorem setQu_hi (n : Nat) (q : QuState) : (s.setQu n q).hi = s.hi := rfl
@[simp] theorem setQu_dt (n : Nat) (q : QuState) : (s.setQu n q).dt = s.dt := rfl
@[simp] theorem setQu_gl (n : Nat) (q : QuState) : (s.setQu n q).gl = s.gl := rfl
@[simp] theorem setQu_im (n : Nat) (q : QuState) : (s.setQu n q).im = s.im := rfl
@[simp] theorem setQu_mg (n : Nat) (q : QuState) : (s.setQu n q).mg = s.mg := rfl
@[simp] theorem setQu_pw (n : Nat) (q : QuState) : (s.setQu n q).pw = s.pw := rfl
@[simp] theorem setQu_jt (n : Nat) (q : QuState) : (s.setQu n q).jt = s.jt := rfl
@[simp] theorem setQu_seamKey (n : Nat) (q : QuState) : (s.setQu n q).seamKey = s.seamKey := rfl
@[simp] theorem setQu_keys (n : Nat) (q : QuState) : (s.setQu n q).keys = s.keys := rfl

/-! setDike -/

@[simp] theorem setDike_pending (k : Nat) (x : Dike) : (s.setDike k x).pending = s.pending := rfl
@[simp] theorem setDike_clk (k : Nat) (x : Dike) : (s.setDike k x).clk = s.clk := rfl
@[simp] theorem setDike_free (k : Nat) (x : Dike) : (s.setDike k x).free = s.free := rfl
@[simp] theorem setDike_regs (k : Nat) (x : Dike) : (s.setDike k x).regs = s.regs := rfl
@[simp] theorem setDike_mem (k : Nat) (x : Dike) : (s.setDike k x).mem = s.mem := rfl
@[simp] theorem setDike_bad (k : Nat) (x : Dike) : (s.setDike k x).bad = s.bad := rfl
@[simp] theorem setDike_soft (k : Nat) (x : Dike) : (s.setDike k x).soft = s.soft := rfl
@[simp] theorem setDike_out (k : Nat) (x : Dike) : (s.setDike k x).out = s.out := rfl
@[simp] theorem setDike_el (k : Nat) (x : Dike) : (s.setDike k x).el = s.el := rfl
@[simp] theorem setDike_cores (k : Nat) (x : Dike) : (s.setDike k x).cores = s.cores := rfl
@[simp] theorem setDike_signals (k : Nat) (x : Dike) : (s.setDike k x).signals = s.signals := rfl
@[simp] theorem setDike_emits (k : Nat) (x : Dike) : (s.setDike k x).emits = s.emits := rfl
@[simp] theorem setDike_chains (k : Nat) (x : Dike) : (s.setDike k x).chains = s.chains := rfl
@[simp] theorem setDike_berm (k : Nat) (x : Dike) : (s.setDike k x).berm = s.berm := rfl
@[simp] theorem setDike_tg (k : Nat) (x : Dike) : (s.setDike k x).tg = s.tg := rfl
@[simp] theorem setDike_models (k : Nat) (x : Dike) : (s.setDike k x).models = s.models := rfl
@[simp] theorem setDike_ti (k : Nat) (x : Dike) : (s.setDike k x).ti = s.ti := rfl
@[simp] theorem setDike_stk (k : Nat) (x : Dike) : (s.setDike k x).stk = s.stk := rfl
@[simp] theorem setDike_kv (k : Nat) (x : Dike) : (s.setDike k x).kv = s.kv := rfl
@[simp] theorem setDike_qus (k : Nat) (x : Dike) : (s.setDike k x).qus = s.qus := rfl
@[simp] theorem setDike_sl (k : Nat) (x : Dike) : (s.setDike k x).sl = s.sl := rfl
@[simp] theorem setDike_cu (k : Nat) (x : Dike) : (s.setDike k x).cu = s.cu := rfl
@[simp] theorem setDike_sk (k : Nat) (x : Dike) : (s.setDike k x).sk = s.sk := rfl
@[simp] theorem setDike_hi (k : Nat) (x : Dike) : (s.setDike k x).hi = s.hi := rfl
@[simp] theorem setDike_dt (k : Nat) (x : Dike) : (s.setDike k x).dt = s.dt := rfl
@[simp] theorem setDike_gl (k : Nat) (x : Dike) : (s.setDike k x).gl = s.gl := rfl
@[simp] theorem setDike_im (k : Nat) (x : Dike) : (s.setDike k x).im = s.im := rfl
@[simp] theorem setDike_mg (k : Nat) (x : Dike) : (s.setDike k x).mg = s.mg := rfl
@[simp] theorem setDike_pw (k : Nat) (x : Dike) : (s.setDike k x).pw = s.pw := rfl
@[simp] theorem setDike_jt (k : Nat) (x : Dike) : (s.setDike k x).jt = s.jt := rfl
@[simp] theorem setDike_seamKey (k : Nat) (x : Dike) : (s.setDike k x).seamKey = s.seamKey := rfl
@[simp] theorem setDike_keys (k : Nat) (x : Dike) : (s.setDike k x).keys = s.keys := rfl

/-! draw -/

@[simp] theorem draw_pending : s.draw.2.pending = s.pending := rfl
@[simp] theorem draw_clk : s.draw.2.clk = s.clk := rfl
@[simp] theorem draw_regs : s.draw.2.regs = s.regs := rfl
@[simp] theorem draw_mem : s.draw.2.mem = s.mem := rfl
@[simp] theorem draw_bad : s.draw.2.bad = s.bad := rfl
@[simp] theorem draw_soft : s.draw.2.soft = s.soft := rfl
@[simp] theorem draw_out : s.draw.2.out = s.out := rfl
@[simp] theorem draw_el : s.draw.2.el = s.el := rfl
@[simp] theorem draw_cores : s.draw.2.cores = s.cores := rfl
@[simp] theorem draw_signals : s.draw.2.signals = s.signals := rfl
@[simp] theorem draw_dikes : s.draw.2.dikes = s.dikes := rfl
@[simp] theorem draw_emits : s.draw.2.emits = s.emits := rfl
@[simp] theorem draw_chains : s.draw.2.chains = s.chains := rfl
@[simp] theorem draw_berm : s.draw.2.berm = s.berm := rfl
@[simp] theorem draw_tg : s.draw.2.tg = s.tg := rfl
@[simp] theorem draw_models : s.draw.2.models = s.models := rfl
@[simp] theorem draw_ti : s.draw.2.ti = s.ti := rfl
@[simp] theorem draw_stk : s.draw.2.stk = s.stk := rfl
@[simp] theorem draw_kv : s.draw.2.kv = s.kv := rfl
@[simp] theorem draw_qus : s.draw.2.qus = s.qus := rfl
@[simp] theorem draw_sl : s.draw.2.sl = s.sl := rfl
@[simp] theorem draw_cu : s.draw.2.cu = s.cu := rfl
@[simp] theorem draw_sk : s.draw.2.sk = s.sk := rfl
@[simp] theorem draw_hi : s.draw.2.hi = s.hi := rfl
@[simp] theorem draw_dt : s.draw.2.dt = s.dt := rfl
@[simp] theorem draw_gl : s.draw.2.gl = s.gl := rfl
@[simp] theorem draw_im : s.draw.2.im = s.im := rfl
@[simp] theorem draw_mg : s.draw.2.mg = s.mg := rfl
@[simp] theorem draw_pw : s.draw.2.pw = s.pw := rfl
@[simp] theorem draw_jt : s.draw.2.jt = s.jt := rfl
@[simp] theorem draw_seamKey : s.draw.2.seamKey = s.seamKey := rfl
@[simp] theorem draw_keys : s.draw.2.keys = s.keys := rfl

end Sys2Proof.Machine.State
end

