-- ==== Sys2Proof/Laws/Ops.lean ====
section
/-! SUPPORT. What each shared operation over registers, cores, memory and messages does, said once. -/

namespace Sys2Proof.Machine

/-! ### Outcomes -/

@[simp] theorem onUnit_true (s : State) : onUnit true s = .next s := rfl

/-- A command on units completes exactly on the units the D8 has. -/
theorem onUnit_next {c : Bool} {s t : State} : onUnit c s = .next t ↔ c = true ∧ s = t := by
  cases c <;> simp [onUnit]

namespace State

variable (s : State)

/-! ### Registers -/

@[simp] theorem reg_setReg_self (off v : Nat) : (s.setReg off v).reg off = v % 2 ^ 32 := by
  simp [reg, setReg]

theorem reg_setReg_other {off o : Nat} (v : Nat) (h : o ≠ off) : (s.setReg off v).reg o = s.reg o := by
  simp only [reg, setReg]
  rw [Map.getD_store_other _ _ _ _ h]

theorem reg_lt (off : Nat) : s.reg off < 2 ^ 32 := BitVec.isLt _

theorem reg_mod (off : Nat) : s.reg off % 2 ^ 32 = s.reg off := Nat.mod_eq_of_lt (s.reg_lt off)

theorem reg_orReg_other {off o : Nat} (v : Nat) (h : o ≠ off) : (s.orReg off v).reg o = s.reg o := reg_setReg_other s _ h

theorem reg_orReg_self {off v : Nat} (h : v < 2 ^ 32) : (s.orReg off v).reg off = s.reg off ||| v := by
  rw [orReg, reg_setReg_self, Nat.mod_eq_of_lt (Nat.or_lt_two_pow (s.reg_lt off) h)]

theorem reg_count32_other {off o : Nat} (n : Nat) (h : o ≠ off) : (s.count32 off n).reg o = s.reg o := reg_setReg_other s _ h

theorem reg_setReg64_other {off o : Nat} (v : Nat) (h : o ≠ off) (h' : o ≠ off + 4) : (s.setReg64 off v).reg o = s.reg o := by
  rw [setReg64, reg_setReg_other _ _ h', reg_setReg_other _ _ h]

theorem reg_count_other {off o : Nat} (n : Nat) (h : o ≠ off) (h' : o ≠ off + 4) : (s.count off n).reg o = s.reg o := by
  unfold count
  split
  · rfl
  · exact reg_setReg64_other s _ h h'

/-- A counter changes registers alone. -/
theorem count_regs_only (off n : Nat) : s.count off n = { s with regs := (s.count off n).regs } := by
  unfold count
  split <;> rfl

@[simp] theorem reg_send (m : Out) (o : Nat) : (s.send m).reg o = s.reg o := rfl
@[simp] theorem reg_raise (r : Report) (o : Nat) : (s.raise r).reg o = s.reg o := rfl
@[simp] theorem reg_report (a b c d e o : Nat) : (s.report a b c d e).reg o = s.reg o := rfl
@[simp] theorem reg_reportAt (a b c d e o : Nat) : (s.reportAt a b c d e).reg o = s.reg o := rfl
@[simp] theorem reg_setCore (c : Nat) (x : CoreState) (o : Nat) : (s.setCore c x).reg o = s.reg o := rfl
@[simp] theorem reg_updCore (c : Nat) (f : CoreState → CoreState) (o : Nat) : (s.updCore c f).reg o = s.reg o := rfl
@[simp] theorem reg_writeMem (a : Nat) (bs : List Byte) (o : Nat) : (s.writeMem a bs).reg o = s.reg o := rfl
@[simp] theorem reg_writeStore (c a : Nat) (bs : List Byte) (o : Nat) : (s.writeStore c a bs).reg o = s.reg o := rfl
@[simp] theorem reg_draw (o : Nat) : s.draw.2.reg o = s.reg o := rfl

/-! ### Memory -/

/-- A byte of core stores, terraces and base-die SRAM. -/
theorem read_writeMem (a : Nat) (bs : List Byte) (k : Nat) :
    Memory.read 0 (s.writeMem a bs).mem k = if a ≤ k ∧ k < a + bs.length then (bs[k - a]?).getD 0 else Memory.read 0 s.mem k :=
  Memory.read_write 0 s.mem a bs k

theorem writeMem_wf {a : Nat} {bs : List Byte} (h : Memory.wf 0 s.mem = true) : Memory.wf 0 (s.writeMem a bs).mem = true :=
  Memory.wf_write a bs h

/-! ### Cores -/

@[simp] theorem core_setCore_self (c : Nat) (x : CoreState) : (s.setCore c x).core c = x := by simp [core, setCore]

theorem core_setCore_other {c d : Nat} (x : CoreState) (h : d ≠ c) : (s.setCore c x).core d = s.core d := by
  simp only [core, setCore]
  rw [Map.getD_store_other _ _ _ _ h]

@[simp] theorem core_updCore_self (c : Nat) (f : CoreState → CoreState) : (s.updCore c f).core c = f (s.core c) := by simp [updCore]

theorem core_updCore_other {c d : Nat} (f : CoreState → CoreState) (h : d ≠ c) : (s.updCore c f).core d = s.core d :=
  core_setCore_other s _ h

@[simp] theorem core_setReg (o v c : Nat) : (s.setReg o v).core c = s.core c := rfl
@[simp] theorem core_orReg (o v c : Nat) : (s.orReg o v).core c = s.core c := rfl
@[simp] theorem core_send (m : Out) (c : Nat) : (s.send m).core c = s.core c := rfl
@[simp] theorem core_raise (r : Report) (c : Nat) : (s.raise r).core c = s.core c := rfl
@[simp] theorem core_writeMem (a : Nat) (bs : List Byte) (c : Nat) : (s.writeMem a bs).core c = s.core c := rfl
@[simp] theorem core_writeStore (d a : Nat) (bs : List Byte) (c : Nat) : (s.writeStore d a bs).core c = s.core c := rfl

/-! ### Queue pairs, dikes, quarry units and ports -/

@[simp] theorem pair_setPair_self (q : Nat) (x : QPair) : (s.setPair q x).pair q = x := by simp [pair, setPair]

theorem pair_setPair_other {q r : Nat} (x : QPair) (h : r ≠ q) : (s.setPair q x).pair r = s.pair r := by
  simp only [pair, setPair]
  rw [Map.getD_store_other _ _ _ _ h]

@[simp] theorem dike_setDike_self (k : Nat) (x : Dike) : (s.setDike k x).dike k = x := by simp [dike, setDike]

theorem dike_setDike_other {k j : Nat} (x : Dike) (h : j ≠ k) : (s.setDike k x).dike j = s.dike j := by
  simp only [dike, setDike]
  rw [Map.getD_store_other _ _ _ _ h]

@[simp] theorem port_setPort_self (n : Nat) (p : Port) : (s.setPort n p).port n = p := by simp [port, setPort]

theorem port_setPort_other {n m : Nat} (p : Port) (h : m ≠ n) : (s.setPort n p).port m = s.port m := by
  simp only [port, setPort]
  rw [Map.getD_store_other _ _ _ _ h]

@[simp] theorem quState_setQu_self (n : Nat) (q : QuState) : (s.setQu n q).quState n = q := by simp [quState, setQu]

theorem quState_setQu_other {n m : Nat} (q : QuState) (h : m ≠ n) : (s.setQu n q).quState m = s.quState m := by
  simp only [quState, setQu]
  rw [Map.getD_store_other _ _ _ _ h]

end State

/-! ### Slots and flag words -/

namespace CoreState

variable (k : CoreState)

@[simp] theorem slot_setSlot_self (i : Nat) (x : Slot) : (k.setSlot i x).slot i = x := by simp [slot, setSlot]

theorem slot_setSlot_other {i j : Nat} (x : Slot) (h : j ≠ i) : (k.setSlot i x).slot j = k.slot j := by
  simp only [slot, setSlot]
  rw [Map.getD_store_other _ _ _ _ h]

@[simp] theorem flag_setSlot (i : Nat) (x : Slot) (fw : Nat) : (k.setSlot i x).flag fw = k.flag fw := rfl
@[simp] theorem slot_setFlag (fw v i : Nat) : (k.setFlag fw v).slot i = k.slot i := rfl

@[simp] theorem flag_setFlag_self (fw v : Nat) : (k.setFlag fw v).flag fw = v % 2 ^ 16 := by simp [flag, setFlag]

theorem flag_setFlag_other {fw g : Nat} (v : Nat) (h : g ≠ fw) : (k.setFlag fw v).flag g = k.flag g := by
  simp only [flag, setFlag]
  rw [Map.getD_store_other _ _ _ _ h]

@[simp] theorem queue_setQueue_self (u : UnitId) (q : List QStep) : (k.setQueue u q).queue u = q := by cases u <;> rfl

theorem queue_setQueue_other {u v : UnitId} (q : List QStep) (h : v ≠ u) : (k.setQueue u q).queue v = k.queue v := by
  cases u <;> cases v <;> first | rfl | exact absurd rfl h

end CoreState

end Sys2Proof.Machine
end

