-- ==== Sys2Proof/Laws/Quarry.lean ====
section
/-! SUPPORT. What a quarry unit does with the list at its queue head, said once (R234). -/

namespace Sys2Proof.Machine.State

variable {s : State} {n op : Nat} {l : List QuDesc}

/-- Nothing is purged while a live descriptor of a known operation stands at the head. -/
theorem quPurge_live (k : Nat)
    (h : ∀ d, ((s.quState n).queue ++ (s.quState n).wait).head? = some d → d.dead = false ∧ QuDesc.knownKind d.kind = true) :
    quPurge n k s = s := by
  cases k with
  | zero => rfl
  | succ k =>
    rw [quPurge]
    dsimp only
    split
    · next d t hq =>
      have := h d (by rw [hq]; rfl)
      rw [if_neg (by simp [this.1]), if_neg (by simp [this.2])]
    · rfl

theorem takeList_head (q : List QuDesc) : (takeList q).head? = q.head? := by
  cases q with
  | nil => rfl
  | cons d t =>
    simp only [takeList]
    split
    · simp only [toLast]; split <;> rfl
    · rfl

/-- A ready unit warms the list's granules, runs it and finishes it. -/
theorem quRun_ready (h : s.quReady n op l) (f : State → List QuDesc → List Nat → Bool → State × QuResult × Nat × Nat × Nat × Nat) :
    s.quRun n op .clean f =
      ((f (s.quWarm l) l [] false).1).quFinish n l (f (s.quWarm l) l [] false).2.1 (f (s.quWarm l) l [] false).2.2.1
        (f (s.quWarm l) l [] false).2.2.2.1 (f (s.quWarm l) l [] false).2.2.2.2.1 (f (s.quWarm l) l [] false).2.2.2.2.2 := by
  obtain ⟨-, hrun, hne, htake, hhead, hknown, hwhole, hheld, hroom, hgood, hue⟩ := h
  have hh : l.head? = ((s.quState n).queue ++ (s.quState n).wait).head? := by rw [← htake, takeList_head]
  have hp : quPurge n ((s.quState n).queue.length + (s.quState n).wait.length) s = s := quPurge_live _ fun d hd => by
    have := hhead d (hh.trans hd); exact ⟨this.1, this.2 ▸ hknown⟩
  have hheld' : ((op == 0x20 || op == 0x21) && s.sk.batches.any fun b => b.heaps.any fun h => h.1 / 4096 == n) = false := by
    rw [Bool.and_eq_false_iff]
    by_cases ho : op = 0x20 ∨ op = 0x21
    · right; simp only [List.any_eq_false]
      intro b hb hc
      obtain ⟨x, hx, hxe⟩ := List.any_eq_true.mp hc
      exact hheld ho b hb x hx (by simpa using hxe)
    · left; simp only [not_or] at ho; simp [ho.1, ho.2]
  unfold quRun
  simp only [hp, htake, hrun, Bool.false_eq_true, if_false]
  cases l with
  | nil => exact absurd rfl hne
  | cons d t =>
    have hd := hhead d rfl
    have hs : (s.listUe (d :: t) .clean) = ([], s) := by
      have : (s.listUe (d :: t) .clean).2 = s := rfl
      exact Prod.ext hue this
    simp only []
    rw [if_neg, if_neg, if_neg]
    · simp only [if_true, reduceCtorEq, if_false, false_and, hs, decide_false, List.isEmpty_nil, Bool.not_true, Bool.or_false, Bool.false_eq_true]
      rfl
    · simp [hgood]
    · simpa [Nat.ble_eq] using hroom
    · rw [hheld']
      rintro (hk | hk | hk)
      · exact hk hd.2
      · simp [hwhole] at hk
      · exact absurd hk (by simp)

theorem reg64_count_self (s : State) (off k : Nat) : (s.count off k).reg64 off = min (s.reg64 off + k) (2 ^ 64 - 1) := by
  have hl := s.reg_lt off
  have hr := s.reg_lt (off + 4)
  unfold count
  split
  · next h => subst h; unfold reg64; omega
  · unfold setReg64
    generalize hv : min (s.reg64 off + k) (2 ^ 64 - 1) = v
    have hv' : v < 2 ^ 64 := by omega
    unfold reg64
    rw [reg_setReg_self, reg_setReg_other _ _ (by omega : off ≠ off + 4), reg_setReg_self]
    omega

theorem reg64_count_away (s : State) {off o : Nat} (k : Nat) (h : o ≠ off) (h' : o ≠ off + 4) (h'' : o + 4 ≠ off) :
    (s.count off k).reg64 o = s.reg64 o := by
  unfold reg64
  rw [reg_count_other _ _ h h', reg_count_other _ _ (by omega) (by omega)]

theorem reg64_setQu (s : State) (m : Nat) (q : QuState) (o : Nat) : (s.setQu m q).reg64 o = s.reg64 o := rfl
theorem reg_setQu (s : State) (m : Nat) (q : QuState) (o : Nat) : (s.setQu m q).reg o = s.reg o := rfl
theorem quState_count (s : State) (off k m : Nat) : (s.count off k).quState m = s.quState m := by
  unfold count; split <;> rfl

/-- Counting after a change of quarry units and registers alone is such a change. -/
theorem count_qus_regs {v s : State} (off k : Nat) (h : s = { v with qus := s.qus, regs := s.regs }) :
    s.count off k = { v with qus := (s.count off k).qus, regs := (s.count off k).regs } := by
  rw [count_regs_only]
  exact congrArg (fun u : State => { u with regs := (s.count off k).regs }) h

/-- What finishing a list does. -/
theorem quFinish_finished (v : State) (n : Nat) (l : List QuDesc) (r : QuResult) (a b c d : Nat) (hl : l ≠ []) :
    v.quFinished (v.quFinish n l r a b c d) n l r := by
  cases l with
  | nil => exact absurd rfl hl
  | cons e t =>
    unfold quFinished quFinish
    simp only [quState_count, quState_setQu_self]
    refine ⟨trivial, ?_, ?_, ?_, ?_, ?_⟩
    · intro m hm; exact quState_setQu_other _ _ hm
    · rw [reg64_count_away, reg64_count_away, reg64_count_away, reg64_count_away, reg64_count_away, reg64_count_self] <;>
        first | rfl | (unfold quReg; omega)
    · rw [reg64_count_away, reg64_count_away, reg64_count_away, reg64_count_away, reg64_count_self, reg64_count_away] <;>
        first | rfl | (unfold quReg; omega)
    · intro o ho
      unfold quReg at *
      rw [reg_count_other, reg_count_other, reg_count_other, reg_count_other, reg_count_other, reg_count_other] <;>
        first | rfl | omega
    · iterate 6 refine count_qus_regs _ _ ?_
      rfl

end Sys2Proof.Machine.State
end

