-- ==== Sys2Proof/Laws/Sequencer.lean ====
section
/-! SUPPORT. What the sequencer does when a step issues (R84, R108–R112), said once for every step. -/

namespace Sys2Proof.Machine

namespace State

variable (s : State)

/-! ### A slot becomes current -/

/-- The core whose slot i becomes current while another was or none. -/
def madeCurrent (k : CoreState) (i : Nat) : CoreState :=
  let k' := match k.cur with
    | some j => k.setSlot j { k.slot j with phase := .ready }
    | none => k
  { (k'.setSlot i { k'.slot i with phase := .current }) with cur := some i, last := i, run := 0 }

theorem becomeCurrent_cur {c i : Nat} (h : (s.core c).cur = some i) : s.becomeCurrent c i = s := if_pos h

theorem becomeCurrent_new {c i : Nat} (h : (s.core c).cur ≠ some i) :
    ∃ n, s.becomeCurrent c i = (s.setCore c (madeCurrent (s.core c) i)).count (coreReg c 0x308) n := ⟨_, if_neg h⟩

theorem becomeCurrent_only (c i : Nat) : s.becomeCurrent c i = { s with cores := (s.becomeCurrent c i).cores, regs := (s.becomeCurrent c i).regs } := by
  by_cases h : (s.core c).cur = some i
  · rw [becomeCurrent_cur s h]
  · obtain ⟨n, e⟩ := becomeCurrent_new s h
    rw [e, count_regs_only]
    rfl

theorem core_count (off n c : Nat) : (s.count off n).core c = s.core c := by
  unfold count
  split <;> rfl

theorem core_becomeCurrent_other {c d : Nat} (i : Nat) (hd : d ≠ c) : (s.becomeCurrent c i).core d = s.core d := by
  by_cases h : (s.core c).cur = some i
  · rw [becomeCurrent_cur s h]
  · obtain ⟨n, e⟩ := becomeCurrent_new s h
    rw [e, core_count, core_setCore_other _ _ hd]

theorem reg_becomeCurrent {c o : Nat} (i : Nat) (h1 : o ≠ coreReg c 0x308) (h2 : o ≠ coreReg c 0x308 + 4) :
    (s.becomeCurrent c i).reg o = s.reg o := by
  by_cases h : (s.core c).cur = some i
  · rw [becomeCurrent_cur s h]
  · obtain ⟨n, e⟩ := becomeCurrent_new s h
    rw [e, reg_count_other _ _ h1 h2, reg_setCore]

theorem core_becomeCurrent_new {c i : Nat} (h : (s.core c).cur ≠ some i) : (s.becomeCurrent c i).core c = madeCurrent (s.core c) i := by
  obtain ⟨n, e⟩ := becomeCurrent_new s h
  rw [e, core_count, core_setCore_self]

/-- A core whose slot i becomes current keeps its flags, queues and streams; the slot keeps its place, and the slot that was current before is READY. -/
theorem madeCurrent_facts (k : CoreState) (i : Nat) (h : k.cur ≠ some i) :
    (∀ fw, (madeCurrent k i).flag fw = k.flag fw) ∧ (∀ u, (madeCurrent k i).queue u = k.queue u) ∧
    (∀ u, (madeCurrent k i).running u = k.running u) ∧ (madeCurrent k i).streams = k.streams ∧ (madeCurrent k i).cur = some i ∧
    ((madeCurrent k i).slot i).pc = (k.slot i).pc ∧ ((madeCurrent k i).slot i).loop0 = (k.slot i).loop0 ∧
    ((madeCurrent k i).slot i).loop1 = (k.slot i).loop1 ∧
    (∀ j, j ≠ i → (madeCurrent k i).slot j = if k.cur = some j then { k.slot j with phase := .ready } else k.slot j) := by
  have key : ∀ k' : CoreState, ({ (k'.setSlot i { k'.slot i with phase := .current }) with cur := some i, last := i, run := 0 } : CoreState).slot i
      = { k'.slot i with phase := .current } := fun k' => CoreState.slot_setSlot_self k' i { k'.slot i with phase := .current }
  have key2 : ∀ (k' : CoreState) j, j ≠ i → ({ (k'.setSlot i { k'.slot i with phase := .current }) with cur := some i, last := i, run := 0 } : CoreState).slot j
      = k'.slot j := fun k' j hj => CoreState.slot_setSlot_other k' { k'.slot i with phase := .current } hj
  unfold madeCurrent
  cases hc : k.cur with
  | none =>
    simp only []
    refine ⟨fun _ => rfl, fun u => by cases u <;> rfl, fun u => by cases u <;> rfl, rfl, trivial, ?_, ?_, ?_, ?_⟩
    · rw [key]
    · rw [key]
    · rw [key]
    · intro j hj
      simp [key2 _ j hj]
  | some j0 =>
    have hne : i ≠ j0 := fun e => h (by rw [hc, e])
    have hs : (k.setSlot j0 { k.slot j0 with phase := .ready }).slot i = k.slot i := CoreState.slot_setSlot_other _ _ hne
    simp only []
    refine ⟨fun _ => rfl, fun u => by cases u <;> rfl, fun u => by cases u <;> rfl, rfl, trivial, ?_, ?_, ?_, ?_⟩
    · rw [key, hs]
    · rw [key, hs]
    · rw [key, hs]
    · intro j hj
      rw [key2 _ j hj]
      by_cases e : j = j0
      · subst e; simp
      · rw [CoreState.slot_setSlot_other _ _ e, if_neg (fun h => e (Option.some.inj h).symm)]

/-- What core c holds once slot i is current. -/
theorem core_becomeCurrent (c i : Nat) :
    (∀ fw, ((s.becomeCurrent c i).core c).flag fw = (s.core c).flag fw) ∧
    (∀ u, ((s.becomeCurrent c i).core c).queue u = (s.core c).queue u) ∧
    (∀ u, ((s.becomeCurrent c i).core c).running u = (s.core c).running u) ∧
    ((s.becomeCurrent c i).core c).streams = (s.core c).streams ∧
    ((s.becomeCurrent c i).core c).cur = some i ∧
    (((s.becomeCurrent c i).core c).slot i).pc = ((s.core c).slot i).pc ∧
    (((s.becomeCurrent c i).core c).slot i).loop0 = ((s.core c).slot i).loop0 ∧
    (((s.becomeCurrent c i).core c).slot i).loop1 = ((s.core c).slot i).loop1 ∧
    (∀ j, j ≠ i → ((s.becomeCurrent c i).core c).slot j =
      if (s.core c).cur = some j then { (s.core c).slot j with phase := .ready } else (s.core c).slot j) := by
  by_cases h : (s.core c).cur = some i
  · rw [becomeCurrent_cur s h]
    refine ⟨fun _ => rfl, fun _ => rfl, fun _ => rfl, rfl, h, rfl, rfl, rfl, ?_⟩
    intro j hj
    rw [h, if_neg (fun e => hj (Option.some.inj e).symm)]
  · rw [core_becomeCurrent_new s h]
    exact madeCurrent_facts _ _ h

/-! ### A step issues -/

/-- The state in which step w of slot i of core c has issued, before what the step itself does. -/
def issuedAt (c i w : Nat) : State :=
  let odd := ((s.core c).slot i).odd
  let s := s.becomeCurrent c i
  let s := if stClr w then s.clearFlags c (stWfw w) (stWmask w odd) else s
  let s := if stType w = 0x11 ∧ bitOf w 88 then s.clearFlags c (bitsOf w 71 64) (bitsOf w 87 72) else s
  (s.updCore c fun k => { (k.setSlot i ((k.slot i).advance w)) with run := k.run + 1 }).count (coreReg c 0x300) 1

theorem reg64_setReg64_self (off v : Nat) (h : v < 2 ^ 64) : (s.setReg64 off v).reg64 off = v := by
  unfold reg64 setReg64
  rw [reg_setReg_self, reg_setReg_other _ _ (by omega), reg_setReg_self]
  omega

theorem reg64_count_one (off : Nat) : (s.count off 1).reg64 off = min (s.reg64 off + 1) (2 ^ 64 - 1) := by
  unfold count
  rw [if_neg (by decide), reg64_setReg64_self _ _ _ (by omega)]

theorem reg_clearFlags (c fw m o : Nat) : (s.clearFlags c fw m).reg o = s.reg o := rfl

theorem clearFlags_only (c fw m : Nat) : s.clearFlags c fw m = { s with cores := (s.clearFlags c fw m).cores } := rfl

theorem flag_lt (k : CoreState) (fw : Nat) : k.flag fw < 2 ^ 16 := BitVec.isLt _

theorem flag_clearFlags (c fw m g : Nat) :
    ((s.clearFlags c fw m).core c).flag g = if g = fw then (s.core c).flag fw &&& (2 ^ 16 - 1 - m % 2 ^ 16) else (s.core c).flag g := by
  unfold clearFlags
  rw [core_updCore_self]
  split
  · rename_i h
    subst h
    rw [CoreState.flag_setFlag_self]
    exact Nat.mod_eq_of_lt (Nat.lt_of_le_of_lt Nat.and_le_left (flag_lt _ _))
  · rename_i h
    exact CoreState.flag_setFlag_other _ _ h

/-- A step that may issue issues: its own effect on the state in which it has issued, and then what waits settles. -/
theorem issue_canIssue {c i : Nat} {p : Nat → Bool} {pre : State → Nat → Option Nat} {eff : State → Nat → State}
    (h : s.canIssue c i) (hp : p (s.nextStep c i) = true) (hpre : pre (s.becomeCurrent c i) (s.nextStep c i) = none) :
    s.issue c i p pre eff = (eff (s.issuedAt c i (s.nextStep c i)) (s.nextStep c i)).settle c := by
  obtain ⟨_, _, h1, h2, h3, h4, h7, h5, h6⟩ := h
  simp only [nextStep] at hp hpre h6 ⊢
  have hs : (s.becomeCurrent c i).seep c (32 * ((s.core c).slot i).pc) 32 = s.becomeCurrent c i := by
    simp only [seep, h7, reports]
  simp only [issue, issuedAt, hs, h1, h2, h3, hp, h4, h5, h6, hpre, decide_true, Bool.not_true, Bool.or_false, Bool.false_eq_true, if_false, Option.orElse]

/-- A slot moves on alike wherever its place is the same (R112). -/
theorem advance_congr {x y : Slot} (w : Nat) (hp : x.pc = y.pc) (h0 : x.loop0 = y.loop0) (h1 : x.loop1 = y.loop1) :
    (x.advance w).pc = (y.advance w).pc ∧ (x.advance w).loop0 = (y.advance w).loop0 ∧ (x.advance w).loop1 = (y.advance w).loop1 := by
  have e : x = { y with phase := x.phase, cause := x.cause, model := x.model, wfw := x.wfw, wmask := x.wmask, reason := x.reason, fin := x.fin } := by
    cases x; cases y; simp_all
  rw [e]
  unfold Slot.advance Slot.openLoop
  repeat' (first | split | (refine ⟨?_, ?_, ?_⟩ <;> rfl))

/-- Bits left by two clears, one after the other. -/
theorem and_clears {a b : Nat} (x : Nat) (ha : a < 65536) (hb : b < 65536) :
    (x &&& (65535 - a)) &&& (65535 - b) = x &&& (65535 - (a ||| b)) := by
  apply Nat.eq_of_testBit_eq
  intro k
  have hc : a ||| b < 65536 := Nat.or_lt_two_pow (n := 16) ha hb
  have key : ∀ y, y < 65536 → (65535 - y).testBit k = (decide (k < 16) && !y.testBit k) := fun y hy => by
    have := Nat.testBit_two_pow_sub_succ (n := 16) (x := y) hy k
    rwa [show 2 ^ 16 - (y + 1) = 65535 - y by omega] at this
  simp only [Nat.testBit_and, key _ ha, key _ hb, key _ hc, Nat.testBit_or]
  cases x.testBit k <;> cases a.testBit k <;> cases b.testBit k <;> cases decide (k < 16) <;> rfl

/-- A clear that is made on a condition. -/
theorem clear_if (t : State) (c f m fw : Nat) (P : Prop) [Decidable P] (hm : m < 65536) :
    ((if P then t.clearFlags c f m else t).core c).flag fw = (t.core c).flag fw &&& (65535 - if P ∧ fw = f then m else 0) ∧
      (∀ d, d ≠ c → (if P then t.clearFlags c f m else t).core d = t.core d) ∧
      (if P then t.clearFlags c f m else t) = { t with cores := (if P then t.clearFlags c f m else t).cores } ∧
      (if P then t.clearFlags c f m else t).core c = { t.core c with flags := ((if P then t.clearFlags c f m else t).core c).flags } := by
  have full : (t.core c).flag fw &&& 65535 = (t.core c).flag fw := by
    rw [show (65535 : Nat) = 2 ^ 16 - 1 from rfl, Nat.and_two_pow_sub_one_eq_mod, Nat.mod_eq_of_lt (flag_lt _ _)]
  by_cases h : P
  · simp only [h, if_true, true_and]
    refine ⟨?_, ?_, rfl, ?_⟩
    · rw [flag_clearFlags]
      by_cases e : fw = f
      · subst e; simp [Nat.mod_eq_of_lt hm]
      · simp [e, full]
    · intro d hd
      exact core_updCore_other _ _ hd
    · unfold clearFlags
      rw [core_updCore_self]
      rfl
  · simp only [h, if_false, false_and, Nat.sub_zero]
    exact ⟨full.symm, fun _ _ => trivial, trivial, trivial⟩

theorem bitsOf_lt (w hi lo : Nat) : bitsOf w hi lo < 2 ^ (hi + 1 - lo) := by
  unfold bitsOf
  exact Nat.mod_lt _ (Nat.two_pow_pos _)

theorem stWmask_lt (w : Nat) (odd : Bool) : stWmask w odd < 65536 := Nat.mod_lt _ (by decide)

/-- What a step leaves when it has issued and before what it does itself. -/
theorem issuedAt_spec (c i w : Nat) :
    s.issuedStep (s.issuedAt c i w) c i w ∧
    (s.issuedAt c i w) = { s with cores := (s.issuedAt c i w).cores, regs := (s.issuedAt c i w).regs } ∧
    (∀ u, ((s.issuedAt c i w).core c).queue u = (s.core c).queue u) ∧ (∀ u, ((s.issuedAt c i w).core c).running u = (s.core c).running u) ∧
    ((s.issuedAt c i w).core c).streams = (s.core c).streams ∧ ((s.issuedAt c i w).core c).cur = some i := by
  obtain ⟨b1, b2, b3, b4, b5, b6, b7, b8, b9⟩ := core_becomeCurrent s c i
  have c1 := fun fw => clear_if (s.becomeCurrent c i) c (stWfw w) (stWmask w ((s.core c).slot i).odd) fw (stClr w = true) (stWmask_lt _ _)
  generalize hu : (if stClr w = true then (s.becomeCurrent c i).clearFlags c (stWfw w) (stWmask w ((s.core c).slot i).odd)
      else s.becomeCurrent c i) = u at c1
  have c2 := fun fw => clear_if u c (bitsOf w 71 64) (bitsOf w 87 72) fw (stType w = 0x11 ∧ bitOf w 88 = true) (bitsOf_lt w 87 72)
  generalize hv : (if stType w = 0x11 ∧ bitOf w 88 = true then u.clearFlags c (bitsOf w 71 64) (bitsOf w 87 72) else u) = v at c2
  have hI : s.issuedAt c i w = (v.updCore c fun k => { (k.setSlot i ((k.slot i).advance w)) with run := k.run + 1 }).count (coreReg c 0x300) 1 := by
    rw [← hv, ← hu]; rfl
  have cu := (c1 0).2.2.2
  have cv := (c2 0).2.2.2
  have hk : (s.issuedAt c i w).core c = { ((v.core c).setSlot i (((v.core c).slot i).advance w)) with run := (v.core c).run + 1 } := by
    rw [hI, core_count, core_updCore_self]
  have vslot : ∀ j, (v.core c).slot j = ((s.becomeCurrent c i).core c).slot j := fun j => by
    rw [cv, cu]; rfl
  have islot : ((s.issuedAt c i w).core c).slot i = ((v.core c).slot i).advance w := by
    rw [hk]; exact CoreState.slot_setSlot_self ..
  have hadv := advance_congr (x := (v.core c).slot i) (y := (s.core c).slot i) w (by rw [vslot, b6]) (by rw [vslot, b7]) (by rw [vslot, b8])
  have hreg : ∀ o, o ≠ coreReg c 0x300 → o ≠ coreReg c 0x300 + 4 → o ≠ coreReg c 0x308 → o ≠ coreReg c 0x308 + 4 → (s.issuedAt c i w).reg o = s.reg o := by
    intro o h1 h2 h3 h4
    rw [hI, reg_count_other _ _ h1 h2, reg_updCore]
    have : v.regs = (s.becomeCurrent c i).regs := by
      rw [(c2 0).2.2.1, (c1 0).2.2.1]
    have e : v.reg o = (s.becomeCurrent c i).reg o := by unfold reg; rw [this]
    rw [e, reg_becomeCurrent s i h3 h4]
  refine ⟨⟨?_, ?_, ?_, ?_, ?_, ?_, ?_, ?_⟩, ?_, ?_, ?_, ?_, ?_⟩
  · rw [islot]; exact hadv.1
  · rw [islot]; exact hadv.2.1
  · rw [islot]; exact hadv.2.2
  · intro j hj
    rw [hk]
    exact (CoreState.slot_setSlot_other _ _ hj).trans ((vslot j).trans (b9 j hj))
  · intro fw
    have e : ((s.issuedAt c i w).core c).flag fw = (v.core c).flag fw := by rw [hk]; rfl
    rw [e, (c2 fw).1, (c1 fw).1, b1]
    unfold clearedBits
    have e2 : (stType w = 0x11 ∧ bitOf w 88 = true ∧ fw = bitsOf w 71 64) = ((stType w = 0x11 ∧ bitOf w 88 = true) ∧ fw = bitsOf w 71 64) :=
      propext and_assoc.symm
    simp only [e2]
    refine and_clears _ ?_ ?_
    · split
      · exact stWmask_lt _ _
      · decide
    · split
      · exact bitsOf_lt w 87 72
      · decide
  · intro d hd
    rw [hI, core_count, core_updCore_other _ _ hd, (c2 0).2.1 d hd, (c1 0).2.1 d hd, core_becomeCurrent_other s i hd]
  · rw [hI, reg64_count_one]
    have e : ∀ o, o ≠ coreReg c 0x308 → o ≠ coreReg c 0x308 + 4 → v.reg o = s.reg o := by
      intro o h1 h2
      have : v.regs = (s.becomeCurrent c i).regs := by
        rw [(c2 0).2.2.1, (c1 0).2.2.1]
      have e : v.reg o = (s.becomeCurrent c i).reg o := by unfold reg; rw [this]
      rw [e, reg_becomeCurrent s i h1 h2]
    have e64 : (v.updCore c fun k => { (k.setSlot i ((k.slot i).advance w)) with run := k.run + 1 }).reg64 (coreReg c 0x300) = s.reg64 (coreReg c 0x300) := by
      unfold reg64
      rw [reg_updCore, reg_updCore, e _ (by unfold coreReg; omega) (by unfold coreReg; omega), e _ (by unfold coreReg; omega) (by unfold coreReg; omega)]
    rw [e64]
  · intro o ho
    simp only [List.mem_cons, List.not_mem_nil, or_false, not_or] at ho
    have h2 := ho.2.1
    have h4 := ho.2.2.2
    refine hreg o ho.1 ?_ ho.2.2.1 ?_
    · unfold coreReg at h2 ⊢; omega
    · unfold coreReg at h4 ⊢; omega
  · rw [hI, count_regs_only, (c2 0).2.2.1, (c1 0).2.2.1]
    generalize hb : s.becomeCurrent c i = z
    have e := becomeCurrent_only s c i
    rw [hb] at e
    cases z
    simp only [State.mk.injEq] at e
    simp only [updCore, setCore, e]
  · intro u'; rw [hk, cv, cu]; rw [← b2 u']; cases u' <;> rfl
  · intro u'; rw [hk, cv, cu]; rw [← b3 u']; cases u' <;> rfl
  · rw [hk, cv, cu]; exact b4
  · rw [hk, cv, cu]; exact b5

end State

end Sys2Proof.Machine
end

