-- ==== Sys2Proof/Tests/Slice0.lean ====
section
/-! SUPPORT. Small tests: ill-formed commands, what single commands do on small states, and witnesses for the premises of the statements. -/

namespace Sys2Proof.Tests

open Sys2Proof Sys2Proof.Machine

-- One proof at a time: each waits for the kernel, and many waiting at once take more memory than the check allows.
set_option Elab.async false

/-! ### Ill-formed commands: for each check, a command that it refuses, beside the last one that it takes -/

theorem test_wf_core_slot :
    (∀ f ∈ [Instr.streamIn, .streamOut, .streamChainRecv, .streamChainSend, .mma, .mmaReduce, .add, .mul, .fma, .addi, .muli, .max, .min, .cmpge,
        .selge, .convert, .copy, .rsum, .rmax, .dropout, .exp2, .log2, .rcp, .rsqrt, .pwl, .geluErf, .geluTanh, .erf, .microProgram, .norm, .rope,
        .attnTile, .dike, .wait, .signal, .emit, .halt, .slotFaultMessage, .pcRange, (fun c i => .slotLaunch c i 0 0 [])],
      (f 191 7).wf = true ∧ (f 192 0).wf = false ∧ (f 0 8).wf = false) := by decide

theorem test_wf_core_context :
    (∀ f ∈ [Instr.haulFaultMessage, .haulResume, (fun c n => .descEnqueue c n 0), .peerGrant, (fun c n => .peerSegment c n 0 0 false []), .peerAbort,
        .peerTimeout, (fun c n => .untaggedTransferComplete c n .ok)],
      (f 191 31).wf = true ∧ (f 192 0).wf = false ∧ (f 0 32).wf = false) := by decide

theorem test_wf_core :
    (∀ f ∈ [(fun c => Instr.unitStepComplete c .matrix .clean), .chainFlit 0, .chainTimeout, (fun c => .patrolScrub c 0 .clean), (fun c => .partialFold c 0)],
      (f 191).wf = true ∧ (f 192).wf = false) ∧ (Instr.patrolScrub 0 786431 .clean).wf = true ∧ (Instr.patrolScrub 0 786432 .clean).wf = false := by decide

theorem test_wf_die :
    (∀ f ∈ [Instr.dieStepReport, .emitReply, (fun d => .voutCommandStep ⟨d, true⟩), (fun d => .dikeTimeout false d 63), (fun d => .sluiceLaunch d ⟨65535, []⟩)],
      (f 3).wf = true ∧ (f 4).wf = false) ∧
    (Instr.dikeTimeout true 4 15).wf = true ∧ (Instr.dikeTimeout true 0 16).wf = false ∧ (Instr.dikeTimeout false 0 64).wf = false := by decide

theorem test_wf_quarry :
    (∀ f ∈ [(fun n => Instr.quDescEnqueue n 0), (fun n => .sketchScore n .clean), (fun n => .sketchUpd n .clean), (fun n => .bench n .clean),
        (fun n => .benchLat n .clean), (fun n => .dequant n .clean), (fun n => .expand n .clean), (fun n => .quarryCopy n .clean), (fun n => .zero n .clean),
        (fun n => .move n .clean), (fun n => .searchCentroid n .clean), (fun n => .searchList n .clean), (fun n => .searchSide n .clean),
        (fun n => .searchGather n .clean), (fun n => .searchScore n .clean), (fun n => .searchMerge n .clean), .quarryResultDeliver, .backgroundZero,
        (fun n => .patrolRead n 63 0 .clean)],
      (f 7).wf = true ∧ (f 8).wf = false) ∧ (Instr.patrolRead 0 64 0 .clean).wf = false := by decide

theorem test_wf_context :
    (∀ f ∈ [(fun x => Instr.pageWalk x 0 (.bench 0 0) .clean), (fun x => .pageSelection x 0)], (f 16383).wf = true ∧ (f 16384).wf = false) := by decide

theorem test_wf_collective :
    (∀ f ∈ [(fun o => Instr.sluiceLaunch 0 ⟨o, [3]⟩), (fun o => .claimToken o 0), (fun o => .start o 0), .startTimeout, (fun o => .sluiceGrant o 0 0 .data 0),
        (fun o => .hopTimeout o 0 .data), (fun o => .lateProbe o 0 0 .data 0), (fun o => .probeAnswer o 0 false), (fun o => .probeTimeout o 0),
        (fun o => .abortNotice o 0 255 0 0 0), .abortSettle, (fun r => .slowNotice r false)],
      (f 65535).wf = true ∧ (f 65536).wf = false) ∧ (Instr.abortNotice 0 0 256 0 0 0).wf = false := by decide

theorem test_wf_port :
    (∀ f ∈ [(fun p => Instr.frameReceive p []), .replayTimeout, .ackTimer, .ctrlFrameTimer, (fun p => .pmdTrainingDone ⟨p, 0⟩), (fun p => .capabilityRecord p 0 0 0 0 0 0),
        (fun p => .laneLockLoss p 7), (fun p => .fecUncorrectable p 7), .linkSilence, (fun p => .retrainDone ⟨p, 2⟩ false), .trainingTimeout, .portEnable,
        .portDisable, .portDrainDone, (fun p => .ethFrameReceive p []), .ethCoalesce, (fun p => .tunnelIdle p 255), (fun p => .tunnelRto p 255),
        (fun p => .cuTunSel p 0)],
      (f 17).wf = true ∧ (f 18).wf = false) ∧
    (∀ f ∈ [Instr.laneLockLoss, .fecUncorrectable], (f 0 8).wf = false) ∧ (∀ f ∈ [Instr.tunnelIdle, .tunnelRto], (f 0 256).wf = false) := by decide

theorem test_wf_queue :
    (∀ f ∈ [(fun q => Instr.sqTail q 0), (fun q => .cqHead q 0), (fun q => .trHead q 0), .snoopedDoorbell, (fun q => .queueEnable q 0),
        (fun q => .queueDisable q 0), .queueDrained, (fun q => .entryArrival q true 0 [] true), .irqAggregationTimer,
        (fun q => .generate q 0 [] true), (fun q => .finetune q 0 0), (fun q => .create q 0), (fun q => .append q 0), (fun q => .fork q 0),
        (fun q => .truncate q 0), (fun q => .delete q 0), (fun q => .search q 0), (fun q => .insert q 0), (fun q => .remove q 0), (fun q => .allowLoad q 0),
        (fun q => .merge q 0), (fun q => .rankTable q 0), (fun q => .spillRegister q 0), (fun q => .load q 0), (fun q => .supply q 0), (fun q => .abort q 0),
        (fun q => .nop q 0)],
      (f 1023).wf = true ∧ (f 1024).wf = false) ∧ (Instr.msixUnmask 2047).wf = true ∧ (Instr.msixUnmask 2048).wf = false := by decide

theorem test_wf_management :
    (∀ f ∈ [Instr.polderEnable, .polderDisable, .polderDrained], (f 63).wf = true ∧ (f 64).wf = false) ∧
    (Instr.sfCoreFlag 5 0).wf = true ∧ (Instr.sfCoreFlag 6 0).wf = false ∧ (Instr.imageSlotCheck 1 true).wf = true ∧ (Instr.imageSlotCheck 2 true).wf = false ∧
    (∀ f ∈ [(fun r => Instr.pmbusPoll r true 0 0 0 0), (fun r => .pmbAlertN r true 0), .railFault, .powerRemove], (f 11).wf = true ∧ (f 12).wf = false) ∧
    (Instr.thermtrip 71 0).wf = true ∧ (Instr.thermtrip 72 0).wf = false ∧ (Instr.watchdog 4).wf = true ∧ (Instr.watchdog 5).wf = false := by decide

theorem test_ill_formed_faults : exec (.slotLaunch 192 0 0 0 []) State.reset = .fault .noSuchUnit := rfl

/-! ### Small states -/

/-- The state after a command that completes. -/
def after (c : Instr) (s : State) : State :=
  match exec c s with
  | .next t => t
  | _ => s

/-- Core 0 runs its slot 0, whose step 0 is w. -/
def atStep (w : Nat) : State :=
  { State.reset with
    mem := Memory.write 0 [] 0 (leBytes 32 w)
    cores := [(0, { CoreState.fresh with cur := some 0, slots := [(0, { Slot.idle with phase := .current })] })] }

/-! ### Witnesses for the whole machine and for register access -/

theorem witness_wf : (Instr.sqTail 1023 0).wf = true ∧ (Instr.sqTail 1024 0).wf = false := by decide

theorem witness_step : step State.reset = .next State.reset.tick ∧
    step { State.reset with pending := [.entryFetch, .linkDown] } = .next (after .entryFetch { State.reset with pending := [.linkDown] }) := ⟨rfl, rfl⟩

theorem witness_reset_canonical : State.reset.canonical ∧ ∃ t, step State.reset = .next t := ⟨by unfold State.canonical; decide, _, rfl⟩

theorem witness_gl_id : State.reset.gl.otp = State.reset.gl.otp ∧ State.reset.pw.held0 = false ∧ State.reset.hi.capt.get? R.GL_ID = none := by decide

theorem test_gl_id : exec (.barAccess R.GL_ID 4 false) State.reset = .next (State.reset.send (.readData R.GL_ID [0xB0, 0x12, 0x05, 0xD8])) := by rfl

theorem witness_bar_read : State.reset.pw.held0 = false ∧ R.GL_ID % 4 = 0 ∧ halfAt R.GL_ID ≠ 1 ∧ takes64 0x87FF8 = true ∧ takes64 0x88000 = false ∧
    State.reset.hi.capt.get? 0x87FF8 = none ∧ State.reset.hi.capt.get? 0x87FFC = none ∧ accessOk R.GL_ID 4 = true := by decide +kernel

theorem test_bad_sizes : accessOk 0x87FF8 8 = true ∧ accessOk 0x88000 8 = false ∧ accessOk 0x90000 8 = true ∧ accessOk 0x900F8 8 = true ∧
    accessOk 0x90100 8 = false ∧ accessOk 2 4 = false ∧ accessOk 0 2 = false ∧ accessOk 4 8 = false ∧ accessOk 0x80004 8 = false := by decide

theorem test_bad_read : (after (.barAccess 6 4 false) State.reset).out = [.completion 1 6] ∧
    (after (.barAccess 6 4 false) State.reset).reg R.HI_ERR = 0x200 := by decide +kernel

theorem witness_lo_hi : State.reset.pw.held0 = false ∧ halfAt R.HI_CLOCK_LO = 1 ∧ halfAt (R.HI_CLOCK_LO + 4) = 2 ∧ R.HI_CLOCK_LO % 4 = 0 ∧
    State.reset.hi.capt.get? (R.HI_CLOCK_LO + 4) = none ∧
    (after (.loReadCapture R.HI_CLOCK_LO) State.reset).hi.capt.get? (R.HI_CLOCK_LO + 4) = some 0 := by decide +kernel

theorem witness_hi_commit : State.reset.pw.held0 = false ∧ R.HI_EV_BASE_LO ∈ [R.HI_WIN_BASE_LO, R.HI_EV_BASE_LO] ∧
    (after (.registerWrite R.HI_EV_BASE_LO 0xFFFFFFFF 0) State.reset).hi.held.get? R.HI_EV_BASE_LO = some (0xFFFFFFFF : Word).toNat := by decide +kernel

theorem witness_reserved_offset : State.reset.pw.held0 = false ∧ 0x40 % 4 = 0 ∧ regRow 0xFFFFFC = none ∧ State.reset.hi.capt.get? 0xFFFFFC = none := by decide +kernel

theorem witness_w1c : State.reset.pw.held0 = false ∧ R.HI_ERR ∈ plainW1c ∧ State.coreReg 191 8 ∈ plainW1c := by decide +kernel

theorem test_w1c : ((after (.registerWrite R.HI_ERR 0x200 0x200) (State.reset.setReg R.HI_ERR 0x201))).reg R.HI_ERR = 0x201 ∧
    ((after (.registerWrite R.HI_ERR 0x200 0) (State.reset.setReg R.HI_ERR 0x201))).reg R.HI_ERR = 0x001 := by decide +kernel

/-! ### Witnesses for the cores -/

theorem witness_launch : ((State.reset.core 191).slot 7).phase = .idle ∧ (((atStep 0).core 0).slot 0).phase ≠ .idle := by decide

theorem test_launch : ((after (.slotLaunch 191 7 16383 5 [1, 2]) State.reset).core 191).slot 7 = { Slot.idle with phase := .ready, pc := 16383, model := 5 } ∧
    (after (.slotLaunch 191 7 16383 5 [1, 2]) State.reset).readStore 191 (0x5FFE00 + 448) 3 = [1, 2, 0] := by decide +kernel

/-- A step word: its TYPE, the byte above the header, and operand fields at the given bits, all of them naming byte 0x10000. -/
def word (ty op : Nat) (fields : List Nat) : Nat := ty + op * 2 ^ 64 + (fields.map fun f => 0x400 * 2 ^ f).foldl (· + ·) 0

theorem witness_unit_step : ∀ w ∈ [word 0x02 0 [64, 82, 100], word 0x03 0 [64, 82, 100], word 0x08 0 [64, 82, 100, 118, 136, 154, 172],
      word 0x04 0x01 [72, 90, 108, 126], word 0x04 0x20 [72, 126], word 0x05 0x01 [72, 90], word 0x05 0xFF [72, 90],
      word 0x06 0 [64, 82, 100], word 0x07 0 [64, 82, 100, 118]],
    (atStep w).canIssue 0 0 ∧ ∃ y ∈ unitCommands 0 0, stType ((atStep w).nextStep 0 0) = y.2.2.1 ∧ y.2.2.2 ((atStep w).nextStep 0 0) = true := by
  unfold State.canIssue; decide +kernel

theorem witness_sequencer : ∀ ty ∈ [0x10, 0x11, 0x12, 0x13, 0x1F], (atStep ty).canIssue 0 0 ∧ stType ((atStep ty).nextStep 0 0) = ty := by
  unfold State.canIssue; decide +kernel

theorem witness_emit : (atStep (word 0x13 0 [75] + 2 ^ 66 + 2 ^ 93)).canIssue 0 0 ∧ stType ((atStep (word 0x13 0 [75] + 2 ^ 66 + 2 ^ 93)).nextStep 0 0) = 0x13 ∧
    bitOf ((atStep (word 0x13 0 [75] + 2 ^ 66 + 2 ^ 93)).nextStep 0 0) 93 = true ∧ bitOf ((atStep (word 0x13 0 [75] + 2 ^ 66 + 2 ^ 93)).nextStep 0 0) 66 = true ∧
    (atStep (word 0x13 0 [75] + 2 ^ 66 + 2 ^ 93)).clean (State.storeAt 0 0x10000) 64 ∧ (atStep (word 0x13 0 [75] + 2 ^ 66 + 2 ^ 93)).clean (State.storeAt 0 (argAt 0)) 1 := by
  unfold State.canIssue State.clean; decide +kernel

theorem test_add_queued : ((after (.add 0 0) (atStep (word 0x04 0x01 [72, 90, 126]))).core 0).vq = [⟨0, BitVec.ofNat 256 (word 0x04 0x01 [72, 90, 126]), 0, false⟩] ∧
    ((after (.add 0 0) (atStep (word 0x04 0x02 [72, 90, 126]))).core 0).vq = [] := by decide +kernel

/-- Messages of core 0 wait at die 0. -/
def emitted : State := { State.reset with emits := [(0, [⟨0, 0, 5, 6, [], 3, 0x8000⟩, ⟨0, 1, 7, 8, [], 0, 0⟩])] }

theorem witness_emit_reply : (∃ m rest, Map.getD [] emitted.emits 0 = m :: rest) ∧ Map.getD [] emitted.emits 3 = [] := ⟨⟨_, _, rfl⟩, rfl⟩

theorem test_emit_reply : ((after (.emitReply 0) emitted).core 0).flag 3 = 0x8000 := by decide +kernel

theorem witness_flag_sets : (0xFFFF : Nat) < 65536 ∧ popcount16 ((State.reset.core 0).flag 255 &&& 0xFFFF) = 0 ∧
    popcount16 (((State.reset.orFlags 0 255 0x8001).core 0).flag 255 &&& 0xFFFF) = 2 := by decide +kernel

/-- Two signals of core 0 to core 1, and one to core 2. -/
def signalled : State := { State.reset with signals := [⟨0, 1, 4, 1⟩, ⟨0, 1, 4, 2⟩, ⟨0, 2, 4, 4⟩] }

theorem witness_signals :
    (∃ g, signalled.signals[2]? = some g ∧ ∀ h ∈ signalled.signals.take 2, ¬ (h.src = g.src ∧ h.core = g.core)) ∧
    (∃ g, signalled.signals[1]? = some g ∧ ∃ h ∈ signalled.signals.take 1, h.src = g.src ∧ h.core = g.core) ∧ signalled.signals[3]? = none :=
  ⟨⟨_, rfl, by decide⟩, ⟨_, rfl, by decide⟩, rfl⟩

theorem test_signal_deliver : ((after (.signalDeliver 2) signalled).core 2).flag 4 = 4 ∧ (after (.signalDeliver 1) signalled).signals = signalled.signals := by
  decide +kernel

theorem witness_pc_range : ∀ s ∈ [atStep 0x20, { atStep 0 with cores := [(0, { CoreState.fresh with cur := some 0, slots := [(0, { Slot.idle with phase := .current, pc := 1 })] })] }],
    s.pw.stopped = false ∧ (s.core 0).mayRun 0 = true ∧ (s.steps 0 ≤ ((s.core 0).slot 0).pc ∨ knownType (stType (s.nextStep 0 0)) = false ∧ s.badIn (State.storeAt 0 0) 32 = false ∧ s.softIn (State.storeAt 0 0) 32 = 0) ∧
    ((s.core 0).slot 0).phase ≠ .idle ∧ ((s.core 0).slot 0).phase ≠ .faulted := by decide +kernel

theorem test_pc_range : (((after (.pcRange 0 0) (atStep 0x20)).core 0).slot 0).cause = 0x03 ∧
    (after (.pcRange 0 0) (atStep 0x20)).el.raised.map (·.code) = [0x4303] := by decide +kernel

theorem witness_slot_fault : 0 ∈ ((after (.pcRange 0 0) (atStep 0x20)).core 0).faults ∧ 7 ∉ ((after (.pcRange 0 0) (atStep 0x20)).core 0).faults := by
  decide +kernel

/-- Core 0's vector unit runs a COPY of one element of four bytes, which it holds at 0x10000. -/
def copying : State :=
  { State.reset with
    cores := [(0, { CoreState.fresh with vq := [⟨0, BitVec.ofNat 256 (word 0x04 0x11 [72, 126, 127]), 0, false⟩] })] }

theorem witness_unit_complete : copying.pw.stopped = false ∧ (copying.core 0).running .vector = true ∧ ((copying.core 0).queue .vector).length = 1 ∧
    (∀ q ∈ (copying.core 0).queue .vector, copying.operandBad 0 0 q = none ∧ stType q.word.toNat = 0x04) ∧
    (({ copying with bad := [State.storeAt 0 0x10000 / 8] } : State).operandBad 0 0 ⟨0, BitVec.ofNat 256 (word 0x04 0x11 [72, 126, 127]), 0, false⟩).isSome = true := by decide +kernel

theorem witness_scrub : (191 : Nat) < 192 ∧ (786431 : Nat) < 786432 ∧ State.storeAt 191 (8 * 786431) / 8 ∉ State.reset.soft ∧
    State.storeAt 0 8 / 8 ∈ ({ State.reset with soft := [State.storeAt 0 8 / 8] } : State).soft := by decide

/-- The members of die-wide dike 63 of die 0 are the slots 0 of the cores that the mask names; core 0 is about to arrive there, after the arrivals given. -/
def atDike (mask : Nat) (arrived : List Arrival) : State :=
  { (atStep (word 0x10 63 [])).setReg (State.dieReg 0 0x2FC0) mask with dikes := [(63, ⟨arrived, false, 0⟩)] }

theorem witness_dike :
    (∀ x ∈ [atDike 0x101 [], atDike 0x101 [⟨1, 0, 3, 1⟩]], x.canIssue 0 0 ∧ stType (x.nextStep 0 0) = 0x10 ∧ dikeOf 0 (x.nextStep 0 0) = 63 ∧
      x.dikeMember 63 0 0 = true ∧ ∀ b ∈ (x.dike 63).arrived, ¬ (b.core = 0 ∧ b.slot = 0)) ∧
    ((atDike 0x101 []).dike 63).arrived.length + 1 < ((atDike 0x101 []).dikeMembers 63).length ∧
    ((atDike 0x101 [⟨1, 0, 3, 1⟩]).dikeMembers 63).length ≤ ((atDike 0x101 [⟨1, 0, 3, 1⟩]).dike 63).arrived.length + 1 := by
  unfold State.canIssue; decide +kernel

theorem test_dike : (((after (.dike 0 0) (atDike 0x101 [⟨1, 0, 3, 1⟩])).core 1).flag 3 = 1) ∧ ((after (.dike 0 0) (atDike 0x101 [⟨1, 0, 3, 1⟩])).dike 63) = ⟨[], true, 0⟩ := by decide +kernel

/-- Core 0 has arrived at that dike, whose timeout is 7 µs, and this many µs have passed since. -/
def timedDike (t : Nat) : State :=
  { (atDike 0x101 [⟨0, 0, 3, 1⟩]).setReg (State.dieReg 0 0x10) 7 with clk := 250 * t }

theorem witness_dike_timeout : State.dikeKey false 0 63 = 63 ∧ ((atDike 0x101 []).dike 63).arrived = [] ∧ ((timedDike 6).dike 63).arrived ≠ [] ∧ (timedDike 6).dikeLimit false 0 = 7 ∧
    (timedDike 6).now < ((timedDike 6).dike 63).since + 7 ∧ ((timedDike 7).dike 63).since + 7 ≤ (timedDike 7).now ∧
    (((timedDike 7).core 0).slot 0).phase ≠ .faulted ∧ ((timedDike 7).core 0).streams = [] := by decide +kernel

theorem test_dike_timeout : (((after (.dikeTimeout false 0 63) (timedDike 7)).core 0).slot 0).cause = 0x08 := by decide +kernel

/-! ### Witnesses for arithmetic -/

theorem witness_exact : ∀ f ∈ [Fmt.fp32, .bf16, .fp16, .e4m3, .e5m2], (2 ^ f.bits - 2 ^ (f.bits - 1) : Nat) < 2 ^ f.bits ∧ f.scalar.decode (2 ^ f.bits - 2 ^ (f.bits - 1)) ≠ .nan := by
  decide +kernel

theorem test_smallest_subnormals : ∀ f ∈ [Fmt.fp32, .bf16, .fp16, .e4m3, .e5m2], f.scalar.convert true (f.scalar.decode 1) = (1, .none) := by decide +kernel

theorem witness_overflow : ∀ f ∈ [Fmt.fp32, .bf16, .fp16, .e4m3, .e5m2], f.scalar.maxCode < f.scalar.roundCode 1 1 128 := by decide +kernel

theorem test_e4m3_overflow : (Fmt.e4m3.scalar.convert false (.fin true 1 9)).1 = 0x7F ∧ (Fmt.e4m3.scalar.convert true (.fin true 1 9)).1 = 0xFE ∧
    (Fmt.e4m3.scalar.convert true (.fin true 15 5)).1 = 0xFE ∧ (Fmt.e4m3.scalar.convert true (.fin true 7 6)).1 = 0xFE := by decide +kernel

theorem witness_permutation : [(0, [FVal.one]), (1, [FVal.zero])].Perm [((1 : Int), [FVal.zero]), (0, [FVal.one])] := List.Perm.swap ..

/-! ### Witnesses for hauls -/

/-- Core 0 is about to issue a STREAM in the given mode with the given fills, on context 0 with the given space and class. -/
def atStream (mode fills space cls : Nat) : State :=
  { atStep (word 0x01 (32 * mode) [72, 90] + fills * 2 ^ 124) with tg := { TgState.reset with ctxs := [(0, BitVec.ofNat 512 (space * 2 ^ 64 + cls * 2 ^ 68))] } }

theorem witness_stream : ∀ x ∈ [(0, Instr.streamIn 0 0, 3, 0), (1, .streamOut 0 0, 3, 1), (2, .streamChainRecv 0 0, 6, 3), (3, .streamChainSend 0 0, 3, 0)],
    (x.1, x.2.1) ∈ [(0, Instr.streamIn 0 0), (1, .streamOut 0 0), (2, .streamChainRecv 0 0), (3, .streamChainSend 0 0)] ∧
    (∀ fills ∈ [0, 1], (atStream x.1 fills x.2.2.1 x.2.2.2).canIssue 0 0 ∧ stType ((atStream x.1 fills x.2.2.1 x.2.2.2).nextStep 0 0) = 0x01 ∧
      bitsOf ((atStream x.1 fills x.2.2.1 x.2.2.2).nextStep 0 0) 71 69 = x.1) ∧
    State.spaceBad ((atStream x.1 0 x.2.2.1 x.2.2.2).sctx 0) x.1 = false ∧ scLen ((atStream x.1 0 x.2.2.1 x.2.2.2).sctx 0) = 64 ∧
    (atStream x.1 0 7 0).canIssue 0 0 ∧ State.spaceBad ((atStream x.1 0 7 0).sctx 0) x.1 = true := by
  unfold State.canIssue; decide +kernel

theorem test_stream_errors : ((after (.streamIn 0 0) (atStream 0 0 7 0)).sctx 0) / 2 ^ 376 % 256 = 0x11 ∧ ((after (.streamIn 0 0) (atStream 0 1 3 0)).sctx 0) / 2 ^ 376 % 256 = 0x10 := by
  decide +kernel

/-- A stream in progress: one fill of 64 bytes is open. -/
def run (mode : Nat) (halt : Option (Nat × Nat)) (moved : Option Nat) : StreamRun :=
  ⟨0, BitVec.ofNat 256 (word 0x01 (32 * mode) [72, 90]), 0, false, 0, 1, 0, 0, [], 0, halt, none, [], false, moved, false, 0⟩

/-- Context 0 of core 0 runs a stream over a space, with granules 0 to 15 resident. -/
def streaming (mode space cls : Nat) (halt : Option (Nat × Nat)) : State :=
  { atStream mode 0 space cls with
    cores := [(0, { CoreState.fresh with streams := [(0, run mode halt none)], slots := [(0, { Slot.idle with phase := .draining })] })]
    ti := { TiState.reset with regions := [⟨0, 16, 0, true, false, 1, 0⟩], map := [(0, ⟨false, false, false, false, 0, 0, 0, 0, 0⟩)] } }

/-- The same with a request for its first 64 bytes behind one of a context whose cap blocks it, and with the class's pool and caps as given. -/
def asking (mode space cls : Nat) (c : TagClass) : State :=
  { (((streaming mode space cls none).setReg R.TG_SPLIT_READ 1).setReg R.TG_SPLIT_WRITE 1).setReg R.TG_CTX_CAP 1 with
    tg := { (streaming mode space cls none).tg with
      ctxs := [0, 5].map fun k => (k, BitVec.ofNat 512 (space * 2 ^ 64 + cls * 2 ^ 68))
      reqs := [⟨c, .stream 5, 0, 64⟩, ⟨c, .stream 0, 0, 64⟩], xfers := [⟨7, .remote, .stream 5, 0, 64, 0, false, none⟩], nextId := 8 }
    cores := [(0, { CoreState.fresh with streams := [(0, run mode none none), (5, run mode none none)] })] }

theorem witness_grant : ∀ x ∈ [(0, 0, TagClass.read), (1, 1, .write)], let s := asking x.1 3 x.2.1 x.2.2
    s.pw.stopped = false ∧
    s.inUse x.2.2 < s.poolSize x.2.2 ∧ s.tg.reqs = [⟨x.2.2, .stream 5, 0, 64⟩] ++ ⟨x.2.2, .stream 0, 0, 64⟩ :: [] ∧
    s.grantable ⟨x.2.2, .stream 5, 0, 64⟩ = false ∧ s.grantable ⟨x.2.2, .stream 0, 0, 64⟩ = true ∧ s.nextXfer ⟨x.2.2, .stream 0, 0, 64⟩ = some (0, 64) ∧
    s.run? 0 = some (run x.1 none none) ∧ scSpace (s.sctx 0) ≠ 4 ∧ s.translate (granOf 0) (scPolder (s.sctx 0)) ((run x.1 none none).mode == 1) = .go ∧
    ((s.setReg R.TG_SPLIT_READ 0).poolSize .read ≤ s.inUse .read) ∧ ∀ q ∈ s.tg.reqs, q.cls = .remote → s.grantable q = false := by decide +kernel

theorem test_grant : ((after (.tagGrant .read) (asking 0 3 0 .read)).tg.xfers = [⟨7, .remote, .stream 5, 0, 64, 0, false, none⟩, ⟨8, .read, .stream 0, 0, 64, 0, false, none⟩]) ∧
    (after (.tagGrant .read) (asking 0 3 0 .read)).tg.reqs = [⟨.read, .stream 5, 0, 64⟩] := by decide +kernel

theorem witness_transfer : (∀ x ∈ (asking 0 3 0 .read).tg.xfers, x.id ≠ 8) ∧
    (∀ mode ∈ [0, 1], let s := { streaming mode 3 mode none with tg := { (streaming mode 3 mode none).tg with xfers := [⟨9, .read, .stream 0, 0, 64, 0, false, none⟩] } }
      s.tg.xfers.find? (fun y => y.id == 9) = some ⟨9, .read, .stream 0, 0, 64, 0, false, none⟩ ∧ s.run? 0 = some (run mode none none) ∧
      (run mode none none).err = none ∧ (run mode none none).stuck = false ∧ scSpace (s.sctx 0) ≠ 4 ∧ (run mode none none).mode = mode ∧ s.nearBad 0 (run mode none none) 0 64 = false) ∧
    (∀ mode ∈ [0, 1], (streaming mode 1 3 none).run? 0 = some (run mode none none) ∧ scSpace ((streaming mode 1 3 none).sctx 0) = 1 ∧
      (run mode none none).pre < (run mode none none).opened * (run mode none none).chunk ∧ (streaming mode 1 3 none).farAt 0 (run mode none none) 0 = some (0, 64) ∧
      (streaming mode 1 3 none).badIn (State.terraceAt 0 0) 64 = false ∧ (streaming mode 1 3 none).badIn (State.storeAt 0 ((run mode none none).near 0)) 64 = false) := by
  decide +kernel

theorem witness_halt : let s := streaming 0 3 0 (some (0x01, 0)); let t := (s.setScField 0 373 373 1).updCore 0 fun k => { k with halts := [0] }
    0 ∈ (t.core 0).halts ∧ t.run? 0 = some (run 0 (some (0x01, 0)) none) ∧ bitOf (t.sctx 0) 373 = true ∧ (t.entry 0).spill = false ∧
    (t.entry 0).poison = false ∧ t.moveOf 0 = none ∧ 0 ∉ (s.core 0).halts ∧ (∀ r, (streaming 0 3 0 none).run? 0 = some r → r.halt = none) ∧
    (∃ p ∈ [(⟨0, .stream 0, 5⟩ : Pin)], p.gran = 0 ∧ p.stop ≤ ({ s with clk := 1250 } : State).now) ∧
    (∃ p ∈ [(⟨0, .stream 0, 5⟩ : Pin)], p.gran = 0 ∧ ({ s with clk := 1249 } : State).now < p.stop) := by
  refine ⟨by decide +kernel, by decide +kernel, by decide +kernel, by decide +kernel, by decide +kernel, by decide +kernel, by decide +kernel, ?_, by decide +kernel, by decide +kernel⟩
  intro r h; cases h; rfl

theorem witness_peer : let s := streaming 0 4 2 none
    (Map.getD [] s.tg.descs 0).length < 16 ∧ 16 ≤ (Map.getD [] { s.tg with descs := [(0, List.replicate 16 0)] }.descs 0).length ∧
    s.run? 0 = some (run 0 none none) ∧ scGrants (s.sctx 0) < 65535 ∧ (run 0 none none).mode = 0 ∧ scSpace (s.sctx 0) = 4 ∧ (run 0 none none).err = none ∧
    (run 0 none none).opened ≤ 1 ∧ 0 = (run 0 none none).pre / (run 0 none none).chunk ∧ 0 < (run 0 none none).opened ∧ 0 + (List.replicate 64 (0 : Byte)).length ≤ (run 0 none none).chunk ∧
    true = decide (0 + (List.replicate 64 (0 : Byte)).length = (run 0 none none).chunk) ∧
    (∃ t, (run 0 none (some 0)).moved = some t ∧ t + ({ s with clk := 250000000 } : State).peerLimit 0 ≤ ({ s with clk := 250000000 } : State).now) := by
  decide +kernel

theorem test_peer_mismatch : ((after (.peerSegment 0 0 0 0 false (List.replicate 64 1)) (streaming 0 4 2 none)).sctx 0) / 2 ^ 376 % 256 = 0x14 ∧
    (after (.peerSegment 0 0 0 0 true (List.replicate 64 1)) (streaming 0 4 2 none)).readStore 0 0x10000 2 = [1, 1] := by decide +kernel

/-- Core 0 sends chain 0 over itself and core 1, of 512 bytes; the cores given run a CHAIN_RECV for it. -/
def chained (self : Bool) (recv armed past : List Nat) : State :=
  { State.reset with
    tg := { TgState.reset with ctxs := recv.map fun c => (32 * c, 0x66#512 <<< 64) }
    cores := recv.map fun c => (c, { CoreState.fresh with streams := [(0, run 2 none none)] })
    chains := [⟨0, 0, 3, [0, 1, 2], self, armed, past, 512, []⟩] }

theorem witness_chain :
    (∃ ch, (chained false [1, 2] [] [0, 0, 0]).chains.find? (fun c => c.id == 0) = some ch ∧ ch.armed = [] ∧
      ∀ c ∈ (if ch.self then ch.span else ch.span.drop 1), ((chained false [1, 2] [] [0, 0, 0]).chainRecv c 0).isSome = true) ∧
    (∃ ch, (chained true [1, 2] [] [0, 0, 0]).chains.find? (fun c => c.id == 0) = some ch ∧
      ∃ c ∈ (if ch.self then ch.span else ch.span.drop 1), (chained true [1, 2] [] [0, 0, 0]).chainRecv c 0 = none) ∧
    (∃ ch, (chained false [2] [0, 1, 2] [1, 0, 0]).chains.find? (fun c => c.id == 0) = some ch ∧ ch.span.idxOf? 1 = some 1 ∧ ch.armed ≠ [] ∧
      (∀ c ∈ ch.span.drop 2, ((chained false [2] [0, 1, 2] [1, 0, 0]).core c).held = none) ∧ ((chained false [2] [0, 1, 2] [1, 0, 0]).core 1).held = none ∧
      ch.past.getD 1 0 < ch.past.getD 0 0 ∧ 256 * ch.past.getD 1 0 < ch.total ∧ (chained false [2] [0, 1, 2] [1, 0, 0]).chainRecv 1 0 = none ∧ ch.id = 0) :=
  ⟨⟨_, rfl, rfl, by decide +kernel⟩, ⟨_, rfl, 0, by decide +kernel⟩, ⟨_, rfl, by decide +kernel⟩⟩

theorem witness_chain_held : let s := (chained false [1] [0, 1, 2] [1, 1, 0]).updCore 1 fun k => { k with held := some (0, 0) }
    (s.core 1).held = some (0, 0) ∧ s.chainRecv 1 0 = some 32 ∧ s.run? 32 = some (run 2 none none) ∧ (s.core 2).held = none ∧
    (let t := { s.setReg (State.dieReg 0 0x14) 9 with clk := 2250 }; 0 + t.reg (State.dieReg (1 / 48) 0x14) ≤ t.now) := by decide +kernel

/-! ### Witnesses for the quarry -/

/-- A model of one head of 64 values with pages of 16 tokens. -/
def smallModel : Model := ⟨1, 1, 1, 1, 64, false, false, false, false, true, false, 3, 0, 0, 1, 1, 1, 1, [0], 16, []⟩

/-- A descriptor of the first 64 bytes of granule 0, for the operation, its own bits above bit 175, and LAST. -/
def desc (op hi : Nat) : BitVec 256 := BitVec.ofNat 256 (2 ^ 64 + op * 2 ^ 72 + hi * 2 ^ 176)

/-- A batch of two queries, and its index. -/
def smallBatch : SkBatch := ⟨0, 3, 0, 1, 1, 1, 0, 0, [], [⟨0, 0, 0, [], [], [], 0, 0, false⟩, ⟨1, 5, 0, [], [], [], 0, 0, false⟩], 1, 1, [], [], [(0, [0, 1])], false, true, 0, []⟩
def smallIndex : SkIdx := ⟨0, 0, 0, 0, 0, 0, 0, 0, 0, 0, 0, 0, none, false, []⟩

/-- Unit 0 holds the descriptors given; granules 0 to 15 are at home in stack 0; the block at quarry address 0 has a stride of 65,536 bytes. -/
def quarry (queue : List QuDesc) : State :=
  { State.reset with
    qus := [(0, ⟨queue, [], 0, [], false⟩)], models := [(0, smallModel)], mem := Memory.write 0 [] (State.blockAt 0 + 8) (leBytes 4 1024)
    sk := { SkState.reset with batches := [smallBatch], idx := [(3, smallIndex)] }
    ti := { TiState.reset with regions := [⟨0, 16, 0, true, false, 1, 0⟩], map := [(0, ⟨false, false, false, false, 7, 0, 0, 0, 0⟩)] } }

def queued (op hi : Nat) (frame : Option Nat) : QuDesc := ⟨desc op hi, .die 0, frame, 0, 0, false⟩

theorem witness_lists : ∀ d ∈ [queued 0x10 0 none, queued 0x11 0 none, queued 0x20 0 none, queued 0x21 0 none, queued 0x30 (2 ^ 48) none, queued 0x31 (2 ^ 48) none,
      queued 0x40 0 none, queued 0x41 0 none, queued 0x41 0 (some 5), queued 0x42 0 none, queued 0x42 0 (some 5)],
    (quarry [d]).quReady 0 d.op [d] ∧ (quarry [d]).model d.mod = some smallModel := by
  unfold State.quReady; decide +kernel

theorem witness_searches : ∀ ph ∈ [0, 1, 2, 3, 4, 5], let d := queued 0x50 ph none
    (quarry [d]).quReady 0 (0x500 + ph) [d] ∧ (quarry [d]).sk.batches.find? (fun b => b.num % 65536 == d.batch) = some smallBatch ∧
    (quarry [d]).skIdx smallBatch.index = some smallIndex ∧ smallBatch.queries.length ≤ 4096 := by
  unfold State.quReady; decide +kernel

theorem test_zero : ((after (.zero 0 .clean) (quarry [queued 0x41 0 (some 5)])).quState 0) = ⟨[], [], 1, [(.zeroed 5 true, some (0, 0))], false⟩ := by decide +kernel

theorem test_heap_order : [9, 4, 7, 4, 1].foldl (State.skKeep 3) [] = [1, 4, 7] ∧ [1, 4, 4, 7, 9].foldl (State.skKeep 3) [] = [1, 4, 7] := by decide +kernel

theorem witness_bad_lists : ∀ x ∈ quarryCommands 0, ∃ d ∈ [queued x.1 (2 ^ 80) none, queued 0x50 (x.1 - 0x500 + 2 ^ 72) none], let s := quarry [{ d with word := d.word ||| 0x8#256 <<< 64 }]
    let e := { d with word := d.word ||| 0x8#256 <<< 64 }
    s.pw.stopped = false ∧ State.takeList ((s.quState 0).queue ++ (s.quState 0).wait) = [e] ∧ e.dead = false ∧ e.kind = x.1 ∧ State.listWhole [e] = true ∧
    (∀ b ∈ s.sk.batches, ∀ h ∈ b.heaps, h.1 / 4096 ≠ 0) ∧ State.heldBytes (s.quState 0) < 1048576 ∧ s.listBad 0 [e] = true := by decide +kernel

theorem test_bad_list : (after (.quarryCopy 0 .clean) (quarry [queued 0x40 (2 ^ 79) none])).reg (State.quReg 0 8) = 1 ∧
    (after (.zero 0 .clean) (quarry [queued 0x40 0 none])).qus = (quarry [queued 0x40 0 none]).qus := by decide +kernel

/-! ### Witnesses for memory management -/

/-- An execution of operation 65535, with two slots of which one has finished. -/
def executing : State := { State.reset with sl := { SlState.reset with count := [(65535, 2)], execs := [(65535 * 65536 + 1, ⟨1, 2, 2, some 0, false, [], [], [0], [], [], [], [], none, 0, [], 0⟩)] } }

theorem witness_selectors : (Map.getD (State.reset.reg R.TI_MAP_SEL_LO) State.reset.hi.held R.TI_MAP_SEL_LO < 2 ^ 32) ∧ (17 : Nat) < 18 ∧
    (∃ k x, executing.slExecs ((0xFFFF : Word).toNat % 65536) = [(k, x)] ∧ x.phase = 2 ∧ x.slots < 2 ^ 32) ∧
    executing.slExecs ((5 : Word).toNat % 65536) = [] ∧ (∀ x ∈ executing.sl.tokens, x.1 ≠ (5 : Word).toNat % 65536) ∧ executing.slCount 65535 < 65536 ∧
    (State.tunnel (State.reset.port 17) 255).rank < 65536 ∧ (State.tunnel (State.reset.port 17) 255).phase < 4 :=
  ⟨by decide +kernel, by decide, ⟨_, _, rfl, by decide, by decide⟩, by decide +kernel, by decide +kernel, by decide +kernel, by decide +kernel, by decide +kernel⟩

theorem test_sl_op : (after (.slOpSel 0xFFFF) executing).reg (R.SL_OP_DATA + 16) = 0x20002 ∧ (after (.slOpSel 0xFFFF) executing).reg (R.SL_OP_DATA + 20) = 1 := by decide +kernel

/-- Context 16383 is ACTIVE with its root at granule 0, which is resident and zero; the ranks of its layer 0 are in. -/
def walking : State :=
  { quarry [] with kv := { KvState.reset with ctxs := [(16383, { Ctx.empty with phase := .active, root := 0, rootsz := 0 })], ranks := [(67104768, [(0x3F800000, 0)])] } }

theorem witness_walk : (16383 : Nat) < 16384 ∧ ((walking.ctx 16383).phase = .active ∨ (walking.ctx 16383).phase = .parked) ∧
    walking.model (walking.ctx 16383).model = some smallModel ∧ smallModel.krec = false ∧
    walking.mustWait ((walking.ctx 16383).root :: (walking.rowsOf 16383).map (·.2)) = [] ∧ walking.layersBad 16383 smallModel [0] = false ∧ walking.pw.stopped = false ∧ (walking.quState 7).skip = false ∧
    smallModel.select = true ∧ walking.ranksPending 16383 0 = false ∧ walking.updating 16383 = false := by decide +kernel

/-- One row of 64 values of one head, in two partials. -/
def target : BenchTarget := ⟨0, 0, 0, 1, 64, 1, 2, 0x10000, 256, 0x20000, 64, 3, 15, 4, 0, false, []⟩

/-- Core 0 has that target, whose gate is flag word 3, bit 15, and a partial of its head 0. -/
def folding (flags : Map (BitVec 16)) : State :=
  { State.reset with cores := [(0, { CoreState.fresh with flags := flags, partials := [⟨0, 0, 0, []⟩], targets := [target] })] }

theorem witness_fold :
    (∀ s ∈ [folding [], folding [(3, 0x8000)]], (s.core 0).partials[0]? = some ⟨0, 0, 0, []⟩ ∧
      (s.core 0).targets.find? (fun t => t.qaddr == 0) = some target) ∧
    (folding []).mayFold 0 target ⟨0, 0, 0, []⟩ = false ∧
    (folding [(3, 0x8000)]).mayFold 0 target ⟨0, 0, 0, []⟩ = true ∧
    ((Map.put [] 0 (Map.getD 0 [] 0 + 1)).map (·.2)).sum < 2 * 1 := by decide +kernel

/-- Unit 7 has a result to deliver. -/
def delivering (r : QuResult) (flags : Map (BitVec 16)) : State :=
  { folding flags with qus := [(7, ⟨[], [], 0, [(r, some (0, 0))], false⟩)], ti := { TiState.reset with zeroing := [7 * 2 ^ 20 + 5] } }

theorem witness_deliver : (State.reset.quState 7).results = [] ∧
    (∀ r ∈ [QuResult.ranks 1 0 [(5, 6)] none, .page 1 [(0, [1])] 0 3 15 none, .sketched 1 0 0 [] none, .copied 1 0 none, .moved 5 true, .search 0 [], .zeroed (7 * 2 ^ 20 + 5) true, .bad 1 0],
      ((delivering r []).quState 7).results = (r, some (0, 0)) :: [] ∧ (delivering r []).pw.stopped = false) ∧
    (∃ c t, (delivering (.parts 0 0 [] none) []).targetOf 0 = some (c, t) ∧ (delivering (.parts 0 0 [] none) []).mayDeliver c t [] = false) ∧
    (∃ c t, (delivering (.parts 0 0 [] none) [(3, 0x8000)]).targetOf 0 = some (c, t) ∧ (delivering (.parts 0 0 [] none) [(3, 0x8000)]).mayDeliver c t [] = true) :=
  ⟨by decide, by decide +kernel, ⟨_, _, rfl, by decide +kernel⟩, ⟨_, _, rfl, by decide +kernel⟩⟩

theorem test_deliver_page : ((after (.quarryResultDeliver 7) (delivering (.page 1 [(0, [9])] 0 4 15 none) [])).core 0).flag 4 = 0x8000 ∧
    (after (.quarryResultDeliver 7) (delivering (.page 1 [(0, [9])] 0 4 15 none) [])).readMem 0 1 = [9] := by decide +kernel

/-! ### Witnesses for collectives -/

/-- Ring 5 joins ranks 0 (this D8) and 1; operation 65535 is of the kind given, of one chunk, on that ring. -/
def ringed (kind budget : Nat) (execs : Map SlExec) (tokens : List (Nat × Nat × Nat)) : State :=
  { State.reset.setReg R.SL_BUDGET budget with
    cu := { CuState.reset with rings := [(5, [0, 1])] }
    sl := { SlState.reset with ops := [(65535, BitVec.ofNat 128 (kind + 8 + 5 * 16))], count := [(65535, 1)], execs := execs, tokens := tokens } }

/-- An execution of it in a phase, which awaits a hop. -/
def execution (phase : Nat) : SlExec := ⟨1, phase, 1, none, false, [0], [], [], [], [], [⟨0, 1, 0, 0, false⟩], [], none, 0, [], 0⟩

/-- Where execution 1 of it stands. -/
def here : Nat := 65535 * 65536 + 1

theorem witness_claims : let r := (ringed 2 1 [] []).slRec 65535
    here = State.slKey 65535 1 ∧
    slValid r = true ∧ 2 ≤ slKind r ∧ slKind ((ringed 1 1 [] []).slRec 65535) < 2 ∧ (ringed 2 1 [] []).ownRank ∈ (ringed 2 1 [] []).ringRanks (slRing r) ∧
    (ringed 2 1 [] []).slExec here = none ∧ (ringed 2 1 [] []).slExecs 65535 = [] ∧ (ringed 2 1 [] []).slHeld (slModel r) + slChunks r ≤ (ringed 2 1 [] []).slBudget (slModel r) ∧
    (ringed 2 1 [] []).slCount 65535 = 1 ∧ (State.SlExecNew 1).phase = 0 ∧ (ringed 2 1 [] []).slPast 65535 1 = false ∧ (ringed 2 1 [] []).slPast 65535 0 = true ∧
    (ringed 2 1 [] []).ringNext (slRing r) = some 1 ∧ ({ (ringed 2 1 [] []) with cu := { CuState.reset with rings := [(5, [0])] } } : State).ringNext 5 = none ∧
    (ringed 2 0 [] []).slBudget (slModel r) < (ringed 2 0 [] []).slHeld (slModel r) + slChunks r ∧
    (∀ p ∈ [1, 2, 3], (ringed 2 1 [(here, execution p)] []).slExec here = some (execution p) ∧ (execution p).phase = p) ∧
    (ringed 2 1 [] [(65535, 1, 0)]).sl.tokens = [(65535, 1, 0)] := by decide +kernel

/-- A top-k list of one chunk, of which this die has no entry. -/
theorem test_launch_count : Map.getD 9 (after (.sluiceLaunch 0 ⟨65535, [0]⟩) (ringed 4 1 [] [])).sl.staged (4096 * here + 0) = 0 := by decide +kernel

theorem test_start : ((after (.start 65535 1) (ringed 2 1 [(here, execution 1)] [])).slExec here).map (·.phase) = some 2 := by decide +kernel

/-- The header of a hop of that execution: 16 bytes of chunk 0 in the gather pass, from rank 0. -/
def hopHeader (crc : Nat) : BitVec 512 := BitVec.ofNat 512 (65535 + 2 ^ 16 + 2 ^ 48 + 16 * 2 ^ 96 + crc * 2 ^ 160)

/-- The CRCs of the digits 1 to 9 that the definitions of CRC-32C and CRC-32 publish. -/
theorem test_crc : crc32c [0x31, 0x32, 0x33, 0x34, 0x35, 0x36, 0x37, 0x38, 0x39] = 0xE3069283 ∧ crc32 [0x31, 0x32, 0x33, 0x34, 0x35, 0x36, 0x37, 0x38, 0x39] = 0xCBF43926 := by
  simp [crc32c, crc32, crc32With, crcBits]

theorem witness_hop_crc : crc32c (List.replicate 16 0) = 1114675946 ∧ crc32c (List.replicate 16 0) ≠ 5 := by
  simp [crc32c, crc32With, crcBits, List.replicate]

theorem witness_hop : let s := ringed 4 1 [(here, execution 2)] []; let data := List.replicate 16 (0 : Byte)
    (∀ crc ∈ [1114675946, 5], let h := hopHeader crc
      bitsOf h.toNat 15 0 = 65535 ∧ bitsOf h.toNat 47 32 = 0 ∧ bitsOf h.toNat 55 48 = 1 ∧ bitsOf h.toNat 143 128 = 0 ∧ (execution 2).exec = bitsOf h.toNat 31 16 ∧
      (∃ w ∈ (execution 2).waits, w.cidx = 0 ∧ w.pass = 1 ∧ w.origin = 0) ∧ bitsOf h.toNat 79 72 = 0 ∧ bitsOf h.toNat 159 144 = 0 ∧ bitsOf h.toNat 511 192 = 0 ∧
      bitsOf h.toNat 127 96 = data.length ∧ s.hopLenOk here (execution 2) 0 data.length = true ∧
      bitsOf h.toNat 95 80 = State.hopsFrom (s.ringRanks (slRing (s.slRec 65535))).length (s.ringPos (slRing (s.slRec 65535))) 0 ∧ bitsOf h.toNat 191 160 = crc) ∧
    (∀ w ∈ (execution 2).waits, ¬ (w.cidx = 1 ∧ w.pass = 1 ∧ w.origin = 0)) := by decide +kernel

theorem test_hop_crc : (after (.sluiceHop (hopHeader 5) (List.replicate 16 0)) (ringed 4 1 [(here, execution 2)] [])).reg R.SL_CRC_FAIL_LO = 1 ∧
    ((after (.sluiceHop (hopHeader 5) (List.replicate 16 0)) (ringed 4 1 [(here, execution 2)] [])).slExec here).map (·.phase) = some 3 := by decide +kernel

theorem witness_late : let s := { (ringed 2 1 [(here, execution 2)] []).setReg R.SL_HOP_TIMEOUT 5 with clk := 1250 }
    s.slExecs 65535 = [(State.slKey 65535 1, execution 2)] ∧ (execution 2).phase = 2 ∧ (execution 2).probe = none ∧
    s.waitDue (execution 2) 0 1 = some ⟨0, 1, 0, 0, false⟩ ∧ ({ s with clk := 1249 } : State).waitDue (execution 2) 0 1 = none ∧ (execution 3).phase = 3 ∧
    (ringed 2 1 [(here, { execution 2 with probe := some (0, 1, 1) })] []).slExecs 65535 = [(State.slKey 65535 1, { execution 2 with probe := some (0, 1, 1) })] ∧
    s.sl.tokens = [] ∧ (∀ b ∈ s.berm, b.opid ≠ 65535) ∧ s.ownRank = 0 ∧ (1 : Nat) ∈ s.ringMates ∧ (2 : Nat) ∉ s.ringMates ∧ (1 : Nat) ∈ s.ringRanks (slRing (s.slRec 65535)) ∧
    State.reset.cu.hold = none ∧ ({ CuState.reset with hold := some 5 } : CuState).hold ≠ none := by decide +kernel

/-- The same execution in its settle window of 200 µs, which began at 0. -/
def settling (t : Nat) : State := { (ringed 2 1 [(here, { execution 3 with notices := [(1, 1, 0)] })] []).setReg R.SL_ABORT_SETTLE 200 with clk := 250 * t }

theorem witness_settle : (settling 199).slExecs 65535 = [(State.slKey 65535 1, { execution 3 with notices := [(1, 1, 0)] })] ∧
    (settling 199).now < (execution 3).since + (settling 199).reg R.SL_ABORT_SETTLE ∧ (execution 3).since + (settling 200).reg R.SL_ABORT_SETTLE ≤ (settling 200).now ∧
    (execution 3).die = none ∧ (State.endStep (State.resetCores (settling 200) 0) 0 0x15 0 0).sk.batches = [] := by decide +kernel

theorem test_settle : (after (.abortSettle 65535) (settling 199)).slExec here = some { execution 3 with notices := [(1, 1, 0)] } ∧
    (after (.abortSettle 65535) (settling 200)).slExec here = none ∧ (after (.abortSettle 65535) (settling 200)).reg R.SL_LAST_ABORT0 = 65535 + 65536 := by decide +kernel

theorem test_hop_timeout : let s := { (ringed 2 1 [(here, execution 2)] []).setReg R.SL_HOP_TIMEOUT 5 with clk := 1250 }
    ((after (.hopTimeout 65535 0 .gather) s).slExec here).map (·.probe) = some (some (0, 1, 1)) ∧
    ((after (.slowNotice 1 true) s).slExec here).map (·.ext) = some true := by decide +kernel

/-! ### Witnesses for links -/

/-- Port 17 in a role. -/
def ported (role : Nat) (p : Port) : State := { State.reset.setReg (cuReg 17 0x10) role with cu := { CuState.reset with ports := [(17, p)] } }

/-- A D8 whose start has reached LOADED. -/
def hosting4 (s : State) : State := { s with im := { s.im with phase := 4 } }

def smallFlit : Flit := ⟨0, 0, true, false, [1, 2], none, 0, false, none⟩
def sentFlit (tries : Nat) : TxFrame := ⟨5, smallFlit, tries, 0⟩

theorem witness_frames : let up : Port := { Port.off with phase := 2, rev := 0x20, expect := 4095, unacked := [sentFlit 0], owe := 1 }
    ((ported 1 Port.off).port 17).phase ∉ [2, 6, 7] ∧ ((ported 1 up).port 17) = up ∧ up.phase ∈ [2, 6, 7] ∧ (ported 1 up).portRole 17 ≠ 7 ∧ (ported 7 up).portRole 17 = 7 ∧
    (List.replicate 269 (0 : Byte)).length ≠ 270 ∧ (ported 1 up).pw.stopped = false ∧
    up.expect < 4096 ∧ (∀ f ∈ up.unacked, f.tries < 15) ∧ up.unacked ≠ [] ∧ up.owe + 1 < 64 ∧ Port.off.rev ≠ 0x20 ∧ (ported 7 up).ethParse 17 [] = none := by decide +kernel

theorem test_accept : let up : Port := { Port.off with phase := 2, rev := 0x20, expect := 4095 }
    let t := ((ported 1 up).acceptFlit 17 1 0 true false [9] [7, 8]).port 17
    t.expect = 0 ∧ t.rx = [(1, [7, 8])] ∧ t.rbuf = [(2, [(false, [9])])] ∧ t.freed = [] := by decide +kernel

/-- A chip at X = 1 of two, whose X+ port 16 retrains and whose X− port 17 is UP, and the header of a message for the chip at X = 0. -/
def between : State :=
  let s := { State.reset with cu := { CuState.reset with ports := [(16, { Port.off with phase := 3 }), (17, { Port.off with phase := 2 })] } }
  (((((s.setReg (cuReg 16 0x10) 1).setReg (cuReg 17 0x10) 2).setReg R.CU_RT_STATUS 1).setReg R.CU_RT_JOB 0x20000).setReg R.CU_RT_DIM0 1).setReg R.CU_RT_COORD0 1
def passing : List Byte := [0, 0, 0, 0, 1, 0, 0, 0, 0, 0, 0, 0, 0, 0, 0, 0]

theorem witness_passed : between.passOn 17 1 0 passing = some (2 ^ 32 + 1, 1, 0) ∧ between.portTo (2 ^ 32 + 1) 1 = some 16 ∧ between.portRole 16 ≠ 7 ∧ (between.port 16).phase = 3 ∧
    (between.port 17).fwd.get? 1 = none ∧ (between.port 17).rx.get? 1 = none ∧ (between.port 17).owe + 1 < 64 := by decide +kernel

/-- The message is passed on before it has come whole; its second flit follows the first. -/
theorem test_passed : let t := (between.acceptFlit 17 1 0 true false [9] passing).acceptFlit 17 1 0 false true [8] [5]
    (t.port 16).queue.map (fun f => (f.head, f.eom, f.held)) = [(true, false, some (17, 2)), (false, true, some (17, 2))] ∧ (t.port 17).fwd = [] ∧
    (t.port 17).rbuf = [(2, [(true, [9]), (true, [8])])] := by decide +kernel

/-- Tunnel 255 of port 17, in its states. -/
def tunnelled (t : Tunnel) : State := ported 7 { Port.off with phase := 2, tuns := [(255, t)] }
def idleTunnel : Tunnel := { Tunnel.closed with rank := 1, phase := 1 }

theorem witness_tunnels : (tunnelled idleTunnel).cu.ports.map (fun p => p.2.tuns.keys) = [[255]] ∧ State.tunnel ((tunnelled idleTunnel).port 17) 255 = idleTunnel ∧
    idleTunnel.phase = 1 ∧ idleTunnel.unacked = [] ∧ idleTunnel.hold = [] ∧ idleTunnel.begun = [] ∧ ((tunnelled idleTunnel).port 17).phase ∈ [2, 6, 7] ∧
    (tunnelled idleTunnel).portRole 17 = 7 ∧ (ported 7 Port.off).portRole 17 = 7 ∧ ((ported 7 Port.off).port 17).phase ∉ [2, 6, 7] ∧
    (∀ rto ∈ [0, 14, 15], let t := { idleTunnel with unacked := [⟨0, [smallFlit]⟩], rto := rto }
      State.tunnel ((tunnelled t).port 17) 255 = t ∧ t.unacked ≠ [] ∧ (t.rto < 15 ∨ 15 ≤ t.rto)) := by decide +kernel

/-- A tunnel that holds one whole message of lane 3. -/
def gathering : Tunnel := { idleTunnel with hold := [{ smallFlit with lane := 3, eom := true }] }

theorem witness_coalesce : let s := tunnelled gathering; let p := s.port 17
    p.tuns = [(255, gathering)] ∧ State.ethNext p gathering 3 = (gathering.hold, [], []) ∧ gathering.hold.length < 32 ∧ (∀ f ∈ gathering.hold, f.lane = 3 ∧ f.held = none) ∧
    s.pw.stopped = false := by decide +kernel

/-- An IPv4 frame of zero addresses, to the image's default port 50,336, with a shim. -/
def shimmed (shim : List Byte) : List Byte :=
  let b := List.replicate 12 0 ++ [8, 0, 0x45] ++ List.replicate 8 0 ++ [17] ++ List.replicate 12 0 ++ [0xC4, 0xA0, 0, 24, 0, 0] ++ shim
  b ++ leBytes 4 (crc32 b)

/-- The first flit frame of rank 0's tunnel, and its shim. -/
def firstShim : List Byte := [0x20, 3, 1, 0, 0, 0, 0, 0, 0, 0, 0, 0, 0, 0, 0, 0]
def remote (t : Tunnel) : State := (((tunnelled t).setReg (cuReg 17 0x30) 2).setReg R.CU_RT_STATUS 1).setReg R.CU_RT_JOB 0

theorem witness_eth_frame : let t := { idleTunnel with rank := 0 }; let s := remote t
    s.ethParse 17 (shimmed firstShim) = some (firstShim, 0) ∧ s.ethShimOk firstShim 0 = true ∧ s.portRole 17 = 7 ∧ (s.port 17).phase = 2 ∧
    (s.port 17).tuns.find? (fun t => t.2.rank == leField firstShim 4 2 && t.2.phase == 1) = some (255, t) ∧ State.tunnel (s.port 17) 255 = t ∧
    bitOf (leField firstShim 1 1) 2 = false ∧ bitOf (leField firstShim 1 1) 3 = false ∧ leField firstShim 2 1 ≠ 0 ∧ leField firstShim 8 4 = t.expect ∧
    State.rxFull (s.port 17) (leField firstShim 1 1 % 4) (256 * leField firstShim 2 1) = false ∧ s.ethShimOk (firstShim.set 0 0) 0 = false := by decide +kernel

theorem witness_ports : (∀ ph ∈ [0, 1, 2, 3, 4, 5, 6, 7], ∀ b ∈ [true, false], let p := { Port.off with phase := ph, pmd := b, lock := 0x80 }
      ((ported 1 p).port 17) = p ∧ (ported 1 p).portRole 17 ≠ 7 ∧ (ported 1 p).portRole 17 ≠ 0 ∧ bitOf p.lock 7 = true ∧ bitOf p.lock 0 = false ∧ p.retire = 0 ∧ p.fails < 2 ∧
      p.trained = false ∧ p.retrain = false ∧ p.unacked = [] ∧ p.begun = [] ∧ p.tuns = [] ∧ p.rev ≠ 0x20 ∧
      State.liveLanes { p with pgone := (3 : BitVec 2).toNat } = 0 ∧ State.liveLanes { p with pgone := (0 : BitVec 2).toNat } ≠ 0) ∧
    (ported 1 Port.off).im.phase ≠ 4 ∧ (hosting4 (ported 1 Port.off)).im.phase = 4 ∧ (hosting4 (ported 7 Port.off)).portRole 17 = 7 ∧ ({ Port.off with trained := true } : Port).trained = true ∧
    (let up : Port := { Port.off with phase := 1, pmd := true, rev := 0x20, partner := (1, 0, 2, 3) }; (ported 1 up).wiredOk 17 = true) ∧
    (let up : Port := { Port.off with phase := 1, pmd := true, rev := 0x20, partner := (1, 0, 1, 3) }; (ported 1 up).wiredOk 17 = false) := by decide +kernel

theorem test_capability : ((after (.capabilityRecord 17 2 2 0 1 0 0) ((ported 1 { Port.off with phase := 1, pmd := true }).setReg (cuReg 17 0xC) 1)).port 17).phase = 2 ∧
    ((after (.capabilityRecord 17 2 1 0 1 0 0) (ported 1 { Port.off with phase := 1, pmd := true })).port 17).phase = 4 ∧
    ((after (.capabilityRecord 17 0 2 0 1 0 0) (ported 1 { Port.off with phase := 1, pmd := true })).port 17).phase = 5 := by decide +kernel

/-! ### Witnesses for the host interface -/

/-- A request of queue 1023, slot 0, command id 7, of an operation, in a phase, with numbers put at byte offsets of its entry. -/
def request (op : Nat) (phase : ReqPhase) (fields : List (Nat × Nat)) : Req :=
  { State.blankReq 1023 0 0 with entry := op + 7 * 2 ^ 16 + (fields.map fun f => f.2 * 2 ^ (8 * f.1)).foldl (· + ·) 0, phase := phase, start := some 0 }

/-- Queue 1023, with rings of 16 entries in polder 0 where good, in a state, with requests; the handshake has agreed or not. -/
def hosting (agreed good : Bool) (x : QPair) (reqs : List Req) : State :=
  { (((quarry []).setReg R.HI_QP_AGREED (if agreed then 0x10301 else 0)).setReg (qReg 1023 0) 2).setReg (qReg 1023 8) (if good then 0x40400 else 0) with
    gl := { GlState.reset with running := false, kind := 1, defined := [0], polders := [(0, 1)] }, im := { ImState.reset with phase := 4 }
    hi := { HiState.reset with pairs := [(1023, x)], reqs := reqs, up := true, perst := true } }

theorem witness_queues :
    (∀ ph ∈ [0, 1, 2, 3, 4], ((hosting true true { QPair.off with phase := ph } []).pair 1023).phase = ph ∧ (hosting true true { QPair.off with phase := ph } []).outstanding 1023 = 0 ∧
      bitOf ((hosting true true { QPair.off with phase := ph } []).reg (qReg 1023 0)) 0 = false) ∧
    (let s := hosting true true QPair.off [];
      s.agreed = true ∧ s.queueCfgOk 1023 = true ∧ s.queuesOn = 0 ∧ s.hi.evOn = false ∧ s.hi.up = true ∧ s.hi.cxl = false ∧ bitOf (s.reg (qReg 1023 0)) 1 = true ∧
      ({ s.hi with cxl := true } : HiState).cxl = true ∧ (15 < s.sqSize 1023) ∧ ¬ (16 < s.sqSize 1023)) ∧
    (hosting false true QPair.off []).agreed = false ∧ (hosting true false QPair.off []).queueCfgOk 1023 = false ∧ (hosting true true { QPair.off with phase := 1 } []).queuesOn ≠ 0 ∧
    (hosting true true { QPair.off with phase := 2 } [request 0x25 .admitted []]).outstanding 1023 ≠ 0 ∧
    (∀ v ∈ [0x401, 0x1001], bitOf v 0 = true ∧ 4 ≤ bitsOf v 12 8 ∧ bitsOf v 12 8 ≤ 16) ∧
    ({ QPair.off with quiet := 1 } : QPair).quiet ≠ 0 ∧ QPair.off.quiet = 0 ∧
    bitOf ((State.reset.setReg 0x900FC 0x80000000).reg (0x90000 + 2047 / 32 * 4)) (2047 % 32) = true ∧ bitOf (State.reset.reg (0x90000 + 2047 / 32 * 4)) (2047 % 32) = false := by
  decide +kernel

theorem test_doorbells : ((after (.sqTail 1023 15) (hosting true true { QPair.off with phase := 1 } [])).pair 1023).tail = 15 ∧
    ((after (.sqTail 1023 16) (hosting true true { QPair.off with phase := 1 } [])).pair 1023).tail = 0 ∧
    (after (.sqTail 1023 16) (hosting true true { QPair.off with phase := 1 } [])).reg R.HI_ERR = 1 := by decide +kernel

theorem test_queue_enable : ((after (.queueEnable 1023 1) (hosting true true QPair.off [])).pair 1023).phase = 1 ∧ ((after (.queueEnable 1023 1) (hosting true false QPair.off [])).pair 1023).phase = 0 ∧
    ((after (.queueDisable 1023 0) (hosting true true { QPair.off with phase := 3 } [])).pair 1023).phase = 2 := by decide +kernel

theorem witness_host_port : let s := hosting true true { QPair.off with phase := 1, tail := 1 } []
    ({ s.hi with perst := false } : HiState).perst = false ∧ s.hi.perst = true ∧ s.hi.up = true ∧ State.reset.hi.up = false ∧ s.hi.d3 = false ∧ ({ s.hi with d3 := true } : HiState).d3 = true ∧ s.pw.held0 = false ∧
    (s.gl.kind ≠ 0 ∨ s.gl.running = false ∨ s.gl.phase ≠ 1) ∧ (State.reset.gl.kind = 0 ∧ State.reset.gl.running = true ∧ State.reset.gl.phase ≤ 2) ∧
    s.nextQueue = some 1023 ∧ s.fetchable 1023 = 1 ∧ (s.setReg R.TG_HOST_CAP 0).hostTags = 0 ∧ (hosting true true QPair.off []).nextQueue = none := by decide +kernel

theorem witness_entries : let r := request 0 .fetching []; let s := hosting true true { QPair.off with phase := 1, tail := 1 } [r]
    s.hi.reqs.find? (fun r => r.q == 1023 && r.phase == .fetching) = some r ∧ s.hi.reqs.find? (fun r => r.q == 1022 && r.phase == .fetching) = none ∧
    (s.pair 1023).probe = false ∧
    (∀ e ∈ [(0x25 : Nat), 0xFF], let r' : Req := { r with entry := e, phase := .waiting }; let u := (s.count R.HI_FETCH_LO 1).updReq r (fun _ => r')
      u.fetchError r' = if e = 0x25 then none else some (1, 0)) ∧ ((s.count R.HI_FETCH_LO 1).updReq r (fun y => y)).ti.lost = [] := by decide +kernel

theorem witness_started : ∀ op ∈ [1, 2, 3, 4, 5, 6, 7, 0x10, 0x11, 0x12, 0x13, 0x14, 0x20, 0x21, 0x22, 0x23, 0x24, 0x25],
    (hosting true true QPair.off [request op .admitted []]).started 1023 7 op = some (request op .admitted []) ∧
    (hosting true true QPair.off [request op .admitted []]).findReq 1023 7 op .admitted = some (request op .admitted []) ∧
    (hosting true true QPair.off [request op .admitted []]).started 1023 8 op = none ∧
    (hosting true true QPair.off [request op .admitted []]).findReq 1023 7 op .waiting = none ∧ (hosting true true QPair.off [request op .admitted []]).findReq 1023 8 op .waiting = none := by decide +kernel

theorem witness_abort : let r := { request 0x24 .admitted [] with tokens := [3] }
    (hosting true true QPair.off [r]).started 1023 7 0x24 = some r ∧ r.tokens ≠ [] ∧ (request 0x24 .admitted []).tokens = [] := by decide +kernel

theorem witness_at_once : let s := hosting true true QPair.off [request 0x20 .admitted []]
    (s.atOnce 1023 7 0x20).started 1023 7 0x20 = some (request 0x20 .admitted []) := by decide +kernel

theorem test_nop : (after (.nop 1023 7) (hosting true true QPair.off [request 0x25 .admitted []])).hi.reqs = [] := by decide +kernel

theorem witness_requests :
    (let s := hosting true true QPair.off [];
      (s.model (s.ctx 0).model).isSome = true ∧ s.tableRefused [] = some 1 ∧ s.tableRefused (leBytes 96 (1 + 2 ^ 64 + 2 ^ 112 + 2 ^ 128 + 2 ^ 144)) = none ∧ s.ti.ready = false ∧ ({ s.ti with ready := true } : TiState).ready = true ∧
      s.reg R.TI_SPILL_GRANULES ≤ (request 0x21 .admitted []).field 24 4 % 2 ^ 29 ∧ s.ti.supply.get? 0 = none ∧ 0 ∉ s.ti.expired ∧
      s.planned 0 = false ∧ (s.entry 0).spill = false ∧ s.awaitsZero 0 = false ∧ (s.entryNo 0).isSome = true ∧ (Map.get? [(0, 5)] 0 : Option Nat).isSome = true ∧
      s.skIdx 3 = some smallIndex) ∧
    (let s := hosting true true QPair.off [request 3 .waiting [(4, 1)], request 0x24 .admitted [(16, 7)]];
      ∃ t, (s.hi.reqs.find? fun t => t.q == 1023 && t.cid == (request 0x24 .admitted [(16, 7)]).field 16 2 && t.index != 1 && t.phase != .fetching) = some t ∧ t.phase = .waiting ∧ (t.opcode = 3 ∨ t.start = none)) ∧
    (let s := hosting true true QPair.off [{ request 2 .admitted [] with entry := 2, index := 1 }, request 0x24 .admitted [(16, 0)]];
      ∃ t, (s.hi.reqs.find? fun t => t.q == 1023 && t.cid == (request 0x24 .admitted [(16, 0)]).field 16 2 && t.index != 0 && t.phase != .fetching) = some t ∧
        t.phase ≠ .waiting ∧ t.done = none ∧ t.err = none ∧ t.opcode ≠ 3) :=
  ⟨by decide +kernel, ⟨_, rfl, by decide, by decide +kernel⟩, _, rfl, by decide, by decide, by decide, by decide +kernel⟩

/-- A LOAD of 64 bytes to device address 0, whose granule is at home in stack 0. -/
def loading : Req := { request 0x22 .admitted [(32, 1)] with data := [1, 2, 3] }

theorem witness_load : let s := hosting true true QPair.off [loading]
    (s.loadHomes loading).1 = true ∧ (∀ e ∈ State.loadExtent loading, s.awaitsZero e.1 = false) ∧ s.loadPages loading = [] := by decide +kernel

theorem test_load : (after (.load 1023 7) (hosting true true QPair.off [loading])).devRead 0 4 = [1, 2, 3, 0] := by decide +kernel

/-- A GENERATE on context 0 whose token this step is to sample, at temperature 0. -/
def sampling : State :=
  { hosting true true QPair.off [request 3 .admitted []] with
    kv := { KvState.reset with ctxs := [(0, { Ctx.empty with phase := .active })], growth := [⟨0, [(0, 0)], none, [], 0, false, 1⟩] } }

theorem witness_generate : sampling.findReq 1023 7 3 .admitted = some (request 3 .admitted []) ∧ (request 3 .admitted []).target = some 0 ∧ (request 3 .admitted []).err = none ∧
    (request 3 .admitted []).done = none ∧ (sampling.kv.growth.any fun g => g.ctx == 0 && g.epoch == sampling.epoch && !g.ran) = true ∧
    sample ([(0x3F800000 : Word), 0x40000000].map fun z : Word => fp32L.decode z.toNat) .zero 1024 .zero .zero = .token 1 ∧
    sample ([(0x7FC00000 : Word)].map fun z : Word => fp32L.decode z.toNat) .zero 1024 .zero .zero = .invalidLogits ∧
    (request 1 .admitted []).target = none ∧ ({ request 1 .admitted [] with tokens := [5] } : Req).target = some 5 ∧ (request 2 .admitted []).target = some 0 := by decide +kernel

theorem witness_search : let s := hosting true true QPair.off [request 0x10 .admitted [(4, 3)]]; let b : SkBatch := { smallBatch with begun := false, parts := [(1023, 0, 0, 2)] }
    (({ s with sk := { s.sk with batches := [b] } } : State).sk.batches.filter fun b => !b.begun && b.parts.any (fun p => p.1 == 1023 && p.2.1 == 0)
      && !s.sk.updates.any fun u => u.index == b.index && Nat.ble u.gen b.gen) = [b] := by decide +kernel

/-! ### Witnesses for batch steps -/

/-- The D8 admits requests; step sync is on or off, with a window of 250 cycles, at PCLK cycle 1,000. -/
def stepping (sync : Bool) (d : DtState) : State := { (hosting true true QPair.off []).setReg R.DT_SYNC_CTRL (0x100 + b2n sync) with clk := 1000, dt := d }

theorem witness_steps : (stepping false DtState.reset).admits = true ∧ State.reset.admits = false ∧ ({ DtState.reset with cut := true } : DtState).cut = true ∧ DtState.reset.cut = false ∧
    DtState.reset.hold = none ∧ (∀ x ∈ (stepping false DtState.reset).sl.execs, x.2.phase ≠ 2) ∧ DtState.reset.declared = none ∧ DtState.reset.postponed = none ∧ 3 ∉ [0, 1, 2] ∧
    [0, 1, 2].length = 3 ∧ DtState.reset.reported.length ≠ 3 ∧ (stepping false DtState.reset).syncOn = false ∧ (stepping true DtState.reset).syncOn = true ∧ DtState.reset.latched = none ∧
    (∀ p ∈ [750, 1000], (stepping true { DtState.reset with latched := some p }).dt.latched = some p ∧ 1000 ≤ p + (stepping true DtState.reset).syncWindow) ∧ DtState.reset.mark = false ∧
    DtState.reset.markAt = 0 ∧ (∀ d ∈ [1000, 1001], (stepping true { DtState.reset with hold := some (900, d) }).dt.hold = some (900, d) ∧ (1000 < d ∨ d ≤ 1000)) ∧
    ({ DtState.reset with declared := some 1000 } : DtState).declared ≠ none ∧ ({ DtState.reset with postponed := some 990 } : DtState).postponed = some 990 := by decide +kernel

theorem witness_step_times : (stepping false DtState.reset).stepBusy = false ∧ ({ stepping false DtState.reset with sl := executing.sl } : State).stepBusy = true ∧
    (∀ m ∈ [936, 937], let s := stepping false { DtState.reset with mark := true, markAt := m }; s.dt.mark = true ∧ (s.dt.markAt + 64 ≤ s.clk ↔ m = 936)) ∧
    (let s := stepping false { DtState.reset with postponed := some 990, markAt := 936 }; s.dt.postponed = some 990 ∧ s.dt.mark = false ∧ s.dt.markAt + 64 ≤ s.clk) := by decide +kernel

theorem test_ready_point : (after (.dieStepReport 3) (stepping true { DtState.reset with reported := [0, 1, 2] })).dt.hold = some (1000, 1250) ∧
    (after (.dieStepReport 3) (stepping false { DtState.reset with reported := [0, 1, 2] })).dt.declared = some 1000 ∧
    (after .syncHoldDeadline (stepping true { DtState.reset with hold := some (900, 1000) })).reg R.DT_ERR = 1 ∧
    (after .stepSyncPulse (stepping true { DtState.reset with hold := some (900, 1001) })).reg64 R.DT_HOLD_LO = 100 := by decide +kernel
/-- Context 0 is ACTIVE and holds no rows; the cut has planned a fork of it to context 16383. -/
def forking (plans : List ForkPlan) : State :=
  { hosting true true QPair.off [request 4 .admitted []] with kv := { KvState.reset with ctxs := [(0, { Ctx.empty with phase := .active })], forks := plans } }

theorem witness_fork : let s := forking [⟨1023, 0, 16383, 65536, [], [], [], 0⟩]
    s.started 1023 7 4 = some (request 4 .admitted []) ∧ ((forking []).kv.forks.find? fun f => f.q == 1023 && f.index == 0) = none ∧
    ((forking []).started 1023 7 4).isSome = true ∧
    (s.kv.forks.find? fun f => f.q == (request 4 .admitted []).q % 1024 && f.index == (request 4 .admitted []).index) = some ⟨1023, 0, 16383, 65536, [], [], [], 0⟩ ∧
    s.model (s.ctx 0).model = some smallModel ∧ ((s.rowsNext 0).filter fun a => s.rowTok a.2 != 0) = [] ∧ s.forkAway smallModel 0 = [] := by decide +kernel

theorem witness_fork_rows : let s := forking [⟨1023, 0, 16383, 65536, [], [], [], 0⟩]
    State.forkRows smallModel 0 16383 0 [] ⟨1023, 0, 16383, 65536, [], [], [], 0⟩ s = .ok (⟨1023, 0, 16383, 65536, [], [], [], 0⟩, s) := rfl

/-- Context 0 has one row, whose page, number 1, no further holder can share, and stands in the spillway. -/
def forkingAway : State :=
  let s := forking [⟨1023, 0, 16383, 65536, [], [], [], 0⟩]
  let s := { s with
    kv := { s.kv with ctxs := [(0, { Ctx.empty with phase := .active, root := 8192 })] }
    ti := { s.ti with map := [(0, ⟨false, false, false, false, 7, 0, 0, 0, 0⟩), (4, ⟨true, false, false, false, 0, 0, 0, 0, 0⟩)] } }
  (((s.devWrite 16 (leBytes 2 65535)).devWrite 8192 (leBytes 8 0x4001)).devWrite 0x4018 [1]).devWrite 0x4040 (leBytes 8 262145)

theorem witness_fork_away : forkingAway.started 1023 7 4 = some (request 4 .admitted []) ∧ forkingAway.model (forkingAway.ctx 0).model = some smallModel ∧
    (forkingAway.kv.forks.find? fun f => f.q == 1023 && f.index == 0).isSome = true ∧ forkingAway.forkAway smallModel 0 = [4] := by decide +kernel

/-! ### Witnesses for moves -/

/-- Granule 0, in stack 0 or in the spillway, has a move in a phase; frame (3, 70000) is dirty. -/
def moving (spill up : Bool) (phase : MovePhase) (frames : Map Nat) : State :=
  { quarry [] with ti := { (quarry []).ti with
      map := [(0, ⟨spill, false, false, false, 0, 0, 0, 0, 0⟩)], dirty := [(3 * 2 ^ 20 + 70000, 1)]
      moves := [⟨0, 1, .heat, up, 2, phase, frames, [], [], [], [], false, false, none⟩] } }

def theMove (up : Bool) (phase : MovePhase) (frames : Map Nat) : Move := ⟨0, 1, .heat, up, 2, phase, frames, [], [], [], [], false, false, none⟩

theorem witness_reserve : let s := moving false true .reserved []; let m := theMove true .reserved []
    m ∈ s.ti.moves ∧ State.Move.covers m 0 = true ∧ (∀ d ∈ s.ti.moves, State.Move.covers d 0 = true → d = m) ∧ m.phase = .reserved ∧ m.frames.get? 0 = none ∧ m.up = true ∧
    (s.entry 0).undef = false ∧ s.takes m 0 70000 (s.entry 0).polder = true ∧ (m.frames.put 0 70000).length = m.size ∧
    (∀ d ∈ s.ti.moves, State.Move.covers d 1 = false) := by decide +kernel

theorem witness_copy : (∀ up ∈ [true, false], (moving false up .copying [(0, 9)]).moveOf 0 = some (theMove up .copying [(0, 9)])) ∧
    (moving false true .copying [(0, 9)]).pw.stopped = false ∧ (moving false true .copying [(0, 9)]).moveTags 0 none = false ∧ (moving true true .copying [(0, 9)]).moveTags 0 (some .remote) = false ∧
    ((moving false true .copying [(0, 9)]).entry 0).spill = false ∧ ((moving false true .copying [(0, 9)]).entry 0).stack ≠ 2 ∧ 0 ∉ (theMove true .copying [(0, 9)]).fin ∧
    (moving true true .copying [(0, 9)]).moveOf 0 = some (theMove true .copying [(0, 9)]) ∧ ((moving true true .copying [(0, 9)]).entry 0).spill = true ∧
    0 ∉ (theMove true .copying [(0, 9)]).got ∧ (0 : Nat) ∉ (theMove false .copying []).fin := by decide +kernel

/-- A spillway granule whose CRC is that of the ciphertext read, whatever it is: so a read passes its check here and, with another CRC, fails it. -/
theorem witness_spill_crc (c : List Byte) (x : MapEntry) : crc32c c = ({ x with crc := crc32c c } : MapEntry).crc ∧ crc32c c ≠ ({ x with crc := crc32c c + 1 } : MapEntry).crc ∧
    (List.replicate 65536 (0 : Byte)).length = 65536 := ⟨rfl, by simp, List.length_replicate ..⟩

theorem witness_commit : let s := moving false true .commitWait [(0, 9)]; let m := theMove true .commitWait [(0, 9)]
    s.ti.moves.find? (fun m => State.Move.covers m 0 && m.phase == .commitWait) = some m ∧ s.commitReady m = true ∧ s.tablesInUse m = false ∧ m.size = 1 ∧ (s.entryNo m.gran).isSome = true ∧
    s.ti.evac = [] ∧ ({ s with qus := [(0, ⟨[queued 0x10 0 none], [], 0, [], false⟩)] } : State).commitReady { m with defer := true } = false ∧ ({ m with defer := true } : Move).defer = true ∧
    ((moving false true .decided []).ti.dirty.filter fun x => x.1 / 2 ^ 20 == 3 && (moving false true .decided []).frameFree 3 (x.1 % 2 ^ 20)).head? = some (3 * 2 ^ 20 + 70000, 1) ∧
    1024 ≤ s.zeroedFree 3 ∧
    Map.get? [(0, 5)] 0 = some 5 ∧ ({ s with clk := 1249 } : State).now < 5 ∧ 5 ≤ ({ s with clk := 1250 } : State).now ∧ s.waitingModels 0 = [] := by decide +kernel

/-- Stack 3 has one pseudo-channel left; in a state, n entries of its frames are not zeroed. -/
def narrowed : State :=
  { moving false true .decided [] with ti := { (moving false true .decided []).ti with retired := (List.range 63).map fun p => 3 * 64 + p + (if p < 48 then 0 else 1) } }
def dirtied (s : State) (n : Nat) : State := { s with ti := { s.ti with dirty := List.replicate n (3215728, 1) } }

theorem dirtied_frame (s : State) (n st f : Nat) : (dirtied s n).frameFree st f = s.frameFree st f := rfl
theorem dirtied_frames (s : State) (n st : Nat) : (dirtied s n).freeFrames st = s.freeFrames st := rfl

theorem dirtied_free (s : State) (n : Nat) (f : s.frameFree 3 70000 = true) (m : s.freeFrames 3 < n + 1024) (h : n ≠ 0) :
    ((dirtied s n).ti.dirty.filter fun x => x.1 / 2 ^ 20 == 3 && (dirtied s n).frameFree 3 (x.1 % 2 ^ 20)).head? = some (3215728, 1) ∧ (dirtied s n).zeroedFree 3 < 1024 := by
  have d : ((dirtied s n).ti.dirty.filter fun x => x.1 / 2 ^ 20 == 3 && (dirtied s n).frameFree 3 (x.1 % 2 ^ 20)) = List.replicate n (3215728, 1) := by
    show (List.replicate n ((3215728 : Nat), (1 : Nat))).filter _ = _
    rw [List.filter_replicate]
    simp [dirtied_frame, f]
  refine ⟨by rw [d, List.head?_replicate, if_neg h], ?_⟩
  unfold State.zeroedFree State.dirtyFree
  rw [d, List.length_replicate, dirtied_frames]
  omega

theorem witness_background : let s := dirtied narrowed 16000
    (s.ti.dirty.filter fun x => x.1 / 2 ^ 20 == 3 && s.frameFree 3 (x.1 % 2 ^ 20)).head? = some (3215728, 1) ∧ s.zeroedFree 3 < 1024 ∧ (narrowed.quState 3).skip = false :=
  have m : narrowed.freeFrames 3 < 16000 + 1024 := by decide +kernel
  ⟨(dirtied_free narrowed 16000 (by decide +kernel) m (by omega)).1, (dirtied_free narrowed 16000 (by decide +kernel) m (by omega)).2, by decide +kernel⟩

theorem test_commit : ((after (.moveCommit 0) (moving false true .commitWait [(0, 9)])).entry 0) = ⟨false, false, false, true, 0, 0, 2, 9, 0⟩ := by decide +kernel

/-! ### Witnesses for registers and BAR2 -/

/-- The image is loaded. -/
def imaged (s : State) : State := { s with im := { s.im with phase := 4 } }

theorem witness_rwl : State.reset.pw.held0 = false ∧ (imaged State.reset).loaded = true ∧ State.reset.loaded = false ∧
    (∀ off ∈ [R.HI_DBG_CTRL, R.TG_PIN_TIME], off % 4 = 0 ∧ halfAt off = 0 ∧ (match regRow off with | some r => r.access == .rwl | none => false) = true) := by decide +kernel

theorem test_rwl : (after (.registerWrite R.HI_DBG_CTRL 1 0) State.reset).reg R.HI_DBG_CTRL = 1 ∧
    (after (.registerWrite R.HI_DBG_CTRL 1 0) (imaged State.reset)).reg R.HI_DBG_CTRL = 0 ∧
    (after (.registerWrite R.HI_DBG_CTRL 1 0) (imaged State.reset)).reg R.IM_RWL_DISCARD = 1 := by decide +kernel

theorem witness_bar2 : let s := State.reset.setReg R.HI_DBG_CTRL 1; let b := { State.reset with bad := [2] }
    (∀ off ∈ [0, 0x80000000], State.windowOk off 4 = true ∧ (off < 0x60000000 ∧ off % 0x800000 < 0x600000 ∨ 0x80000000 ≤ off ∧ off < 0xA0000000) ∧ s.badIn off 4 = false) ∧
    b.badIn 16 4 = true ∧ State.windowOk 16 4 = true ∧ b.pw.held0 = false ∧ State.windowOk 2 4 = false ∧ State.windowOk 0 3 = false ∧ State.windowOk 0 4096 = true ∧ State.windowOk 0 8192 = false ∧
    bitOf (s.reg R.HI_DBG_CTRL) 0 = true ∧ bitOf (State.reset.reg R.HI_DBG_CTRL) 0 = false ∧ State.reset.rankLoaded = false ∧
    (State.reset.setReg R.CU_RT_STATUS 1).rankLoaded = true ∧ State.reset.hi.peer = [] ∧ ({ State.reset.hi with peer := [(64, 4, true)] } : HiState).peer = (64, 4, true) :: [] := by
  decide +kernel

theorem test_bar2 : (after (.bar2Write 0x80000000 [1, 2]) (State.reset.setReg R.HI_DBG_CTRL 1)).readMem 0x80000000 2 = [1, 2] ∧
    (after (.bar2Write 0x80000000 [1, 2]) State.reset).reg R.HI_ERR = 0x100 := by decide +kernel

/-! ### Witnesses for power, starts and fuses -/

theorem witness_pins : let p := State.reset.pw
    p.pwrgood = true ∧ p.sysRef = true ∧ p.pll = true ∧ p.resetN = true ∧ ({ p with pwrgood := false } : PwState).pwrgood = false ∧ ({ p with sysRef := false } : PwState).sysRef = false ∧
    State.reset.hi.up = false ∧ State.reset.gl.running = true ∧ State.reset.gl.kind = 0 ∧ State.reset.logDrained = true ∧ State.reset.el.fatal = false := by decide +kernel

/-- A start of a kind in a phase runs, with the image loader in a phase; a log report waits or not. -/
def starting (kind phase im : Nat) (tried : List Nat) (good : Option Nat) : State :=
  { State.reset with gl := { GlState.reset with kind := kind, phase := phase }, im := { ImState.reset with phase := im, tried := tried, good := good } }

theorem witness_starts : (∀ k ∈ [1, 2, 6, 9], (starting 0 k 0 [] none).gl.running = true ∧ (starting 0 k 0 [] none).pw.stopped = false ∧ (starting 0 k 0 [] none).gl.phase = k ∧ (starting 0 k 0 [] none).gl.kind = 0) ∧
    (let s := starting 1 0 0 [] none; s.gl.running = true ∧ s.gl.kind = 1 ∧ s.gl.phase = 0 ∧ s.logDrained = true ∧ s.ti.zeroing = [] ∧ ({ s with el := { s.el with raised := [⟨4, 0, false, 0, none⟩] } } : State).logDrained = false) ∧
    (hosting true true QPair.off []).gl.running = false ∧ (hosting true true QPair.off []).el.fatal = false ∧ ({ State.reset.el with fatal := true } : ElState).fatal = true ∧
    bitsOf 0xA501 15 8 = 0xA5 ∧ bitOf 0xA501 0 = true ∧ bitsOf 0xA401 15 8 ≠ 0xA5 ∧ bitOf 0xA500 0 = false ∧
    (let s := starting 0 7 2 [0] none; s.readsImage = true ∧ s.nextSlot = some 1 ∧ s.im.tried ≠ [] ∧ s.im.tried = [1 - 1]) ∧ (starting 0 6 0 [] none).readsImage = false ∧
    (let s := starting 0 8 3 [0] (some 0); s.gl.running = true ∧ s.gl.phase = 8 ∧ s.im.phase = 3 ∧ s.im.reused = false ∧ s.im.good = some 0) := by decide +kernel

theorem test_start_phase : (after (.startPhaseDone 5 [] true) State.reset).gl.phase = 2 ∧ (after (.startPhaseDone 5 [] true) State.reset).reg R.GL_PHASE_MS = 5 ∧
    (after (.startPhaseDone 5 [] false) (starting 0 2 0 [] none)).gl.stuck = true := by decide +kernel

theorem witness_fuses : (∀ v ∈ [0x5C000001, 0x5C000032], bitsOf v 31 24 = 0x5C) ∧ 0x5C000001 % 4 = 1 ∧ 0x5C000032 % 4 = 2 ∧ bitsOf 0x5C000032 5 4 = 3 ∧
    (imaged State.reset).im.phase = 4 ∧ State.reset.im.phase ≠ 4 ∧ (imaged State.reset).im.imgSvn ≤ (imaged State.reset).gl.svn ∧ ¬ ({ State.reset.im with imgSvn := 1 } : ImState).imgSvn ≤ State.reset.gl.svn ∧
    3 ≠ (imaged State.reset).im.key := by decide +kernel

theorem test_fuse : (after (.revokeKey 0x5C000032 true) (imaged State.reset)).gl.revoked = [3] ∧ (after (.revokeKey 0x5C000032 true) State.reset).reg R.IM_FUSE_RESULT = 257 := by decide +kernel

theorem witness_polders :
    (∀ k ∈ [0, 1, 2, 3], let s := { State.reset with gl := { GlState.reset with defined := [63], polders := [(63, k)] } }; s.gl.defined.contains 63 = true ∧ s.polderState 63 = k ∧ s.polderOutstanding 63 = 0) ∧
    State.reset.gl.defined.contains 63 = false ∧ (hosting true true QPair.off [request 0 .admitted []]).polderOutstanding (request 0 .admitted []).polder ≠ 0 := by decide +kernel

/-! ### Witnesses for the log -/

/-- Reports of the given codes wait in the reserved and the ordinary slots; DEPTH and both thresholds of EL_CTRL are small. -/
def logging (high low : List Nat) : State :=
  { State.reset.setReg R.EL_CTRL 0x22 with el := { ElState.reset with high := high.map (⟨⟨·, 0, false, 0, none⟩, 1, 0, 0⟩), low := low.map (⟨⟨·, 0, false, 0, none⟩, 1, 0, 0⟩) } }

theorem witness_reports : (∀ x ∈ State.reset.el.raised, ({ x with addr := none } : Report) ≠ ⟨0x3102, 0, false, 0, none⟩) ∧
    (∀ k ∈ [0, 1, 2, 3, 4, 5, 6], (⟨0x1000 * k + 2, 0, false, 0, none⟩ : Report).cls = k) ∧
    (logging [] []).el.high.length < 16 ∧ 16 ≤ (logging (List.replicate 16 0x3001) []).el.high.length ∧ (logging [] []).el.low.length < 256 ∧ 256 ≤ (logging [] (List.replicate 256 0x1001)).el.low.length ∧
    (((logging [] []).el.high ++ (logging [] []).el.low).any fun q => q.rep.sameKey ⟨0x1002, 0, false, 0, none⟩) = false ∧
    (((logging [] (List.replicate 256 0x1001)).el.high ++ (logging [] (List.replicate 256 0x1001)).el.low).any fun q => q.rep.sameKey ⟨0x1002, 0, false, 0, none⟩) = false ∧
    (logging [] []).joinable ⟨0x1002, 0, false, 0, none⟩ = none ∧ (logging [] (List.replicate 256 0x1001)).joinable ⟨0x1002, 0, false, 0, none⟩ = none ∧
    (((logging [] [0x1002]).el.high ++ (logging [] [0x1002]).el.low).any fun q => q.rep.sameKey ⟨0x1002, 0, false, 0, none⟩) = true := by decide +kernel

theorem test_report : (after (.errorReport 0x1002 7 false 9) (logging [] [])).el.low = [⟨⟨0x1002, 7, false, 9, none⟩, 1, 0, 0⟩] ∧
    (after (.errorReport 0x1002 7 false 9) (logging [] [])).reg (R.EL_CLASS_CNT + 8) = 1 := by decide +kernel

theorem witness_log_writer : (∃ q t, (logging [0x3001] [0x1001]).el.high = q :: t) ∧ (logging [0x3001] [0x1001]).el.held = [] ∧
    (logging [] [0x1001]).el.high = [] ∧ (logging [] [0x1001]).el.ovf = none ∧ (∃ q t, (logging [] [0x1001]).el.low = q :: t) ∧ (logging [] []).el.low = [] ∧
    (let s := State.reset.setReg R.EL_CTRL 0x22; let q : Queued := ⟨⟨0x1002, 7, false, 9, none⟩, 1, 0, 0⟩
      bitsOf (s.reg R.EL_WR) 9 0 < 1023 ∧ s.el.unread < 1024 ∧ q.rep.cls < 2 ∧ q.rep.cls < bitsOf (s.reg R.EL_CTRL) 2 0 ∧ q.rep.cls < bitsOf (s.reg R.EL_CTRL) 6 4 ∧ q.rep.code < 65536 ∧ q.rep.source < 65536) :=
  ⟨⟨_, _, rfl⟩, rfl, rfl, rfl, ⟨_, _, rfl⟩, rfl, by decide +kernel⟩

theorem test_log_entry : (after .logEntryWrite (logging [] [0x1001])).reg (State.entryReg 0 0) = 0x1001 ∧ (after .logEntryWrite (logging [] [0x1001])).el.unread = 1 := by decide +kernel

theorem test_held_report : let s := logging (List.replicate 16 0x3001) []
    let t := after .logEntryWrite { s with el := { s.el with held := [⟨0x3002, 5, false, 0, none⟩] } }
    t.el.held = [] ∧ t.el.high.length = 16 ∧ (t.el.high.getLast?.map fun q => q.rep.code) = some 0x3002 := by decide +kernel

/-! ### Witnesses for throttling, rails and the TAP -/

theorem witness_power : (6 ≠ State.reset.pw.div) ∧ State.reset.pw.pin = false ∧ State.reset.pw.raise = none ∧
    ({ State.reset.pw with raise := some ⟨4, 1000⟩ } : PwState).raise = some ⟨4, 1000⟩ ∧ (1000 ≤ ({ State.reset with clk := 250000 } : State).now ∧ ¬ 1000 ≤ ({ State.reset with clk := 249999 } : State).now) ∧ (2100 : Nat) ≤ 2100 ∧ (2100 : Nat) < 2101 ∧
    (let s := (imaged State.reset).setReg R.PW_PMB_ADDR 0x80000000; let t := { s with pw := { s.pw with moded := [0] } }
      s.onBus 0 = true ∧ t.onBus 0 = true ∧ t.pw.moded.contains 0 = true ∧ State.statusFault 0 = false ∧ State.statusFault 0x20 = true ∧ State.reset.onBus 0 = false ∧
      Map.getD 750 s.pw.vout 0 = Map.getD 750 s.pw.target 0 ∧ s.pw.vstep.get? 0 = none ∧
      Map.getD 750 ({ s.pw with target := [(0, 760)] } : PwState).vout 0 ≠ Map.getD 750 ({ s.pw with target := [(0, 760)] } : PwState).target 0) ∧
    (460 : Int) ≤ signedOf 12 460 ∧ signedOf 12 459 < (460 : Int) ∧ (420 : Int) ≤ signedOf 12 420 ∧ State.reset.pw.trip = false ∧ ({ State.reset.pw with trip := true } : PwState).trip = true ∧
    ({ State.reset.jt with trstN := true } : JtState).trstN = true ∧ State.reset.jt.trstN = false ∧ ({ State.reset.jt with tap := .shiftDr } : JtState).tap = .shiftDr ∧
    ({ State.reset.jt with tap := .captureDr, instr := .idcode } : JtState).instr = .idcode := by decide +kernel

theorem test_trip : (after (.thermtrip 63 460) State.reset).pw.trip = true ∧ (after (.thermtrip 63 459) State.reset).pw.trip = false ∧ (after (.thermtrip 64 420) State.reset).pw.trip = true := by decide +kernel

theorem test_throttle : (after (.fastThrotN false) State.reset).pw.div = 6 ∧ (after (.powerEstimate 2101) State.reset).pw.div = 6 ∧ (after (.powerEstimate 2100) State.reset).pw.div = 4 := by decide +kernel

/-- All sensors at 25 °C while the power exceeds the limit and the divider is already 6. -/
def throttled : State := { State.reset with regs := ((List.range 72).map fun n => (R.PW_TEMP + 4 * n, (100 : Word))) ++ [(R.GL_LIMITS, 0x690708)], pw := { State.reset.pw with div := 6, watts := [2000] } }

theorem witness_throttle : throttled.pw.pin = false ∧ throttled.pw.raise = none ∧ throttled.isHot = false ∧ throttled.overLimit = true ∧
    (∀ n ∈ [0, 63, 64, 71], throttled.reg (R.PW_TEMP + 4 * n) = throttled.sensorWord n 100) ∧ throttled.pw.div = 6 := by decide +kernel

/-- The worked example of R504, and the last row of R500. -/
theorem test_lands : landNet 114 98 = some (.signal (.culvert 12 5 false false)) ∧ landNet 22 2 = some (.signal (.pcie 9 true true)) ∧ landNet 30 71 = some (.vddCore 1) ∧
    landNet 12 12 = none ∧ landNet 60 60 = none ∧ rowName 114 = ['E', 'Y'] ∧ rowName 22 = ['A', 'C'] ∧ rowName 120 = ['F', 'F'] := by decide +kernel

/-- The chain of R509 leaves six of the 675 signals of R505 out. -/
theorem test_scan : scanSignals = 669 := by decide +kernel

theorem test_tap : (after (.tck false false) (after (.trstN true) State.reset)).jt.tap = .idle ∧ (after (.tck false false) State.reset).jt.tap = .reset := by decide +kernel

/-! ### Witnesses for management -/

theorem witness_management : State.reset.i3cUp = false ∧ (hosting true true QPair.off []).i3cUp = true ∧ (hosting true true QPair.off []).mg.daddr = 0 ∧
    ({ MgState.reset with daddr := 8 } : MgState).daddr ≠ 0 ∧ (starting 0 3 0 [] none).i3cUp = true ∧ (starting 0 3 0 [] none).startReadsFlash = true ∧
    (hosting true true QPair.off []).startReadsFlash = false ∧ (hosting true true QPair.off []).mg.update = none ∧ 0 < (hosting true true QPair.off []).im.capacity / 2 ∧
    ({ MgState.reset with update := some ⟨1, 1⟩ } : MgState).update = some ⟨1, 1⟩ ∧ ({ MgState.reset with update := some ⟨1, 2⟩ } : MgState).update = some ⟨1, 2⟩ ∧
    ((hosting true true QPair.off []).numericReading 17).isSome = true ∧ ((hosting true true QPair.off []).stateReading 18).isSome = true := by decide +kernel

theorem test_settid : (after (.settid 5) (hosting true true QPair.off [])).mg.tid = 5 ∧ (after (.settid 0xFF) (hosting true true QPair.off [])).mg.tid = 0 := by decide +kernel

end Sys2Proof.Tests
end

section
/-! SUPPORT. What the register tables and the words of BAR0 give to every access: offsets of rows, offsets that act on their own word alone, and bits cleared by a write (R13–R18). -/

namespace Sys2Proof.Machine

/-! ### Bits that a write clears -/

/-- `a - (a &&& b)` keeps exactly the bits of a that b lacks. -/
theorem testBit_sub_and (a b i : Nat) : Nat.testBit (a - (a &&& b)) i = (Nat.testBit a i && !Nat.testBit b i) := by
  induction i generalizing a b with
  | zero =>
    have hle : a &&& b ≤ a := Nat.and_le_left
    have hone := @Nat.and_mod_two_eq_one a b
    generalize a &&& b = c at hle hone
    simp only [Nat.testBit_zero, ← decide_not, ← Bool.decide_and, decide_eq_decide]
    omega
  | succ i ih =>
    have hle : a &&& b ≤ a := Nat.and_le_left
    have hone := @Nat.and_mod_two_eq_one a b
    have hhalf : (a - (a &&& b)) / 2 = a / 2 - (a / 2 &&& b / 2) := by
      rw [← Nat.and_div_two]
      generalize a &&& b = c at hle hone
      omega
    rw [Nat.testBit_succ, hhalf, ih, Nat.testBit_succ, Nat.testBit_succ]

/-! ### Rows of the register tables -/

/-- The first offset behind every word of a row. -/
def RegRow.top (r : RegRow) : Nat := r.base + (r.n1 - 1) * r.s1 + (r.n2 - 1) * r.s2 + 4 * r.words

/-- No word of the row lies in [lo, hi). -/
def RegRow.apart (r : RegRow) (lo hi : Nat) : Bool := Nat.ble r.top lo || Nat.ble hi r.base

theorem RegRow.base_le_lt_top {r : RegRow} {off : Nat} (h : r.holds off = true) : r.base ≤ off ∧ off < r.top := by
  simp only [RegRow.holds, Bool.and_eq_true, decide_eq_true_eq] at h
  obtain ⟨⟨⟨⟨hb, hi⟩, hj⟩, hk⟩, _⟩ := h
  have hi' := Nat.mul_le_mul_right r.s1 (Nat.le_sub_one_of_lt hi)
  have hj' := Nat.mul_le_mul_right r.s2 (Nat.le_sub_one_of_lt hj)
  refine ⟨hb, ?_⟩
  unfold RegRow.top
  omega

theorem RegRow.not_mem_of_apart {r : RegRow} {off lo hi : Nat} (h : r.holds off = true) (ha : r.apart lo hi = true) : ¬ (lo ≤ off ∧ off < hi) := by
  have hr := base_le_lt_top h
  simp only [apart, Bool.or_eq_true, Nat.ble_eq] at ha
  omega

theorem mem_of_regRow {off : Nat} {r : RegRow} (h : regRow off = some r) : r ∈ regTable := List.mem_of_find?_eq_some h

theorem holds_of_regRow {off : Nat} {r : RegRow} (h : regRow off = some r) : r.holds off = true := by
  simpa using List.find?_some h

/-- An offset that some row of the tables holds is not reserved. -/
theorem regRow_ne_none {off : Nat} {r : RegRow} (hm : r ∈ regTable) (h : r.holds off = true) : regRow off ≠ none :=
  fun hn => absurd h (by simpa using List.find?_eq_none.1 hn r hm)

theorem halfAt_of_none {off : Nat} (h : regRow off = none) : halfAt off = 0 := by simp [halfAt, h]

/-- No word of the MSI-X structures is a half of a pair. -/
theorem halfAt_of_takes64 {off : Nat} (h : takes64 off = true) : halfAt off = 0 := by
  have key : ∀ r ∈ regTable, r.half = 0 ∨ r.apart 0x80000 0x88000 = true ∧ r.apart 0x90000 0x90100 = true := by decide +kernel
  cases hr : regRow off with
  | none => exact halfAt_of_none hr
  | some r =>
    rcases key r (mem_of_regRow hr) with h0 | ⟨h1, h2⟩
    · simp [halfAt, hr, h0]
    · have ha := RegRow.not_mem_of_apart (holds_of_regRow hr) h1
      have hb := RegRow.not_mem_of_apart (holds_of_regRow hr) h2
      simp only [takes64, Bool.or_eq_true, Bool.and_eq_true, Nat.ble_eq, Nat.blt_eq] at h
      omega

/-! ### Places of an offset -/

namespace State

theorem place_eq_none {off base stride n : Nat} : place off base stride n = none ↔ ¬ (base ≤ off ∧ off < base + stride * n) := by
  simp [place]

theorem place_eq_some {off base stride n i r : Nat} (h : place off base stride n = some (i, r)) (hs : 0 < stride) :
    off = base + stride * i + r ∧ r < stride ∧ i < n := by
  simp only [place] at h
  split at h
  case isFalse => cases h
  case isTrue hin =>
    simp only [Option.some.injEq, Prod.mk.injEq] at h
    obtain ⟨rfl, rfl⟩ := h
    have hdiv := Nat.div_add_mod (off - base) stride
    refine ⟨by omega, Nat.mod_lt _ hs, ?_⟩
    exact (Nat.div_lt_iff_lt_mul hs).2 (by rw [Nat.mul_comm]; omega)

end State

/-! ### Words that act on themselves alone -/

/-- The single words of BAR0 whose write acts on more than the word. -/
def ownWrites : List Nat :=
  [R.HI_QP_HANDSHAKE, R.HI_EV_CFG, R.GL_RESET, R.IM_FUSE_CMD, R.EL_RD, R.EL_TEST, R.EL_ALERT, R.EL_ALERT_EN, R.SF_STICKY, R.SL_ARITH,
    R.KV_CTX_SEL, R.SL_OP_SEL, R.TI_MAP_SEL_HI]

/-- A word of BAR0 that no unit watches: a write acts by access code and pair alone (R11, R14). -/
structure Ordinary (off : Nat) : Prop where
  own : off ∉ ownWrites
  queue : State.place off 0x10000 0x40 1024 = none
  msix : State.place off 0x80000 16 2048 = none
  polder : State.place off R.GL_POLDER_CTRL 4 64 = none
  coreFlag : State.place off R.SF_CORE_FLAG 4 6 = none
  port : ∀ n, n < 18 → off ≠ R.CU_CTRL + 0x10000 * n ∧ off ≠ R.CU_TUN_SEL + 0x10000 * n
  arith : ∀ c, c < 192 → off ≠ State.coreReg c 4

theorem regRow_ownWrites : ∀ off ∈ ownWrites, regRow off ≠ none := by decide +kernel

/-- A row none of whose words a unit watches. -/
def RegRow.unwatched (r : RegRow) : Bool :=
  (ownWrites.all fun o => !r.holds o) && r.apart 0x10000 (0x10000 + 0x40 * 1024) && r.apart 0x80000 (0x80000 + 16 * 2048) &&
    r.apart R.GL_POLDER_CTRL (R.GL_POLDER_CTRL + 4 * 64) && r.apart R.SF_CORE_FLAG (R.SF_CORE_FLAG + 4 * 6) &&
    (r.apart 0xC00000 0xD20000 || (List.range 18).all fun n => !r.holds (R.CU_CTRL + 0x10000 * n) && !r.holds (R.CU_TUN_SEL + 0x10000 * n)) &&
    (r.apart 0x410000 0x500000 || (List.range 192).all fun c => !r.holds (State.coreReg c 4))

theorem ordinary_of_unwatched {off : Nat} {r : RegRow} (hh : r.holds off = true) (hu : r.unwatched = true) : Ordinary off := by
  have hnone : ∀ {base stride n : Nat}, r.apart base (base + stride * n) = true → State.place off base stride n = none :=
    fun h => State.place_eq_none.2 (RegRow.not_mem_of_apart hh h)
  have hne : ∀ {o : Nat}, r.holds o = false → off ≠ o := fun h heq => by simp [heq, h] at hh
  simp only [RegRow.unwatched, Bool.and_eq_true, Bool.or_eq_true, List.all_eq_true, List.mem_range, Bool.not_eq_true'] at hu
  obtain ⟨⟨⟨⟨⟨⟨hown, hq⟩, hx⟩, hp⟩, hf⟩, hports⟩, hcores⟩ := hu
  refine ⟨fun h => hne (hown off h) rfl, hnone hq, hnone hx, hnone hp, hnone hf, fun n hn => ?_, fun c hc => ?_⟩
  · rcases hports with h | h
    · have := RegRow.not_mem_of_apart hh h
      unfold R.CU_CTRL R.CU_TUN_SEL
      omega
    · exact ⟨hne (h n hn).1, hne (h n hn).2⟩
  · rcases hcores with h | h
    · have := RegRow.not_mem_of_apart hh h
      unfold State.coreReg
      omega
    · exact hne (h c hc)

theorem unwatched_of_rwl : ∀ r ∈ regTable, r.access = .rwl → r.unwatched = true := by decide +kernel

/-- The W1C rows but those of arithmetic status and of alerts (R59, R467). -/
theorem unwatched_of_w1c : ∀ r ∈ regTable, r.access = .w1c →
    r.base ∈ [R.SF_STICKY, R.SF_CORE_FLAG, R.SQ_CORE_ARITH, R.SL_ARITH, R.EL_ALERT] ∨ r.unwatched = true := by decide +kernel

end Sys2Proof.Machine
end

section
/-! SUPPORT. What an access of a BAR0 word does, said once for each kind of word (R11–R16). -/

namespace Sys2Proof.Machine

namespace State

variable (s : State)

/-! ### Reads -/

theorem readWord_plain {off : Nat} (hh : halfAt off ≠ 1) (hc : s.hi.capt.get? off = none) : s.readWord off = (s.regRead off, s) := by
  simp [readWord, hh, hc]

theorem readWord_lo {off : Nat} (hh : halfAt off = 1) :
    s.readWord off = (s.regRead off, s.hiUpd fun h => { h with capt := h.capt.put (off + 4) (s.regRead (off + 4)) }) := by
  simp [readWord, hh]

theorem readWord_captured {off v : Nat} (hh : halfAt off ≠ 1) (hc : s.hi.capt.get? off = some v) :
    s.readWord off = (v, s.hiUpd fun h => { h with capt := h.capt.del off }) := by
  simp [readWord, hh, hc]

/-- A read of a word changes nothing but what is captured. -/
theorem readWord_frame (off : Nat) : ∃ c, (s.readWord off).2 = s.hiUpd fun h => { h with capt := c } := by
  by_cases hh : halfAt off = 1
  · exact ⟨s.hi.capt.put (off + 4) (s.regRead (off + 4)), by rw [readWord_lo s hh]; rfl⟩
  · cases hc : s.hi.capt.get? off with
    | none => exact ⟨s.hi.capt, by rw [readWord_plain s hh hc]; rfl⟩
    | some v => exact ⟨s.hi.capt.del off, by rw [readWord_captured s hh hc]; rfl⟩

@[simp] theorem length_leBytes (n v : Nat) : (leBytes n v).length = n := by
  induction n generalizing v with
  | zero => rfl
  | succ n ih => simp [leBytes, ih]

/-- A read of one or two words answers with their bytes and changes nothing but what is captured. -/
theorem readBar_frame (off : Nat) {n : Nat} (hn : n = 4 ∨ n = 8) :
    ∃ d c, s.readBar off n = (s.hiUpd fun h => { h with capt := c }).send (.readData off d) ∧ d.length = n := by
  obtain ⟨c, hc⟩ := s.readWord_frame off
  rcases hn with rfl | rfl
  · exact ⟨leBytes 4 (s.readWord off).1, c, by simp [readBar, hc], by simp⟩
  · obtain ⟨c', hc'⟩ := (s.readWord off).2.readWord_frame (off + 4)
    refine ⟨leBytes 4 (s.readWord off).1 ++ leBytes 4 ((s.readWord off).2.readWord (off + 4)).1, c', ?_, by simp⟩
    simp only [readBar, hc', if_true]
    rw [hc]
    rfl

/-! ### Accesses that R12 refuses -/

theorem badAccess_write (off : Nat) : s.badAccess off true = (s.orReg R.HI_ERR 0x200).report 0 0x02 0x01 0xFFFF 0 := rfl

theorem badAccess_read (off : Nat) : s.badAccess off false = (s.send (.completion 1 off)).badAccess off true := rfl

/-- A refused write sets HI_ERR[9] and is reported, and nothing else changes. -/
theorem badAccess_effect (off : Nat) : s.logs (s.badAccess off true) 0x81 0xFFFF 0 ∧ s.logsOnly (s.badAccess off true) ∧
    s.sets (s.badAccess off true) R.HI_ERR 0x200 ∧ s.keeps (s.badAccess off true) [R.HI_ERR] := by
  refine ⟨rfl, rfl, ?_, ?_⟩
  · rw [sets, badAccess_write, reg_report, reg_orReg_self s (by decide)]
  · intro o ho
    rw [badAccess_write, reg_report, reg_orReg_other s _ (by simpa using ho)]

/-! ### Writes by access code -/

variable {off : Nat} {r : RegRow}

theorem codeWrite_none (hr : regRow off = none) (v h : Nat) : s.codeWrite off v h = s := by simp [codeWrite, hr]

theorem codeWrite_rw (hr : regRow off = some r) (ha : r.access = .rw) (v h : Nat) : s.codeWrite off v h = s.setReg off (v &&& r.mask) := by
  simp [codeWrite, hr, ha]

theorem codeWrite_w1c (hr : regRow off = some r) (ha : r.access = .w1c) (v h : Nat) :
    s.codeWrite off v h = s.setReg off ((s.reg off - (s.reg off &&& (v &&& r.mask))) ||| (h &&& r.mask)) := by
  simp [codeWrite, hr, ha]

theorem codeWrite_rwl (hr : regRow off = some r) (ha : r.access = .rwl) (v h : Nat) :
    s.codeWrite off v h = if s.loaded then s.rwlDiscard off else s.setReg off (v &&& r.mask) := by
  simp [codeWrite, hr, ha]

/-- A write of a W1C word: each 1 clears its bit, and a bit that hardware sets stays set (R14, R15). -/
theorem testBit_codeWrite_w1c (hr : regRow off = some r) (ha : r.access = .w1c) (v h : Nat) {b : Nat} (hb : b < 32) (hm : Nat.testBit r.mask b = true) :
    Nat.testBit ((s.codeWrite off v h).reg off) b = ((Nat.testBit (s.reg off) b && !Nat.testBit v b) || Nat.testBit h b) := by
  rw [codeWrite_w1c s hr ha, reg_setReg_self, Nat.testBit_mod_two_pow]
  simp [testBit_sub_and, hb, hm]

/-- A write that a loaded image has closed is counted and reported, and nothing else changes (R16). -/
theorem rwlDiscard_effect (off : Nat) : s.adds32 (s.rwlDiscard off) R.IM_RWL_DISCARD 1 ∧ s.sets (s.rwlDiscard off) R.IM_ERR 4 ∧
    s.keeps (s.rwlDiscard off) [R.IM_RWL_DISCARD, R.IM_ERR] ∧ s.logs (s.rwlDiscard off) 0x50 0 off ∧ s.logsOnly (s.rwlDiscard off) := by
  have hne : R.IM_RWL_DISCARD ≠ R.IM_ERR := by decide
  refine ⟨?_, ?_, ?_, rfl, rfl⟩
  · rw [adds32, rwlDiscard, reg_report, reg_orReg_other _ _ hne, count32, reg_setReg_self]
    omega
  · rw [sets, rwlDiscard, reg_report, reg_orReg_self _ (by decide), reg_count32_other _ _ hne.symm]
  · intro o ho
    simp only [List.mem_cons, List.not_mem_nil, or_false, not_or] at ho
    rw [rwlDiscard, reg_report, reg_orReg_other _ _ ho.2, reg_count32_other _ _ ho.1]

/-! ### Writes of pairs (R11) -/

theorem pairWrite_none (hr : regRow off = none) (v h : Nat) : s.pairWrite off v h = s := by simp [pairWrite, hr]

theorem pairWrite_single (hh : halfAt off = 0) (v h : Nat) : s.pairWrite off v h = s.codeWrite off v h := by
  cases hr : regRow off with
  | none => rw [pairWrite_none s hr, codeWrite_none s hr]
  | some r => simp [pairWrite, hr, hh]

theorem pairWrite_lo (hr : regRow off = some r) (ha : r.access = .rw) (hh : halfAt off = 1) (v h : Nat) :
    s.pairWrite off v h = s.hiUpd fun x => { x with held := x.held.put off v } := by
  simp [pairWrite, hr, ha, hh]

theorem pairWrite_hi (hr : regRow off = some r) (ha : r.access = .rw) (hh : halfAt off = 2) (v h : Nat) :
    s.pairWrite off v h = s.commitHi off v := by
  simp [pairWrite, hr, ha, hh]

/-- A _HI takes effect with the _LO that is held. -/
theorem commitHi_held {lo x : Nat} {rl rh : RegRow} (hl : regRow lo = some rl) (hla : rl.access = .rw) (hh : regRow (lo + 4) = some rh)
    (hha : rh.access = .rw) (hx : s.hi.held.get? lo = some x) (v : Nat) :
    s.commitHi (lo + 4) v =
      ((s.hiUpd fun h => { h with held := h.held.del lo }).setReg lo (x &&& rl.mask)).setReg (lo + 4) (v &&& rh.mask) := by
  simp only [commitHi, Nat.add_sub_cancel, hh, hha, hx, codeWrite_rw _ hl hla, codeWrite_rw _ hh hha]
  simp

/-! ### Writes by offset -/

/-- Where no unit watches a word, a write acts by pair and access code. -/
theorem regWrite_ordinary (ho : Ordinary off) (v h : Nat) : s.regWrite off v h = s.pairWrite off v h := by
  obtain ⟨hown, hq, hx, hp, hf, hport, harith⟩ := ho
  simp only [ownWrites, List.mem_cons, List.not_mem_nil, or_false, not_or] at hown
  obtain ⟨h1, h2, h3, h4, h5, h6, h7, h8, h9, h10, h11, h12, h13⟩ := hown
  simp only [regWrite, h1, h2, h3, h4, h5, h6, h7, h8, h9, h10, h11, h12, h13, if_false, hq, hx, hp, hf]
  cases hcu : place off 0xC00000 0x10000 18 with
  | some x =>
    obtain ⟨n, r⟩ := x
    obtain ⟨heq, _, hn⟩ := place_eq_some hcu (by decide)
    have hno := hport n hn
    simp only [R.CU_CTRL, R.CU_TUN_SEL] at hno
    simp only [portWrite]
    rw [if_neg (by omega), if_neg (by omega)]
  | none =>
    cases hsq : place off 0x410000 0x40000 4 with
    | none => rfl
    | some x =>
      obtain ⟨d, r⟩ := x
      obtain ⟨heq, _, hd⟩ := place_eq_some hsq (by decide)
      have hno : ¬ (r < 0x18000 ∧ r % 0x800 = 4) := by
        rintro ⟨hr, h4⟩
        apply harith (48 * d + r / 0x800) (by omega)
        unfold coreReg
        omega
      simp only [if_neg hno]

end State

end Sys2Proof.Machine
end

section
/-! SUPPORT. Reserved offsets (R13): every word that a unit watches stands in a row, so a write of a reserved offset acts on nothing. -/

namespace Sys2Proof.Machine

/-- The word k of place (i, j) of a row holds its offset, where places do not overlap. -/
theorem RegRow.holds_word {r : RegRow} {i j k : Nat} (hi : i < r.n1) (hj : j < r.n2) (hk : k < r.words)
    (h1 : r.s1 = 0 ∧ i = 0 ∨ r.s2 * j + 4 * k < r.s1) (h2 : r.s2 = 0 ∧ j = 0 ∨ 4 * k < r.s2) :
    r.holds (r.base + r.s1 * i + r.s2 * j + 4 * k) = true := by
  have hdiv1 : (if r.s1 = 0 then 0 else (r.s1 * i + (r.s2 * j + 4 * k)) / r.s1) = i := by
    rcases h1 with ⟨h, rfl⟩ | h
    · simp [h]
    · rw [if_neg (by omega), Nat.mul_add_div (by omega), Nat.div_eq_of_lt h, Nat.add_zero]
  have hdiv2 : (if r.s2 = 0 then 0 else (r.s2 * j + 4 * k) / r.s2) = j := by
    rcases h2 with ⟨h, rfl⟩ | h
    · simp [h]
    · rw [if_neg (by omega), Nat.mul_add_div (by omega), Nat.div_eq_of_lt h, Nat.add_zero]
  have hd : r.base + r.s1 * i + r.s2 * j + 4 * k - r.base = r.s1 * i + (r.s2 * j + 4 * k) := by omega
  simp only [RegRow.holds, hd, hdiv1, Nat.mul_comm i, Nat.add_sub_cancel_left, hdiv2, Nat.mul_comm j]
  simp [hi, hj, hk]
  omega

/-- A row of the tables by its shape: none of its words is reserved. -/
theorem regRow_ne_none_of_shape (b w n1 s1 n2 s2 : Nat)
    (hrow : ∃ r ∈ regTable, r.base = b ∧ r.words = w ∧ r.n1 = n1 ∧ r.s1 = s1 ∧ r.n2 = n2 ∧ r.s2 = s2) {off : Nat} (i j k : Nat)
    (hw : off = b + s1 * i + s2 * j + 4 * k ∧ i < n1 ∧ j < n2 ∧ k < w ∧ (s1 = 0 ∧ i = 0 ∨ s2 * j + 4 * k < s1) ∧ (s2 = 0 ∧ j = 0 ∨ 4 * k < s2)) :
    regRow off ≠ none := by
  obtain ⟨r, hm, rfl, rfl, rfl, rfl, rfl, rfl⟩ := hrow
  obtain ⟨rfl, hi, hj, hk, h1, h2⟩ := hw
  exact regRow_ne_none hm (RegRow.holds_word hi hj hk h1 h2)

/-- The words of a queue's window that queueWrite watches (R389, R390, R393) stand in rows. -/
theorem regRow_queue {q r : Nat} (hq : q < 1024) (h4 : r % 4 = 0) (hr : r = 0 ∨ 8 ≤ r ∧ r < 0x28) : regRow (0x10000 + 0x40 * q + r) ≠ none := by
  have hcase : r = 0 ∨ r = 8 ∨ r = 0xC ∨ (0x10 ≤ r ∧ r < 0x18) ∨ (0x18 ≤ r ∧ r < 0x20) ∨ (0x20 ≤ r ∧ r < 0x28) := by omega
  rcases hcase with h | h | h | h | h | h
  · exact regRow_ne_none_of_shape R.HI_Q_CTRL 1 1024 0x40 1 0 (by decide +kernel) q 0 0 (by unfold R.HI_Q_CTRL; omega)
  · exact regRow_ne_none_of_shape R.HI_Q_CFG 1 1024 0x40 1 0 (by decide +kernel) q 0 0 (by unfold R.HI_Q_CFG; omega)
  · exact regRow_ne_none_of_shape R.HI_Q_IRQ 1 1024 0x40 1 0 (by decide +kernel) q 0 0 (by unfold R.HI_Q_IRQ; omega)
  · exact regRow_ne_none_of_shape R.HI_Q_SQ_BASE 2 1024 0x40 1 0 (by decide +kernel) q 0 ((r - 0x10) / 4) (by unfold R.HI_Q_SQ_BASE; omega)
  · exact regRow_ne_none_of_shape R.HI_Q_CQ_BASE 2 1024 0x40 1 0 (by decide +kernel) q 0 ((r - 0x18) / 4) (by unfold R.HI_Q_CQ_BASE; omega)
  · exact regRow_ne_none_of_shape R.HI_Q_TR_BASE 2 1024 0x40 1 0 (by decide +kernel) q 0 ((r - 0x20) / 4) (by unfold R.HI_Q_TR_BASE; omega)

theorem regRow_msix {n : Nat} (hn : n < 2048) : regRow (0x80000 + 16 * n + 12) ≠ none :=
  regRow_ne_none_of_shape R.MSIX_CTRL 1 2048 0x10 1 0 (by decide +kernel) n 0 0 (by unfold R.MSIX_CTRL; omega)

theorem regRow_polder {p : Nat} (hp : p < 64) : regRow (R.GL_POLDER_CTRL + 4 * p) ≠ none :=
  regRow_ne_none_of_shape R.GL_POLDER_CTRL 64 1 0 1 0 (by decide +kernel) 0 0 p (by omega)

theorem regRow_coreFlag {i : Nat} (hi : i < 6) : regRow (R.SF_CORE_FLAG + 4 * i) ≠ none :=
  regRow_ne_none_of_shape R.SF_CORE_FLAG 6 1 0 1 0 (by decide +kernel) 0 0 i (by omega)

theorem regRow_portCtrl {n : Nat} (hn : n < 18) : regRow (R.CU_CTRL + 0x10000 * n) ≠ none :=
  regRow_ne_none_of_shape R.CU_CTRL 1 18 0x10000 1 0 (by decide +kernel) n 0 0 (by omega)

theorem regRow_tunSel {n : Nat} (hn : n < 18) : regRow (R.CU_TUN_SEL + 0x10000 * n) ≠ none :=
  regRow_ne_none_of_shape R.CU_TUN_SEL 1 18 0x10000 1 0 (by decide +kernel) n 0 0 (by omega)

theorem regRow_coreArith {c : Nat} (hc : c < 192) : regRow (State.coreReg c 4) ≠ none :=
  regRow_ne_none_of_shape R.SQ_CORE_ARITH 1 4 0x40000 48 0x800 (by decide +kernel) (c / 48) (c % 48) 0
    (by unfold State.coreReg R.SQ_CORE_ARITH; omega)

/-- Outside the windows of queues and vectors, a reserved offset is an ordinary one. -/
theorem ordinary_of_none {off : Nat} (h4 : off % 4 = 0) (hr : regRow off = none) (hq : State.place off 0x10000 0x40 1024 = none)
    (hx : State.place off 0x80000 16 2048 = none) : Ordinary off := by
  refine ⟨?_, hq, hx, ?_, ?_, ?_, ?_⟩
  · exact fun hown => regRow_ownWrites off hown hr
  · cases hp : State.place off R.GL_POLDER_CTRL 4 64 with
    | none => rfl
    | some x =>
      obtain ⟨heq, _, hp⟩ := State.place_eq_some hp (by decide)
      obtain h0 : x.2 = 0 := by simp only [R.GL_POLDER_CTRL] at heq; omega
      rw [heq, h0] at hr
      exact absurd hr (regRow_polder hp)
  · cases hf : State.place off R.SF_CORE_FLAG 4 6 with
    | none => rfl
    | some x =>
      obtain ⟨heq, _, hi⟩ := State.place_eq_some hf (by decide)
      obtain h0 : x.2 = 0 := by simp only [R.SF_CORE_FLAG] at heq; omega
      rw [heq, h0] at hr
      exact absurd hr (regRow_coreFlag hi)
  · intro n hn
    exact ⟨fun h => regRow_portCtrl hn (h ▸ hr), fun h => regRow_tunSel hn (h ▸ hr)⟩
  · intro c hc h
    exact regRow_coreArith hc (h ▸ hr)

namespace State

/-- A write of a reserved offset is discarded (R13). -/
theorem regWrite_reserved (s : State) {off : Nat} (h4 : off % 4 = 0) (hr : regRow off = none) (v h : Nat) : s.regWrite off v h = s := by
  have hown : off ∉ ownWrites := fun hown => regRow_ownWrites off hown hr
  simp only [ownWrites, List.mem_cons, List.not_mem_nil, or_false, not_or] at hown
  obtain ⟨h1, h2, h3, h4', h5, h6, h7, h8, h9, h10, h11, h12, h13⟩ := hown
  cases hq : place off 0x10000 0x40 1024 with
  | some x =>
    obtain ⟨q, r⟩ := x
    obtain ⟨heq, _, hq'⟩ := place_eq_some hq (by decide)
    have hout : ¬ (r = 0 ∨ 8 ≤ r ∧ r < 0x28) := fun hin => regRow_queue hq' (by omega) hin (heq ▸ hr)
    have hhalf := halfAt_of_none hr
    simp only [regWrite, h1, h2, h3, h4', h5, h6, h7, h8, h9, h10, h11, h12, h13, if_false, hq, queueWrite]
    rw [if_neg (by omega), if_neg (by omega), if_neg (by omega), if_neg (by omega), codeWrite_none s hr]
  | none =>
    cases hx : place off 0x80000 16 2048 with
    | some x =>
      obtain ⟨n, r⟩ := x
      obtain ⟨heq, _, hn⟩ := place_eq_some hx (by decide)
      have hout : r ≠ 12 := by
        rintro rfl
        exact regRow_msix hn (heq ▸ hr)
      simp [regWrite, h1, h2, h3, h4', h5, h6, h7, h8, h9, h10, h11, h12, h13, hq, hx, hout, codeWrite_none s hr]
    | none => rw [regWrite_ordinary s (ordinary_of_none h4 hr hq hx), pairWrite_none s hr]

end State

end Sys2Proof.Machine
end

section
/-! SUPPORT. The host's commands on BAR0 while the D8 is not held in reset, and the statements about them (R11–R16). -/

namespace Sys2Proof.Machine

/-! ### Steps and stops -/

/-- Every command completes exactly where its operands name units that the D8 has (log entries 2 and 3). -/
theorem exec_eq_onUnit_wf (c : Instr) (s : State) : ∃ t, exec c s = onUnit c.wf t := by
  cases c <;> exact ⟨_, rfl⟩

/-- Settles O1: a step is the front command on the state with the queue's rest, or one PCLK cycle. -/
theorem stepRunsFrontCommand : Obligations.StepRunsFrontCommand := by
  refine ⟨fun s c rest h => ?_, fun s h => ?_⟩ <;> simp only [step, h]

/-- Settles O55: each arm of exec is an outcome on the units that Instr.wf asks for. -/
theorem commandsStopOnlyOffTheirUnits : Obligations.CommandsStopOnlyOffTheirUnits := by
  intro c s
  obtain ⟨t, ht⟩ := exec_eq_onUnit_wf c s
  refine ⟨fun h => ⟨t, ?_⟩, fun h => ?_⟩ <;> simp [ht, h, onUnit]

/-! ### The commands -/

section

variable {s : State} (hs : s.pw.held0 = false)
include hs

theorem hosted_running (f : State → State) : s.hosted f = f s := by simp [State.hosted, hs]

theorem exec_barAccess_read {off n : Nat} (h : accessOk off n = true) : exec (.barAccess off n false) s = .next (s.readBar off n) := by
  simp [exec, execBarAccess, hosted_running hs, h]

theorem exec_barAccess_write {off n : Nat} (h : accessOk off n = true) : exec (.barAccess off n true) s = .next s := by
  simp [exec, execBarAccess, hosted_running hs, h]

theorem exec_barAccess_bad {off n : Nat} (h : accessOk off n = false) (w : Bool) : exec (.barAccess off n w) s = .next (s.badAccess off w) := by
  simp [exec, execBarAccess, hosted_running hs, h]

theorem exec_registerWrite {off : Nat} (h4 : off % 4 = 0) (v h : Word) :
    exec (.registerWrite off v h) s = .next (s.regWrite off v.toNat h.toNat) := by
  simp [exec, execRegisterWrite, hosted_running hs, h4]

theorem exec_registerWrite_unaligned {off : Nat} (h4 : off % 4 ≠ 0) (v h : Word) :
    exec (.registerWrite off v h) s = .next (s.badAccess off true) := by
  simp [exec, execRegisterWrite, hosted_running hs, h4]

theorem exec_loReadCapture {off : Nat} (hh : halfAt off = 1) : exec (.loReadCapture off) s = .next (s.readBar off 4) := by
  simp [exec, execLoReadCapture, hosted_running hs, hh]

theorem exec_hiWriteCommit {off : Nat} (hh : halfAt off = 2) (v : Word) : exec (.hiWriteCommit off v) s = .next (s.regWrite off v.toNat 0) := by
  simp [exec, execHiWriteCommit, hosted_running hs, hh]

end

/-! ### Sizes and alignment (R12) -/

theorem accessOk_iff {off n : Nat} : accessOk off n = true ↔
    n = 4 ∧ off % 4 = 0 ∨ n = 8 ∧ off % 8 = 0 ∧ (0x80000 ≤ off ∧ off < 0x88000 ∨ 0x90000 ≤ off ∧ off < 0x90100) := by
  simp [accessOk, takes64, and_assoc]

theorem accessOk_word {off : Nat} (h : off % 4 = 0) : accessOk off 4 = true := accessOk_iff.2 (.inl ⟨rfl, h⟩)

theorem takes64_upper {off : Nat} (h8 : off % 8 = 0) (h : takes64 off = true) : takes64 (off + 4) = true := by
  simp only [takes64, Bool.or_eq_true, Bool.and_eq_true, Nat.ble_eq, Nat.blt_eq] at h ⊢
  omega

/-- Settles O2: no word of such a read is a _LO half, and none is captured, so each reads its register. -/
theorem barReadsReturnTheirWords : Obligations.BarReadsReturnTheirWords := by
  intro s off hs
  refine ⟨fun h4 hh hc => ?_, fun h8 h64 hc hc' => ?_, fun n h => exec_barAccess_write hs h⟩
  · rw [exec_barAccess_read hs (accessOk_word h4)]
    simp [State.readBar, State.readWord_plain s hh hc]
  · have hlo : halfAt off ≠ 1 := by simp [halfAt_of_takes64 h64]
    have hhi : halfAt (off + 4) ≠ 1 := by simp [halfAt_of_takes64 (takes64_upper h8 h64)]
    rw [exec_barAccess_read hs (by simp [accessOk, h8, h64])]
    simp [State.readBar, State.readWord_plain s hlo hc, State.readWord_plain s hhi hc']

/-- Settles O3: the model's test of sizes is R12's, a good access has its frame, and a refused one is reported once. -/
theorem accessSizesAreChecked : Obligations.AccessSizesAreChecked := by
  intro s off n hs good
  refine ⟨fun hg => ⟨?_, exec_barAccess_write hs (accessOk_iff.2 hg)⟩, fun hg => ?_⟩
  · have hn : n = 4 ∨ n = 8 := hg.imp And.left And.left
    obtain ⟨d, c, hread, hlen⟩ := s.readBar_frame off hn
    exact ⟨_, d, exec_barAccess_read hs (accessOk_iff.2 hg), by rw [hread]; rfl, hlen, by rw [hread]; rfl⟩
  · have hbad : accessOk off n = false := by
      rw [← Bool.not_eq_true]
      exact fun h => hg (accessOk_iff.1 h)
    obtain ⟨hlogs, hframe, hsets, hkeeps⟩ := s.badAccess_effect off
    obtain ⟨_, _, hsets', hkeeps'⟩ := (s.send (.completion 1 off)).badAccess_effect off
    refine ⟨⟨_, exec_barAccess_bad hs hbad false, rfl, hlogs, rfl, hsets', hkeeps'⟩, ⟨_, exec_barAccess_bad hs hbad true, hlogs, hframe, hsets, hkeeps⟩, ?_⟩
    intro v h h4
    rw [exec_registerWrite_unaligned hs h4, exec_barAccess_bad hs (by simp [accessOk, h4])]

/-! ### Pairs (R11) -/

/-- Settles O4: the _LO puts the upper half among what is captured, and the _HI takes it from there. -/
theorem loReadCapturesTheUpperHalf : Obligations.LoReadCapturesTheUpperHalf := by
  intro s lo hs hlo hhi h4
  have hword : accessOk (lo + 4) 4 = true := accessOk_word (by omega)
  have hne : halfAt (lo + 4) ≠ 1 := by omega
  refine ⟨⟨_, exec_loReadCapture hs hlo, ?_⟩, fun v hv => ⟨_, exec_barAccess_read hs hword, ?_⟩, fun hn => ?_⟩
  · simp only [State.readBar, State.readWord_lo s hlo]
    exact ⟨rfl, Map.get?_put_self .., fun o ho => Map.get?_put_other _ _ ho, rfl⟩
  · simp only [State.readBar, State.readWord_captured s hne hv]
    exact ⟨rfl, Map.get?_del_self .., fun o ho => Map.get?_del_other _ ho, rfl⟩
  · rw [exec_barAccess_read hs hword]
    simp [State.readBar, State.readWord_plain s hne hn]

/-- The pairs HI_WIN_BASE and HI_EV_BASE (R408): both halves are RW words that no unit watches. -/
theorem basePair_rows {lo : Nat} (h : lo ∈ [R.HI_WIN_BASE_LO, R.HI_EV_BASE_LO]) :
    (∃ r, regRow lo = some r ∧ r.access = .rw ∧ r.mask = 0xFFFFFFFF ∧ r.unwatched = true) ∧
    ∃ r, regRow (lo + 4) = some r ∧ r.access = .rw ∧ r.mask = (if lo = R.HI_WIN_BASE_LO then 0xFFFFF else 0xFFFFFFFF) ∧ r.unwatched = true := by
  have key : ∀ lo ∈ [R.HI_WIN_BASE_LO, R.HI_EV_BASE_LO],
      ((regRow lo).any fun r => r.access == .rw && (r.mask == 0xFFFFFFFF && r.unwatched)) = true ∧
      ((regRow (lo + 4)).any fun r => r.access == .rw && (r.mask == (if lo = R.HI_WIN_BASE_LO then 0xFFFFF else 0xFFFFFFFF) && r.unwatched)) = true := by
    decide +kernel
  simpa only [Option.any_eq_true, Bool.and_eq_true, beq_iff_eq] using key lo h

theorem basePair_halves : ∀ lo ∈ [R.HI_WIN_BASE_LO, R.HI_EV_BASE_LO], lo % 4 = 0 ∧ halfAt lo = 1 ∧ halfAt (lo + 4) = 2 := by decide +kernel

/-- Settles O5: the _LO is held beside the registers, and the _HI writes both words of the pair. -/
theorem hiWriteCommitsThePair : Obligations.HiWriteCommitsThePair := by
  intro s a b h lo hs hlo
  obtain ⟨⟨rl, hl, hla, hlm, hlu⟩, rh, hh, hha, hhm, hhu⟩ := basePair_rows hlo
  obtain ⟨h4, hlo1, hhi2⟩ := basePair_halves lo hlo
  have hol := ordinary_of_unwatched (holds_of_regRow hl) hlu
  have hoh := ordinary_of_unwatched (holds_of_regRow hh) hhu
  refine ⟨⟨_, exec_registerWrite hs h4 a h, ?_⟩, fun hheld => ⟨_, exec_hiWriteCommit hs hhi2 b, ?_⟩⟩
  · rw [State.regWrite_ordinary s hol, State.pairWrite_lo s hl hla hlo1]
    exact ⟨rfl, Map.get?_put_self .., fun o ho => Map.get?_put_other _ _ ho⟩
  · rw [State.regWrite_ordinary s hoh, State.pairWrite_hi s hh hha hhi2, State.commitHi_held s hl hla hh hha hheld, hlm, hhm]
    refine ⟨?_, ?_, Map.get?_del_self .., fun o ho => Map.get?_del_other _ ho, ?_, rfl⟩
    · rw [State.reg_setReg_other _ _ (by omega), State.reg_setReg_self]
      have := Nat.and_two_pow_sub_one_of_lt_two_pow a.isLt
      simp only [Nat.reducePow, Nat.reduceSub] at this
      rw [this, Nat.mod_eq_of_lt a.isLt]
    · rw [State.reg_setReg_self, Nat.mod_eq_of_lt (Nat.lt_of_le_of_lt Nat.and_le_left b.isLt)]
    · intro o ho
      simp only [List.mem_cons, List.not_mem_nil, or_false, not_or] at ho
      rw [State.reg_setReg_other _ _ ho.2, State.reg_setReg_other _ _ ho.1]
      rfl

/-! ### Reserved offsets (R13) -/

/-- Settles O6: an offset without a row reads 0, and every word that a unit watches has a row. -/
theorem reservedOffsetsReadZero : Obligations.ReservedOffsetsReadZero := by
  intro s off v h hs h4 hr hc
  have hh : halfAt off ≠ 1 := by simp [halfAt_of_none hr]
  constructor
  · rw [exec_barAccess_read hs (accessOk_word h4)]
    simp only [State.readBar, State.readWord_plain s hh hc, State.regRead, hr]
    rfl
  · rw [exec_registerWrite hs h4, State.regWrite_reserved s h4 hr]

end Sys2Proof.Machine
end

section
/-! SUPPORT. Arithmetic status and what clears it (R14, R15, R59, R75): folds over cores, SF_STICKY, SF_CORE_FLAG and SL_ARITH. -/

namespace Sys2Proof.Machine

namespace State

/-! ### What a change leaves, composed -/

theorem regsOnly_iff {s t : State} : s.regsOnly t ↔ ∃ g, t = { s with regs := g } :=
  ⟨fun h => ⟨_, h⟩, by rintro ⟨g, rfl⟩; rfl⟩

theorem regsOnly_setReg (s : State) (off v : Nat) : s.regsOnly (s.setReg off v) := rfl

theorem regsOnly_trans {s t u : State} (h : s.regsOnly t) (h' : t.regsOnly u) : s.regsOnly u := by
  obtain ⟨g, rfl⟩ := regsOnly_iff.1 h
  obtain ⟨g', rfl⟩ := regsOnly_iff.1 h'
  rfl

theorem logsOnly_iff {s t : State} : s.logsOnly t ↔ ∃ g l, t = { s with regs := g, el := { s.el with raised := l } } :=
  ⟨fun h => ⟨_, _, h⟩, by rintro ⟨g, l, rfl⟩; rfl⟩

theorem logsOnly_of_regsOnly {s t : State} (h : s.regsOnly t) : s.logsOnly t := by
  obtain ⟨g, rfl⟩ := regsOnly_iff.1 h
  rfl

theorem logsOnly_trans {s t u : State} (h : s.logsOnly t) (h' : t.logsOnly u) : s.logsOnly u := by
  obtain ⟨g, l, rfl⟩ := logsOnly_iff.1 h
  obtain ⟨g', l', rfl⟩ := logsOnly_iff.1 h'
  rfl

theorem keeps_trans {s t u : State} {l : List Nat} (h : s.keeps t l) (h' : t.keeps u l) : s.keeps u l :=
  fun o ho => (h' o ho).trans (h o ho)

/-! ### Folds that write registers -/

theorem foldl_regsOnly {f : State → Nat → State} (hf : ∀ (s : State) (c : Nat), s.regsOnly (f s c)) (l : List Nat) (s : State) : s.regsOnly (l.foldl f s) :=
  List.foldlRecOn l f (motive := s.regsOnly) rfl fun t ht c _ => regsOnly_trans ht (hf t c)

theorem foldl_reg_kept {f : State → Nat → State} {o : Nat} {l : List Nat} (hf : ∀ s, ∀ c ∈ l, (f s c).reg o = s.reg o) (s : State) :
    (l.foldl f s).reg o = s.reg o :=
  List.foldlRecOn l f (motive := fun t => t.reg o = s.reg o) rfl fun t ht c hc => (hf t c hc).trans ht

/-- A register that one step of a fold acts on by g, and no other step touches. -/
theorem foldl_reg_once {f : State → Nat → State} {g : Nat → Nat} {o c : Nat} {l : List Nat} (hl : l.Nodup) (hc : c ∈ l)
    (hself : ∀ s, (f s c).reg o = g (s.reg o)) (hother : ∀ s, ∀ d ∈ l, d ≠ c → (f s d).reg o = s.reg o) (s : State) :
    (l.foldl f s).reg o = g (s.reg o) := by
  induction l generalizing s with
  | nil => cases hc
  | cons x t ih =>
    obtain ⟨hx, ht⟩ := List.nodup_cons.1 hl
    rw [List.foldl_cons]
    rcases List.mem_cons.1 hc with rfl | hc
    · rw [foldl_reg_kept fun s d hd => hother s d (List.mem_cons_of_mem _ hd) fun h => hx (h ▸ hd), hself]
    · rw [ih ht hc fun s d hd => hother s d (List.mem_cons_of_mem _ hd), hother s x List.mem_cons_self fun h => hx (h ▸ hc)]

/-! ### Register words of the cores -/

theorem coreReg_inj {c d : Nat} (h : coreReg c 4 = coreReg d 4) : c = d := by
  unfold coreReg at h
  omega

/-- The status word of a core stands below every register of SF. -/
theorem coreReg_lt {c : Nat} (hc : c < 192) : coreReg c 4 < 0xE00000 := by
  unfold coreReg
  omega

theorem reg_sub_and_mod (s : State) (off m : Nat) : (s.reg off - (s.reg off &&& m)) % 2 ^ 32 = s.reg off - (s.reg off &&& m) :=
  Nat.mod_eq_of_lt (Nat.lt_of_le_of_lt (Nat.sub_le ..) (s.reg_lt off))

/-! ### SF_STICKY (R75) -/

/-- The bits v of one core's status are cleared, and its flag falls with the last of them. -/
def clearCoreSticky (v : Nat) (s : State) (c : Nat) : State :=
  let a := s.reg (coreReg c 4)
  let b := a - (a &&& v)
  if a = b then s
  else
    let s := s.setReg (coreReg c 4) b
    let f := R.SF_CORE_FLAG + c / 32 * 4
    if b = 0 ∧ bitOf (s.reg f) (c % 32) then s.setReg f (s.reg f - 2 ^ (c % 32)) else s

theorem clearSticky_eq (s : State) (v : Nat) : s.clearSticky v =
    (List.range 192).foldl (clearCoreSticky v) (s.setReg R.SF_STICKY (s.reg R.SF_STICKY - (s.reg R.SF_STICKY &&& v))) := by
  unfold clearSticky clearCoreSticky
  rfl

theorem regsOnly_clearCoreSticky (v : Nat) (s : State) (c : Nat) : s.regsOnly (clearCoreSticky v s c) := by
  unfold clearCoreSticky
  dsimp only
  split
  · rfl
  · split <;> rfl

theorem reg_clearCoreSticky_self (v : Nat) (s : State) {c : Nat} (hc : c < 192) :
    (clearCoreSticky v s c).reg (coreReg c 4) = s.reg (coreReg c 4) - (s.reg (coreReg c 4) &&& v) := by
  have hlt := coreReg_lt hc
  have hne : coreReg c 4 ≠ R.SF_CORE_FLAG + c / 32 * 4 := by unfold R.SF_CORE_FLAG; omega
  unfold clearCoreSticky
  dsimp only
  split
  case isTrue h => exact h
  case isFalse h =>
    split
    · rw [reg_setReg_other _ _ hne, reg_setReg_self, reg_sub_and_mod]
    · rw [reg_setReg_self, reg_sub_and_mod]

theorem reg_clearCoreSticky_other (v : Nat) (s : State) {c o : Nat} (h : o ≠ coreReg c 4) (hf : o ≠ R.SF_CORE_FLAG + c / 32 * 4) :
    (clearCoreSticky v s c).reg o = s.reg o := by
  unfold clearCoreSticky
  dsimp only
  split
  · rfl
  · split
    · rw [reg_setReg_other _ _ hf, reg_setReg_other _ _ h]
    · rw [reg_setReg_other _ _ h]

theorem regsOnly_clearSticky (s : State) (v : Nat) : s.regsOnly (s.clearSticky v) := by
  rw [clearSticky_eq]
  exact regsOnly_trans (regsOnly_setReg ..) (foldl_regsOnly (regsOnly_clearCoreSticky v) _ _)

theorem clears_clearSticky (s : State) (v : Nat) : s.clears (s.clearSticky v) R.SF_STICKY v := by
  rw [clears, clearSticky_eq, foldl_reg_kept, reg_setReg_self, reg_sub_and_mod]
  intro t c hc
  have hlt := coreReg_lt (List.mem_range.1 hc)
  apply reg_clearCoreSticky_other
  · unfold R.SF_STICKY
    omega
  · unfold R.SF_STICKY R.SF_CORE_FLAG
    omega

theorem clears_clearSticky_core (s : State) (v : Nat) {c : Nat} (hc : c < 192) : s.clears (s.clearSticky v) (coreReg c 4) v := by
  have hlt := coreReg_lt hc
  rw [clears, clearSticky_eq, foldl_reg_once (g := fun a => a - (a &&& v)) List.nodup_range (List.mem_range.2 hc)
    fun t => reg_clearCoreSticky_self v t hc]
  · rw [reg_setReg_other]
    unfold R.SF_STICKY
    omega
  · intro t d _ hd
    apply reg_clearCoreSticky_other v t fun h => hd (coreReg_inj h).symm
    unfold R.SF_CORE_FLAG
    omega

/-! ### SF_CORE_FLAG (R75) -/

theorem regsOnly_refreshSticky (s : State) (gone : Nat) : s.regsOnly (s.refreshSticky gone) := rfl

theorem reg_refreshSticky_other (s : State) (gone : Nat) {o : Nat} (h : o ≠ R.SF_STICKY) : (s.refreshSticky gone).reg o = s.reg o :=
  reg_setReg_other s _ h

/-- Bits of a flag word that no hardware sets are cleared: its word, the status of their cores, and SF_STICKY. -/
theorem clearCoreFlag_eq (s : State) (i v : Nat) : ∃ gone, s.clearCoreFlag i v 0 =
    (((List.range 32).filter fun b => bitOf v b).foldl (fun s b => s.setReg (coreReg (32 * i + b) 4) 0)
      (s.setReg (R.SF_CORE_FLAG + 4 * i) (s.reg (R.SF_CORE_FLAG + 4 * i) - (s.reg (R.SF_CORE_FLAG + 4 * i) &&& v)))).refreshSticky gone := by
  have hbit : ∀ b, bitOf 0 b = false := fun b => by simp only [bitOf, Nat.zero_div, Nat.zero_mod, Nat.reduceBEq]
  have hnone : ((List.range 32).filter fun _ => false) = [] := by decide
  simp only [clearCoreFlag, hbit, hnone, List.foldl_nil, Nat.and_zero, Nat.sub_zero, Bool.not_false, Bool.and_true]
  exact ⟨_, rfl⟩

theorem regsOnly_clearCoreFlag (s : State) (i v : Nat) : s.regsOnly (s.clearCoreFlag i v 0) := by
  obtain ⟨gone, h⟩ := s.clearCoreFlag_eq i v
  rw [h]
  exact regsOnly_trans (regsOnly_trans (regsOnly_setReg ..) (foldl_regsOnly (fun t b => regsOnly_setReg t ..) _ _)) (regsOnly_refreshSticky ..)

theorem clears_clearCoreFlag (s : State) {i : Nat} (hi : i < 6) (v : Nat) : s.clears (s.clearCoreFlag i v 0) (R.SF_CORE_FLAG + 4 * i) v := by
  obtain ⟨gone, h⟩ := s.clearCoreFlag_eq i v
  rw [clears, h, reg_refreshSticky_other _ _ (by unfold R.SF_CORE_FLAG R.SF_STICKY; omega), foldl_reg_kept, reg_setReg_self, reg_sub_and_mod]
  intro t b hb
  have hb := List.mem_range.1 (List.mem_filter.1 hb).1
  have hlt := coreReg_lt (show 32 * i + b < 192 by omega)
  apply reg_setReg_other
  unfold R.SF_CORE_FLAG
  omega

theorem reg_clearCoreFlag_core (s : State) (i v : Nat) {c : Nat} (hc : c < 192) :
    (s.clearCoreFlag i v 0).reg (coreReg c 4) = if c / 32 = i ∧ bitOf v (c % 32) then 0 else s.reg (coreReg c 4) := by
  obtain ⟨gone, h⟩ := s.clearCoreFlag_eq i v
  have hlt := coreReg_lt hc
  have hold : ∀ x, (s.setReg (R.SF_CORE_FLAG + 4 * i) x).reg (coreReg c 4) = s.reg (coreReg c 4) := by
    intro x
    apply reg_setReg_other
    unfold R.SF_CORE_FLAG
    omega
  rw [h, reg_refreshSticky_other _ _ (by unfold R.SF_STICKY; omega)]
  split
  case isTrue hin =>
    obtain ⟨rfl, hbit⟩ := hin
    have hmem : c % 32 ∈ (List.range 32).filter fun b => bitOf v b := List.mem_filter.2 ⟨List.mem_range.2 (Nat.mod_lt _ (by decide)), hbit⟩
    have hc' : 32 * (c / 32) + c % 32 = c := Nat.div_add_mod c 32
    refine foldl_reg_once (g := fun _ => 0) (List.nodup_range.filter _) hmem (fun t => ?_) (fun t d _ hd => ?_) _
    · simp only [hc', reg_setReg_self, Nat.zero_mod]
    · exact reg_setReg_other _ _ fun heq => hd (by have := coreReg_inj heq; omega)
  case isFalse hout =>
    rw [foldl_reg_kept, hold]
    intro t b hb
    obtain ⟨hb, hbit⟩ := List.mem_filter.1 hb
    have hb := List.mem_range.1 hb
    refine reg_setReg_other _ _ fun heq => hout ?_
    obtain rfl := coreReg_inj heq
    exact ⟨by omega, by rwa [show (32 * i + b) % 32 = b by omega]⟩

/-! ### SL_ARITH (R305) -/

/-- Reports alone leave every register. -/
theorem foldl_report_effect (l : List Nat) (s : State) : s.logsOnly (l.foldl (fun s n => s.report 0 0x05 n 0 0) s) ∧
    ∀ o, (l.foldl (fun s n => s.report 0 0x05 n 0 0) s).reg o = s.reg o := by
  refine List.foldlRecOn l _ (motive := fun t => s.logsOnly t ∧ ∀ o, t.reg o = s.reg o) ⟨rfl, fun _ => rfl⟩ ?_
  rintro t ⟨hlogs, hreg⟩ n _
  exact ⟨logsOnly_trans hlogs rfl, hreg⟩

/-- Status bits of the Sluice adders are raised: in SL_ARITH and SF_STICKY, with their reports. -/
theorem arithSl_effect (s : State) {b : Nat} (hb : b < 128) : (s.arithSl ⟨b, 0, 0, 0⟩).reg R.SL_ARITH = s.reg R.SL_ARITH ||| b ∧
    s.keeps (s.arithSl ⟨b, 0, 0, 0⟩) [R.SL_ARITH, R.SF_STICKY] ∧ s.logsOnly (s.arithSl ⟨b, 0, 0, 0⟩) := by
  by_cases h0 : b = 0
  · subst h0
    exact ⟨(Nat.or_zero _).symm, fun _ _ => rfl, rfl⟩
  · have hne : R.SL_ARITH ≠ R.SF_STICKY := by decide
    simp only [arithSl, if_neg h0, count, if_true]
    obtain ⟨hlogs, hreg⟩ := foldl_report_effect ((List.range 7).filter fun n => bitOf b n && !bitOf (s.reg R.SF_STICKY) n && bitOf (s.reg R.SF_STICKY_LOG) n)
      ((s.orReg R.SL_ARITH b).orReg R.SF_STICKY b)
    refine ⟨?_, fun o ho => ?_, logsOnly_trans (t := (s.orReg R.SL_ARITH b).orReg R.SF_STICKY b) rfl hlogs⟩
    · rw [hreg, reg_orReg_other _ _ hne, reg_orReg_self _ (by omega)]
    · simp only [List.mem_cons, List.not_mem_nil, or_false, not_or] at ho
      rw [hreg, reg_orReg_other _ _ ho.2, reg_orReg_other _ _ ho.1]

/-- Of the bits raised beside the old ones, a clearing spares those that hardware sets. -/
theorem setting_wins : ∀ a v h : Bool, ((a || h) && !((a || h) && v && !h)) = (a && !v || h) := by decide

/-- SL_ARITH is written while hardware sets hwSet of it: setting wins (R15), and SF_STICKY follows (R59). -/
theorem clearSlArith_effect (s : State) (v h : Nat) :
    (∀ b, b < 7 → Nat.testBit ((s.clearSlArith v h).reg R.SL_ARITH) b = ((Nat.testBit (s.reg R.SL_ARITH) b && !Nat.testBit v b) || Nat.testBit h b)) ∧
      s.keeps (s.clearSlArith v h) [R.SL_ARITH, R.SF_STICKY] ∧ s.logsOnly (s.clearSlArith v h) := by
  have hraised : (if h % 128 = 0 then s else s.arithSl ⟨h % 128, 0, 0, 0⟩) = s.arithSl ⟨h % 128, 0, 0, 0⟩ := by
    split
    case isTrue h0 => rw [h0]; rfl
    case isFalse => rfl
  obtain ⟨hself, hkeeps, hlogs⟩ := s.arithSl_effect (Nat.mod_lt h (by decide : 128 > 0))
  simp only [clearSlArith, hraised]
  generalize s.arithSl ⟨h % 128, 0, 0, 0⟩ = u at hself hkeeps hlogs
  refine ⟨fun b hb => ?_, fun o ho => ?_, logsOnly_trans hlogs (logsOnly_of_regsOnly rfl)⟩
  · have hlow : Nat.testBit (h % 128) b = Nat.testBit h b := by
      rw [show (128 : Nat) = 2 ^ 7 by rfl, Nat.testBit_mod_two_pow]
      simp [hb]
    rw [reg_refreshSticky_other _ _ (by decide), reg_setReg_self, reg_sub_and_mod, testBit_sub_and, testBit_sub_and, hself]
    simp only [Nat.testBit_and, Nat.testBit_or, hlow]
    exact setting_wins ..
  · rw [← hkeeps o ho]
    simp only [List.mem_cons, List.not_mem_nil, or_false, not_or] at ho
    rw [reg_refreshSticky_other _ _ ho.2, reg_setReg_other _ _ ho.1]

end State

/-! ### W1C words (R14, R15) -/

/-- The words of plainW1c: aligned, of a W1C row that no unit watches, and no half of a pair. -/
theorem plainW1c_rows {off : Nat} (h : off ∈ plainW1c) : off % 4 = 0 ∧ halfAt off = 0 ∧ ∃ r, regRow off = some r ∧ r.access = .w1c ∧ Ordinary off := by
  have key : ∀ off ∈ plainW1c, off % 4 = 0 ∧ ((regRow off).any fun r => r.access == .w1c && (r.half == 0 &&
      !([R.SF_STICKY, R.SF_CORE_FLAG, R.SQ_CORE_ARITH, R.SL_ARITH, R.EL_ALERT].contains r.base))) = true := by decide +kernel
  obtain ⟨h4, hany⟩ := key off h
  simp only [Option.any_eq_true, Bool.and_eq_true, beq_iff_eq, Bool.not_eq_true', List.contains_eq_mem, decide_eq_false_iff_not] at hany
  obtain ⟨r, hr, ha, hhalf, hbase⟩ := hany
  have hu := (unwatched_of_w1c r (mem_of_regRow hr) ha).resolve_left hbase
  exact ⟨h4, by simp [halfAt, hr, hhalf], r, hr, ha, ordinary_of_unwatched (holds_of_regRow hr) hu⟩

/-- Settles O7: a plain W1C word is written by its code; a write of SL_ARITH clears what hardware does not set. -/
theorem w1cWritesClearBits : Obligations.W1cWritesClearBits := by
  intro s off v h hs
  constructor
  · intro hoff
    obtain ⟨h4, hhalf, r, hr, ha, hord⟩ := plainW1c_rows hoff
    refine ⟨_, r.mask, exec_registerWrite hs h4 v h, by simp [hr], ?_⟩
    rw [State.regWrite_ordinary s hord, State.pairWrite_single s hhalf]
    refine ⟨fun b hb hm => State.testBit_codeWrite_w1c s hr ha _ _ hb hm, fun o ho => ?_, ?_⟩
    · rw [State.codeWrite_w1c s hr ha, State.reg_setReg_other s _ (by simpa using ho)]
    · rw [State.codeWrite_w1c s hr ha]
      rfl
  · have hwrite : s.regWrite R.SL_ARITH v.toNat h.toNat = s.clearSlArith v.toNat h.toNat := rfl
    exact ⟨_, by rw [exec_registerWrite hs (by decide), hwrite], s.clearSlArith_effect v.toNat h.toNat⟩

end Sys2Proof.Machine
end

section
/-! SUPPORT. The debug windows of BAR2 (R386, R387), the writes that a loaded image closes (R16), and the statement about them. -/

namespace Sys2Proof.Machine

namespace State

/-! ### Debug reads and writes -/

/-- Core stores and terraces (R386): what a debug write may change. -/
def inStores (off : Nat) : Prop := off < 0x60000000 ∧ off % 0x800000 < 0x600000 ∨ 0x80000000 ≤ off ∧ off < 0xA0000000

/-- A debug read of core stores and terraces: the bytes, or a poisoned completion where an error stands. -/
theorem debugRead_stores (s : State) {off : Nat} (h : inStores off) (n : Nat) (ue : Bool) :
    s.debugRead off n ue = if s.badIn off n || ue then s.send (.completion 4 off) else s.send (.readData off (s.readMem off n)) := by
  rcases h with ⟨hlt, hin⟩ | ⟨hge, hlt⟩
  · simp only [debugRead, if_pos hlt, if_pos hin]
    cases s.badIn off n <;> cases ue <;> rfl
  · simp only [debugRead]
    rw [if_neg (by omega), if_neg (by omega), if_neg (by omega), if_pos (by omega)]
    cases s.badIn off n <;> cases ue <;> rfl

/-- Between its queue and its results a base die's SRAM is plain memory (R230). -/
theorem sramRead_between (s : State) {off : Nat} (hq : 0x40000 ≤ off % 0x2000000) (hr : off % 0x2000000 < 0x1F00000) (n : Nat) :
    s.sramRead off n = s.readMem off n := by
  simp only [sramRead]
  rw [if_neg (show ¬ off % 0x2000000 < 0x40000 by omega), if_pos hr]

/-- A debug read of a base die's weights and buffers, which lie between its queue and its results (R230, R386). -/
theorem debugRead_sram (s : State) {off : Nat} (hge : 0xA0000000 ≤ off) (hlt : off < 0xB0000000) (hq : 0x40000 ≤ off % 0x2000000)
    (hr : off % 0x2000000 < 0x1F00000) (n : Nat) : s.debugRead off n false = s.send (.readData off (s.readMem off n)) := by
  simp only [debugRead]
  rw [if_neg (by omega), if_neg (by omega), if_pos ⟨hge, hlt⟩, sramRead_between s hq hr]
  rfl

theorem debugWrite_stores (s : State) {off : Nat} (h : inStores off) {d : List Byte} (hok : windowOk off d.length = true)
    (hc : bitOf (s.reg R.HI_DBG_CTRL) 0 = true) : s.debugWrite off d = s.writeMem off d := by
  have hpeer : ¬ (0x200000000 ≤ off ∧ off < 0x400000000) := by unfold inStores at h; omega
  simp only [debugWrite, hok, hc, if_neg hpeer, Bool.not_true, Bool.false_eq_true, if_false]
  rcases h with ⟨hlt, hin⟩ | h
  · rw [if_pos hlt, if_pos hin]
  · rw [if_neg (by omega), if_pos h]

/-- A debug write of a bad size or alignment, or without HI_DBG_CTRL and not through the peer window, is discarded. -/
theorem debugWrite_refused (s : State) {off : Nat} {d : List Byte}
    (h : windowOk off d.length = false ∨ bitOf (s.reg R.HI_DBG_CTRL) 0 = false ∧ ¬ (0x200000000 ≤ off ∧ off < 0x400000000)) :
    s.debugWrite off d = s.debugDiscard := by
  rcases h with h | ⟨hc, hpeer⟩
  · simp [debugWrite, h]
  · simp only [debugWrite, hc, if_neg hpeer, Bool.not_false, if_true, ite_self]

theorem debugDiscard_effect (s : State) : s.sets s.debugDiscard R.HI_ERR 0x100 ∧ s.keeps s.debugDiscard [R.HI_ERR] ∧
    s.logs s.debugDiscard 0x83 0xFFFF 0 ∧ s.logsOnly s.debugDiscard := by
  refine ⟨?_, fun o ho => ?_, rfl, rfl⟩
  · rw [sets, debugDiscard, reg_report, reg_orReg_self s (by decide)]
  · rw [debugDiscard, reg_report, reg_orReg_other s _ (by simpa using ho)]

/-! ### The peer window -/

/-- With a loaded rank table an access of the peer window leaves as a message and waits for its answer. -/
theorem peerAccess_loaded (s : State) (h : s.rankLoaded = true) (off n : Nat) (w : Bool) (d : List Byte) : ∃ (u : State) (b : List Byte),
    s.peerAccess off n w d = { u with hi := { u.hi with peer := u.hi.peer ++ [(off, n, w)] } } ∧
      u = (({ s with free := s.free + 1 } : State).sendMsg (s.reg R.HI_PEER_RANK % 65536) 3 0x30 b d none).1 := by
  simp only [peerAccess, h, Bool.not_true, Bool.false_eq_true, if_false]
  exact ⟨_, leBytes 16 (Config.freeNat s.free), rfl, rfl⟩

end State

/-! ### The commands -/

section

variable {s : State} (hs : s.pw.held0 = false)
include hs

theorem exec_bar2Read {off n : Nat} (h : State.windowOk off n = true) (e : Ecc) :
    exec (.bar2Read off n e) s = .next (s.debugRead off n (e == .uncorrectable)) := by
  simp [exec, execBar2Read, hosted_running hs, h]

theorem exec_bar2Read_bad {off n : Nat} (h : State.windowOk off n = false) (e : Ecc) :
    exec (.bar2Read off n e) s = .next (s.send (.completion 1 off)) := by
  simp [exec, execBar2Read, hosted_running hs, h]

theorem exec_bar2Write (off : Nat) (d : List Byte) : exec (.bar2Write off d) s = .next (s.debugWrite off d) := by
  simp [exec, execBar2Write, hosted_running hs]

theorem exec_peerWindow {off n : Nat} (h : State.windowOk off n = true) (w : Bool) (d : List Byte) :
    exec (.peerWindow off n w d) s = .next (s.peerAccess off n w d) := by
  simp [exec, execPeerWindow, hosted_running hs, h]

theorem exec_sfSticky (v : Word) : exec (.sfSticky v) s = .next (s.clearSticky v.toNat) := by
  simp [exec, execSfSticky, hosted_running hs]

theorem exec_sfCoreFlag {i : Nat} (hi : i < 6) (v : Word) : exec (.sfCoreFlag i v) s = .next (s.clearCoreFlag i v.toNat 0) := by
  simp [exec, execSfCoreFlag, hosted_running hs, hi]

/-- A write of a RWL word that is no half of a pair acts by its code (R14). -/
theorem exec_registerWrite_rwl {off : Nat} {r : RegRow} (h4 : off % 4 = 0) (hr : regRow off = some r) (ha : r.access = .rwl) (hh : halfAt off = 0)
    (v h : Word) : exec (.registerWrite off v h) s = .next (if s.loaded then s.rwlDiscard off else s.setReg off (v.toNat &&& r.mask)) := by
  have hord := ordinary_of_unwatched (holds_of_regRow hr) (unwatched_of_rwl r (mem_of_regRow hr) ha)
  rw [exec_registerWrite hs h4, State.regWrite_ordinary s hord, State.pairWrite_single s hh, State.codeWrite_rwl s hr ha]

end

/-- The oldest access without an answer is completed with an error, and the others wait on (R387). -/
theorem exec_peerWindowTimeout {s : State} {off n : Nat} {w : Bool} {t : List (Nat × Nat × Bool)} (h : s.hi.peer = (off, n, w) :: t) :
    exec .peerWindowTimeout s = .next (((s.hiUpd fun x => { x with peer := t }).send (.completion 2 off)).orReg R.HI_ERR 0x80) := by
  simp [exec, execPeerWindowTimeout, h]

/-- Settles O40: each clause is the effect of its command, of a write that R16 closes or of a window of BAR2. -/
theorem debugWindowsAndSpecialWrites : Obligations.DebugWindowsAndSpecialWrites := by
  intro s hs
  refine ⟨?rwl, ?sticky, ?flags, ?read, ?badRead, s.debugDiscard_effect, ?refused, ?write, ?peer, ?late, ?none⟩
  case rwl =>
    intro off v h r h4 hr ha hh
    have hexec := exec_registerWrite_rwl hs h4 hr ha hh v h
    exact ⟨fun hl => by simpa [hl] using hexec, fun hl => ⟨_, by simpa [hl] using hexec, s.rwlDiscard_effect off⟩⟩
  case sticky =>
    exact fun v => ⟨_, exec_sfSticky hs v, s.clears_clearSticky v.toNat, fun c hc => s.clears_clearSticky_core v.toNat hc,
      s.regsOnly_clearSticky v.toNat⟩
  case flags =>
    exact fun i v hi => ⟨_, exec_sfCoreFlag hs hi v, s.clears_clearCoreFlag hi v.toNat, fun c hc => s.reg_clearCoreFlag_core i v.toNat hc,
      s.regsOnly_clearCoreFlag i v.toNat⟩
  case read =>
    intro off n hok
    refine ⟨fun h => ?_, fun hge hlt hq hr => ?_⟩
    · constructor <;> rw [exec_bar2Read hs hok, s.debugRead_stores h] <;> cases s.badIn off n <;> rfl
    · rw [exec_bar2Read hs hok]
      exact congrArg _ (s.debugRead_sram hge hlt hq hr n)
  case badRead => exact fun off n e hbad => exec_bar2Read_bad hs hbad e
  case refused => exact fun off d h => by rw [exec_bar2Write hs, s.debugWrite_refused h]
  case write => exact fun off d hok hc h => by rw [exec_bar2Write hs, s.debugWrite_stores h hok hc]
  case peer =>
    intro off n w d hok
    rw [exec_peerWindow hs hok]
    refine ⟨fun hl => by simp [State.peerAccess, hl], fun hl => ?_⟩
    obtain ⟨u, b, hacc, hu⟩ := s.peerAccess_loaded hl off n w d
    exact ⟨u, b, by rw [hacc], hu⟩
  case late =>
    intro off n w t h
    exact ⟨_, exec_peerWindowTimeout h, State.reg_orReg_self _ (by decide), rfl⟩
  case none =>
    intro h
    simp [exec, execPeerWindowTimeout, h]

end Sys2Proof.Machine
end

section
/-! SUPPORT. Steps and step sync (R31, R32, R453–R457): the window of a hold, ready points, declared boundaries, pulses and STEP_MARK, and the statement about them. -/

namespace Sys2Proof.Machine

namespace State

variable (s : State)

/-! ### Register pairs -/

theorem reg64_setReg64_mod (off v : Nat) : (s.setReg64 off v).reg64 off = v % 2 ^ 64 := by
  unfold reg64 setReg64
  rw [reg_setReg_self, reg_setReg_other _ _ (by omega), reg_setReg_self]
  omega

theorem reg64_setReg64_away {off o : Nat} (v : Nat) (h : o ≠ off) (h' : o ≠ off + 4) (h'' : o + 4 ≠ off) :
    (s.setReg64 off v).reg64 o = s.reg64 o := by
  unfold reg64
  rw [reg_setReg64_other _ _ h h', reg_setReg64_other _ _ (by omega) (by omega)]

theorem regsOnly_setReg64 (off v : Nat) : s.regsOnly (s.setReg64 off v) := rfl

theorem regsOnly_count (off n : Nat) : s.regsOnly (s.count off n) := s.count_regs_only off n

theorem regsOnly_orReg (off v : Nat) : s.regsOnly (s.orReg off v) := rfl

/-! ### The admission cut (R32) -/

theorem cut_of_closed (h : s.admits = false ∨ s.dt.cut = true) : s.cut = s := by
  unfold cut
  rw [if_pos (by simpa using h)]

theorem cut_of_open (ha : s.admits = true) (hc : s.dt.cut = false) : s.cut.dt.cut = true := by
  unfold cut
  rw [if_neg (by simp [ha, hc])]

/-! ### A boundary falls due (R456) -/

theorem declare_postponed (h : s.dt.mark = true) (r x : Nat) :
    s.declare r x = s.dtUpd fun d => { d with hold := none, postponed := some r } := by
  simp [declare, h]

/-- The state in which STEP_MARK has risen for a boundary at edge x, before its registers are set. -/
def marked (x : Nat) : State := s.dtUpd fun d => { d with hold := none, postponed := none, declared := some x, mark := true, markAt := x }

/-- A boundary is declared at once while STEP_MARK has been low for 64 cycles, or has never been high. -/
theorem declare_now (hm : s.dt.mark = false) {x : Nat} (hx : s.dt.markAt = 0 ∨ s.dt.markAt + 64 ≤ x) (r : Nat) :
    s.declare r x = ((s.marked x).setReg64 R.DT_MARK_TIME_LO x).count R.DT_HOLD_LO (x - r) := by
  have hlow : ¬ (s.dt.mark || (s.dt.markAt != 0 && Nat.blt x (s.dt.markAt + 64))) = true := by
    simp only [hm, Bool.false_or, Bool.and_eq_true, bne_iff_ne, Nat.blt_eq]
    omega
  unfold declare
  rw [if_neg hlow]
  rfl

/-- A declared boundary notes its time, counts the wait since the ready point, and changes nothing else but the sync state. -/
theorem declared_effect (r x : Nat) : let t := ((s.marked x).setReg64 R.DT_MARK_TIME_LO x).count R.DT_HOLD_LO (x - r)
    t.reg64 R.DT_MARK_TIME_LO = x % 2 ^ 64 ∧ s.adds t R.DT_HOLD_LO (x - r) ∧ t = { s with regs := t.regs, dt := (s.marked x).dt } := by
  refine ⟨?_, ?_, ?_⟩
  · rw [reg64_count_away _ _ (by decide) (by decide) (by decide), reg64_setReg64_mod]
  · rw [adds, reg64_count_self, reg64_setReg64_away _ _ (by decide) (by decide) (by decide)]
    rfl
  · exact count_regs_only ..

/-! ### The window of a hold (R455) -/

theorem closeWindow_idle (h : s.dt.hold = none) : s.closeWindow = s := by simp [closeWindow, h]

theorem closeWindow_open {r d : Nat} (h : s.dt.hold = some (r, d)) (hd : s.clk < d) : s.closeWindow = s := by
  simp [closeWindow, h, Nat.not_le.2 hd]

theorem closeWindow_due {r d : Nat} (h : s.dt.hold = some (r, d)) (hd : d ≤ s.clk) : s.closeWindow = s.missWindow r d := by
  simp [closeWindow, h, hd]

/-! ### Die reports and the ready point (R31, R455) -/

theorem readyPoint_off (h : s.syncOn = false) : s.readyPoint = s.declare s.clk s.clk := by simp [readyPoint, h]

theorem readyPoint_hold (h : s.syncOn = true) (hl : s.dt.latched = none) :
    s.readyPoint = s.dtUpd fun d => { d with hold := some (s.clk, s.clk + s.syncWindow), latched := none } := by
  simp [readyPoint, h, hl]

theorem readyPoint_match (h : s.syncOn = true) {p : Nat} (hl : s.dt.latched = some p) (hp : s.clk ≤ p + s.syncWindow) :
    s.readyPoint = ((s.dtUpd fun d => { d with latched := none }).count R.DT_MATCH_LO 1).declare s.clk s.clk := by
  simp [readyPoint, h, hl, hp]

theorem dieReport_busy (h : s.stepBusy = true) (d : Nat) : s.dieReport d = s := by simp [dieReport, h]

/-- The first report of a die is recorded while the step runs and no boundary of it is due; the fourth one makes the ready point. -/
theorem dieReport_first {d : Nat} (hh : s.dt.hold = none) (ha : s.admits = true) (hb : s.stepBusy = false) (hd : s.dt.declared = none)
    (hp : s.dt.postponed = none) (hr : d ∉ s.dt.reported) :
    let u := s.dtUpd fun t => { t with reported := t.reported ++ [d] }
    s.dieReport d = if s.dt.reported.length = 3 then u.readyPoint else u := by
  simp [dieReport, hh, ha, hb, hd, hp, hr, dtUpd]

/-! ### Pulses (R455) -/

/-- The state that a sampled pulse meets: its time is in DT_PULSE_TIME. -/
def sampled : State := s.setReg64 R.DT_PULSE_TIME_LO s.clk

theorem syncOn_sampled : s.sampled.syncOn = s.syncOn := by
  simp only [syncOn, sampled]
  rw [reg_setReg64_other _ _ (by decide) (by decide)]

theorem admits_sampled : s.sampled.admits = s.admits := rfl

/-- A pulse that no step can use is counted and sets DT_ERR.IDLE. -/
theorem pulse_idle (hw : s.closeWindow = s) (h : s.syncOn = false ∨ s.admits = false) :
    s.pulse = (s.sampled.count R.DT_IGNORED_LO 1).orReg R.DT_ERR 8 := by
  have hidle : (!s.sampled.syncOn || !s.sampled.admits) = true := by
    rw [syncOn_sampled, admits_sampled]
    simpa using h
  unfold pulse
  rw [hw]
  exact if_pos hidle

section

variable {s} (hw : s.closeWindow = s) (hs : s.syncOn = true) (ha : s.admits = true)
include hs ha

theorem usable_sampled : ¬ (!s.sampled.syncOn || !s.sampled.admits) = true := by simp [syncOn_sampled, admits_sampled, hs, ha]

include hw

/-- A pulse during a hold declares the boundary. -/
theorem pulse_matches {r d : Nat} (hh : s.dt.hold = some (r, d)) : s.pulse = (s.sampled.count R.DT_MATCH_LO 1).declare r s.clk := by
  unfold pulse
  rw [hw]
  refine (if_neg (usable_sampled hs ha)).trans ?_
  simp [sampled, hh]

/-- A pulse before the ready point is latched. -/
theorem pulse_latches (hh : s.dt.hold = none) (hl : s.dt.latched = none) : s.pulse = s.sampled.dtUpd fun d => { d with latched := some s.clk } := by
  unfold pulse
  rw [hw]
  refine (if_neg (usable_sampled hs ha)).trans ?_
  simp [sampled, hh, hl]

end

theorem ignoredPulse_effect : let t := (s.sampled.count R.DT_IGNORED_LO 1).orReg R.DT_ERR 8
    s.sets t R.DT_ERR 8 ∧ s.regsOnly t := by
  refine ⟨?_, regsOnly_trans (regsOnly_trans (s.regsOnly_setReg64 ..) (regsOnly_count ..)) (regsOnly_orReg ..)⟩
  rw [sets, reg_orReg_self _ (by decide), reg_count_other _ _ (by decide) (by decide), sampled,
    reg_setReg64_other _ _ (by decide) (by decide)]

/-! ### The boundary's work (R31, R215) -/

theorem boundary_waits (h : s.dt.declared = none ∨ s.stepBusy = true) : s.boundary = s := by
  unfold boundary
  rw [if_pos (by simpa using h)]

theorem boundary_declared (hd : s.dt.declared ≠ none) (hb : s.stepBusy = false) : s.boundary = s.endEpoch.beginStep := by
  unfold boundary
  rw [if_neg (by simpa [hb] using hd)]

/-- The state in which the step's growth is committed and its new roots are in place, before the epoch advances. -/
def committed : State := ((s.dtUpd fun d => { d with declared := none, reported := [], cut := false }).commitAll).switchRoots

/-- KV_EPOCH advances by one, modulo 2^48, and nothing else changes once the step is committed. -/
theorem endEpoch_effect : s.endEpoch.epoch = (s.committed.epoch + 1) % 2 ^ 48 ∧ s.committed.keeps s.endEpoch [R.KV_EPOCH_LO, R.KV_EPOCH_HI] ∧
    s.committed.regsOnly s.endEpoch := by
  have heq : s.endEpoch = (s.committed.setReg R.KV_EPOCH_LO ((s.committed.epoch + 1) % 2 ^ 32)).setReg R.KV_EPOCH_HI
      ((s.committed.epoch + 1) / 2 ^ 32 % 65536) := rfl
  rw [heq]
  refine ⟨?_, fun o ho => ?_, rfl⟩
  · generalize s.committed.epoch + 1 = e
    rw [epoch, reg_setReg_other _ _ (by decide : R.KV_EPOCH_LO ≠ R.KV_EPOCH_HI), reg_setReg_self, reg_setReg_self]
    omega
  · simp only [List.mem_cons, List.not_mem_nil, or_false, not_or] at ho
    rw [reg_setReg_other _ _ ho.2, reg_setReg_other _ _ ho.1]

end State

/-! ### The commands -/

section

variable {s : State}

theorem exec_dieStepReport {d : Nat} (hd : d < 4) (hh : s.dt.hold = none) : exec (.dieStepReport d) s = .next (s.dieReport d) := by
  simp [exec, execDieStepReport, hd, s.closeWindow_idle hh]

theorem exec_stepSyncPulse : exec .stepSyncPulse s = .next s.pulse := rfl

theorem exec_syncHoldDeadline : exec .syncHoldDeadline s = .next s.closeWindow := rfl

theorem exec_stepBoundary : exec .stepBoundary s = .next s.boundary := rfl

theorem exec_stepMarkFall : exec .stepMarkFall s = .next (if s.dt.mark = true ∧ s.dt.markAt + 64 ≤ s.clk then
    s.dtUpd fun d => { d with mark := false, markAt := d.markAt + 64 } else s) := rfl

theorem exec_postponedBoundary_due {r : Nat} (hp : s.dt.postponed = some r) (hm : s.dt.mark = false) (hdue : s.dt.markAt + 64 ≤ s.clk) :
    exec .postponedBoundary s = .next (s.declare r (s.dt.markAt + 64)) := by
  simp [exec, execPostponedBoundary, hp, hm, hdue]

theorem exec_postponedBoundary_waits (h : s.dt.postponed = none ∨ s.dt.mark = true ∨ ¬ s.dt.markAt + 64 ≤ s.clk) :
    exec .postponedBoundary s = .next s := by
  cases hp : s.dt.postponed with
  | none => simp [exec, execPostponedBoundary, hp]
  | some r =>
    have hwait : ¬ (s.dt.mark = false ∧ s.dt.markAt + 64 ≤ s.clk) := by
      rintro ⟨hm, hdue⟩
      simp [hp, hm, hdue] at h
    simp [exec, execPostponedBoundary, hp, hwait]

end

/-- Settles O39: each clause is one rule of the sync state or the effect of one of its commands. -/
theorem stepsEndAtBoundaries : Obligations.StepsEndAtBoundaries := by
  intro s
  refine ⟨?closed, ?cut, ?report, ?busy, s.readyPoint_off, s.readyPoint_hold, fun p hs hl hp => s.readyPoint_match hs hl hp,
    ?declare, ?held, ?idle, ?waits, ?boundary, ?mark⟩
  case closed => exact fun h => congrArg _ (s.cut_of_closed h)
  case cut => exact fun ha hc => ⟨_, rfl, s.cut_of_open ha hc⟩
  case report =>
    intro d hd hh ha hb hdecl hp hr
    exact (exec_dieStepReport hd hh).trans (congrArg _ (s.dieReport_first hh ha hb hdecl hp hr))
  case busy =>
    intro d hd hh hb
    rw [exec_dieStepReport hd hh, s.dieReport_busy hb]
  case declare => exact fun r x => ⟨fun hm => s.declare_postponed hm r x, fun hm hx => ⟨_, s.declare_now hm hx r, s.declared_effect r x⟩⟩
  case held =>
    intro r d hh
    rw [exec_syncHoldDeadline, exec_stepSyncPulse]
    refine ⟨fun hd => ⟨congrArg _ (s.closeWindow_open hh hd), fun hs ha => ?_⟩, fun hd => congrArg _ (s.closeWindow_due hh hd)⟩
    refine ⟨s.sampled, ?_, s.regsOnly_setReg64 ..⟩
    rw [State.pulse_matches (s.closeWindow_open hh hd) hs ha hh]
  case idle =>
    intro hh
    have hw := s.closeWindow_idle hh
    rw [exec_syncHoldDeadline, exec_stepSyncPulse]
    refine ⟨congrArg _ hw, fun h => ⟨_, congrArg _ (s.pulse_idle hw h), s.ignoredPulse_effect⟩, fun hs ha hl => ?_⟩
    exact ⟨_, congrArg _ (State.pulse_latches hw hs ha hh hl), rfl⟩
  case waits => exact fun h => exec_stepBoundary.trans (congrArg _ (s.boundary_waits h))
  case boundary => exact fun hd hb => ⟨s.endEpoch, exec_stepBoundary.trans (congrArg _ (s.boundary_declared hd hb)), s.endEpoch_effect⟩
  case mark =>
    rw [exec_stepMarkFall]
    refine ⟨fun hm hdue => congrArg _ (if_pos ⟨hm, hdue⟩), fun h => congrArg _ (if_neg ?_),
      fun r hp hm hdue => exec_postponedBoundary_due hp hm hdue, exec_postponedBoundary_waits⟩
    rintro ⟨hm, hdue⟩
    simp [hm, hdue] at h

end Sys2Proof.Machine
end

section
/-! SUPPORT. Codes of a floating-point layout and their values (R45), conversion between them (R49, R50), and the statements about it. -/

namespace Sys2Proof.Machine

namespace Layout

variable {L : Layout} {neg sat : Bool} {c x : Nat} {v : FVal}

/-! ### Codes and their signs -/

theorem signBit_pos (L : Layout) : 0 < L.signBit := Nat.two_pow_pos _

/-- The infinity's code leaves the mantissa bits zero, so the sign bit stands above it. -/
theorem infCode_lt_signBit (L : Layout) : L.infCode < L.signBit := by
  rw [infCode, signBit, Nat.pow_add]
  exact Nat.mul_lt_mul_of_pos_right (Nat.sub_one_lt (Nat.ne_of_gt (Nat.two_pow_pos _))) (Nat.two_pow_pos _)

theorem maxCode_lt_signBit (L : Layout) : L.maxCode < L.signBit := by
  have hpos := L.signBit_pos
  have hinf := L.infCode_lt_signBit
  unfold maxCode
  unfold signBit at *
  split <;> omega

/-- Between the largest finite value and the infinity stands no code. -/
theorem infCode_eq_maxCode_succ (hk : L.kind = .ieee) (he : 0 < L.eb) : L.infCode = L.maxCode + 1 := by
  have hone : 1 < 2 ^ L.eb := Nat.one_lt_two_pow (Nat.ne_of_gt he)
  have hpos : 0 < L.infCode := Nat.mul_pos (Nat.sub_pos_of_lt hone) (Nat.two_pow_pos _)
  have hmax : L.maxCode = L.infCode - 1 := by simp [maxCode, hk]
  omega

/-- A magnitude code under its sign. -/
def signedCode (L : Layout) (neg : Bool) (c : Nat) : Nat := (if neg then L.signBit else 0) + c

theorem signedCode_mod (hc : c < L.signBit) : L.signedCode neg c % L.signBit = c := by
  cases neg <;> simp [signedCode, Nat.mod_eq_of_lt hc]

theorem signedCode_div (hc : c < L.signBit) : (L.signedCode neg c / L.signBit % 2 == 1) = neg := by
  cases neg <;> simp [signedCode, Nat.div_eq_of_lt hc, Nat.add_div_left _ L.signBit_pos]

theorem exists_signedCode (hx : x < 2 * L.signBit) : ∃ (neg : Bool) (c : Nat), c < L.signBit ∧ x = L.signedCode neg c := by
  by_cases h : x < L.signBit
  · exact ⟨false, x, h, (Nat.zero_add x).symm⟩
  · exact ⟨true, x - L.signBit, by omega, (Nat.add_sub_cancel' (Nat.le_of_not_lt h)).symm⟩

/-! ### Decoding -/

theorem decode_signedCode (hc : c < L.signBit) : L.decode (L.signedCode neg c) =
    if c ≤ L.maxCode then .fin neg (L.magnitude c).1 (L.magnitude c).2
    else if L.kind == .ieee && c == L.infCode then .inf neg else .nan := by
  rw [decode, signedCode_div hc, signedCode_mod hc]

theorem decode_finite (hc : c ≤ L.maxCode) :
    L.decode (L.signedCode neg c) = .fin neg (L.magnitude c).1 (L.magnitude c).2 := by
  rw [decode_signedCode (Nat.lt_of_le_of_lt hc L.maxCode_lt_signBit), if_pos hc]

theorem decode_infCode (hk : L.kind = .ieee) (he : 0 < L.eb) : L.decode (L.signedCode neg L.infCode) = .inf neg := by
  have hlt : ¬ L.infCode ≤ L.maxCode := by rw [infCode_eq_maxCode_succ hk he]; omega
  rw [decode_signedCode L.infCode_lt_signBit, if_neg hlt, if_pos (by simp [hk])]

/-! ### Rounding a value that a code represents -/

theorem magnitude_subnormal (hc : c < 2 ^ L.mb) : L.magnitude c = (c, L.qmin) := if_pos hc

theorem magnitude_normal (hc : ¬ c < 2 ^ L.mb) : L.magnitude c = (c % 2 ^ L.mb + 2 ^ L.mb, L.qmin + (c / 2 ^ L.mb : Nat) - 1) := if_neg hc

theorem flog2_one {m : Nat} (hm : m ≠ 0) : flog2 m 1 = m.log2 := by
  have h : 2 ^ m.log2 ≤ m := (Nat.le_log2 hm).mp (Nat.le_refl _)
  have hlog : Nat.log2 1 = 0 := by decide
  simp [flog2, hlog, h]

theorem rne_one (m : Nat) : rne m 1 = m := by
  have h : m % 1 = 0 := Nat.mod_one m
  simp [rne, h]

/-- A value m · 2^e whose last place is e is rounded to its own code. -/
theorem roundCode_of_quantum {m : Nat} {e : Int} (h : L.quantum m 1 e = e) : L.roundCode m 1 e = L.codeOf m e := by
  simp [roundCode, h, scale2, rne_one]

/-- The value of a code has the code's own last place: below the normals the smallest subnormal's, else mb places below its leading bit. -/
theorem quantum_magnitude (L : Layout) (c : Nat) : L.quantum (L.magnitude c).1 1 (L.magnitude c).2 = (L.magnitude c).2 := by
  by_cases hc : c < 2 ^ L.mb
  · rw [magnitude_subnormal hc]
    show L.quantum c 1 L.qmin = L.qmin
    by_cases hne : c = 0
    · rw [quantum, if_pos hne]
    · have hlog : c.log2 < L.mb := (Nat.log2_lt hne).mpr hc
      rw [quantum, if_neg hne, flog2_one hne]
      omega
  · have hdiv : 1 ≤ c / 2 ^ L.mb := (Nat.one_le_div_iff (Nat.two_pow_pos _)).mpr (Nat.le_of_not_lt hc)
    have hmod : c % 2 ^ L.mb < 2 ^ L.mb := Nat.mod_lt _ (Nat.two_pow_pos _)
    have hne : c % 2 ^ L.mb + 2 ^ L.mb ≠ 0 := by omega
    have hlog : (c % 2 ^ L.mb + 2 ^ L.mb).log2 = L.mb := (Nat.log2_eq_iff hne).mpr ⟨by omega, by rw [Nat.pow_succ]; omega⟩
    rw [magnitude_normal hc, quantum, if_neg hne, flog2_one hne, hlog]
    omega

theorem codeOf_magnitude (L : Layout) (c : Nat) : L.codeOf (L.magnitude c).1 (L.magnitude c).2 = c := by
  by_cases hc : c < 2 ^ L.mb
  · simp [magnitude_subnormal hc, codeOf]
  · have hdiv : 1 ≤ c / 2 ^ L.mb := (Nat.one_le_div_iff (Nat.two_pow_pos _)).mpr (Nat.le_of_not_lt hc)
    have hplaces : (L.qmin + (c / 2 ^ L.mb : Nat) - 1 - L.qmin).toNat + 1 = c / 2 ^ L.mb := by omega
    rw [magnitude_normal hc, codeOf]
    calc (L.qmin + (c / 2 ^ L.mb : Nat) - 1 - L.qmin).toNat * 2 ^ L.mb + (c % 2 ^ L.mb + 2 ^ L.mb)
      _ = ((L.qmin + (c / 2 ^ L.mb : Nat) - 1 - L.qmin).toNat + 1) * 2 ^ L.mb + c % 2 ^ L.mb := by
        rw [Nat.succ_mul]
        omega
      _ = c / 2 ^ L.mb * 2 ^ L.mb + c % 2 ^ L.mb := by rw [hplaces]
      _ = c := Nat.div_add_mod' c _

theorem roundCode_magnitude (L : Layout) (c : Nat) : L.roundCode (L.magnitude c).1 1 (L.magnitude c).2 = c := by
  rw [roundCode_of_quantum (L.quantum_magnitude c), L.codeOf_magnitude c]

/-! ### Conversion (R49, R50) -/

theorem finish_finite (hc : c ≤ L.maxCode) (nonzero : Bool) :
    L.finish sat neg c nonzero = (L.signedCode neg c, .when (nonzero && c == 0) .underflow) := if_neg (Nat.not_lt.mpr hc)

theorem finish_saturates (hc : L.maxCode < c) (nonzero : Bool) :
    L.finish true neg c nonzero = (L.signedCode neg L.maxCode, .saturated) := if_pos hc

theorem finish_overflows (hk : L.kind ≠ .e4m3) (hc : L.maxCode < c) (nonzero : Bool) :
    L.finish false neg c nonzero = (L.signedCode neg L.infCode, .overflow) := by
  rw [finish, if_pos hc, if_neg Bool.false_ne_true]
  split
  · next h => exact absurd h hk
  · rfl

theorem finish_overflows_e4m3 (hk : L.kind = .e4m3) (hc : L.maxCode < c) (nonzero : Bool) :
    L.finish false neg c nonzero = (L.nanCode, Arith.overflow.add .nanOut) := by
  simp [finish, hc, hk]

theorem convert_inf (hk : L.kind ≠ .e4m3) : L.convert sat (.inf neg) = (L.signedCode neg L.infCode, .none) := by
  rw [convert]
  split
  · next h => exact absurd h hk
  · rfl

theorem convert_inf_e4m3 (hk : L.kind = .e4m3) : L.convert sat (.inf neg) =
    if sat then (L.signedCode neg L.maxCode, .saturated) else (L.nanCode, Arith.invalid.add .nanOut) := by
  simp [convert, hk, signedCode]

theorem kind_ieee (hk : L.kind ≠ .finite) (h4 : L.kind ≠ .e4m3) : L.kind = .ieee := by
  cases h : L.kind with
  | finite => exact absurd h hk
  | ieee => rfl
  | e4m3 => exact absurd h h4

/-- What a conversion can give where the layout has a NaN: the canonical NaN, a finite code under its sign, or an infinity. -/
theorem convert_cases (hk : L.kind ≠ .finite) (sat : Bool) (v : FVal) : (L.convert sat v).1 = L.nanCode ∨
    (∃ (neg : Bool) (c : Nat), c ≤ L.maxCode ∧ (L.convert sat v).1 = L.signedCode neg c) ∨
    (L.kind = .ieee ∧ ∃ neg : Bool, (L.convert sat v).1 = L.signedCode neg L.infCode) := by
  cases v with
  | nan => exact .inl rfl
  | inf neg =>
    by_cases h4 : L.kind = .e4m3
    · rw [convert_inf_e4m3 h4]
      cases sat
      · exact .inl rfl
      · exact .inr (.inl ⟨neg, L.maxCode, Nat.le_refl _, rfl⟩)
    · exact .inr (.inr ⟨kind_ieee hk h4, neg, by rw [convert_inf h4]⟩)
  | fin neg m e =>
    rw [convert]
    by_cases hc : L.roundCode m 1 e ≤ L.maxCode
    · exact .inr (.inl ⟨neg, _, hc, by rw [finish_finite hc]⟩)
    · have hover := Nat.lt_of_not_le hc
      cases sat with
      | true => exact .inr (.inl ⟨neg, L.maxCode, Nat.le_refl _, by rw [finish_saturates hover]⟩)
      | false =>
        by_cases h4 : L.kind = .e4m3
        · exact .inl (by rw [finish_overflows_e4m3 h4 hover])
        · exact .inr (.inr ⟨kind_ieee hk h4, neg, by rw [finish_overflows h4 hover]⟩)

theorem convert_nan_canonical (hk : L.kind ≠ .finite) (he : 0 < L.eb) (h : L.decode (L.convert sat v).1 = .nan) :
    (L.convert sat v).1 = L.nanCode := by
  obtain hnan | ⟨neg, c, hc, hfin⟩ | ⟨hieee, neg, hinf⟩ := convert_cases hk sat v
  · exact hnan
  · simp [hfin, decode_finite hc] at h
  · simp [hinf, decode_infCode hieee he] at h

theorem convert_magnitude (hc : c ≤ L.maxCode) :
    L.convert sat (.fin neg (L.magnitude c).1 (L.magnitude c).2) = (L.signedCode neg c, .none) := by
  have hzero : ((L.magnitude c).1 != 0 && c == 0) = false := by
    by_cases h : c = 0
    · subst h
      rw [magnitude_subnormal (Nat.two_pow_pos _)]
      rfl
    · simp [h]
  rw [convert, roundCode_magnitude, finish_finite hc, hzero]
  rfl

/-- Every code with a value other than NaN is what that value converts to. -/
theorem convert_decode (hx : x < 2 * L.signBit) (h : L.decode x ≠ .nan) : L.convert sat (L.decode x) = (x, .none) := by
  obtain ⟨neg, c, hc, rfl⟩ := exists_signedCode hx
  rw [decode_signedCode hc] at h ⊢
  by_cases hfin : c ≤ L.maxCode
  · rw [if_pos hfin, convert_magnitude hfin]
  · rw [if_neg hfin] at h ⊢
    by_cases hinf : (L.kind == .ieee && c == L.infCode) = true
    · obtain ⟨hk, rfl⟩ : L.kind = .ieee ∧ c = L.infCode := by simpa using hinf
      rw [if_pos hinf, convert_inf (by simp [hk])]
    · exact absurd (if_neg hinf) h

end Layout

/-! ### The scalar formats (R45) -/

theorem Fmt.scalar_kind_ne_finite (f : Fmt) : f.scalar.kind ≠ .finite := by cases f <;> decide

theorem Fmt.scalar_kind_e4m3 (f : Fmt) : f.scalar.kind = .e4m3 ↔ f = .e4m3 := by cases f <;> decide

theorem Fmt.scalar_eb_pos (f : Fmt) : 0 < f.scalar.eb := by cases f <;> decide

/-- The codes of a scalar format are its magnitudes under either sign. -/
theorem Fmt.two_pow_bits : ∀ f ∈ [Fmt.fp32, .bf16, .fp16, .e4m3, .e5m2], 2 ^ f.bits = 2 * f.scalar.signBit := by decide

/-! ### The statements about conversion -/

/-- Settles O46: a conversion gives the canonical NaN, a finite code or an infinity, and only the first decodes to NaN. -/
theorem nansAreCanonical : Obligations.NansAreCanonical := by
  intro x hx sat v
  have hcode : x.1.scalar.nanCode = x.2 := by
    revert x
    decide
  exact ⟨hcode, fun h => (Layout.convert_nan_canonical x.1.scalar_kind_ne_finite x.1.scalar_eb_pos h).trans hcode⟩

/-- Settles O47: rounding the value of a code gives the code back, and an infinity converts to its own. -/
theorem representableValuesConvertExactly : Obligations.RepresentableValuesConvertExactly := by
  intro f hf sat x hx h
  exact Layout.convert_decode (Fmt.two_pow_bits f hf ▸ hx) h

/-- Settles O48: a code beyond the largest finite one is finished as SAT and the layout's kind say. -/
theorem overflowFollowsSat : Obligations.OverflowFollowsSat := by
  intro f hf neg m e hover
  refine ⟨Layout.finish_saturates hover _, fun hne => ?_, fun heq => ?_⟩
  · exact Layout.finish_overflows (mt f.scalar_kind_e4m3.mp hne) hover _
  · subst heq
    rw [Layout.convert, Layout.finish_overflows_e4m3 rfl hover]
    exact ⟨rfl, rfl⟩

end Sys2Proof.Machine
end

section
/-! SUPPORT. Minimum, maximum and comparisons of the vector lanes (R58), and the statement about them. -/

namespace Sys2Proof.Machine

namespace FVal

/-! ### Minimum and maximum -/

@[simp] theorem max_nan_left (a : FVal) : max .nan a = .nan := rfl
@[simp] theorem max_nan_right (a : FVal) : max a .nan = .nan := by simp [max, isNan]
@[simp] theorem min_nan_left (a : FVal) : min .nan a = .nan := rfl
@[simp] theorem min_nan_right (a : FVal) : min a .nan = .nan := by simp [min, isNan]

/-- Of two zeros the greater is the second if the first is −0, else the first. -/
theorem max_zeros (s t : Bool) (e f : Int) : max (.fin s 0 e) (.fin t 0 f) = if s then .fin t 0 f else .fin s 0 e := rfl

theorem min_zeros (s t : Bool) (e f : Int) : min (.fin s 0 e) (.fin t 0 f) = if s then .fin s 0 e else .fin t 0 f := rfl

/-! ### Comparisons -/

@[simp] theorem ge_nan_left (b : FVal) : ge .nan b = false := rfl
@[simp] theorem ge_nan_right (a : FVal) : ge a .nan = false := by simp [ge, isNan]

theorem signed_zero (s : Bool) : signed s 0 = 0 := by cases s <;> rfl

/-- Zeros of either sign are equal. -/
theorem ge_zeros (s t : Bool) (e f : Int) : ge (.fin s 0 e) (.fin t 0 f) = true := by
  simp [ge, lt, isNan, signed_zero]

theorem ge_same_exponent (m n : Nat) (e : Int) : ge (.fin false m e) (.fin false n e) = decide (n ≤ m) := by
  simp [ge, lt, isNan, signed, ← decide_not]

/-! ### The operations CMPGE and SELGE (R94) -/

theorem vecElem_cmpge (imm a b c : FVal) : vecElem 0x08 imm a b c = (if a.ge b then .one else .zero, .none) := rfl

theorem vecElem_selge (imm a b c : FVal) : vecElem 0x09 imm a b c = (if a.ge .zero then b else c, .none) := rfl

end FVal

/-- Settles O49: each clause is what max, min and ≥ give for a NaN, for zeros or for two values of one exponent. -/
theorem minMaxAndComparisons : Obligations.MinMaxAndComparisons := by
  refine ⟨fun a => ⟨FVal.max_nan_left a, FVal.max_nan_right a, FVal.min_nan_left a, FVal.min_nan_right a⟩, fun e f => ?zeros,
    fun a b imm => ?nans, fun e n b c imm => ?selge, fun m n e imm => ?cmpge⟩
  case zeros => simp [FVal.max_zeros, FVal.min_zeros]
  case nans => simp [FVal.vecElem_cmpge, FVal.vecElem_selge]
  case selge => rw [FVal.vecElem_selge, FVal.zero, FVal.ge_zeros, if_pos rfl]
  case cmpge => simp [FVal.vecElem_cmpge, FVal.ge_same_exponent]

end Sys2Proof.Machine
end

section
/-! SUPPORT. The window of a matrix tile as sums and maxima over its K-blocks (R53–R55), and the statement that it has no order. -/

namespace Sys2Proof.Machine

/-! ### Largest exponents -/

/-- The larger of two exponents, where either is there. -/
def larger : Option Int → Option Int → Option Int
  | none, x => x
  | some y, none => some y
  | some y, some x => some (if y < x then x else y)

theorem larger_right_comm (a x y : Option Int) : larger (larger a x) y = larger (larger a y) x := by
  cases a <;> cases x <;> cases y <;> simp only [larger, Option.some.injEq] <;> omega

theorem foldl_larger_perm {α : Type} (f : α → Option Int) (a : Option Int) {xs ys : List α} (h : xs.Perm ys) :
    xs.foldl (fun b v => larger b (f v)) a = ys.foldl (fun b v => larger b (f v)) a :=
  h.foldl_eq' (fun _ _ _ _ _ => larger_right_comm _ _ _) a

theorem maxExpo_eq (l : List FVal) : maxExpo l = l.foldl (fun a v => larger a v.expo) none := rfl

theorem maxExpo_perm {xs ys : List FVal} (h : xs.Perm ys) : maxExpo xs = maxExpo ys := foldl_larger_perm FVal.expo none h

/-! ### Sums of units -/

theorem sum_perm {xs ys : List Int} (h : xs.Perm ys) : xs.sum = ys.sum := by
  induction h with
  | nil => rfl
  | cons x _ ih => rw [List.sum_cons, List.sum_cons, ih]
  | swap x y l =>
    simp only [List.sum_cons]
    omega
  | trans _ _ ih₁ ih₂ => exact ih₁.trans ih₂

theorem sumUnits_perm (q : Int) {xs ys : List FVal} (h : xs.Perm ys) : sumUnits q xs = sumUnits q ys := sum_perm (h.map _)

/-! ### The FP8-class window (R53, R54) -/

/-- The anchor A: the largest scale sum of the blocks. -/
def anchor (ps : List (Int × List FVal)) : Int := ps.foldl (fun (m : Int) p => if m < p.1 then p.1 else m) (ps.headD (0, [])).1

/-- A product scaled by 2^s. -/
def scaled (s : Int) : FVal → FVal
  | .fin neg m e => .fin neg m (e + s)
  | v => v

/-- The integer W of the FP8-class window. -/
def fp8Units (ps : List (Int × List FVal)) : Int := (ps.map fun p => sumUnits (anchor ps - 49) (p.2.map (scaled p.1))).sum

/-- The window's three results. The definition is unfolded as a function, and its last match split on a variable: applied to a real window,
either step would have the kernel run the rounding. -/
theorem fp8Window_eq (fa fb : Fmt) (ps : List (Int × List FVal)) : fp8Window fa fb ps =
    ((windowResult (fp8Units ps) (anchor ps - 49)).1, (windowResult (fp8Units ps) (anchor ps - 49)).2,
      ps.any fun p => 49 + fa.floorExp + fb.floorExp < anchor ps - p.1) := by
  refine (congrFun (congrFun (congrFun (?body : fp8Window = ?f) fa) fb) ps).trans ?_
  case body =>
    delta fp8Window
    exact rfl
  extract_lets top w
  have hw : windowResult w (top - 49) = windowResult (fp8Units ps) (anchor ps - 49) := rfl
  rw [hw]
  cases windowResult (fp8Units ps) (anchor ps - 49)
  rfl

theorem foldl_larger_some (m : Int) (ps : List (Int × List FVal)) : ps.foldl (fun a p => larger a (some p.1)) (some m) =
    some (ps.foldl (fun (m : Int) p => if m < p.1 then p.1 else m) m) := by
  induction ps generalizing m with
  | nil => rfl
  | cons p ps ih => exact ih _

/-- The first block's scale, with which the search starts, changes nothing: it is the first found as well. -/
theorem anchor_eq (ps : List (Int × List FVal)) : anchor ps = (ps.foldl (fun a p => larger a (some p.1)) none).getD 0 := by
  cases ps with
  | nil => rfl
  | cons p ps =>
    have hstart : anchor (p :: ps) = ps.foldl (fun (m : Int) q => if m < q.1 then q.1 else m) p.1 :=
      congrArg (fun m => ps.foldl _ m) (if_neg (Int.lt_irrefl p.1))
    rw [hstart, List.foldl_cons, larger, foldl_larger_some, Option.getD_some]

theorem anchor_perm {ps qs : List (Int × List FVal)} (h : ps.Perm qs) : anchor ps = anchor qs := by
  rw [anchor_eq, anchor_eq, foldl_larger_perm (fun p => some p.1) none h]

theorem fp8Window_perm (fa fb : Fmt) {ps qs : List (Int × List FVal)} (h : ps.Perm qs) : fp8Window fa fb ps = fp8Window fa fb qs := by
  have hunits : fp8Units ps = fp8Units qs := by
    rw [fp8Units, fp8Units, anchor_perm h]
    exact sum_perm (h.map _)
  rw [fp8Window_eq, fp8Window_eq, hunits, anchor_perm h, h.any_eq]

/-- Inside a block only the multiset of products counts: the anchor and the R54 condition come from the scales alone. -/
theorem fp8Window_block_perm (fa fb : Fmt) (k : Int) {xs ys : List FVal} (h : xs.Perm ys) :
    fp8Window fa fb [(k, xs)] = fp8Window fa fb [(k, ys)] := by
  have hanchor : anchor [(k, xs)] = anchor [(k, ys)] := rfl
  have hunits : fp8Units [(k, xs)] = fp8Units [(k, ys)] := by
    simp only [fp8Units, List.map_cons, List.map_nil, hanchor, sumUnits_perm _ (h.map (scaled k))]
  rw [fp8Window_eq, fp8Window_eq, hunits, hanchor]
  rfl

/-! ### The half-class window (R55) -/

/-- What a group adds to the half-class window under the anchor `top`; a group of zero products adds nothing. -/
def groupUnits (top : Int) (ps : List FVal) : Int :=
  match maxExpo ps with
  | none => 0
  | some g => sumUnits (max (g - 30) (top - 80)) ps * 2 ^ (max (g - 30) (top - 80) - (top - 80)).toNat

theorem halfWindow_of_none {ps : List (Int × List FVal)} (h : maxExpo (ps.map Prod.snd).flatten = none) : halfWindow ps = (.zero, .none) := by
  simp only [halfWindow, h]

theorem halfWindow_of_some {ps : List (Int × List FVal)} {top : Int} (h : maxExpo (ps.map Prod.snd).flatten = some top) :
    halfWindow ps = windowResult (ps.map fun p => groupUnits top p.2).sum (top - 80) := by
  simp only [halfWindow, h]
  rfl

theorem halfWindow_perm {ps qs : List (Int × List FVal)} (h : ps.Perm qs) : halfWindow ps = halfWindow qs := by
  have htop := maxExpo_perm (h.map Prod.snd).flatten
  cases hq : maxExpo (qs.map Prod.snd).flatten with
  | none => rw [halfWindow_of_none hq, halfWindow_of_none (htop.trans hq)]
  | some top => rw [halfWindow_of_some hq, halfWindow_of_some (htop.trans hq), sum_perm (h.map fun p => groupUnits top p.2)]

/-- Settles O50: anchors are maxima and windows are sums, and neither depends on the order of a list. -/
theorem windowSumsHaveNoOrder : Obligations.WindowSumsHaveNoOrder :=
  ⟨fun fa fb _ _ h => ⟨fp8Window_perm fa fb h, halfWindow_perm h⟩, fun q _ _ h => sumUnits_perm q h,
    fun fa fb k _ _ h => fp8Window_block_perm fa fb k h⟩

end Sys2Proof.Machine
end

section
/-! SUPPORT. Stream contexts, their runs and the tags of their transfers (R128–R134, R147, R148): fields of a context, grants, halts, descriptor queues and PEER hauls, and the statements about them. -/

namespace Sys2Proof.Machine

/-! ### Fields of a word -/

theorem bitsOf_setBits_self (x hi lo v : Nat) : bitsOf (setBits x hi lo v) hi lo = v % 2 ^ (hi + 1 - lo) := by
  have hpos : 0 < 2 ^ lo := Nat.two_pow_pos lo
  have hrest : x / 2 ^ lo - bitsOf x hi lo = 2 ^ (hi + 1 - lo) * (x / 2 ^ lo / 2 ^ (hi + 1 - lo)) :=
    Nat.sub_eq_of_eq_add (Nat.div_add_mod ..).symm
  unfold setBits
  rw [bitsOf, Nat.add_mul_div_right _ _ hpos, Nat.mul_comm (bitsOf x hi lo), Nat.sub_mul_div, hrest, Nat.mul_add_mod, Nat.mod_mod]

/-- A word of n bits keeps the fields below its width. -/
theorem bitsOf_toNat_ofNat (x : Nat) {hi lo n : Nat} (hlo : lo ≤ hi) (hn : hi < n) : bitsOf (BitVec.ofNat n x).toNat hi lo = bitsOf x hi lo := by
  rw [BitVec.toNat_ofNat]
  obtain ⟨m, rfl⟩ : ∃ m, n = lo + ((hi + 1 - lo) + m) := ⟨n - hi - 1, by omega⟩
  rw [bitsOf, bitsOf, Nat.pow_add 2 lo, Nat.mod_mul_right_div_self, Nat.mod_mod_of_dvd _ (Nat.pow_dvd_pow 2 (Nat.le_add_right ..))]

theorem bitOf_eq_bitsOf (x n : Nat) : bitOf x n = (bitsOf x n n == 1) := by
  rw [bitOf, bitsOf, Nat.add_sub_cancel_left, Nat.pow_one]

/-! ### Segments of a fill (R129) -/

/-- A segment is of the next fill, of one with a buffer, and ends where it says it does. -/
def StreamRun.fits (r : StreamRun) (fill off len : Nat) (last : Bool) : Prop :=
  fill = r.pre / r.chunk ∧ fill < r.opened ∧ off + len ≤ r.chunk ∧ last = decide (off + len = r.chunk)

theorem StreamRun.not_fits_iff (r : StreamRun) (fill off len : Nat) (last : Bool) : ¬ r.fits fill off len last ↔
    fill ≠ r.pre / r.chunk ∨ r.opened ≤ fill ∨ r.chunk < off + len ∨ last ≠ decide (off + len = r.chunk) := by
  rw [fits, Classical.not_and_iff_not_or_not, Classical.not_and_iff_not_or_not, Classical.not_and_iff_not_or_not, Nat.not_lt, Nat.not_le]

namespace State

variable (s : State)

/-! ### Contexts and runs -/

theorem sctx_setSctx_self (k v : Nat) : (s.setSctx k v).sctx k = (BitVec.ofNat 512 v).toNat :=
  congrArg BitVec.toNat (Map.getD_store_self ..)

/-- A field of a context reads as it was set (R123). -/
theorem bitsOf_sctx_setScField (k v : Nat) {hi lo : Nat} (hlo : lo ≤ hi) (hhi : hi < 512) :
    bitsOf ((s.setScField k hi lo v).sctx k) hi lo = v % 2 ^ (hi + 1 - lo) := by
  rw [setScField, sctx_setSctx_self, bitsOf_toNat_ofNat _ hlo hhi, bitsOf_setBits_self]

/-- GRANTS reads as it was set, where its 16 bits hold the number. -/
theorem scGrants_setScField (k : Nat) {v : Nat} (hv : v < 65536) : scGrants ((s.setScField k 463 448 v).sctx k) = v := by
  rw [scGrants, bitsOf_sctx_setScField _ _ _ (by decide) (by decide)]
  exact Nat.mod_eq_of_lt hv

theorem scGrants_lt (w : Nat) : scGrants w < 65536 := bitsOf_lt w 463 448

/-- A bit of a context that is cleared reads as 0. -/
theorem bitOf_sctx_cleared (k : Nat) {n : Nat} (hn : n < 512) : bitOf ((s.setScField k n n 0).sctx k) n = false := by
  rw [bitOf_eq_bitsOf, bitsOf_sctx_setScField _ _ _ (Nat.le_refl n) hn, Nat.zero_mod]
  rfl

/-- A field set in a context changes the contexts alone. Rules about what it leaves go through this one: a check that unfolds the word it sets would meet powers of two as large as the word. -/
theorem setScField_only (k hi lo v : Nat) : ∃ m, s.setScField k hi lo v = { s with tg := { s.tg with ctxs := m } } := ⟨_, rfl⟩

@[simp] theorem run?_setScField (k hi lo v j : Nat) : (s.setScField k hi lo v).run? j = s.run? j := by
  obtain ⟨m, h⟩ := s.setScField_only k hi lo v
  rw [h]
  rfl

@[simp] theorem now_setScField (k hi lo v : Nat) : (s.setScField k hi lo v).now = s.now := by
  obtain ⟨m, h⟩ := s.setScField_only k hi lo v
  rw [h]
  rfl

@[simp] theorem now_setRun (k : Nat) (r : StreamRun) : (s.setRun k r).now = s.now := rfl
@[simp] theorem reg_setRun (k : Nat) (r : StreamRun) (o : Nat) : (s.setRun k r).reg o = s.reg o := rfl

@[simp] theorem reg_setScField (k hi lo v o : Nat) : (s.setScField k hi lo v).reg o = s.reg o := by
  obtain ⟨m, h⟩ := s.setScField_only k hi lo v
  rw [h]
  rfl

@[simp] theorem run?_setRun_self (k : Nat) (r : StreamRun) : (s.setRun k r).run? k = some r := by
  rw [run?, setRun, core_updCore_self]
  exact Map.get?_put_self ..

/-- An update of a core that leaves its streams alone leaves every run alone. -/
theorem run?_updCore (c : Nat) {f : CoreState → CoreState} (hf : ∀ x, (f x).streams = x.streams) (k : Nat) : (s.updCore c f).run? k = s.run? k := by
  rw [run?, run?]
  by_cases h : k / 32 = c
  · rw [h, core_updCore_self, hf]
  · rw [core_updCore_other _ _ h]

/-- The context of core c by its number is one of core c. -/
theorem ctx_core (c : Nat) {sc : Nat} (h : sc < 32) : (32 * c + sc) / 32 = c := by omega

@[simp] theorem now_count (off n : Nat) : (s.count off n).now = s.now := by rw [count_regs_only]; rfl

/-! ### Halts, resumes and pins (R147, R148) -/

/-- A resume of a context that is not halted is discarded (R149). -/
theorem resume_none {k : Nat} (h : ∀ r, s.run? k = some r → r.halt = none) : s.resume k = s := by
  cases hk : s.run? k with
  | none => simp [resume, hk]
  | some r => simp [resume, hk, h r hk]

/-- The state in which run r of context k has resumed after NOT_RESIDENT, before its core settles: it asks again from the first byte not delivered, and its granule g is pinned. -/
def resumed (k g : Nat) (r : StreamRun) : State :=
  ((((s.setScField k 373 373 0).setRun k { r with halt := none, parts := [], asked := r.pre }).count R.TG_RESUME_LO 1).count
    R.TG_REFETCH_LO ((r.parts.map (·.2)).sum / 64)).tgUpd fun t =>
      { t with pins := t.pins ++ [⟨g, .stream k, s.now + s.reg R.TG_PIN_TIME⟩] }

/-- A haul halted by NOT_RESIDENT resumes once its granule is home and no move of it is in progress. -/
theorem resume_home {k g : Nat} {r : StreamRun} (hrun : s.run? k = some r) (hhalt : r.halt = some (0x01, g)) (hhalted : bitOf (s.sctx k) 373 = true)
    (hspill : (s.entry g).spill = false) (hpoison : (s.entry g).poison = false) (hmove : s.moveOf g = none) :
    s.resume k = (s.resumed k g r).settle (k / 32) := by
  have hhome : ¬ (!bitOf (s.sctx k) 373 || ((s.entry g).spill && (0x01 : Nat) != 0x02) || ((s.entry g).poison && s.isWeight g)
      || (s.moveOf g).isSome) = true := by simp [hhalted, hspill, hpoison, hmove]
  simp only [resume, hrun, hhalt]
  rw [if_neg hhome, if_pos trivial, now_count, now_count, reg_count_other _ _ (by decide) (by decide), reg_count_other _ _ (by decide) (by decide),
    now_setRun, now_setScField, reg_setRun, reg_setScField, resumed]

theorem resumed_effect (k g : Nat) (r : StreamRun) : let u := s.resumed k g r
    bitOf (u.sctx k) 373 = false ∧ u.run? k = some { r with halt := none, parts := [], asked := r.pre } ∧
    u.tg.pins = s.tg.pins ++ [⟨g, .stream k, s.now + s.reg R.TG_PIN_TIME⟩] ∧ s.adds u R.TG_RESUME_LO 1 ∧
    u = { s with cores := u.cores, regs := u.regs, tg := { s.tg with ctxs := u.tg.ctxs, pins := u.tg.pins } } := by
  have hbit := s.bitOf_sctx_cleared k (n := 373) (by decide)
  rw [resumed]
  obtain ⟨m, hm⟩ := s.setScField_only k 373 373 0
  rw [hm] at hbit ⊢
  generalize hv : setRun _ k _ = v
  have hrun : v.run? k = some { r with halt := none, parts := [], asked := r.pre } := hv ▸ run?_setRun_self ..
  have hcount := (v.count R.TG_RESUME_LO 1).reg64_count_away (o := R.TG_RESUME_LO) (off := R.TG_REFETCH_LO) ((r.parts.map (·.2)).sum / 64)
    (by decide) (by decide) (by decide)
  rw [reg64_count_one] at hcount
  obtain ⟨g', hw⟩ := regsOnly_iff.1 (regsOnly_trans (v.regsOnly_count R.TG_RESUME_LO 1) (regsOnly_count _ R.TG_REFETCH_LO ((r.parts.map (·.2)).sum / 64)))
  rw [hw] at hcount ⊢
  subst hv
  exact ⟨hbit, hrun, rfl, hcount, rfl⟩

/-- The state in which the pins of granule g that have stood for TG_PIN_TIME are gone. -/
def unpinned (g : Nat) : State :=
  { s with tg := { s.tg with pins := s.tg.pins.filter fun p => !(p.gran == g && decide (p.stop ≤ s.now)) } }

/-! ### Descriptor queues (R128) -/

/-- Descriptors that wait fill a queue up to 16, and the rest waits on. -/
theorem feedDescs_self {k : Nat} {q w : List (BitVec 256)} (hq : Map.getD [] s.tg.descs k = q) (hw : Map.getD [] s.tg.descWait k = w) :
    Map.getD [] (s.feedDescs k).tg.descs k = q ++ w.take (16 - q.length) ∧ Map.getD [] (s.feedDescs k).tg.descWait k = w.drop (16 - q.length) := by
  simp only [feedDescs, hq, hw]
  split
  case isTrue hnone =>
    rcases Nat.min_eq_zero_iff.1 hnone with hempty | hfull
    · simp [hq, hw, List.length_eq_zero_iff.1 hempty]
    · simp [hq, hw, hfull]
  case isFalse =>
    have htake : w.take (min w.length (16 - q.length)) = w.take (16 - q.length) := by
      rw [Nat.min_comm, ← List.take_take, List.take_length]
    refine ⟨(Map.getD_put_self ..).trans (congrArg _ htake), ?_⟩
    simp only [tgUpd_tg]
    split
    case isTrue hall => rw [Map.getD_del_self, List.drop_of_length_le (by omega)]
    case isFalse hmore => rw [Map.getD_put_self, Nat.min_eq_right (by omega)]

theorem feedDescs_other {k j : Nat} (h : j ≠ k) :
    Map.getD [] (s.feedDescs k).tg.descs j = Map.getD [] s.tg.descs j ∧ Map.getD [] (s.feedDescs k).tg.descWait j = Map.getD [] s.tg.descWait j := by
  simp only [feedDescs]
  split
  · exact ⟨rfl, rfl⟩
  · refine ⟨Map.getD_put_other _ _ _ h, ?_⟩
    simp only [tgUpd_tg]
    split
    · exact Map.getD_del_other _ _ h
    · exact Map.getD_put_other _ _ _ h

theorem feedDescs_only (k : Nat) :
    s.feedDescs k = { s with tg := { s.tg with descs := (s.feedDescs k).tg.descs, descWait := (s.feedDescs k).tg.descWait } } := by
  simp only [feedDescs]
  split <;> rfl

/-- A context's descriptors in order: those in its queue, then those that wait for room. -/
def descList (k : Nat) : List (BitVec 256) := Map.getD [] s.tg.descs k ++ Map.getD [] s.tg.descWait k

/-- A descriptor stands behind those of its context, and the queue takes what it has room for. -/
theorem pushDesc_effect (k : Nat) (d : BitVec 256) (hq : (Map.getD [] s.tg.descs k).length ≤ 16) : let u := s.pushDescs k [d]
    u.descList k = s.descList k ++ [d] ∧ (Map.getD [] u.tg.descs k).length = min 16 (u.descList k).length ∧
    (∀ j, j ≠ k → u.descList j = s.descList j) ∧ u = { s with tg := { s.tg with descs := u.tg.descs, descWait := u.tg.descWait } } := by
  let v := s.tgUpd fun g => { g with descWait := g.descWait.put k (Map.getD [] g.descWait k ++ [d]) }
  have hwait : Map.getD [] v.tg.descWait k = Map.getD [] s.tg.descWait k ++ [d] := Map.getD_put_self ..
  have hother : ∀ j, j ≠ k → Map.getD [] v.tg.descWait j = Map.getD [] s.tg.descWait j := fun j hj => Map.getD_put_other _ _ _ hj
  have hu : s.pushDescs k [d] = v.feedDescs k := if_neg (List.cons_ne_nil _ _)
  obtain ⟨hdescs, hrest⟩ := v.feedDescs_self (k := k) rfl hwait
  have hall : (v.feedDescs k).descList k = s.descList k ++ [d] := by
    rw [descList, hdescs, hrest, List.append_assoc, List.take_append_drop, descList, List.append_assoc]
    rfl
  rw [hu]
  refine ⟨hall, ?_, fun j hj => ?_, ?_⟩
  · rw [hall, hdescs, descList]
    simp only [List.length_append, List.length_take, List.length_singleton]
    change (Map.getD [] s.tg.descs k).length + min (16 - (Map.getD [] s.tg.descs k).length) _ = _
    omega
  · rw [descList, (v.feedDescs_other hj).1, (v.feedDescs_other hj).2, hother j hj]
    rfl
  · exact v.feedDescs_only k

/-! ### Messages taken from the inbox -/

theorem takeMsg_heard (mtype : Nat) (p : Msg → Bool) : s.heard (s.takeMsg mtype p) := by
  unfold heard takeMsg
  split <;> rfl

theorem heard_iff {s t : State} : s.heard t ↔ ∃ l, t = { s with cu := { s.cu with inbox := l } } :=
  ⟨fun h => ⟨_, h⟩, by rintro ⟨l, rfl⟩; rfl⟩

theorem run?_heard {s t : State} (h : s.heard t) (k : Nat) : t.run? k = s.run? k := by rw [h]; rfl
theorem sctx_heard {s t : State} (h : s.heard t) (k : Nat) : t.sctx k = s.sctx k := by rw [h]; rfl
theorem now_heard {s t : State} (h : s.heard t) : t.now = s.now := by rw [h]; rfl

/-! ### PEER hauls (R129, R130) -/

/-- The state in which a grant has come for run r of context k: GRANTS counts it, and the limit of R130 runs. -/
def granted (k : Nat) (r : StreamRun) : State :=
  (s.setScField k 463 448 (scGrants (s.sctx k) + 1)).setRun k { r with moved := if r.moved.isSome then r.moved else some s.now }

theorem granted_effect (k : Nat) (r : StreamRun) (h : scGrants (s.sctx k) < 65535) : let u := s.granted k r
    scGrants (u.sctx k) = scGrants (s.sctx k) + 1 ∧ u.run? k = some { r with moved := if r.moved.isSome then r.moved else some s.now } ∧
    u = { s with cores := u.cores, tg := { s.tg with ctxs := u.tg.ctxs } } := by
  have hgrants := s.scGrants_setScField k (v := scGrants (s.sctx k) + 1) (Nat.succ_lt_succ h)
  rw [granted]
  obtain ⟨m, hm⟩ := s.setScField_only k 463 448 (scGrants (s.sctx k) + 1)
  rw [hm] at hgrants ⊢
  exact ⟨hgrants, run?_setRun_self .., rfl⟩

/-- The state in which a segment has come for run r of context k: the run has made progress, and the last one of a fill uses its grant. -/
def segmentTaken (k : Nat) (r : StreamRun) (last : Bool) : State :=
  let t := s.setRun k { r with moved := some s.now }
  if last then t.setScField k 463 448 (scGrants (t.sctx k) - 1) else t

theorem segmentTaken_effect (k : Nat) (r : StreamRun) (last : Bool) : let u := s.segmentTaken k r last
    u.run? k = some { r with moved := some s.now } ∧ scGrants (u.sctx k) = scGrants (s.sctx k) - (if last then 1 else 0) ∧
    u = { s with cores := u.cores, tg := { s.tg with ctxs := u.tg.ctxs } } := by
  let t := s.setRun k { r with moved := some s.now }
  have hrun : t.run? k = some { r with moved := some s.now } := run?_setRun_self ..
  cases last with
  | false => exact ⟨hrun, rfl, rfl⟩
  | true =>
    have hgrants := t.scGrants_setScField k (v := scGrants (t.sctx k) - 1) (Nat.lt_of_le_of_lt (Nat.sub_le ..) (scGrants_lt _))
    rw [segmentTaken, if_pos rfl]
    obtain ⟨m, hm⟩ := t.setScField_only k 463 448 (scGrants (t.sctx k) - 1)
    rw [hm] at hgrants ⊢
    exact ⟨hrun, hgrants, rfl⟩

/-- What a command changes after it has taken its message. -/
theorem frame_heard {s t u : State} (ht : s.heard t) (hu : u = { t with cores := u.cores, tg := { t.tg with ctxs := u.tg.ctxs } }) :
    u = { s with cores := u.cores, tg := { s.tg with ctxs := u.tg.ctxs }, cu := { s.cu with inbox := u.cu.inbox } } := by
  obtain ⟨l, rfl⟩ := heard_iff.1 ht
  rw [hu]

/-! ### Tags (R131, R134, R152) -/

theorem markTags_regsOnly (c : TagClass) (n : Nat) : s.regsOnly (s.markTags c n) := by
  unfold markTags
  split <;> rfl

/-- A high-water mark changes none but the registers of R152. -/
theorem markTags_keeps (c : TagClass) (n : Nat) : s.keeps (s.markTags c n) [R.TG_HWM_READ, R.TG_HWM_WRITE, R.TG_HWM_REMOTE] := by
  intro o ho
  have hne : o ≠ hwmReg c := fun h => ho (h ▸ by cases c <;> decide)
  unfold markTags
  split
  · exact reg_setReg_other _ _ hne
  · rfl

theorem mem_yieldPlace {p : TagReq} (h : p ∈ s.yieldPlace.tg.reqs) : p ∈ s.tg.reqs :=
  (List.mem_append.1 h).elim (fun h => (List.mem_filter.1 h).1) fun h => (List.mem_filter.1 h).1

/-- The request that a tag goes to keeps what it still asks for; every other one stays. -/
theorem mem_split_request {l : List TagReq} {p q : TagReq} {n : Nat}
    (h : p ∈ l.flatMap fun x => if x = q then (if q.off + n < q.stop then [{ q with off := q.off + n }] else []) else [x]) :
    p ∈ l ∨ p = { q with off := q.off + n } := by
  obtain ⟨x, hx, hp⟩ := List.mem_flatMap.1 h
  split at hp
  · split at hp
    · exact .inr (List.mem_singleton.1 hp)
    · cases hp
  · exact .inl (List.mem_singleton.1 hp ▸ hx)

/-- The state in which a transfer holds its tag, before the high-water mark of its class is set. -/
def tagged (q : TagReq) (a n : Nat) : State :=
  s.tgUpd fun t => { t with
    reqs := t.reqs.flatMap fun x => if x = q then (if q.off + n < q.stop then [{ q with off := q.off + n }] else []) else [x]
    xfers := t.xfers ++ [⟨t.nextId, q.cls, q.owner, q.off, n, a, isHost q, none⟩]
    nextId := t.nextId + 1 }

theorem takeTag_eq (q : TagReq) (a n : Nat) :
    s.takeTag q a n = (s.tagged q a n).markTags q.cls ((s.tagged q a n).inUse q.cls) := rfl

/-- A tag taken is one transfer more under the next number, and the mark of its class. -/
theorem takeTag_effect (q : TagReq) (a n : Nat) : let t := s.takeTag q a n
    t.tg.xfers = s.tg.xfers ++ [⟨s.tg.nextId, q.cls, q.owner, q.off, n, a, isHost q, none⟩] ∧ t.tg.nextId = s.tg.nextId + 1 ∧
    (∀ p ∈ t.tg.reqs, p ∈ s.tg.reqs ∨ p = { q with off := q.off + n }) ∧
    t = { s with regs := t.regs, tg := { s.tg with reqs := t.tg.reqs, xfers := t.tg.xfers, nextId := t.tg.nextId } } ∧
    s.keeps t [R.TG_HWM_READ, R.TG_HWM_WRITE, R.TG_HWM_REMOTE] := by
  let u := s.tagged q a n
  have hkeeps := u.markTags_keeps q.cls (u.inUse q.cls)
  obtain ⟨g, ht⟩ := regsOnly_iff.1 (u.markTags_regsOnly q.cls (u.inUse q.cls))
  rw [takeTag_eq]
  rw [ht] at hkeeps ⊢
  exact ⟨rfl, rfl, fun p hp => mem_split_request hp, rfl, hkeeps⟩

/-- No tag is granted from a full pool, or where every request of the class must wait. -/
theorem grant_waits {cls : TagClass} (h : s.poolSize cls ≤ s.inUse cls ∨ ∀ q ∈ s.tg.reqs, q.cls = cls → s.grantable q = false) :
    s.grant cls = s := by
  unfold grant
  split
  case isTrue => rfl
  case isFalse hopen =>
    have hblocked := h.resolve_left fun hfull => hopen (.inr hfull)
    have hnone : s.tg.reqs.find? (fun q => q.cls == cls && s.grantable q) = none :=
      List.find?_eq_none.2 fun q hq => by simpa using hblocked q hq
    rw [hnone]

/-- The first request of a class that may go stands behind requests that may not. -/
theorem find?_grantable {cls : TagClass} {l before after : List TagReq} {q : TagReq} (hl : l = before ++ q :: after)
    (hbefore : ∀ p ∈ before, p.cls = cls → s.grantable p = false) (hcls : q.cls = cls) (hq : s.grantable q = true) :
    l.find? (fun q => q.cls == cls && s.grantable q) = some q := by
  refine List.find?_eq_some_iff_append.2 ⟨by simp [hcls, hq], before, after, hl, fun p hp => ?_⟩
  by_cases hp' : p.cls = cls
  · simp [hbefore p hp hp']
  · simp [hp']

/-- A stream's transfer to device memory that may go and is translated takes its tag. -/
theorem grant_stream {cls : TagClass} {q : TagReq} {k a n : Nat} {r : StreamRun} (hrun : s.pw.stopped = false)
    (hpool : s.inUse cls < s.poolSize cls) (hfind : s.tg.reqs.find? (fun q => q.cls == cls && s.grantable q) = some q)
    (howner : q.owner = .stream k) (hnext : s.nextXfer q = some (a, n)) (hk : s.run? k = some r) (hspace : scSpace (s.sctx k) ≠ 4)
    (hgo : s.translate (granOf a) (scPolder (s.sctx k)) (r.mode == 1) = .go) : s.grant cls = s.yieldPlace.takeTag q a n := by
  have hnext' : s.yieldPlace.nextXfer q = some (a, n) := hnext
  have hk' : s.yieldPlace.run? k = some r := hk
  have hspace' : scSpace (s.yieldPlace.sctx k) ≠ 4 := hspace
  have hgo' : s.yieldPlace.translate (granOf a) (scPolder (s.yieldPlace.sctx k)) (r.mode == 1) = .go := hgo
  simp only [grant, hrun, Nat.not_le.2 hpool, hfind, howner, hnext', hk', hspace', hgo', or_self, if_false, Bool.false_eq_true]

end State

/-! ### The commands -/

theorem exec_tagGrant (cls : TagClass) (s : State) : exec (.tagGrant cls) s = .next (s.grant cls) := rfl

/-- Settles O20: the grant goes to the first request of its class that may go, whose tag is the next one. -/
theorem tagsAreGrantedInOrder : Obligations.TagsAreGrantedInOrder := by
  intro s cls
  refine ⟨fun h => congrArg _ (s.grant_waits h), ?_⟩
  intro before after q k a n r hrun hpool hreqs hbefore hcls hq howner hnext hk hspace hgo
  have hgrant := s.grant_stream hrun hpool (s.find?_grantable hreqs hbefore hcls hq) howner hnext hk hspace hgo
  obtain ⟨hxfers, hid, hmem, hframe, hkeeps⟩ := s.yieldPlace.takeTag_effect q a n
  have hhost : State.isHost q = false := by simp [State.isHost, howner]
  rw [hcls, howner, hhost] at hxfers
  exact ⟨_, (exec_tagGrant cls s).trans (congrArg _ hgrant), hxfers, hid, fun p hp => (hmem p hp).imp_left s.mem_yieldPlace, hframe, hkeeps⟩

section

variable {s : State} {c sc : Nat} (hc : c < 192) (hs : sc < 32)

include hc hs

/-- A command on a context that the D8 has completes. -/
theorem onUnit_ctx (t : State) : onUnit (decide (c < 192) && decide (sc < 32)) t = .next t := by simp [hc, hs]

theorem exec_haulFaultMessage_none (h : sc ∉ (s.core c).halts) : exec (.haulFaultMessage c sc) s = .next s := by
  refine (onUnit_ctx hc hs _).trans (congrArg _ (if_neg ?_))
  simpa using h

theorem exec_haulFaultMessage_halted {r : StreamRun} {g : Nat} (h : sc ∈ (s.core c).halts) (hrun : s.run? (32 * c + sc) = some r)
    (hhalt : r.halt = some (0x01, g)) : let u := s.updCore c fun k => { k with halts := k.halts.erase sc }
    exec (.haulFaultMessage c sc) s = .next ((u.needGran ((s.core c).slot r.slot).model g).demand g) := by
  intro u
  have hrun' : u.run? (32 * c + sc) = some r := (s.run?_updCore c (f := fun k => { k with halts := k.halts.erase sc }) (fun _ => rfl) _).trans hrun
  have hslot : (u.core c).slot r.slot = (s.core c).slot r.slot := by rw [State.core_updCore_self]; rfl
  refine (onUnit_ctx hc hs _).trans ((congrArg _ (if_pos (List.contains_iff_mem.2 h))).trans ?_)
  simp only [u] at hrun' hslot ⊢
  simp only [hrun', hhalt, hslot]

theorem exec_haulResume : exec (.haulResume c sc) s = .next (s.resume (32 * c + sc)) := onUnit_ctx hc hs _

theorem exec_descEnqueue (d : BitVec 256) : exec (.descEnqueue c sc d) s = .next ((s.pushDescs (32 * c + sc) [d]).settle c) := onUnit_ctx hc hs _

theorem exec_peerGrant {r : StreamRun} (hrun : s.run? (32 * c + sc) = some r) :
    ∃ t, s.heard t ∧ exec (.peerGrant c sc) s = .next ((t.granted (32 * c + sc) r).settle c) := by
  let t := s.takeMsg 0x02 fun m => leField m.body 0 2 % 8192 == 32 * c + sc
  have ht : s.heard t := s.takeMsg_heard ..
  have hrun' : t.run? (32 * c + sc) = some r := (State.run?_heard ht _).trans hrun
  refine ⟨t, ht, (onUnit_ctx hc hs _).trans ?_⟩
  simp only [t] at hrun' ⊢
  simp only [State.run?_setScField, State.now_setScField, hrun', State.granted]

theorem exec_peerSegment {r : StreamRun} (hrun : s.run? (32 * c + sc) = some r) (hmode : r.mode = 0) (hspace : scSpace (s.sctx (32 * c + sc)) = 4)
    (herr : r.err = none) (fill off : Nat) (last : Bool) (data : List Byte) : ∃ t, s.heard t ∧
    (¬ r.fits fill off data.length last → exec (.peerSegment c sc fill off last data) s = .next (t.failStream (32 * c + sc) 0x14)) ∧
    (r.fits fill off data.length last → exec (.peerSegment c sc fill off last data) s =
      .next (((t.segmentTaken (32 * c + sc) r last).writeStore c (r.near (fill * r.chunk + off)) data).moved (32 * c + sc) (fill * r.chunk + off) data.length)) := by
  let t := s.takeMsg 0x01 fun m => leField m.body 0 2 % 8192 == 32 * c + sc && leField m.body 2 2 == fill && leField m.body 4 4 == off
  have ht : s.heard t := s.takeMsg_heard ..
  have hrun' : t.run? (32 * c + sc) = some r := (State.run?_heard ht _).trans hrun
  have hlive : ¬ (r.mode ≠ 0 ∨ scSpace (t.sctx (32 * c + sc)) ≠ 4 ∨ r.err.isSome = true) := by
    rw [State.sctx_heard ht, hmode, herr]
    exact not_or.2 ⟨by simp, not_or.2 ⟨fun hne => hne hspace, by simp⟩⟩
  refine ⟨t, ht, fun hbad => (onUnit_ctx hc hs _).trans ?_, fun hfits => (onUnit_ctx hc hs _).trans ?_⟩
  · simp only [t] at hrun' hlive ⊢
    simp only [hrun']
    rw [if_neg hlive, if_pos ((r.not_fits_iff ..).1 hbad)]
  · simp only [t] at hrun' hlive ⊢
    simp only [hrun']
    rw [if_neg hlive, if_neg fun h => (r.not_fits_iff ..).2 h hfits]
    rfl

theorem exec_peerAbort (hspace : scSpace (s.sctx (32 * c + sc)) = 4) :
    ∃ t, s.heard t ∧ exec (.peerAbort c sc) s = .next (t.failStream (32 * c + sc) 0x16) := by
  let t := s.takeMsg 0x03 fun m => leField m.body 0 2 % 8192 == 32 * c + sc
  have ht : s.heard t := s.takeMsg_heard ..
  have hspace' : scSpace (t.sctx (32 * c + sc)) = 4 := (congrArg scSpace (State.sctx_heard ht _)).trans hspace
  exact ⟨t, ht, (onUnit_ctx hc hs _).trans (congrArg _ (if_pos hspace'))⟩

theorem exec_peerTimeout {r : StreamRun} {t : Nat} (hrun : s.run? (32 * c + sc) = some r) (hspace : scSpace (s.sctx (32 * c + sc)) = 4)
    (hmoved : r.moved = some t) (hlate : t + s.peerLimit (32 * c + sc) ≤ s.now) :
    exec (.peerTimeout c sc) s = .next (s.failStream (32 * c + sc) 0x15) := by
  refine (onUnit_ctx hc hs _).trans ?_
  simp only [hrun, hmoved]
  rw [if_pos ⟨hspace, hlate⟩]

end

section

variable {s : State} {g : Nat}

theorem pin_due (p : Pin) : (p.gran == g && Nat.ble p.stop s.now) = true ↔ p.gran = g ∧ p.stop ≤ s.now := by
  rw [Bool.and_eq_true, beq_iff_eq, Nat.ble_eq]

theorem exec_pinExpire_due (h : ∃ p ∈ s.tg.pins, p.gran = g ∧ p.stop ≤ s.now) : exec (.pinExpire g) s = .next ((s.unpinned g).orReg R.TG_ERR 2) := by
  have hany : (s.tg.pins.any fun p => p.gran == g && Nat.ble p.stop s.now) = true :=
    List.any_eq_true.2 (h.imp fun p hp => hp.imp_right (pin_due p).2)
  have hble : ∀ p : Pin, Nat.ble p.stop s.now = decide (p.stop ≤ s.now) := fun p => by rw [Bool.eq_iff_iff, Nat.ble_eq, decide_eq_true_iff]
  rw [exec, execPinExpire, if_pos hany]
  simp only [hble]
  rfl

theorem exec_pinExpire_early (h : ∀ p ∈ s.tg.pins, p.gran = g → s.now < p.stop) : exec (.pinExpire g) s = .next s := by
  refine congrArg _ (if_neg fun hany => ?_)
  obtain ⟨p, hp, hdue⟩ := List.any_eq_true.1 hany
  obtain ⟨hgran, hstop⟩ := (pin_due p).1 hdue
  exact absurd (h p hp hgran) (Nat.not_lt.2 hstop)

end

/-- Settles O22: the message asks for its granule, the resume pins it, and the pin ends at its time. -/
theorem haltsResumeWithAPin : Obligations.HaltsResumeWithAPin := by
  intro s c sc hc hs k
  refine ⟨?message, exec_haulFaultMessage_none hc hs, ?resume, ?running, ?expired, fun g => exec_pinExpire_early⟩
  case message => exact fun r g hmem hrun hhalt => ⟨_, exec_haulFaultMessage_halted hc hs hmem hrun hhalt, congrArg CoreState.halts (s.core_updCore_self ..), rfl⟩
  case resume =>
    intro r g hrun hhalt hhalted hspill hpoison hmove
    refine ⟨s.resumed k g r, ?_, s.resumed_effect k g r⟩
    rw [exec_haulResume hc hs, s.resume_home hrun hhalt hhalted hspill hpoison hmove, State.ctx_core c hs]
  case running => exact fun h => (exec_haulResume hc hs).trans (congrArg _ (s.resume_none h))
  case expired =>
    exact fun g h => ⟨_, exec_pinExpire_due h, rfl, (s.unpinned g).reg_orReg_self (by decide),
      fun o ho => (s.unpinned g).reg_orReg_other _ (List.ne_of_not_mem_cons ho), rfl⟩

/-- Settles O23: each clause is what its command does to the descriptors, to GRANTS and the run, or to the haul that it ends. -/
theorem peerHaulsFollowTheirGrants : Obligations.PeerHaulsFollowTheirGrants := by
  intro s c sc hc hs k q
  refine ⟨fun d hq => ⟨_, exec_descEnqueue hc hs d, s.pushDesc_effect k d hq⟩, ?grant, ?segment, ?abort,
    fun r t => exec_peerTimeout hc hs⟩
  case grant =>
    intro r hrun hgrants
    obtain ⟨t, ht, hexec⟩ := exec_peerGrant hc hs hrun
    obtain ⟨hgrants', hrun', hframe⟩ := t.granted_effect k r (State.sctx_heard ht k ▸ hgrants)
    rw [State.sctx_heard ht k] at hgrants'
    rw [State.now_heard ht] at hrun'
    exact ⟨_, hexec, hgrants', hrun', State.frame_heard ht hframe⟩
  case segment =>
    intro r fill off last data hrun hmode hspace herr good
    obtain ⟨t, ht, hbad, hgood⟩ := exec_peerSegment hc hs hrun hmode hspace herr fill off last data
    refine ⟨fun h => ⟨t, hbad h, ht⟩, fun h => ?_⟩
    obtain ⟨hrun', hgrants, hframe⟩ := t.segmentTaken_effect k r last
    rw [State.sctx_heard ht k] at hgrants
    rw [State.now_heard ht] at hrun'
    exact ⟨_, hgood h, hrun', hgrants, State.frame_heard ht hframe⟩
  case abort =>
    intro hspace
    obtain ⟨t, ht, hexec⟩ := exec_peerAbort hc hs hspace
    exact ⟨t, hexec, ht⟩

end Sys2Proof.Machine
end

section
/-! SUPPORT. Selector registers (R226, R285, R314, R380): the words that a write captures, and the statement about them. -/

namespace Sys2Proof.Machine

namespace State

variable (s : State)

/-! ### Windows of words -/

/-- The n words from a register on, set to f. -/
def setWords (base n : Nat) (f : Nat → Nat) : State := (List.range n).foldl (fun s i => s.setReg (base + 4 * i) (f i)) s

theorem regsOnly_setWords (base n : Nat) (f : Nat → Nat) : s.regsOnly (s.setWords base n f) :=
  foldl_regsOnly (fun t i => t.regsOnly_setReg (base + 4 * i) (f i)) _ s

theorem reg_setWords {base n i : Nat} (f : Nat → Nat) (hi : i < n) : (s.setWords base n f).reg (base + 4 * i) = f i % 2 ^ 32 :=
  foldl_reg_once (g := fun _ => f i % 2 ^ 32) List.nodup_range (List.mem_range.2 hi) (fun t => t.reg_setReg_self _ _)
    (fun t _ _ hne => t.reg_setReg_other _ (by omega)) s

theorem reg_setWords_other {base n o : Nat} (f : Nat → Nat) (ho : ¬ (base ≤ o ∧ o < base + 4 * n)) : (s.setWords base n f).reg o = s.reg o :=
  foldl_reg_kept (fun t _ hi => t.reg_setReg_other _ fun h => ho (by have := List.mem_range.1 hi; omega)) s

/-! ### The four selectors -/

theorem selectCtx_effect (v : Nat) : let t := s.selectCtx v
    t.reg R.KV_CTX_SEL = v % 16384 ∧ (∀ i, i < 16 → t.reg (R.KV_CTX_DATA + 4 * i) = (s.ctx (v % 16384)).word / 2 ^ (32 * i) % 2 ^ 32) ∧
    (∀ o, o ≠ R.KV_CTX_SEL → ¬ (R.KV_CTX_DATA ≤ o ∧ o < R.KV_CTX_DATA + 64) → t.reg o = s.reg o) ∧ s.regsOnly t := by
  let u := s.setReg R.KV_CTX_SEL (v % 16384)
  have ht : s.selectCtx v = u.setWords R.KV_CTX_DATA 16 fun i => (s.ctx (v % 16384)).word / 2 ^ (32 * i) % 2 ^ 32 := rfl
  rw [ht]
  refine ⟨?_, fun i hi => ?_, fun o hsel hdata => ?_, regsOnly_trans (s.regsOnly_setReg ..) (u.regsOnly_setWords ..)⟩
  · rw [reg_setWords_other _ _ (by decide), reg_setReg_self]
    omega
  · rw [reg_setWords _ _ hi, Nat.mod_mod]
  · rw [reg_setWords_other _ _ hdata, reg_setReg_other _ _ hsel]

/-- The _LO half of TI_MAP_SEL as it waits for its _HI (R11). -/
def mapSelLo : Nat := Map.getD (s.reg R.TI_MAP_SEL_LO) s.hi.held R.TI_MAP_SEL_LO

/-- The word captured of granule g (R285). -/
def mapWord (g : Nat) : Nat := if (s.entryNo g).isSome then s.entryWord g else 0

theorem selectGran_effect (v : Nat) : let t := s.selectGran v; let g := s.mapSelLo % 2 ^ 32 + 2 ^ 32 * (v % 16)
    t.reg64 R.TI_MAP_SEL_LO = g ∧
    (s.mapSelLo < 2 ^ 32 → ∀ i, i < 4 → t.reg (R.TI_MAP_DATA + 4 * i) = s.mapWord g / 2 ^ (32 * i) % 2 ^ 32) ∧
    (∀ o, o ≠ R.TI_MAP_SEL_LO → o ≠ R.TI_MAP_SEL_HI → ¬ (R.TI_MAP_DATA ≤ o ∧ o < R.TI_MAP_DATA + 16) → t.reg o = s.reg o) ∧
    t = { s with regs := t.regs, hi := { s.hi with held := s.hi.held.del R.TI_MAP_SEL_LO } } := by
  let r : State := { s with hi := { s.hi with held := s.hi.held.del R.TI_MAP_SEL_LO } }
  let u := (r.setReg R.TI_MAP_SEL_LO s.mapSelLo).setReg R.TI_MAP_SEL_HI (v % 16)
  let f := fun i => s.mapWord (s.mapSelLo + 2 ^ 32 * (v % 16)) / 2 ^ (32 * i) % 2 ^ 32
  have ht : s.selectGran v = u.setWords R.TI_MAP_DATA 4 f := rfl
  rw [ht]
  refine ⟨?_, fun hlo i hi => ?_, fun o hselLo hselHi hdata => ?_, ?_⟩
  · rw [reg64, reg_setWords_other _ _ (by decide), reg_setWords_other _ _ (by decide), reg_setReg_self, reg_setReg_other _ _ (by decide),
      reg_setReg_self]
    omega
  · rw [reg_setWords _ _ hi, Nat.mod_mod, Nat.mod_eq_of_lt hlo]
  · rw [reg_setWords_other _ _ hdata, reg_setReg_other _ _ hselHi, reg_setReg_other _ _ hselLo]
    rfl
  · obtain ⟨g, hg⟩ := regsOnly_iff.1 (u.regsOnly_setWords R.TI_MAP_DATA 4 f)
    rw [hg]
    rfl

/-- What SL_OP_DATA shows of an OPID without an execution or a waiting token. -/
theorem opState_idle {op : Nat} (hexecs : s.slExecs op = []) (htokens : ∀ x ∈ s.sl.tokens, x.1 ≠ op) : s.opState op = 0 := by
  have hnone : s.sl.tokens.any (·.1 == op) = false := List.any_eq_false.2 fun x hx => by simpa using htokens x hx
  simp [opState, hexecs, hnone]

/-- An OPID with one execution, active or settling, has its state. -/
theorem opState_single {op k : Nat} {x : SlExec} (hexecs : s.slExecs op = [(k, x)]) (hphase : x.phase = 2 ∨ x.phase = 3) : s.opState op = x.phase := by
  rcases hphase with h | h <;> simp [opState, hexecs, h]

/-- The slots that the executions of an OPID hold (R314). -/
def opSlots (op : Nat) : Nat := ((s.slExecs op).map fun x => slSlots x.2).sum

theorem selectOp_effect (v : Nat) : let t := s.selectOp v; let op := v % 65536
    t.reg R.SL_OP_SEL = op ∧ (∀ i, i < 4 → t.reg (R.SL_OP_DATA + 4 * i) = s.slRec op / 2 ^ (32 * i) % 2 ^ 32) ∧
    t.reg (R.SL_OP_DATA + 16) = (s.slCount op + s.opState op * 65536) % 2 ^ 32 ∧ t.reg (R.SL_OP_DATA + 20) = s.opSlots op % 2 ^ 32 ∧
    (∀ o, o ≠ R.SL_OP_SEL → ¬ (R.SL_OP_DATA ≤ o ∧ o < R.SL_OP_DATA + 24) → t.reg o = s.reg o) ∧ s.regsOnly t := by
  let u := s.setReg R.SL_OP_SEL (v % 65536)
  let w := u.setWords R.SL_OP_DATA 4 fun i => s.slRec (v % 65536) / 2 ^ (32 * i)
  obtain ⟨g, hw⟩ := regsOnly_iff.1 (regsOnly_trans (s.regsOnly_setReg ..) (u.regsOnly_setWords ..) : s.regsOnly w)
  have hstate : w.opState (v % 65536) = s.opState (v % 65536) := by rw [hw]; rfl
  have hcount : w.slCount (v % 65536) = s.slCount (v % 65536) := by rw [hw]; rfl
  have hslots : ∀ a b, (w.setReg a b).opSlots (v % 65536) = s.opSlots (v % 65536) := by rw [hw]; exact fun _ _ => rfl
  have ht : s.selectOp v = (w.setReg (R.SL_OP_DATA + 16) (s.slCount (v % 65536) + s.opState (v % 65536) * 65536)).setReg
      (R.SL_OP_DATA + 20) (s.opSlots (v % 65536)) := by
    rw [← hslots (R.SL_OP_DATA + 16) (s.slCount (v % 65536) + s.opState (v % 65536) * 65536), ← hstate, ← hcount]
    rfl
  rw [ht]
  refine ⟨?_, fun i hi => ?_, ?_, reg_setReg_self .., fun o hsel hdata => ?_,
    regsOnly_trans (regsOnly_iff.2 ⟨g, hw⟩) (regsOnly_trans (regsOnly_setReg ..) (regsOnly_setReg ..))⟩
  · rw [reg_setReg_other _ _ (by decide), reg_setReg_other _ _ (by decide), reg_setWords_other _ _ (by decide), reg_setReg_self]
    omega
  · rw [reg_setReg_other _ _ (by omega), reg_setReg_other _ _ (by omega), reg_setWords _ _ hi]
  · rw [reg_setReg_other _ _ (by decide), reg_setReg_self]
  · rw [reg_setReg_other _ _ (by omega), reg_setReg_other _ _ (by omega), reg_setWords_other _ _ (by omega), reg_setReg_other _ _ hsel]

/-- Rank, state and unacknowledged frames of a tunnel fit their word (R380). -/
theorem tunWord_lt {rank phase : Nat} (frames : Nat) (hrank : rank < 65536) (hphase : phase < 4) :
    rank + phase * 65536 + min frames 1024 * 2 ^ 20 < 2 ^ 32 := by omega

theorem selectTun_effect (n v : Nat) : let t := s.selectTun n v; let u := tunnel (s.port n) (v % 256)
    t.reg (cuReg n 0x60) = v % 256 ∧ t.reg (cuReg n 0x64) = (u.rank + u.phase * 65536 + min u.unacked.length 1024 * 2 ^ 20) % 2 ^ 32 ∧
    t.reg (cuReg n 0x68) = u.next % 2 ^ 32 ∧ s.keeps t [cuReg n 0x60, cuReg n 0x64, cuReg n 0x68] ∧ s.regsOnly t := by
  have hapart : ∀ a b, a ≠ b → cuReg n a ≠ cuReg n b := fun a b h => by unfold cuReg; omega
  unfold selectTun
  refine ⟨?_, ?_, reg_setReg_self .., fun o ho => ?_,
    regsOnly_trans (regsOnly_trans (s.regsOnly_setReg ..) (regsOnly_setReg ..)) (regsOnly_setReg ..)⟩
  · rw [reg_setReg_other _ _ (hapart _ _ (by decide)), reg_setReg_other _ _ (hapart _ _ (by decide)), reg_setReg_self]
    omega
  · rw [reg_setReg_other _ _ (hapart _ _ (by decide)), reg_setReg_self]
  · simp only [List.mem_cons, not_or, List.not_mem_nil, not_false_eq_true, and_true] at ho
    obtain ⟨h60, h64, h68⟩ := ho
    rw [reg_setReg_other _ _ h68, reg_setReg_other _ _ h64, reg_setReg_other _ _ h60]

end State

/-! ### The commands -/

/-- Settles O27: each write sets its selector and the words beside it, by the effect of its selection. -/
theorem selectorsCaptureTheirRecords : Obligations.SelectorsCaptureTheirRecords := by
  intro s v
  refine ⟨⟨_, rfl, s.selectCtx_effect v.toNat⟩, ⟨_, _, rfl, rfl, s.selectGran_effect v.toNat⟩, ?operation, ?tunnel⟩
  case operation =>
    obtain ⟨hsel, hrec, hstate, hslots, hother, hregs⟩ := s.selectOp_effect v.toNat
    refine ⟨_, rfl, hsel, hrec, fun hn => ⟨fun hexecs htokens => ?idle, fun k x hexecs hphase hx => ?single⟩, hother, hregs⟩
    case idle =>
      rw [hstate, hslots, s.opState_idle hexecs htokens, State.opSlots, hexecs]
      exact ⟨by omega, rfl⟩
    case single =>
      have hle : State.slSlots x < 2 ^ 32 := by unfold State.slSlots; split <;> omega
      rw [hstate, hslots, s.opState_single hexecs hphase, State.opSlots, hexecs]
      exact ⟨by omega, Nat.mod_eq_of_lt hle⟩
  case tunnel =>
    intro n hn k u
    obtain ⟨hsel, hstate, hnext, hkeeps, hregs⟩ := s.selectTun_effect n v.toNat
    have hexec : exec (.cuTunSel n v) s = .next (s.selectTun n v.toNat) := onUnit_next.2 ⟨decide_eq_true hn, rfl⟩
    exact ⟨_, hexec, hsel, fun hrank hphase => hstate.trans (Nat.mod_eq_of_lt (State.tunWord_lt _ hrank hphase)), hnext, hkeeps, hregs⟩

end Sys2Proof.Machine
end

section
/-! SUPPORT. Page walks (R203–R205), the queue of a quarry unit (R234), page selection (R244) and the folding of partials (R248), and the statement about them. -/

namespace Sys2Proof.Machine

namespace State

variable (s : State)

/-! ### Reads of the page tables (R132, R267) -/

/-- Nothing but registers and the heat of map entries has changed, which are what a read of a table leaves. -/
def warmedTo (t : State) : Prop := t = { s with regs := t.regs, ti := { s.ti with map := t.ti.map } }

theorem warmedTo_iff {s t : State} : s.warmedTo t ↔ ∃ g m, t = { s with regs := g, ti := { s.ti with map := m } } :=
  ⟨fun h => ⟨_, _, h⟩, by rintro ⟨g, m, rfl⟩; rfl⟩

theorem warmedTo_trans {s t u : State} (h : s.warmedTo t) (h' : t.warmedTo u) : s.warmedTo u := by
  obtain ⟨g, m, rfl⟩ := warmedTo_iff.1 h
  obtain ⟨g', m', rfl⟩ := warmedTo_iff.1 h'
  rfl

theorem warmedTo_of_regsOnly {s t : State} (h : s.regsOnly t) : s.warmedTo t := by
  obtain ⟨g, rfl⟩ := regsOnly_iff.1 h
  rfl

theorem warmedTo_tg {s t : State} (h : s.warmedTo t) : t.tg = s.tg := by rw [h]

/-- Descriptors queued behind reads of tables change the queues beside registers and heat. -/
theorem frame_warmedTo {s t u : State} (ht : s.warmedTo t) (hu : u = { t with tg := { t.tg with descs := u.tg.descs, descWait := u.tg.descWait } }) :
    u = { s with regs := u.regs, ti := { s.ti with map := u.ti.map }, tg := { s.tg with descs := u.tg.descs, descWait := u.tg.descWait } } := by
  obtain ⟨g, m, rfl⟩ := warmedTo_iff.1 ht
  rw [hu]

theorem foldl_warmedTo {α : Type} {f : State → α → State} (hf : ∀ t a, warmedTo t (f t a)) (l : List α) : s.warmedTo (l.foldl f s) :=
  List.foldlRecOn l f (motive := s.warmedTo) rfl fun t ht a _ => warmedTo_trans ht (hf t a)

theorem updEntry_warmedTo (g : Nat) (f : MapEntry → MapEntry) : s.warmedTo (s.updEntry g f) := by
  unfold updEntry setEntry
  split <;> rfl

theorem heat_warmedTo (a n : Nat) : s.warmedTo (s.heat a n) := by
  refine s.foldl_warmedTo (fun t p => ?_) _
  dsimp only
  split
  · rfl
  · exact t.updEntry_warmedTo ..

theorem tableRead_warmedTo (a n : Nat) : s.warmedTo (s.tableRead a n) :=
  warmedTo_trans (warmedTo_of_regsOnly (s.markTags_regsOnly ..)) (heat_warmedTo ..)

theorem walkReads_warmedTo (x layer : Nat) : s.warmedTo (s.walkReads x layer) := by
  unfold walkReads
  dsimp only
  split
  · rfl
  · exact warmedTo_trans (s.tableRead_warmedTo ..) (foldl_warmedTo _ (fun t a => t.tableRead_warmedTo ..) _)

/-! ### Descriptors of a walk to a stream (R203, R205) -/

/-- Descriptors stand in order behind those of their context, and those of the others stay. -/
theorem pushDescs_effect (k : Nat) (l : List (BitVec 256)) : let u := s.pushDescs k l
    u.descList k = s.descList k ++ l ∧ (∀ j, j ≠ k → Map.getD [] u.tg.descs j = Map.getD [] s.tg.descs j) ∧
    u = { s with tg := { s.tg with descs := u.tg.descs, descWait := u.tg.descWait } } := by
  unfold pushDescs
  split
  case isTrue hnone => exact ⟨by rw [hnone, List.append_nil], fun _ _ => rfl, rfl⟩
  case isFalse =>
    let v := s.tgUpd fun g => { g with descWait := g.descWait.put k (Map.getD [] g.descWait k ++ l) }
    have hwait : Map.getD [] v.tg.descWait k = Map.getD [] s.tg.descWait k ++ l := Map.getD_put_self ..
    obtain ⟨hqueue, hrest⟩ := v.feedDescs_self (k := k) rfl hwait
    refine ⟨?_, fun j hj => (v.feedDescs_other hj).1, v.feedDescs_only k⟩
    change (v.feedDescs k).descList k = _
    rw [descList, hqueue, hrest, List.append_assoc, List.take_append_drop, descList, List.append_assoc]
    rfl

/-- Elements taken by their places are all elements, each with its place. -/
theorem filterMap_range_getElem? {α β : Type} (l : List α) (f : Nat → α → β) :
    ((List.range l.length).filterMap fun i => (l[i]?).map (f i)) = l.mapIdx f := by
  induction l generalizing f with
  | nil => rfl
  | cons a l ih =>
    have hrest : (((List.range l.length).map Nat.succ).filterMap fun i => ((a :: l)[i]?).map (f i)) = l.mapIdx fun i => f (i + 1) :=
      List.filterMap_map.trans (ih fun i => f (i + 1))
    rw [List.length_cons, List.range_succ_eq_map, List.mapIdx_cons, ← hrest]
    exact List.filterMap_cons_some rfl

/-- The descriptors of a walk for a stream: one for each page, LAST on the last. -/
def walkDescs (x layer : Nat) : List (BitVec 256) :=
  (s.walkPages x layer).mapIdx fun i p => BitVec.ofNat 256 (s.pageDesc x layer 0 0 (i + 1 == (s.walkPages x layer).length) p)

theorem length_walkDescs (x layer : Nat) : (s.walkDescs x layer).length = (s.walkPages x layer).length := List.length_mapIdx

theorem getElem?_walkDescs {x layer i : Nat} {p : WalkPage} (h : (s.walkPages x layer)[i]? = some p) : (s.walkDescs x layer)[i]? =
    some (BitVec.ofNat 256 (s.pageDesc x layer 0 0 (decide (i + 1 = (s.walkPages x layer).length)) p)) := by
  rw [walkDescs, List.getElem?_mapIdx, h]
  rfl

/-- A walk of good tables on the stacks gives its stream the descriptors of its pages, and the core settles. -/
theorem walk_stream {x layer : Nat} {m : Model} (hrun : s.pw.stopped = false) (hmodel : s.model (s.ctx x).model = some m) (hkrec : m.krec = false)
    (haway : s.mustWait ((s.ctx x).root :: (s.rowsOf x).map (·.2)) = []) (hgood : s.layersBad x m [layer] = false) (core sc : Nat) :
    let v := s.walkReads x layer
    s.walk x layer (.stream core sc) = (v.pushDescs (32 * core + sc) (v.walkDescs x layer)).settle core := by
  intro v
  rw [walkDescs, ← filterMap_range_getElem?]
  simp only [walk, hrun, hmodel, haway, hgood, hkrec, List.eraseDups_nil, ne_eq, not_true_eq_false, Bool.false_eq_true, if_false]
  rfl

/-! ### The queue of a quarry unit (R234) -/

/-- A descriptor stands last of those queued and waiting at its unit, and the other units stay. -/
theorem quPush_effect {n : Nat} (d : QuDesc) (hskip : (s.quState n).skip = false) : let t := s.quPush n d
    t.quState n = quFill (s.quState n) ((s.quState n).queue ++ (s.quState n).wait ++ [d]) ∧ (∀ k, k ≠ n → t.quState k = s.quState k) ∧
    t = { s with qus := t.qus } := by
  refine ⟨(Map.getD_put_self ..).trans (if_neg ?_), fun k hk => Map.getD_put_other _ _ _ hk, rfl⟩
  exact Bool.eq_false_iff.1 hskip

/-! ### Page selection (R244) -/

/-- The row indices of the P first ranks of a context and layer. -/
def topRows (x layer : Nat) (m : Model) : List Nat := (((Map.getD [] s.kv.ranks (4096 * x + layer)).mergeSort rankOrder).take m.p).map (·.2)

/-- The rows that a selection keeps. -/
def picked (x layer : Nat) (m : Model) : List Nat :=
  let rows := (s.walkPages x layer).map (·.1)
  if rows.length ≤ m.p + m.recent + m.sinkp then rows
  else rows.filter fun r => (s.topRows x layer m).contains r || Nat.ble (rows.length - m.recent) r || Nat.blt r m.sinkp

theorem picked_sublist (x layer : Nat) (m : Model) : (s.picked x layer m).Sublist ((s.walkPages x layer).map (·.1)) := by
  unfold picked
  dsimp only
  split
  · exact List.Sublist.refl _
  · exact List.filter_sublist

theorem picked_few {s : State} {x layer : Nat} {m : Model} (h : ((s.walkPages x layer).map (·.1)).length ≤ m.p + m.recent + m.sinkp) :
    s.picked x layer m = (s.walkPages x layer).map (·.1) := if_pos h

/-- Of many rows, those of the P first ranks, of the recent window and of the sink are kept. -/
theorem mem_picked {s : State} {x layer : Nat} {m : Model} (h : m.p + m.recent + m.sinkp < ((s.walkPages x layer).map (·.1)).length) (r : Nat) :
    r ∈ s.picked x layer m ↔ r ∈ (s.walkPages x layer).map (·.1) ∧
      (r ∈ s.topRows x layer m ∨ ((s.walkPages x layer).map (·.1)).length - m.recent ≤ r ∨ r < m.sinkp) := by
  rw [picked, if_neg (Nat.not_le.2 h), List.mem_filter, Bool.or_eq_true, Bool.or_eq_true, List.contains_iff_mem, Nat.ble_eq, Nat.blt_eq, or_assoc]

theorem select_eq {x : Nat} {m : Model} (hrun : s.pw.stopped = false) (hmodel : s.model (s.ctx x).model = some m) (layer : Nat) :
    s.select x layer = s.kvUpd fun k =>
      { k with chosen := k.chosen.put (4096 * x + layer) (s.picked x layer m), ranks := k.ranks.del (4096 * x + layer) } := by
  simp only [select, hrun, hmodel, Bool.false_eq_true, if_false]
  rfl

/-! ### What a read of a core's store leaves (R80) -/

/-- Nothing but registers, reports and the draws of free values has changed. -/
def notedTo (t : State) : Prop := t = { s with regs := t.regs, free := t.free, el := { s.el with raised := t.el.raised } }

theorem notedTo_iff {s t : State} : s.notedTo t ↔ ∃ g n l, t = { s with regs := g, free := n, el := { s.el with raised := l } } :=
  ⟨fun h => ⟨_, _, _, h⟩, by rintro ⟨g, n, l, rfl⟩; rfl⟩

theorem notedTo_trans {s t u : State} (h : s.notedTo t) (h' : t.notedTo u) : s.notedTo u := by
  obtain ⟨g, n, l, rfl⟩ := notedTo_iff.1 h
  obtain ⟨g', n', l', rfl⟩ := notedTo_iff.1 h'
  rfl

theorem notedTo_of_logsOnly {s t : State} (h : s.logsOnly t) : s.notedTo t := by
  obtain ⟨g, l, rfl⟩ := logsOnly_iff.1 h
  rfl

theorem notedTo_mem {s t : State} (h : s.notedTo t) : t.mem = s.mem := by rw [h]

theorem notedTo_cores {s t : State} (h : s.notedTo t) : t.cores = s.cores := by rw [h]

theorem reports_notedTo {f : State → State} (hf : ∀ t, notedTo t (f t)) (n : Nat) : s.notedTo (s.reports n f) := by
  induction n generalizing s with
  | zero => rfl
  | succ n ih => exact notedTo_trans (hf s) (ih (f s))

theorem report_logsOnly (cls blk cause source data : Nat) : s.logsOnly (s.report cls blk cause source data) := rfl

theorem storeCe_logsOnly (c : Nat) : s.logsOnly (s.storeCe c) :=
  logsOnly_trans (logsOnly_of_regsOnly (regsOnly_trans (s.regsOnly_orReg ..) (regsOnly_setReg ..))) (report_logsOnly ..)

theorem seep_notedTo (c a n : Nat) : s.notedTo (s.seep c a n) := s.reports_notedTo (fun t => notedTo_of_logsOnly (t.storeCe_logsOnly c)) _

theorem storeUeAt_logsOnly (c blk a : Nat) : s.logsOnly ((s.orReg (coreReg c 8) 4).reportAt 4 blk 0x11 c a) :=
  logsOnly_trans (logsOnly_of_regsOnly (s.regsOnly_orReg ..)) rfl

theorem storeUe_notedTo (c blk : Nat) (word : Option Nat) : s.notedTo (s.storeUe c blk word) := by
  cases word with
  | some a => exact notedTo_of_logsOnly (s.storeUeAt_logsOnly c blk a)
  | none => exact notedTo_trans (t := s.draw.2) rfl (notedTo_of_logsOnly (storeUeAt_logsOnly ..))

theorem meetStore_notedTo (c a n : Nat) : s.notedTo (s.meetStore c a n) := by
  unfold meetStore
  dsimp only
  split
  · exact notedTo_trans (s.seep_notedTo ..) (storeUe_notedTo ..)
  · exact s.seep_notedTo ..

theorem meetTarget_notedTo (c oAt stAt qr d : Nat) : s.notedTo (s.meetTarget c oAt stAt qr d) :=
  notedTo_trans (s.meetStore_notedTo ..) (meetStore_notedTo ..)

theorem regsOnly_arithCounts (a : Arith) :
    s.regsOnly (((s.count R.SF_NAN_OUT_LO a.nans).count R.SF_SAT_LO a.sats).count R.SF_INEXACT_LO a.inexact) :=
  regsOnly_trans (regsOnly_trans (s.regsOnly_count ..) (regsOnly_count ..)) (regsOnly_count ..)

theorem arith_logsOnly (c : Nat) (a : Arith) : s.logsOnly (s.arith c a) := by
  unfold arith
  dsimp only
  refine logsOnly_trans ?_ (logsOnly_of_regsOnly (regsOnly_arithCounts ..))
  split
  · rfl
  · exact logsOnly_trans (logsOnly_of_regsOnly (regsOnly_trans (regsOnly_trans (s.regsOnly_orReg ..) (regsOnly_orReg ..)) (regsOnly_orReg ..)))
      (foldl_report_effect _ _).1

/-! ### Partials (R248) -/

theorem writeTarget_cores (c oAt stAt d : Nat) (rs : List RowState) : (s.writeTarget c oAt stAt d rs).cores = s.cores :=
  List.foldlRecOn rs.zipIdx _ (motive := fun t : State => t.cores = s.cores) rfl fun _ ht _ _ => ht

/-- What memory holds after a target's rows are written rests on what it held alone. -/
theorem writeTarget_mem {s t : State} (h : t.mem = s.mem) (c oAt stAt d : Nat) (rs : List RowState) :
    (t.writeTarget c oAt stAt d rs).mem = (s.writeTarget c oAt stAt d rs).mem :=
  List.foldl_rel (r := fun t s : State => t.mem = s.mem) h fun r _ u v huv => by
    simp only [writeStore, writeMem, huv]

/-- The rows of a partial's head, folded, and the status of the fold. -/
def foldOf (c : Nat) (b : BenchTarget) (p : Partial) : List RowState × Arith :=
  foldRows (bitOf (s.reg R.SF_CTRL) 0) b.dim (s.readTarget c (b.obase + p.head * b.ostep) (b.stbase + p.head * b.ststep) b.rows b.dim)
    (partialRows b.rows b.dim p.data)

/-- The state in which the folded rows are written and their status is raised. -/
def foldWritten (c : Nat) (b : BenchTarget) (p : Partial) : State :=
  let oAt := b.obase + p.head * b.ostep
  let stAt := b.stbase + p.head * b.ststep
  ((s.meetTarget c oAt stAt b.rows b.dim).writeTarget c oAt stAt b.dim (s.foldOf c b p).1).arith c
    { (s.foldOf c b p).2 with nans := nanCount (s.foldOf c b p).1 }

theorem foldWritten_mem (c : Nat) (b : BenchTarget) (p : Partial) : (s.foldWritten c b p).mem = (s.foldedInto c b p).mem :=
  (notedTo_mem (notedTo_of_logsOnly (arith_logsOnly ..))).trans (writeTarget_mem (notedTo_mem (s.meetTarget_notedTo ..)) ..)

theorem foldWritten_core (c d : Nat) (b : BenchTarget) (p : Partial) : (s.foldWritten c b p).core d = s.core d := by
  have hcores : (s.foldWritten c b p).cores = s.cores :=
    (notedTo_cores (notedTo_of_logsOnly (arith_logsOnly ..))).trans ((writeTarget_cores ..).trans (notedTo_cores (s.meetTarget_notedTo ..)))
  rw [core, hcores, core]

/-- A core in which target b has taken partial p. -/
def foldedCore (b : BenchTarget) (p : Partial) (k : CoreState) : CoreState :=
  { k with partials := k.partials.erase p, targets := k.targets.map fun a => if a = b then b.foldedBy p else a }

/-- A partial that is not the last of its target folds, and the target waits for the others. -/
theorem foldPartial_more {b : BenchTarget} {p : Partial} (h : ((b.foldedBy p).folded.map (·.2)).sum < b.npart * b.heads) (c : Nat) :
    s.foldPartial c b p = (s.foldWritten c b p).updCore c (foldedCore b p) := if_pos h

theorem folded_effect (c : Nat) (b : BenchTarget) (p : Partial) : let t := (s.foldWritten c b p).updCore c (foldedCore b p)
    t.mem = (s.foldedInto c b p).mem ∧ (t.core c).partials = (s.core c).partials.erase p ∧
    (t.core c).targets = (s.core c).targets.map (fun a => if a = b then b.foldedBy p else a) ∧
    (∀ d, d ≠ c → t.core d = s.core d) ∧ ∀ fw, (t.core c).flag fw = (s.core c).flag fw := by
  intro t
  have hcore : t.core c = foldedCore b p (s.core c) := by rw [core_updCore_self, foldWritten_core]
  refine ⟨(updCore_mem ..).trans (s.foldWritten_mem c b p), ?_, ?_, fun d hd => ?_, fun fw => ?_⟩
  · rw [hcore]; rfl
  · rw [hcore]; rfl
  · rw [core_updCore_other _ _ hd, foldWritten_core]
  · rw [hcore]; rfl

end State

/-! ### The commands -/

/-- A walk is of a context that is active or parked. -/
theorem phase_walked {s : State} {x : Nat} (hphase : (s.ctx x).phase = .active ∨ (s.ctx x).phase = .parked) :
    ¬ (!((s.ctx x).phase == .active || (s.ctx x).phase == .parked)) = true := by
  rcases hphase with h | h <;> rw [h] <;> decide

section

variable {s : State} {x : Nat} (hx : x < 16384)

include hx

theorem exec_pageWalk_uncorrectable (hphase : (s.ctx x).phase = .active ∨ (s.ctx x).phase = .parked) (layer : Nat) (d : WalkDest) :
    exec (.pageWalk x layer d .uncorrectable) s = .next (s.failTable x) :=
  onUnit_next.2 ⟨decide_eq_true hx, if_neg (phase_walked hphase)⟩

theorem exec_pageWalk_clean (hphase : (s.ctx x).phase = .active ∨ (s.ctx x).phase = .parked) (layer : Nat) (d : WalkDest) :
    exec (.pageWalk x layer d .clean) s = .next (s.walk x layer d) :=
  onUnit_next.2 ⟨decide_eq_true hx, if_neg (phase_walked hphase)⟩

theorem exec_pageSelection {m : Model} (hmodel : s.model (s.ctx x).model = some m) (layer : Nat) : exec (.pageSelection x layer) s =
    .next (if m.select && !s.ranksPending x layer && !s.updating x then s.select x layer else s) := by
  refine onUnit_next.2 ⟨decide_eq_true hx, ?_⟩
  rw [hmodel]

end

theorem exec_partialFold {s : State} {c n : Nat} {p : Partial} {b : BenchTarget} (hc : c < 192) (hp : (s.core c).partials[n]? = some p)
    (hb : (s.core c).targets.find? (fun t => t.qaddr == p.qaddr) = some b) :
    exec (.partialFold c n) s = .next (if s.mayFold c b p then s.foldPartial c b p else s) := by
  refine onUnit_next.2 ⟨decide_eq_true hc, ?_⟩
  simp only [hp, hb]

/-- Settles O28: each clause is the effect of its command on descriptors, on a unit's queue, on the rows kept or on the target of a partial. -/
theorem walksSelectAndFold : Obligations.WalksSelectAndFold := by
  refine ⟨fun s x layer core sc m hx hphase => ⟨fun d => exec_pageWalk_uncorrectable hx hphase layer d, ?walk⟩, fun s n w hn hskip => ?queue,
    fun s x layer m hx hmodel => ⟨?select, ?unselected⟩, fun s c n p b hc hp hb => ⟨fun hshut => ?shut, fun hopen hmore => ?fold⟩⟩
  case walk =>
    intro hrun hmodel hkrec haway hgood v ps key
    have hwarm : s.warmedTo v := s.walkReads_warmedTo x layer
    obtain ⟨hlist, hothers, hframe⟩ := v.pushDescs_effect key (v.walkDescs x layer)
    rw [State.descList, State.descList, State.warmedTo_tg hwarm] at hlist
    rw [State.warmedTo_tg hwarm] at hothers
    exact ⟨_, _, (exec_pageWalk_clean hx hphase layer _).trans (congrArg _ (s.walk_stream hrun hmodel hkrec haway hgood core sc)),
      v.length_walkDescs x layer, hlist, fun i p hp => v.getElem?_walkDescs hp, hothers, State.frame_warmedTo hwarm hframe⟩
  case queue => exact ⟨_, onUnit_next.2 ⟨decide_eq_true hn, rfl⟩, s.quPush_effect _ hskip⟩
  case select =>
    intro hrun hselect hranks hupdating rows key top
    refine ⟨_, s.picked x layer m, (exec_pageSelection hx hmodel layer).trans (congrArg _ (if_pos ?_)), ?_⟩
    · simp [hselect, hranks, hupdating]
    · rw [s.select_eq hrun hmodel]
      exact ⟨Map.get?_put_self .., s.picked_sublist x layer m, State.picked_few, State.mem_picked, Map.get?_del_self ..,
        fun k hk => ⟨Map.get?_put_other _ _ hk, Map.get?_del_other _ hk⟩, rfl⟩
  case unselected =>
    intro h
    refine (exec_pageSelection hx hmodel layer).trans (congrArg _ (if_neg ?_))
    rcases h with h | h | h <;> simp [h]
  case shut => exact (exec_partialFold hc hp hb).trans (congrArg _ (if_neg (Bool.eq_false_iff.1 hshut)))
  case fold =>
    exact ⟨_, (exec_partialFold hc hp hb).trans (congrArg _ ((if_pos hopen).trans (s.foldPartial_more hmore c))), s.folded_effect c b p⟩

end Sys2Proof.Machine
end

section
/-! SUPPORT. The list at the head of a quarry unit's queue where the unit does not run it: another operation's, or a bad one (R235), and the statement about it. -/

namespace Sys2Proof.Machine

namespace State

variable {s : State} {n op : Nat} {l : List QuDesc} {d : QuDesc}

/-! ### The list at the queue head (R234, R235) -/

/-- What a run of the list at a queue head does: from the state, the list, its granules with an error and whether an error was met, the new state, the list's result and the counts of R257. -/
abbrev ListRun := State → List QuDesc → List Nat → Bool → State × QuResult × Nat × Nat × Nat × Nat

/-- A queue that is empty, or whose live head is for another operation, is left as it is. -/
theorem quRun_other (h : ∀ d, ((s.quState n).queue ++ (s.quState n).wait).head? = some d →
      d.dead = false ∧ QuDesc.knownKind d.kind = true ∧ d.kind ≠ op) (ecc : Ecc) (f : ListRun) : s.quRun n op ecc f = s := by
  have hpurge := quPurge_live ((s.quState n).queue.length + (s.quState n).wait.length) fun d hd =>
    let ⟨hdead, hknown, _⟩ := h d hd
    ⟨hdead, hknown⟩
  unfold quRun
  simp only [hpurge]
  cases hrun : s.pw.stopped with
  | true => rfl
  | false =>
    cases htake : takeList ((s.quState n).queue ++ (s.quState n).wait) with
    | nil => rfl
    | cons d l =>
      obtain ⟨-, -, hkind⟩ := h d (by rw [← takeList_head, htake]; rfl)
      exact if_pos (.inl hkind)

/-- No heap of a search holds back the bench lists of unit n. -/
theorem heaps_idle (h : (op = 0x20 ∨ op = 0x21) → ∀ b ∈ s.sk.batches, ∀ h ∈ b.heaps, h.1 / 4096 ≠ n) :
    ((op == 0x20 || op == 0x21) && s.sk.batches.any fun b => b.heaps.any fun h => h.1 / 4096 == n) = false := by
  simp only [Bool.and_eq_false_imp, Bool.or_eq_true, beq_iff_eq, List.any_eq_false]
  simpa using h

/-- A whole bad list at the head of the queue is discarded. -/
theorem quRun_bad (hrun : s.pw.stopped = false) (htake : takeList ((s.quState n).queue ++ (s.quState n).wait) = d :: l)
    (hdead : d.dead = false) (hknown : QuDesc.knownKind d.kind = true) (hkind : d.kind = op) (hwhole : listWhole (d :: l) = true)
    (hheaps : (op = 0x20 ∨ op = 0x21) → ∀ b ∈ s.sk.batches, ∀ h ∈ b.heaps, h.1 / 4096 ≠ n)
    (hroom : heldBytes (s.quState n) < 1048576) (hbad : s.listBad n (d :: l) = true) (ecc : Ecc) (f : ListRun) :
    s.quRun n op ecc f = s.quBad n (d :: l) d := by
  have hhead : ((s.quState n).queue ++ (s.quState n).wait).head? = some d := by rw [← takeList_head, htake]; rfl
  have hpurge := quPurge_live ((s.quState n).queue.length + (s.quState n).wait.length) fun e he => by
    obtain rfl : e = d := Option.some.inj (he.symm.trans hhead)
    exact ⟨hdead, hknown⟩
  have hruns : ¬ (d.kind ≠ op ∨ (!listWhole (d :: l)) = true ∨
      ((op == 0x20 || op == 0x21) && s.sk.batches.any fun b => b.heaps.any fun h => h.1 / 4096 == n) = true) := by
    simp [hkind, hwhole, heaps_idle hheaps]
  unfold quRun
  simp only [hpurge, htake, hrun, Bool.false_eq_true, if_false]
  rw [if_neg hruns, if_neg (by simpa [Nat.ble_eq] using hroom), if_pos hbad]

/-- What the discarding of a bad list does. -/
theorem quBad_effect (s : State) (n : Nat) (l : List QuDesc) (d : QuDesc) : let t := s.quBad n l d; let u := s.quState n
    t.quState n = { quDrop u l.length with results := u.results ++ [(s.badResult n d, stepOf d)] } ∧
    s.sets t (quReg n 8) 1 ∧ s.logs t (0x4000 + (0x10 + n) * 64 + 1) 0 0 ∧ (∀ m, m ≠ n → t.quState m = s.quState m) ∧
    t = { s with qus := t.qus, regs := t.regs, el := { s.el with raised := t.el.raised } } := by
  let q := { quDrop (s.quState n) l.length with results := (s.quState n).results ++ [(s.badResult n d, stepOf d)] }
  have hset : ((s.setQu n q).orReg (quReg n 8) 1).reg (quReg n 8) = s.reg (quReg n 8) ||| 1 := reg_orReg_self _ (by decide)
  refine ⟨?_, ?_, ?_, ?_, ?_⟩
  · exact s.quState_setQu_self n q
  · exact hset
  · rfl
  · exact fun _ hm => s.quState_setQu_other q hm
  · rfl

/-! ### The commands of the operations (R233, R334) -/

/-- Each command of a unit runs the list at the queue head for its own operation. -/
theorem exec_quarryCommand {x : Instr} (hx : (op, x) ∈ quarryCommands n) (hn : n < 8) (s : State) :
    QuDesc.knownKind op = true ∧ ∃ f : ListRun, exec x s = .next (s.quRun n op .clean f) := by
  have hunit : ∀ t : State, onUnit (decide (n < 8)) t = .next t := fun t => onUnit_next.2 ⟨decide_eq_true hn, rfl⟩
  simp only [quarryCommands, List.mem_cons, Prod.mk.injEq, List.not_mem_nil, or_false] at hx
  rcases hx with ⟨rfl, rfl⟩ | ⟨rfl, rfl⟩ | ⟨rfl, rfl⟩ | ⟨rfl, rfl⟩ | ⟨rfl, rfl⟩ | ⟨rfl, rfl⟩ | ⟨rfl, rfl⟩ | ⟨rfl, rfl⟩ |
    ⟨rfl, rfl⟩ | ⟨rfl, rfl⟩ | ⟨rfl, rfl⟩ | ⟨rfl, rfl⟩ | ⟨rfl, rfl⟩ | ⟨rfl, rfl⟩ | ⟨rfl, rfl⟩ <;>
  exact ⟨rfl, _, hunit _⟩

end State

/-- Settles O54: a command runs the list at the queue head, which discards a bad one and leaves another operation's. -/
theorem quarryErrorsAreReported : Obligations.QuarryErrorsAreReported := by
  intro s n op x hx hn u
  obtain ⟨hknown, f, hexec⟩ := State.exec_quarryCommand hx hn s
  refine ⟨fun d l hrun htake hdead hkind hwhole hheaps hroom hbad => ?bad, fun d hhead hdead hknown hkind => ?other, fun hqueue hwait => ?empty⟩
  case bad =>
    have hlist := State.quRun_bad hrun htake hdead (hkind ▸ hknown) hkind hwhole hheaps hroom hbad .clean f
    exact ⟨_, hexec.trans (congrArg _ hlist), s.quBad_effect n (d :: l) d⟩
  case other =>
    refine hexec.trans (congrArg _ (State.quRun_other (fun e he => ?_) .clean f))
    obtain rfl : e = d := Option.some.inj (he.symm.trans hhead)
    exact ⟨hdead, hknown, hkind⟩
  case empty =>
    refine hexec.trans (congrArg _ (State.quRun_other (fun e he => ?_) .clean f))
    rw [hqueue, hwait] at he
    exact absurd he (by simp)

end Sys2Proof.Machine
end

section
/-! SUPPORT. What a whole good list leaves at its quarry unit, operation by operation (R241, R244, R245, R250–R252), and the statement about it. -/

namespace Sys2Proof.Machine

namespace State

variable {s : State} {n op : Nat} {l : List QuDesc} {d : QuDesc} {m : Model} {x : Instr}

/-- Where no granule has an error, none of a descriptor's has one. -/
theorem any_contains_nil (gs : List Nat) : gs.any ([] : List Nat).contains = false := by simp

/-- The reads of a list change no model. -/
theorem model_quWarm (s : State) (l : List QuDesc) (i : Nat) : (s.quWarm l).model i = s.model i := by
  have hwarm : s.warmedTo (s.quWarm l) := s.foldl_warmedTo (fun t e => by
    split
    · rfl
    · exact t.heat_warmedTo ..) l
  rw [hwarm, model, model]

/-- Command x of operation op runs the good list l: the list leaves what `listLeft` says, and its queue, with that result. -/
def leavesList (s : State) (n op : Nat) (l : List QuDesc) (d : QuDesc) (m : Model) (x : Instr) : Prop :=
  ∃ t, exec x s = .next t ∧ ((s.quWarm l).listLeft n op l d m).1.quFinished t n l ((s.quWarm l).listLeft n op l d m).2

/-- A command leaves its list when its run, on a list without an error, answers the state and the result of `listLeft`. -/
theorem leavesList_of_run {f : ListRun} (h : s.quReady n op l) (hexec : exec x s = onUnit (decide (n < 8)) (s.quRun n op .clean f))
    (hf : let y := f (s.quWarm l) l [] false; (y.1, y.2.1) = (s.quWarm l).listLeft n op l d m) : s.leavesList n op l d m x := by
  have hready := h
  obtain ⟨hn, -, hne, -⟩ := h
  refine ⟨_, hexec.trans (onUnit_next.2 ⟨decide_eq_true hn, quRun_ready hready f⟩), ?_⟩
  rw [← hf]
  exact quFinish_finished _ _ _ _ _ _ _ _ hne

/-! ### The operations -/

/-- A sketch list answers its ranked rows: no row is left out for an error (R244). -/
theorem sketchScore_leavesList (h : s.quReady n 0x10 (d :: l)) (hm : (s.quWarm (d :: l)).model d.mod = some m) :
    s.leavesList n 0x10 (d :: l) d m (.sketchScore n .clean) := by
  refine leavesList_of_run h rfl ?_
  have hall : (d :: l).filter (fun e => !(listGrans [e]).any ([] : List Nat).contains) = d :: l :=
    List.filter_eq_self.2 fun e _ => by rw [any_contains_nil]; rfl
  simp only [hm, hall]
  rfl

theorem sketchUpd_leavesList (h : s.quReady n 0x11 (d :: l)) (hm : (s.quWarm (d :: l)).model d.mod = some m) :
    s.leavesList n 0x11 (d :: l) d m (.sketchUpd n .clean) := by
  refine leavesList_of_run h rfl ?_
  simp only [hm]
  rfl

/-- BENCH and BENCH_LAT differ in the operation alone (R245). -/
theorem bench_leavesList (hop : op = 0x20 ∨ op = 0x21) (hexec : exec x s = onUnit (decide (n < 8)) (s.bench n op .clean))
    (h : s.quReady n op (d :: l)) (hm : (s.quWarm (d :: l)).model d.mod = some m) : s.leavesList n op (d :: l) d m x := by
  refine leavesList_of_run h hexec ?_
  simp only [hm]
  rcases hop with rfl | rfl <;> rfl

/-- DEQUANT and EXPAND differ in the operation alone; no page is of an error (R250, R251). -/
theorem deliverOp_leavesList (hop : op = 0x30 ∨ op = 0x31) (hexec : exec x s = onUnit (decide (n < 8)) (s.deliverOp n op .clean))
    (h : s.quReady n op (d :: l)) (hm : (s.quWarm (d :: l)).model d.mod = some m) : s.leavesList n op (d :: l) d m x := by
  refine leavesList_of_run h hexec ?_
  simp only [hm, any_contains_nil]
  rcases hop with rfl | rfl <;> rfl

theorem quarryCopy_leavesList (h : s.quReady n 0x40 (d :: l)) : s.leavesList n 0x40 (d :: l) d m (.quarryCopy n .clean) :=
  leavesList_of_run h rfl rfl

/-- ZERO of an extent writes it; ZERO of a frame writes the frame while it still waits for it (R252). -/
theorem zero_leavesList (h : s.quReady n 0x41 (d :: l)) : s.leavesList n 0x41 (d :: l) d m (.zero n .clean) := by
  refine leavesList_of_run h rfl ?_
  cases hframe : d.frame with
  | none => simp only [listLeft, hframe]; rfl
  | some f =>
    simp only [listLeft, hframe, Bool.false_or, Bool.not_false]
    cases hwaits : (s.quWarm (d :: l)).ti.zeroing.contains (n * 2 ^ 20 + f) <;> rfl

/-- MOVE copies an extent, or the granule's bytes into the frame that the tier manager names (R252, R271). -/
theorem move_leavesList (h : s.quReady n 0x42 (d :: l)) : s.leavesList n 0x42 (d :: l) d m (.move n .clean) := by
  refine leavesList_of_run h rfl ?_
  cases hframe : d.frame <;> simp only [listLeft, hframe] <;> rfl

end State

/-- Settles O25: each operation below the searches leaves its list as `listLeft` says. -/
theorem quarryListsLeaveResults : Obligations.QuarryListsLeaveResults := by
  intro s n op x l d m hx hop h hhead hmodel v
  obtain ⟨l, rfl⟩ : ∃ t, l = d :: t := List.head?_eq_some_iff.1 hhead
  have hm : op < 0x40 → (s.quWarm (d :: l)).model d.mod = some m := fun hlow => (s.model_quWarm _ _).trans (hmodel hlow)
  change s.leavesList n op (d :: l) d m x
  simp only [quarryCommands, List.mem_cons, Prod.mk.injEq, List.not_mem_nil, or_false] at hx
  rcases hx with ⟨rfl, rfl⟩ | ⟨rfl, rfl⟩ | ⟨rfl, rfl⟩ | ⟨rfl, rfl⟩ | ⟨rfl, rfl⟩ | ⟨rfl, rfl⟩ | ⟨rfl, rfl⟩ | ⟨rfl, rfl⟩ | ⟨rfl, rfl⟩ | hsearch
  · exact State.sketchScore_leavesList h (hm (by decide))
  · exact State.sketchUpd_leavesList h (hm (by decide))
  · exact State.bench_leavesList (.inl rfl) rfl h (hm (by decide))
  · exact State.bench_leavesList (.inr rfl) rfl h (hm (by decide))
  · exact State.deliverOp_leavesList (.inl rfl) rfl h (hm (by decide))
  · exact State.deliverOp_leavesList (.inr rfl) rfl h (hm (by decide))
  · exact State.quarryCopy_leavesList h
  · exact State.zero_leavesList h
  · exact State.move_leavesList h
  · omega

end Sys2Proof.Machine
end

section
/-! SUPPORT. What the oldest result of a quarry unit becomes at its emitter (R232, R234, R242, R248, R251, R266, R271), and the statement about it. -/

namespace Sys2Proof.Machine

namespace State

variable (s : State)

/-! ### Frames -/

theorem kv_devWriteList (ps : List (Nat × Nat × Nat)) (bs : List Byte) : (s.devWriteList ps bs).kv = s.kv := by
  induction ps generalizing s bs with
  | nil => rfl
  | cons p ps ih =>
    obtain ⟨g, o, m⟩ := p
    rw [devWriteList, ih]
    split
    · rfl
    · unfold writeHome; split <;> rfl

/-- Device writes and their heat leave pages and contexts as they are. -/
theorem kv_heatWrites (ws : List (Nat × List Byte)) : (s.heatWrites ws).kv = s.kv :=
  List.foldlRecOn ws _ (motive := fun t : State => t.kv = s.kv) rfl fun t ht w _ => by
    have hheat : (t.devWrite w.1 w.2).warmedTo ((t.devWrite w.1 w.2).heat w.1 w.2.length) := heat_warmedTo ..
    rw [hheat, ← ht]
    exact kv_devWriteList ..

/-- Writes of on-chip memory change it and its marks of errors alone. -/
theorem foldl_writeMem_frame (ws : List (Nat × List Byte)) : let u := ws.foldl (fun s w => s.writeMem w.1 w.2) s
    u = { s with mem := u.mem, bad := u.bad, soft := u.soft } :=
  List.foldlRecOn ws _ (motive := fun t : State => t = { s with mem := t.mem, bad := t.bad, soft := t.soft }) rfl fun t ht w _ => by
    rw [ht]; rfl

/-! ### The oldest result, by its kind -/

/-- Unit n with its oldest result gone to its emitter. -/
def resultTaken (n : Nat) (rest : List (QuResult × Option (Nat × Nat))) : State := s.setQu n { s.quState n with results := rest }

theorem deliver_none {n : Nat} (hres : (s.quState n).results = []) : s.deliver n = s := by
  simp only [deliver, hres, ite_self]

section

variable {s : State} {n : Nat} {e : Option (Nat × Nat)} {rest : List (QuResult × Option (Nat × Nat))} (hrun : s.pw.stopped = false)

include hrun

theorem deliver_ranks {y layer : Nat} {rows : List (Nat × Nat)} (hres : (s.quState n).results = (.ranks y layer rows none, e) :: rest) :
    s.deliver n = ((s.resultTaken n rest).count (quReg n 0x78) (ceilDiv (8 * rows.length) 64)).kvUpd fun k =>
      { k with ranks := k.ranks.put (4096 * y + layer) (Map.getD [] k.ranks (4096 * y + layer) ++ rows) } := by
  simp only [deliver, hrun, hres, Bool.false_eq_true, if_false]; rfl

theorem deliver_page {y core fw bit : Nat} {ws : List (Nat × List Byte)} (hres : (s.quState n).results = (.page y ws core fw bit none, e) :: rest) :
    s.deliver n = ((ws.foldl (fun s w => s.writeMem w.1 w.2) (s.resultTaken n rest)).count (quReg n 0x78)
      (ws.map fun w => ceilDiv w.2.length 64).sum).setFlags core fw (2 ^ bit) := by
  simp only [deliver, hrun, hres, Bool.false_eq_true, if_false]; rfl

theorem deliver_parts_held {y qaddr c : Nat} {ps : List BenchPart} {t : BenchTarget} (hres : (s.quState n).results = (.parts y qaddr ps none, e) :: rest)
    (ht : s.targetOf qaddr = some (c, t)) (hheld : s.mayDeliver c t ps = false) : s.deliver n = s := by
  simp only [deliver, hrun, hres, ht, hheld, Bool.false_eq_true, if_false]; rfl

theorem deliver_parts {y qaddr c : Nat} {ps : List BenchPart} {t : BenchTarget} (hres : (s.quState n).results = (.parts y qaddr ps none, e) :: rest)
    (ht : s.targetOf qaddr = some (c, t)) (hmay : s.mayDeliver c t ps = true) :
    s.deliver n = (((s.resultTaken n rest).updCore c fun k => { k with partials := k.partials ++ ps.map fun p => ⟨qaddr, p.head, p.pidx, p.data⟩ }).count
      (quReg n 0x70) ps.length).count (quReg n 0x78) (ps.map fun p => ceilDiv p.data.length 64).sum := by
  simp only [deliver, hrun, hres, ht, hmay, Bool.false_eq_true, if_false]; rfl

theorem deliver_sketched {y row layer : Nat} {ws : List (Nat × List Byte)} (hres : (s.quState n).results = (.sketched y row layer ws none, e) :: rest) :
    s.deliver n = (((s.resultTaken n rest).heatWrites ws).count (quReg n 0x78) ws.length).kvUpd fun k =>
      { k with updates := k.updates.filter fun a => !(a.ctx == y && a.row == row && a.layer == layer) } := by
  simp only [deliver, hrun, hres, Bool.false_eq_true, if_false]; rfl

theorem deliver_copied {y dst : Nat} {failed : Option Nat} (hres : (s.quState n).results = (.copied y dst failed, e) :: rest) :
    s.deliver n = (s.resultTaken n rest).copyDone y dst failed := by
  simp only [deliver, hrun, hres, Bool.false_eq_true, if_false]; rfl

theorem deliver_zeroed {key : Nat} (hkey : key < 8 * 2 ^ 20) (hres : (s.quState n).results = (.zeroed key true, e) :: rest) :
    s.deliver n = (((s.resultTaken n rest).zeroDone key).count R.TI_ZERO_LO 1).afterHome := by
  simp only [deliver, hrun, hres, Nat.not_le.2 hkey, Bool.false_eq_true, if_false, if_true]; rfl

theorem deliver_moved {g : Nat} {mv : Move} (hres : (s.quState n).results = (.moved g true, e) :: rest) (hmove : s.moveOf g = some mv)
    (hphase : mv.phase = .copying) (hgot : g ∉ mv.got) :
    s.deliver n = (s.resultTaken n rest).setMove mv { mv with got := mv.got ++ [g] } := by
  have hmove' : (s.resultTaken n rest).moveOf g = some mv := hmove
  have hnew : mv.phase = .copying ∧ (!mv.got.contains g) = true := ⟨hphase, by simpa using hgot⟩
  simp only [deliver, hrun, hres, Bool.false_eq_true, if_false, if_true]
  rw [← resultTaken]
  simp only [hmove', if_pos hnew]

theorem deliver_search {b : Nat} {rows : List (Nat × Nat)} (hres : (s.quState n).results = (.search b rows, e) :: rest) :
    s.deliver n = (s.resultTaken n rest).skDeliver b rows := by
  simp only [deliver, hrun, hres, Bool.false_eq_true, if_false]; rfl

theorem deliver_bad {y g : Nat} (hres : (s.quState n).results = (.bad y g, e) :: rest) :
    s.deliver n = (s.resultTaken n rest).failCtx y 0x12 0 (g % 2 ^ 36) := by
  simp only [deliver, hrun, hres, Bool.false_eq_true, if_false]; rfl

end

/-! ### What a delivery leaves -/

/-- Ranks stand behind the earlier ones of their context and layer. -/
theorem ranksJoined_effect {k off i : Nat} {rows : List (Nat × Nat)} :
    let u := (s.count off i).kvUpd fun a => { a with ranks := a.ranks.put k (Map.getD [] a.ranks k ++ rows) }
    Map.getD [] u.kv.ranks k = Map.getD [] s.kv.ranks k ++ rows ∧ (∀ j, j ≠ k → Map.getD [] u.kv.ranks j = Map.getD [] s.kv.ranks j) ∧
    u = { s with regs := u.regs, kv := { s.kv with ranks := u.kv.ranks } } := by
  rw [count_regs_only]
  exact ⟨Map.getD_put_self .., fun j hj => Map.getD_put_other _ _ _ hj, rfl⟩

/-- The pages stand in on-chip memory. -/
theorem pageWritten_effect {off i : Nat} {ws : List (Nat × List Byte)} :
    let w := ws.foldl (fun s w => s.writeMem w.1 w.2) s
    let u := w.count off i
    u.mem = w.mem ∧ u = { s with mem := u.mem, bad := u.bad, soft := u.soft, regs := u.regs } := by
  intro w u
  have hregs : w.regsOnly u := w.regsOnly_count off i
  obtain ⟨g, hu⟩ := regsOnly_iff.1 hregs
  rw [hu]
  exact ⟨rfl, congrArg (fun t : State => { t with regs := g }) (s.foldl_writeMem_frame ws)⟩

/-- Partials come to the core of their target alone. -/
theorem partialsTaken_effect {c off i off' i' : Nat} (f : CoreState → CoreState) : let u := ((s.updCore c f).count off i).count off' i'
    u.core c = f (s.core c) ∧ (∀ d, d ≠ c → u.core d = s.core d) ∧ u = { s with cores := u.cores, regs := u.regs } := by
  intro u
  have hregs : (s.updCore c f).regsOnly u := regsOnly_trans (regsOnly_count ..) (regsOnly_count ..)
  obtain ⟨g, hu⟩ := regsOnly_iff.1 hregs
  rw [hu]
  exact ⟨core_updCore_self .., fun d hd => core_updCore_other _ _ hd, rfl⟩

/-- Records are written, and their updates no longer awaited. -/
theorem sketchesWritten_effect {off i : Nat} {ws : List (Nat × List Byte)} (p : SketchJob → Bool) :
    let u := ((s.heatWrites ws).count off i).kvUpd fun k => { k with updates := k.updates.filter p }
    u = { s.heatWrites ws with regs := u.regs, kv := { s.kv with updates := s.kv.updates.filter p } } := by
  rw [count_regs_only, ← s.kv_heatWrites ws]
  rfl

/-- A zeroed frame takes the writes that waited for it, and counts. -/
theorem frameZeroed_effect (key : Nat) : let u := (s.zeroDone key).count R.TI_ZERO_LO 1
    s.adds u R.TI_ZERO_LO 1 ∧
    u = { s with
      regs := u.regs
      stk := (s.ti.after.filter fun w => w.1 / 65536 == key).foldl (fun k w => Memory.write 0 k w.1 w.2) s.stk
      ti := { s.ti with zeroing := s.ti.zeroing.filter (· != key), after := s.ti.after.filter fun w => w.1 / 65536 != key } } := by
  refine ⟨reg64_count_self .., ?_⟩
  dsimp only
  rw [count_regs_only]
  rfl

end State

/-- A delivery is followed by the return of spoil (R234). -/
theorem exec_quarryResultDeliver {n : Nat} (hn : n < 8) {s t : State} (h : s.deliver n = t) :
    exec (.quarryResultDeliver n) s = .next t.returnSpoil :=
  onUnit_next.2 ⟨decide_eq_true hn, congrArg State.returnSpoil h⟩

/-- Settles O29: each kind of result goes to its emitter by its own delivery. -/
theorem resultsReachTheirEmitters : Obligations.ResultsReachTheirEmitters := by
  intro s n e r rest hn x
  refine ⟨fun hnone => exec_quarryResultDeliver hn (s.deliver_none hnone), fun hrun hres => ?_⟩
  intro v
  refine ⟨?ranks, ?page, ?parts, ?sketched, ?copied, ?zeroed, ?moved, ?search, ?bad⟩
  case ranks =>
    rintro y layer rows rfl
    exact ⟨_, exec_quarryResultDeliver hn (State.deliver_ranks hrun hres), v.ranksJoined_effect⟩
  case page =>
    rintro y ws core fw bit rfl
    exact ⟨_, exec_quarryResultDeliver hn (State.deliver_page hrun hres), v.pageWritten_effect⟩
  case parts =>
    rintro y qaddr ps c t rfl ht
    exact ⟨fun hheld => exec_quarryResultDeliver hn (State.deliver_parts_held hrun hres ht hheld),
      fun hmay => ⟨_, exec_quarryResultDeliver hn (State.deliver_parts hrun hres ht hmay), v.partialsTaken_effect _⟩⟩
  case sketched =>
    rintro y row layer ws rfl
    exact ⟨_, exec_quarryResultDeliver hn (State.deliver_sketched hrun hres), v.sketchesWritten_effect _⟩
  case copied =>
    rintro y dst rfl
    exact exec_quarryResultDeliver hn (State.deliver_copied hrun hres)
  case zeroed =>
    rintro key hkey rfl
    exact ⟨_, exec_quarryResultDeliver hn (State.deliver_zeroed hrun hkey hres), v.frameZeroed_effect key⟩
  case moved =>
    rintro g mv rfl hmove hphase hgot
    exact exec_quarryResultDeliver hn (State.deliver_moved hrun hres hmove hphase hgot)
  case search =>
    rintro b rows rfl
    exact exec_quarryResultDeliver hn (State.deliver_search hrun hres)
  case bad =>
    rintro y g rfl
    exact exec_quarryResultDeliver hn (State.deliver_bad hrun hres)

end Sys2Proof.Machine
end

section
/-! SUPPORT. Heat epochs (R267, R268, R284): what the decisions of moves and an evacuation leave, and the statement about them. -/

namespace Sys2Proof.Machine

namespace State

variable (s : State)

/-! ### Decisions (R268, R269) -/

/-- A move as its decision leaves it: no frame is taken yet. -/
def justDecided (m : Move) : Prop := m.phase = .decided ∧ m.frames = []

/-- Nothing has changed but that moves have been decided, behind those that stood, and which granules wait for a decision. -/
def decidesTo (t : State) : Prop :=
  ∃ l w, (∀ m ∈ l, justDecided m) ∧ t = { s with ti := { s.ti with moves := s.ti.moves ++ l, wanted := w } }

theorem decidesTo_refl : s.decidesTo s :=
  ⟨[], s.ti.wanted, List.forall_mem_nil _, by rw [List.append_nil]⟩

theorem decidesTo_trans {s t u : State} (h : s.decidesTo t) (h' : t.decidesTo u) : s.decidesTo u := by
  obtain ⟨l, w, hl, rfl⟩ := h
  obtain ⟨l', w', hl', rfl⟩ := h'
  exact ⟨l ++ l', w', List.forall_mem_append.2 ⟨hl, hl'⟩, by rw [← List.append_assoc]⟩

theorem foldl_decidesTo {α : Type} {f : State → α → State} (hf : ∀ t a, decidesTo t (f t a)) (l : List α) : s.decidesTo (l.foldl f s) :=
  List.foldlRecOn l f (motive := s.decidesTo) s.decidesTo_refl fun t ht a _ => decidesTo_trans ht (hf t a)

theorem wanted_decidesTo (w : List Nat) : s.decidesTo (s.upd fun t => { t with wanted := w }) :=
  ⟨[], w, List.forall_mem_nil _, by rw [List.append_nil]; rfl⟩

theorem plan_decidesTo {m : Move} (h : justDecided m) : s.decidesTo (s.plan m) :=
  ⟨[m], s.ti.wanted, List.forall_mem_singleton.2 h, rfl⟩

theorem demote_decidesTo (g : Nat) (kind : MoveKind) : s.decidesTo (s.demote g kind) := s.plan_decidesTo ⟨rfl, rfl⟩

theorem demandAny_decidesTo (g : Nat) : s.decidesTo (s.demandAny g) := by
  unfold demandAny
  dsimp only
  split
  · exact s.decidesTo_refl
  · split
    · exact s.wanted_decidesTo _
    · exact decidesTo_trans (decidesTo_trans (s.wanted_decidesTo _) (foldl_decidesTo _ (fun t v => t.demote_decidesTo v .demote) _))
        (plan_decidesTo _ ⟨rfl, rfl⟩)

theorem demand_decidesTo (g : Nat) : s.decidesTo (s.demand g) := by
  unfold demand
  split
  · exact s.decidesTo_refl
  · exact s.demandAny_decidesTo g

/-! ### The placement pass (R268) -/

theorem passDown_decidesTo (d b free : Nat) : s.decidesTo (passDown d b free s).2.2 := by
  induction b generalizing free s with
  | zero => exact s.decidesTo_refl
  | succ b ih =>
    unfold passDown
    dsimp only
    split
    · exact s.decidesTo_refl
    · split
      · exact s.decidesTo_refl
      · exact decidesTo_trans (s.demote_decidesTo _ .heat) (ih ..)

theorem passUp_decidesTo (d : Nat) (l : List Nat) (b free : Nat) : s.decidesTo (passUp d l b free s) := by
  induction l generalizing b free s with
  | nil => exact s.decidesTo_refl
  | cons u l ih =>
    have hpromote : ∀ (t : State) (v : Option Nat) (c n : Nat),
        t.decidesTo (passUp d l c n (t.plan { t.newMove u .heat true t.roomiest with pair := v })) :=
      fun t v c n => decidesTo_trans (t.plan_decidesTo ⟨rfl, rfl⟩) (ih ..)
    unfold passUp
    dsimp only
    split
    · exact s.decidesTo_refl
    · split
      · split
        case h_1 => exact ih ..
        case h_2 v hv =>
          split
          · exact ih ..
          · refine decidesTo_trans (s.demote_decidesTo v .exchange) ?_
            split
            · exact ih ..
            · split
              · exact decidesTo_refl _
              · exact hpromote ..
      · split
        · exact ih ..
        · exact hpromote ..

theorem pass_decidesTo (d : Nat) : s.decidesTo (s.pass d) :=
  decidesTo_trans (s.passDown_decidesTo d _ _) (passUp_decidesTo ..)

/-! ### Evacuations (R284) -/

/-- What `decidesTo` allows, and beside it registers, reports, and map frames relocated to free frames. -/
def evacuatesTo (t : State) : Prop :=
  ∃ g e l w p d, (∀ m ∈ l, justDecided m) ∧
    t = { s with regs := g, el := e, ti := { s.ti with moves := s.ti.moves ++ l, wanted := w, moved := p, dirty := d } }

theorem evacuatesTo_of_decidesTo {s t : State} (h : s.decidesTo t) : s.evacuatesTo t := by
  obtain ⟨l, w, hl, rfl⟩ := h
  exact ⟨s.regs, s.el, l, w, s.ti.moved, s.ti.dirty, hl, rfl⟩

theorem evacuatesTo_trans {s t u : State} (h : s.evacuatesTo t) (h' : t.evacuatesTo u) : s.evacuatesTo u := by
  obtain ⟨g, e, l, w, p, d, hl, rfl⟩ := h
  obtain ⟨g', e', l', w', p', d', hl', rfl⟩ := h'
  exact ⟨g', e', l ++ l', w', p', d', List.forall_mem_append.2 ⟨hl, hl'⟩, by rw [← List.append_assoc]⟩

theorem foldl_evacuatesTo {α : Type} {f : State → α → State} (hf : ∀ t a, evacuatesTo t (f t a)) (l : List α) : s.evacuatesTo (l.foldl f s) :=
  List.foldlRecOn l f (motive := s.evacuatesTo) (evacuatesTo_of_decidesTo s.decidesTo_refl) fun t ht a _ => evacuatesTo_trans ht (hf t a)

theorem evacuatesTo_of_sameMoves {s t : State}
    (h : t = { s with regs := t.regs, el := t.el, ti := { s.ti with moved := t.ti.moved, dirty := t.ti.dirty } }) : s.evacuatesTo t :=
  ⟨t.regs, t.el, [], s.ti.wanted, t.ti.moved, t.ti.dirty, List.forall_mem_nil _, by rw [List.append_nil]; exact h⟩

theorem evacStuck_evacuatesTo (p : Nat) : s.evacuatesTo (s.evacStuck p) := by
  apply evacuatesTo_of_sameMoves
  unfold evacStuck
  split <;> rfl

theorem relocate_evacuatesTo (st pc : Nat) : s.evacuatesTo (s.relocate st pc) := by
  refine s.foldl_evacuatesTo (fun t i => ?_) _
  split
  · exact evacuatesTo_of_sameMoves rfl
  · exact t.evacStuck_evacuatesTo 0

theorem evacuate_evacuatesTo : s.evacuatesTo s.evacuate := by
  unfold evacuate
  refine evacuatesTo_trans (s.foldl_evacuatesTo (fun t k => t.relocate_evacuatesTo _ _) _) (foldl_evacuatesTo _ (fun t g => ?_) _)
  have hplan : ∀ up dst, t.evacuatesTo (t.plan (t.newMove g .evac up dst)) :=
    fun _ _ => evacuatesTo_of_decidesTo (t.plan_decidesTo ⟨rfl, rfl⟩)
  dsimp only
  split
  · exact hplan ..
  · split
    · exact t.evacStuck_evacuatesTo _
    · split
      · exact hplan ..
      · split
        · exact hplan ..
        · exact t.evacStuck_evacuatesTo _

/-- With no channel being evacuated no unit has to leave, and nothing changes. -/
theorem evacuate_idle {s : State} (h : s.ti.evac = []) : s.evacuate = s := by
  have hunits : s.evacUnits = [] := by
    unfold evacUnits
    rw [h, List.filterMap_eq_nil_iff.2 fun e _ => if_neg (by rw [List.contains_nil, Bool.and_false]; exact Bool.false_ne_true)]
    rfl
  simp only [evacuate, h, List.foldl_nil, hunits, List.filter_nil]

/-! ### The epoch (R267) -/

/-- Every heat halved and every grace ended; an entry left without content is not listed. -/
def halved : State := s.upd fun t => { t with
  map := (s.ti.map.map fun e => (e.1, { e.2 with heat := e.2.heat / 2, grace := false })).filter fun e => e.2 != MapEntry.undefined }

/-- The decisions of an epoch before its evacuation: waiting demand promotions try again (R269). -/
def retried : State := s.ti.wanted.foldl demand s.halved

/-- The passes of the four dies (R268). -/
def passed : State := (List.range 4).foldl pass s

theorem passed_decidesTo : s.decidesTo s.passed := s.foldl_decidesTo (fun t d => t.pass_decidesTo d) _

theorem retried_decidesTo : s.halved.decidesTo s.retried := foldl_decidesTo _ (fun t g => t.demand_decidesTo g) _

theorem epoch_evacuatesTo : s.halved.evacuatesTo s.retried.evacuate.passed :=
  evacuatesTo_trans (evacuatesTo_trans (evacuatesTo_of_decidesTo s.retried_decidesTo) (evacuate_evacuatesTo _))
    (evacuatesTo_of_decidesTo (passed_decidesTo _))

/-- Without an evacuation an epoch only halves heats and decides moves. -/
theorem epoch_decidesTo {s : State} (h : s.ti.evac = []) : s.halved.decidesTo s.retried.evacuate.passed := by
  have hevac : s.retried.ti.evac = [] := by
    obtain ⟨l, w, -, ht⟩ := s.retried_decidesTo
    rw [ht]
    exact h
  rw [evacuate_idle hevac]
  exact decidesTo_trans s.retried_decidesTo (passed_decidesTo _)

end State

theorem exec_heatEpoch (s : State) : exec .heatEpoch s = .next s.retried.evacuate.passed := rfl

/-- Settles O30: after the halving, retries, evacuations and passes add decisions to the moves and change no home. -/
theorem heatEpochHalvesHeat : Obligations.HeatEpochHalvesHeat := by
  intro s
  obtain ⟨g, e, l, w, p, d, hl, ht⟩ := s.epoch_evacuatesTo
  refine ⟨_, exec_heatEpoch s, ?map, ?kept, ?added, fun hevac => ?idle, ?frame⟩
  case idle =>
    obtain ⟨l', w', -, ht'⟩ := State.epoch_decidesTo hevac
    rw [ht']
    exact ⟨rfl, rfl, rfl⟩
  all_goals rw [ht]
  case map => rfl
  case kept => exact fun m hm => List.mem_append_left _ hm
  case added => exact fun m hm => (List.mem_append.1 hm).imp_right (hl m)
  case frame => rfl

end Sys2Proof.Machine
end

section
/-! SUPPORT. The steps of a move (R237, R266, R271, R277–R280), background zeroing, re-supply limits and patrol reads (R259, R266, R282), and the statement about them. -/

namespace Sys2Proof.Machine

namespace State

variable {s : State} {m : Move} {g : Nat}

/-! ### Reservation (R266, R271) -/

/-- A search finds the one element that has the property. -/
theorem find?_of_unique {α : Type} {p : α → Bool} {l : List α} {a : α} (ha : a ∈ l) (hp : p a = true) (huniq : ∀ b ∈ l, p b = true → b = a) :
    l.find? p = some a := by
  obtain ⟨b, hb⟩ := Option.isSome_iff_exists.1 (List.find?_isSome.2 ⟨a, ha, hp⟩)
  rw [hb, huniq b (List.mem_of_find?_eq_some hb) (List.find?_some hb)]

/-- A granule that no move covers reserves nothing. -/
theorem reserve_uncovered (h : ∀ d ∈ s.ti.moves, Move.covers d g = false) (f : Nat) : s.reserve g f = s := by
  have hnone : ∀ q : Move → Bool, s.ti.moves.find? (fun d => Move.covers d g && q d) = none :=
    fun q => List.find?_eq_none.2 fun d hd => by simp [h d hd]
  simp only [reserve, Bool.and_assoc, hnone]

/-- The only move of a granule, in RESERVED, takes the frame, and copies with its last one. -/
theorem reserve_reserved {f : Nat} (hmem : m ∈ s.ti.moves) (hcover : Move.covers m g = true) (honly : ∀ d ∈ s.ti.moves, Move.covers d g = true → d = m)
    (hphase : m.phase = .reserved) (hframe : m.frames.get? g = none) (hundef : (s.entry g).undef = false)
    (htakes : s.takes m g f (s.entry g).polder = true) :
    let m' := { m with frames := m.frames.put g f }
    let u := s.setMove m m'
    s.reserve g f = if m'.frames.length = m.size then u.startCopy m' else u := by
  have hundecided : s.ti.moves.find? (fun d => Move.covers d g && d.phase == .decided && (s.moveOf g).isSome) = none :=
    List.find?_eq_none.2 fun d hd hp => by
      simp only [Bool.and_eq_true] at hp
      obtain ⟨⟨hcov, hdecided⟩, -⟩ := hp
      rw [honly d hd hcov, hphase] at hdecided
      exact absurd hdecided (by decide)
  have hstay : s.retarget m = m := by simp [retarget, hphase]
  have hpolder : s.granPolder g = (s.entry g).polder := by simp [granPolder, hundef]
  have hfound : s.ti.moves.find? (fun d => Move.covers d g && (d.phase == .decided || d.phase == .reserved) && (d.frames.get? g).isNone
      && s.takes (s.retarget d) g f (s.granPolder g)) = some m := by
    refine find?_of_unique hmem ?_ fun d hd hp => honly d hd ?_
    · rw [hstay, hpolder, htakes, hcover, hphase, hframe]
      rfl
    · simp only [Bool.and_eq_true] at hp
      exact hp.1.1.1
  simp only [reserve, hundecided, hfound, hstay, hundef, Bool.and_false, Bool.false_and, Bool.false_eq_true, if_false]
  rw [← hphase]

/-! ### Copying (R271, R277, R278) -/

section

variable (hmove : s.moveOf g = some m) (hphase : m.phase = .copying)

section

variable (hrun : s.pw.stopped = false) (htags : s.moveTags g none = false) (hfin : g ∉ m.fin) (hzero : s.awaitsZero g = false)

include hmove hphase hrun htags hfin hzero

/-- A demotion's ciphertext goes to its spillway frame, and its CRC is kept for the map entry. -/
theorem dataDone_down (hup : m.up = false) :
    let x := s.entry g
    let c := s.encrypt g (s.readFrame x.stack x.frame 0 65536)
    let m' := { m with crcs := m.crcs.put g (crc32c c) }
    s.dataDone g .ok = ((s.send (.hostWrite (s.ti.spill.getD (Map.getD 0 m.frames g) 0) c)).setMove m m').finish m' g := by
  simp [dataDone, hmove, hphase, hrun, htags, hfin, hzero, hup]

/-- A move to another stack writes its frame there. -/
theorem dataDone_across (hup : m.up = true) (hhome : (s.entry g).spill = false) (hstack : (s.entry g).stack ≠ m.dst) :
    let x := s.entry g
    s.dataDone g .ok = (s.writeFrame m.dst (Map.getD 0 m.frames g) 0 (s.readFrame x.stack x.frame 0 65536)).finish m g := by
  simp [dataDone, hmove, hphase, hrun, htags, hfin, hzero, hup, hhome, hstack]

/-- A granule that its read or its quarry MOVE has brought is done once it is there. -/
theorem dataDone_brought (hup : m.up = true) (hbrought : (s.entry g).spill = true ∨ (s.entry g).stack = m.dst) :
    s.dataDone g .ok = if g ∈ m.got then s.finish m g else s := by
  simp [dataDone, hmove, hphase, hrun, htags, hfin, hzero, hup, hbrought]

end

/-! ### Spillway reads (R278, R279) -/

/-- A CRC mismatch sets TI_ERR.CRC_FAIL, counts and is reported. -/
def crcFailed (s : State) (g : Nat) : State := ((s.count R.TI_CRC_FAIL_LO 1).orReg R.TI_ERR 2).report 2 0x08 0x02 (s.entry g).polder 0

theorem crcFailed_effect (s : State) (g : Nat) :
    s.sets (s.crcFailed g) R.TI_ERR 2 ∧ s.adds (s.crcFailed g) R.TI_CRC_FAIL_LO 1 ∧ s.logsOnly (s.crcFailed g) := by
  let u := s.count R.TI_CRC_FAIL_LO 1
  refine ⟨?_, ?_, logsOnly_trans (logsOnly_of_regsOnly (regsOnly_trans (s.regsOnly_count ..) (u.regsOnly_orReg ..))) (report_logsOnly ..)⟩
  · change (u.orReg R.TI_ERR 2).reg R.TI_ERR = _
    rw [reg_orReg_self _ (by decide), reg_count_other _ _ (by decide) (by decide)]
  · change (u.orReg R.TI_ERR 2).reg64 R.TI_CRC_FAIL_LO = _
    rw [reg64, reg_orReg_other _ _ (by decide), reg_orReg_other _ _ (by decide)]
    exact reg64_count_self ..

variable (hup : m.up = true) (hspill : (s.entry g).spill = true) (hgot : g ∉ m.got)

include hmove hphase hup hspill hgot

/-- A read that is late or ends in error is retried. -/
theorem spillRead_failed (c : List Byte) : s.spillRead g false c = s.retryRead m g := by
  simp [spillRead, hmove, hphase, hup, hspill, hgot]

variable {c : List Byte} (htags : s.moveTags g (some .remote) = false) (hlength : c.length = 65536)

include htags hlength

/-- Ciphertext that passes its CRC is decrypted into the frame of the granule. -/
theorem spillRead_good (hcrc : crc32c c = (s.entry g).crc) :
    s.spillRead g true c = (s.writeFrame m.dst (Map.getD 0 m.frames g) 0 (s.decrypt g c)).setMove m (arrived m g) := by
  simp [spillRead, hmove, hphase, hup, hspill, hgot, htags, hlength, hcrc]

/-- Ciphertext that fails its CRC is read again. -/
theorem spillRead_mismatch (hcrc : crc32c c ≠ (s.entry g).crc) : s.spillRead g true c = (s.crcFailed g).retryRead m g := by
  simp [spillRead, hmove, hphase, hup, hspill, hgot, htags, hlength, hcrc, crcFailed]

end

/-! ### The commit (R237, R271) -/

section

variable (hfind : s.ti.moves.find? (fun m => Move.covers m g && m.phase == .commitWait) = some m)

include hfind

theorem moveCommit_ready (hready : s.commitReady m = true) (htables : s.tablesInUse m = false) :
    s.moveCommit g = (s.commitMove m).afterMove m.gran m.size := by
  simp [moveCommit, hfind, hready, htables]

/-- A commit that has been deferred already waits on. -/
theorem moveCommit_deferred (hready : s.commitReady m = false) (hdefer : m.defer = true) : s.moveCommit g = s := by
  simp [moveCommit, hfind, hready, hdefer]

end

/-- The home that a move gives granule g, whose entry was x. -/
def newHome (m : Move) (g : Nat) (x : MapEntry) : MapEntry :=
  if m.up then { x with spill := false, stack := m.dst, frame := Map.getD 0 m.frames g, crc := 0, grace := true }
  else { x with spill := true, stack := 0, frame := Map.getD 0 m.frames g, crc := Map.getD 0 m.crcs g, grace := true }

/-- Granule g has its new home, and its old stack frame is free. -/
def rehome (s : State) (m : Move) (g : Nat) : State :=
  let x := s.entry g
  (if x.spill then s else s.freeFrame x.stack x.frame x.polder).updEntry g (newHome m g)

theorem entry_congr {s t : State} (hregions : t.ti.regions = s.ti.regions) (hmap : t.ti.map = s.ti.map) (g : Nat) : t.entry g = s.entry g := by
  unfold entry entryNo
  rw [hregions, hmap]

theorem entry_updEntry_self {s : State} (h : (s.entryNo g).isSome = true) (f : MapEntry → MapEntry) : (s.updEntry g f).entry g = f (s.entry g) := by
  obtain ⟨e, he⟩ := Option.isSome_iff_exists.1 h
  have hset : ∀ x, (s.setEntry g x).entry g = x := fun x => by
    have he' : (s.setEntry g x).entryNo g = some e := by simp only [setEntry, he]; exact he
    simp only [entry, he']
    simp [setEntry, he]
  exact hset _

theorem entry_rehome {s : State} (h : (s.entryNo g).isSome = true) (m : Move) : (s.rehome m g).entry g = newHome m g (s.entry g) := by
  unfold rehome
  dsimp only
  split
  · exact entry_updEntry_self h _
  · exact entry_updEntry_self (s := s.freeFrame ..) h _

theorem rehome_evac (s : State) (m : Move) (g : Nat) : (s.rehome m g).ti.evac = s.ti.evac := by
  unfold rehome updEntry setEntry
  dsimp only
  split <;> split <;> rfl

/-- With no channel being evacuated a freed frame starts nothing. -/
theorem frameFreed_idle {s : State} (h : s.ti.evac = []) : s.frameFreed = s := by rw [frameFreed, h]; rfl

@[simp] theorem count_ti (s : State) (off n : Nat) : (s.count off n).ti = s.ti := by rw [count_regs_only]

/-- Before its homes change, a move of one granule leaves the list with the decisions that its commit discards, and reads in flight are served. -/
def leaving (s : State) (m : Move) : State :=
  let lost := s.ti.moves.filter fun k => Move.covers k m.gran && k.phase == .decided && !(k.kind == .demand && m.up)
  ((s.upd fun t => { t with moves := t.moves.filter fun k => !Move.covers k m.gran }).count R.TI_DISCARD_LO lost.length).keepReads [m.gran]

theorem leaving_ti (s : State) (m : Move) : (s.leaving m).ti = { s.ti with moves := s.ti.moves.filter fun k => !Move.covers k m.gran } := by
  simp [leaving, keepReads, tgUpd, upd]

/-- After its homes have changed, a commit counts the granules above a spillway quota and those evacuated, and an evacuation goes on. -/
def commitCounted (s : State) (p above off : Nat) : State :=
  ((if above = 0 then s else ((s.count R.TI_SPILL_OVER_LO above).orReg R.TI_ERR 8).report 0 0x08 0x05 p 0).count R.TI_EVAC_LO off).frameFreed

theorem commitCounted_ti {s : State} (h : s.ti.evac = []) (p above off : Nat) : (s.commitCounted p above off).ti = s.ti := by
  let u := (if above = 0 then s else ((s.count R.TI_SPILL_OVER_LO above).orReg R.TI_ERR 8).report 0 0x08 0x05 p 0).count R.TI_EVAC_LO off
  have hu : u.ti = s.ti := by
    dsimp only [u]
    split <;> simp
  rw [commitCounted, frameFreed_idle (hu ▸ h), hu]

theorem commitMove_single (hsize : m.size = 1) :
    ∃ p above off, s.commitMove m = ((s.leaving m).rehome m m.gran).commitCounted p above off := by
  unfold commitMove
  rw [hsize]
  exact ⟨_, _, _, rfl⟩

/-- The commit of a move of one granule leaves its entry with the new home. -/
theorem entry_commitMove (hsize : m.size = 1) (hmapped : (s.entryNo m.gran).isSome = true) (hevac : s.ti.evac = []) :
    (s.commitMove m).entry m.gran = newHome m m.gran (s.entry m.gran) := by
  have hti := s.leaving_ti m
  have hentry : (s.leaving m).entry m.gran = s.entry m.gran := entry_congr (by rw [hti]) (by rw [hti]) _
  have hentryNo : (s.leaving m).entryNo m.gran = s.entryNo m.gran := by unfold entryNo; rw [hti]
  have hclear : ((s.leaving m).rehome m m.gran).ti.evac = [] := by rw [rehome_evac, hti]; exact hevac
  obtain ⟨p, above, off, hcommit⟩ := commitMove_single (s := s) hsize
  have hcounted := commitCounted_ti hclear p above off
  rw [hcommit, entry_congr (congrArg _ hcounted) (congrArg _ hcounted), entry_rehome (hentryNo ▸ hmapped), hentry]

/-! ### Zeroing in the background (R266) -/

section

variable {st k p : Nat} (hst : st < 8)
  (hfirst : (s.ti.dirty.filter fun x => x.1 / 2 ^ 20 == st && s.frameFree st (x.1 % 2 ^ 20)).head? = some (k, p))

include hst hfirst

/-- The first free frame not zeroed gets its ZERO while the stack holds fewer than 1,024 zeroed frames. -/
theorem exec_backgroundZero_few (hfew : s.zeroedFree st < 1024) : exec (.backgroundZero st) s =
    .next ((s.upd fun t => { t with zeroing := t.zeroing ++ [k], dirty := t.dirty.del k }).quPush st (zeroDesc (k % 2 ^ 20))) :=
  onUnit_next.2 ⟨decide_eq_true hst, by rw [hfirst]; exact if_pos hfew⟩

theorem exec_backgroundZero_enough (henough : 1024 ≤ s.zeroedFree st) : exec (.backgroundZero st) s = .next s :=
  onUnit_next.2 ⟨decide_eq_true hst, by rw [hfirst]; exact if_neg (Nat.not_lt.2 henough)⟩

end

/-! ### Re-supply limits (R282) -/

section

variable {due : Nat} (hdue : s.ti.supply.get? g = some due)

include hdue

theorem exec_resupplyTimeout_early (h : s.now < due) : exec (.resupplyTimeout g) s = .next s := by
  change execResupplyTimeout g s = _
  simp [execResupplyTimeout, hdue, h]

/-- A wait that has run out is noted and reported; no model waits here to be failed. -/
theorem exec_resupplyTimeout_due (h : due ≤ s.now) (hwaits : s.waitingModels g = []) : exec (.resupplyTimeout g) s =
    .next (((s.upd fun t => { t with supply := t.supply.del g, expired := t.expired ++ [g] }).orReg R.TI_ERR 4).report 4 0x08 0x04 (s.entry g).polder 0) := by
  change execResupplyTimeout g s = _
  have hpast : Nat.blt s.now due = false := by rw [Bool.eq_false_iff, ne_eq, Nat.blt_eq]; exact Nat.not_lt.2 h
  simp only [execResupplyTimeout, hdue, hpast, hwaits]
  rfl

end

/-! ### Patrol reads (R259, R280) -/

/-- An uncorrectable patrol read sets TI_ERR.STACK_UE and is reported at some line of the granule. -/
def patrolUe (s : State) (st pc g : Nat) : State :=
  ((s.freeLine (g * 65536) 65536).2.orReg R.TI_ERR 0x20).reportAt 4 (0x18 + st) 0x02 pc (s.freeLine (g * 65536) 65536).1

theorem patrolUe_effect (s : State) (st pc g : Nat) : let u := s.patrolUe st pc g
    s.sets u R.TI_ERR 0x20 ∧ s.keeps u [R.TI_ERR] ∧
    u = { s with regs := u.regs, free := s.free + 1, el := { s.el with raised := u.el.raised } } :=
  ⟨reg_orReg_self s.draw.2 (by decide), fun _ ho => reg_orReg_other s.draw.2 _ (List.ne_of_not_mem_cons ho), rfl⟩

theorem exec_patrolRead {st pc : Nat} (hst : st < 8) (hpc : pc < 64) (s : State) (g : Nat) :
    exec (.patrolRead st pc g .clean) s = .next s ∧ exec (.patrolRead st pc g .corrected) s = .next (s.stackCorr st pc) ∧
    exec (.patrolRead st pc g .uncorrectable) s =
      .next (if (s.entry g).spill then s.patrolUe st pc g else (s.patrolUe st pc g).poison g) := by
  have hunit : (decide (st < 8) && decide (pc < 64)) = true := by simp [hst, hpc]
  exact ⟨onUnit_next.2 ⟨hunit, rfl⟩, onUnit_next.2 ⟨hunit, rfl⟩, onUnit_next.2 ⟨hunit, rfl⟩⟩

end State

/-! ### The commands of a move -/

/-- A reservation that gives no first home wakes nothing that waits for one. -/
theorem exec_moveReserve {s t : State} {g f : Nat} (h : s.reserve g f = t) (hundef : (s.entry g).undef = false ∨ t = s) :
    exec (.moveReserve g f) s = .next t := by
  have hfirst : ((s.entry g).undef && !(t.entry g).undef) = false := by
    rcases hundef with hfalse | rfl
    · rw [hfalse]; rfl
    · exact Bool.and_not_self _
  change execMoveReserve g f s = _
  simp [execMoveReserve, h, hfirst]

theorem exec_moveDataDone {s t : State} {g : Nat} {st : XferStatus} (h : s.dataDone g st = t) : exec (.moveDataDone g st) s = .next t :=
  congrArg Host.Outcome.next h

theorem exec_spillReadComplete {s t : State} {g : Nat} {good : Bool} {c : List Byte} (h : s.spillRead g good c = t) :
    exec (.spillReadComplete g good c) s = .next t :=
  congrArg Host.Outcome.next h

theorem exec_spillReadLate {s t : State} {g : Nat} (h : s.spillRead g false [] = t) : exec (.spillReadLate g) s = .next t :=
  congrArg Host.Outcome.next h

theorem exec_moveCommit {s t : State} {g : Nat} (h : s.moveCommit g = t) : exec (.moveCommit g) s = .next t :=
  congrArg Host.Outcome.next h

/-- Settles O31: each phase of a move by the lemma of its step, then background zeroing, re-supply limits and patrol reads. -/
theorem movesReserveCopyAndCommit : Obligations.MovesReserveCopyAndCommit := by
  intro s m g f
  refine ⟨?uncovered, ?reserved, ?copying, ?commit, ?background, ?resupply, ?patrol⟩
  case uncovered => exact fun h => exec_moveReserve (State.reserve_uncovered h f) (.inr rfl)
  case reserved =>
    intro hmem hcover honly hphase hframe _ hundef htakes
    exact exec_moveReserve (State.reserve_reserved hmem hcover honly hphase hframe hundef htakes) (.inl hundef)
  case copying =>
    intro hmove hphase x
    refine ⟨fun hrun htags hfin hzero => ⟨?down, ?across, ?brought⟩, fun c hup hspill hgot => ⟨?read, ?failed, ?late⟩⟩
    case down => exact fun hup => exec_moveDataDone (State.dataDone_down hmove hphase hrun htags hfin hzero hup)
    case across => exact fun hup hhome hstack => exec_moveDataDone (State.dataDone_across hmove hphase hrun htags hfin hzero hup hhome hstack)
    case brought => exact fun hup hbrought => exec_moveDataDone (State.dataDone_brought hmove hphase hrun htags hfin hzero hup hbrought)
    case read =>
      exact fun htags hlength => ⟨fun hcrc => exec_spillReadComplete (State.spillRead_good hmove hphase hup hspill hgot htags hlength hcrc),
        fun hcrc => ⟨_, exec_spillReadComplete (State.spillRead_mismatch hmove hphase hup hspill hgot htags hlength hcrc), s.crcFailed_effect g⟩⟩
    case failed => exact exec_spillReadComplete (State.spillRead_failed hmove hphase hup hspill hgot c)
    case late => exact exec_spillReadLate (State.spillRead_failed hmove hphase hup hspill hgot [])
  case commit =>
    intro hfind
    exact ⟨fun hready htables => exec_moveCommit (State.moveCommit_ready hfind hready htables), State.entry_commitMove,
      fun hready hdefer => exec_moveCommit (State.moveCommit_deferred hfind hready hdefer)⟩
  case background =>
    intro st k p hst hfirst q
    refine ⟨fun hfew hskip => ⟨_, State.exec_backgroundZero_few hst hfirst hfew, ?_, rfl⟩, State.exec_backgroundZero_enough hst hfirst⟩
    let v := s.upd fun t => { t with zeroing := t.zeroing ++ [k], dirty := t.dirty.del k }
    exact (v.quPush_effect (State.zeroDesc (k % 2 ^ 20)) hskip).1
  case resupply =>
    intro due hdue
    refine ⟨State.exec_resupplyTimeout_early hdue, fun hpast hwaits => ⟨_, State.exec_resupplyTimeout_due hdue hpast hwaits, ?_, ?_, rfl⟩⟩
    · exact State.reg_orReg_self s (by decide)
    · exact fun _ ho => State.reg_orReg_other s _ (List.ne_of_not_mem_cons ho)
  case patrol =>
    intro st pc hst hpc
    obtain ⟨hclean, hcorrected, hue⟩ := State.exec_patrolRead hst hpc s g
    exact ⟨hclean, hcorrected, _, hue, s.patrolUe_effect st pc g⟩

end Sys2Proof.Machine
end

section
/-! SUPPORT. Executions of the sluice engine (R289, R291), the claim of a token (R296), a launch with its counts (R293) and a received hop (R302), and the statement about them. -/

namespace Sys2Proof.Machine

namespace Map

/-! ### Tables changed entry by entry -/

variable {α β : Type}

/-- The table in which element i of a list, read through f, stands at b + j + i. -/
def putFrom (f : α → β) (b j : Nat) (l : List α) (m : Map β) : Map β := (l.zipIdx j).foldl (fun t x => t.put (b + x.2) (f x.1)) m

theorem getD_putFrom_before (d : β) (f : α → β) (b : Nat) (l : List α) {i j : Nat} (h : i < j) (m : Map β) :
    Map.getD d (putFrom f b j l m) (b + i) = Map.getD d m (b + i) := by
  induction l generalizing j m with
  | nil => rfl
  | cons a t ih => exact (ih (Nat.lt_succ_of_lt h) _).trans (getD_put_other d m _ (by simp only; omega))

theorem getD_putFrom (d : β) (f : α → β) (b j : Nat) {l : List α} {i : Nat} {n : α} (h : l[i]? = some n) (m : Map β) :
    Map.getD d (putFrom f b j l m) (b + (j + i)) = f n := by
  induction l generalizing i j m with
  | nil => cases h
  | cons a t ih =>
    cases i with
    | zero =>
      obtain rfl : a = n := Option.some.inj h
      exact (getD_putFrom_before d f b t (Nat.lt_succ_self j) _).trans (getD_put_self ..)
    | succ i =>
      rw [show j + (i + 1) = j + 1 + i by omega]
      exact ih (j + 1) h _

end Map

namespace State

variable {s u : State} {opid e k : Nat} {x : SlExec}

/-! ### Executions and their numbers (R289, R291) -/

@[simp] theorem slKey_div (opid e : Nat) : slKey opid e / 65536 = opid := by unfold slKey; omega

theorem slKey_mod (opid : Nat) (he : e < 65536) : slKey opid e % 65536 = e := by unfold slKey; omega

theorem slExec_setExec_self (s : State) (k : Nat) (x : SlExec) : (s.setExec k x).slExec k = some x := Map.get?_put_self ..

theorem slExec_setExec_other (s : State) {k j : Nat} (x : SlExec) (h : j ≠ k) : (s.setExec k x).slExec j = s.slExec j := Map.get?_put_other _ _ h

/-- With no execution of an OPID here, the next one is of its EXEC count. -/
theorem slFree_idle (h : s.slExecs opid = []) (p : SlExec → Bool) : s.slFree opid p = slKey opid (s.slCount opid) := by
  simp [slFree, h]

theorem slActivate_effect (h : s.slExec k = some x) : ∃ ext, (s.slActivate k).slExec k = some { x with phase := 2, ext := ext } := by
  simp only [slActivate, h]
  exact ⟨_, slExec_setExec_self ..⟩

/-! ### What the sluice engine reads is not in the inbox -/

theorem slRec_heard (h : s.heard u) (opid : Nat) : u.slRec opid = s.slRec opid := by rw [h]; rfl
theorem slExec_heard (h : s.heard u) (k : Nat) : u.slExec k = s.slExec k := by rw [h]; rfl
theorem slExecs_heard (h : s.heard u) (opid : Nat) : u.slExecs opid = s.slExecs opid := by rw [h]; rfl
theorem slPast_heard (h : s.heard u) (opid e : Nat) : u.slPast opid e = s.slPast opid e := by rw [h]; rfl
theorem ownRank_heard (h : s.heard u) : u.ownRank = s.ownRank := by rw [h]; rfl
theorem ringRanks_heard (h : s.heard u) (ring : Nat) : u.ringRanks ring = s.ringRanks ring := by rw [h]; rfl
theorem ringPos_heard (h : s.heard u) (ring : Nat) : u.ringPos ring = s.ringPos ring := by rw [h]; rfl
theorem ringPred_heard (h : s.heard u) (ring : Nat) : u.ringPred ring = s.ringPred ring := by rw [h]; rfl
theorem hopLenOk_heard (h : s.heard u) (k : Nat) (x : SlExec) (cidx len : Nat) : u.hopLenOk k x cidx len = s.hopLenOk k x cidx len := by rw [h]; rfl

/-! ### Tokens and claims (R296) -/

/-- The tokens that wait here, without that of an execution. -/
def otherTokens (s : State) (opid e : Nat) : List (Nat × Nat × Nat) := s.sl.tokens.filter fun t => !(t.1 == opid && t.2.1 == e)

/-- The state in which an execution holds its slots and no token of it waits. -/
def slClaimed (s : State) (opid e : Nat) : State :=
  (s.slUpd fun l => { l with tokens := s.otherTokens opid e }).setExec (slKey opid e)
    { (s.slExec (slKey opid e)).getD (SlExecNew e) with phase := 1, slots := slChunks (s.slRec opid) }

theorem slClaimed_effect (s : State) (opid e : Nat) : let v := s.slClaimed opid e
    v.slExec (slKey opid e) = some { (s.slExec (slKey opid e)).getD (SlExecNew e) with phase := 1, slots := slChunks (s.slRec opid) } ∧
    (∀ o, o ≠ slKey opid e → v.slExec o = s.slExec o) ∧ v = { s with sl := { s.sl with execs := v.sl.execs, tokens := s.otherTokens opid e } } :=
  ⟨slExec_setExec_self .., fun _ ho => slExec_setExec_other _ _ ho, rfl⟩

/-- The state in which the token of an execution waits for slots. -/
def tokenKept (s : State) (opid e since : Nat) : State :=
  (s.slUpd fun l => { l with tokens := s.otherTokens opid e ++ [(opid, e, since)] }).orReg R.SL_ERR 0x10

theorem tokenKept_effect (s : State) (opid e since : Nat) : let t := s.tokenKept opid e since
    t.sl.tokens = s.otherTokens opid e ++ [(opid, e, since)] ∧ s.sets t R.SL_ERR 0x10 ∧
    t = { s with sl := { s.sl with tokens := t.sl.tokens }, regs := t.regs } :=
  ⟨rfl, reg_orReg_self s (by decide), rfl⟩

/-- Since when the token of an execution waits here. -/
def tokenSince (s : State) (opid e : Nat) : Nat :=
  match s.sl.tokens.find? fun t => t.1 == opid && t.2.1 == e with
  | some t => t.2.2
  | none => s.now

/-- The state in which a claim has been passed on: the token to the next member, or START to the ring from the last one. -/
def claimPassed (s : State) (opid e : Nat) : State :=
  match s.ringNext (slRing (s.slRec opid)) with
  | some n => s.sendControl n 0x12 (slBody opid e 0 0 0 0 0 0)
  | none => (s.tellRing (slRing (s.slRec opid)) 0x13 (slBody opid e 0 0 0 0 0 0)).slActivate (slKey opid e)

/-- The token of an execution that has not claimed and is not over claims where the budget allows it, and else waits. -/
theorem slToken_fresh (he : e < 65536) (hphase : ((s.slExec (slKey opid e)).getD (SlExecNew e)).phase = 0)
    (hpast : s.slExec (slKey opid e) = none → s.slPast opid e = false) : let r := s.slRec opid
    s.slToken (slKey opid e) = if s.slBudget (slModel r) < s.slHeld (slModel r) + slChunks r then s.tokenKept opid e (s.tokenSince opid e)
      else (s.slClaimed opid e).claimPassed opid e := by
  intro r
  cases hexec : s.slExec (slKey opid e) with
  | none =>
    simp only [slToken, slKey_div, slKey_mod opid he, hexec, hpast hexec, Bool.false_eq_true, if_false]
    rfl
  | some y =>
    have hphase' : (y.phase != 0) = false := by simpa [hexec] using hphase
    simp only [slToken, slKey_div, slKey_mod opid he, hexec, hphase', Bool.false_eq_true, if_false]
    rfl

/-! ### Hops (R302, R303) -/

/-- The state in which a hop with header h has been taken from the inbox. -/
def hopHeard (s : State) (h : Nat) : State := s.takeMsg 0x10 fun m => m.data.take 64 == leBytes 64 h

section

variable {h : Nat} {data : List Byte}

/-- A hop of an execution that is over is dropped. -/
theorem hop_over (hover : s.slExec (slKey (bitsOf h 15 0) (bitsOf h 31 16)) = none ∧ s.slPast (bitsOf h 15 0) (bitsOf h 31 16) = true ∨
    s.slExec (slKey (bitsOf h 15 0) (bitsOf h 31 16)) = some x ∧ x.phase = 3) : s.hop h data = (s.hopHeard h).count R.SL_DROPS_LO 1 := by
  have hheard : s.heard (s.hopHeard h) := s.takeMsg_heard ..
  rw [← slExec_heard hheard, ← slPast_heard hheard] at hover
  unfold hopHeard at hover ⊢
  rcases hover with ⟨hnone, hpast⟩ | ⟨hsome, hphase⟩
  · simp [hop, hnone, hpast]
  · simp [hop, hsome, hphase]

variable (hsome : s.slExec (slKey (bitsOf h 15 0) (bitsOf h 31 16)) = some x)

include hsome

/-- A hop that its execution does not await aborts it. -/
theorem hop_unawaited (hlive : x.phase ≠ 3) (hnone : ¬ ∃ w ∈ x.waits, w.cidx = bitsOf h 47 32 ∧ w.pass = bitsOf h 55 48 ∧ w.origin = bitsOf h 143 128) :
    s.hop h data = (s.hopHeard h).slAbort (slKey (bitsOf h 15 0) (bitsOf h 31 16)) 0x03 (s.ringPred (slRing (s.slRec (bitsOf h 15 0)))) := by
  have hheard : s.heard (s.hopHeard h) := s.takeMsg_heard ..
  have hknown : (x.waits.any fun w => w.cidx == bitsOf h 47 32 && w.pass == bitsOf h 55 48 && w.origin == bitsOf h 143 128) = false := by
    simpa [← not_and, and_assoc] using hnone
  rw [← slExec_heard hheard] at hsome
  rw [← slRec_heard hheard, ← ringPred_heard hheard]
  unfold hopHeard at hsome ⊢
  simp [hop, hsome, hlive, hknown]

/-- An awaited hop in its place is taken where its CRC is good, and else aborts its execution. -/
theorem hop_awaited (hwait : ∃ w ∈ x.waits, w.cidx = bitsOf h 47 32 ∧ w.pass = bitsOf h 55 48 ∧ w.origin = bitsOf h 143 128) (hactive : x.phase = 2)
    (hres : bitsOf h 79 72 = 0) (hres' : bitsOf h 159 144 = 0) (hres'' : bitsOf h 511 192 = 0) (hlen : bitsOf h 127 96 = data.length)
    (hlenOk : s.hopLenOk (slKey (bitsOf h 15 0) (bitsOf h 31 16)) x (bitsOf h 47 32) data.length = true)
    (hhops : let ring := slRing (s.slRec (bitsOf h 15 0)); bitsOf h 95 80 = hopsFrom (s.ringRanks ring).length (s.ringPos ring) (bitsOf h 143 128)) :
    let k := slKey (bitsOf h 15 0) (bitsOf h 31 16)
    s.hop h data = if crc32c data ≠ bitsOf h 191 160 then
        ((s.hopHeard h).count R.SL_CRC_FAIL_LO 1).slAbort k 0x02 (s.ringPred (slRing (s.slRec (bitsOf h 15 0))))
      else ((s.hopHeard h).hopTake k x (bitsOf h 47 32) (bitsOf h 55 48) (bitsOf h 143 128) (bitsOf h 95 80) (bitsOf h 191 160) data).slRun k := by
  have hheard : s.heard (s.hopHeard h) := s.takeMsg_heard ..
  have hknown : (x.waits.any fun w => w.cidx == bitsOf h 47 32 && w.pass == bitsOf h 55 48 && w.origin == bitsOf h 143 128) = true := by
    simpa [and_assoc] using hwait
  simp only [← slExec_heard hheard, ← slRec_heard hheard, ← ringPred_heard hheard, ← ringRanks_heard hheard, ← ringPos_heard hheard,
    ← hopLenOk_heard hheard] at hsome hlenOk hhops ⊢
  unfold hopHeard at hsome hlenOk hhops ⊢
  simp only [hop, hsome, hactive, hknown, hres, hres', hres'', hlen, hlenOk]
  rw [← hhops]
  simp

end

/-! ### Launches (R293) -/

/-- The state in which the counts of a top-k launch stand, at most K each. -/
def slStaged (s : State) (opid e : Nat) (counts : List Nat) : State :=
  let r := s.slRec opid
  if slKind r = 4 then
    s.slUpd fun t => { t with staged := Map.putFrom (fun n => min n (slK r)) (4096 * slKey opid e) 0 (counts.take (slChunks r)) t.staged }
  else s

theorem slStaged_effect (s : State) (opid e : Nat) (counts : List Nat) : let r := s.slRec opid; let u := s.slStaged opid e counts
    (slKind r = 4 → ∀ i n, counts[i]? = some n → i < slChunks r → Map.getD (slK r) u.sl.staged (4096 * slKey opid e + i) = min n (slK r)) ∧
    (slKind r ≠ 4 → u = s) ∧ u = { s with sl := { s.sl with staged := u.sl.staged } } := by
  intro r u
  by_cases hkind : slKind r = 4
  · have hu : u = s.slUpd fun t => { t with staged := Map.putFrom (fun n => min n (slK r)) (4096 * slKey opid e) 0 (counts.take (slChunks r)) t.staged } :=
      if_pos hkind
    rw [hu]
    refine ⟨fun _ i n hcount hchunk => ?_, absurd hkind, rfl⟩
    have hget : (counts.take (slChunks r))[i]? = some n := (List.getElem?_take_of_lt hchunk).trans hcount
    have hstaged := Map.getD_putFrom (slK r) (fun n => min n (slK r)) (4096 * slKey opid e) 0 hget s.sl.staged
    rwa [Nat.zero_add] at hstaged
  · have hu : u = s := if_neg hkind
    rw [hu]
    exact ⟨fun h => absurd h hkind, fun _ => rfl, rfl⟩

end State

/-! ### The commands -/

section

variable {s : State} {opid e : Nat} {x : SlExec} (hopid : opid < 65536)

include hopid

/-- A command on an OPID completes. -/
theorem onUnit_opid (t : State) : onUnit (decide (opid < 65536)) t = .next t := by simp [hopid]

/-- A launch of an OPID of which nothing stands here wants its next execution, with this die's contribution. -/
theorem exec_sluiceLaunch {d : Nat} (hd : d < 4) (hvalid : slValid (s.slRec opid) = true) (hkind : 2 ≤ slKind (s.slRec opid))
    (hmember : s.ownRank ∈ s.ringRanks (slRing (s.slRec opid))) (hidle : s.slExecs opid = []) (counts : List Nat) :
    exec (.sluiceLaunch d ⟨opid, counts⟩) s = .next
      (((s.slStaged opid (s.slCount opid) counts).slWant (State.slKey opid (s.slCount opid)) fun x => { x with die := some d }).slRunAll) := by
  refine onUnit_next.2 ⟨by simp [hd, hopid], ?_⟩
  have hgo : ¬ (!slValid (s.slRec opid) || decide (slKind (s.slRec opid) < 2) || !(s.ringRanks (slRing (s.slRec opid))).contains s.ownRank) = true := by
    simp [hvalid, Nat.not_lt.2 hkind, hmember]
  rw [if_neg hgo]
  simp only [State.slFree_idle hidle]
  rfl

theorem exec_sluiceLaunch_none {d : Nat} (hd : d < 4) (h : slValid (s.slRec opid) = false ∨ slKind (s.slRec opid) < 2) (counts : List Nat) :
    exec (.sluiceLaunch d ⟨opid, counts⟩) s = .next s := by
  refine onUnit_next.2 ⟨by simp [hd, hopid], if_pos ?_⟩
  rcases h with h | h <;> simp [h]

theorem exec_claimToken (hvalid : slValid (s.slRec opid) = true) :
    ∃ u, s.heard u ∧ exec (.claimToken opid e) s = .next ((u.slToken (State.slKey opid e)).slRunAll) := by
  refine ⟨_, State.takeMsg_heard .., (onUnit_opid hopid _).trans (congrArg _ (if_pos ?_))⟩
  rw [State.slRec_heard (State.takeMsg_heard ..), hvalid]

theorem exec_start (hexec : s.slExec (State.slKey opid e) = some x) (hclaimed : x.phase = 1) :
    ∃ u, s.heard u ∧ exec (.start opid e) s = .next ((u.slActivate (State.slKey opid e)).slRun (State.slKey opid e)) := by
  let u := s.takeMsg 0x13 fun m => leField m.body 0 2 == opid && leField m.body 2 2 == e
  have hheard : s.heard u := s.takeMsg_heard ..
  refine ⟨u, hheard, (onUnit_opid hopid _).trans ?_⟩
  rw [← State.slExec_heard hheard] at hexec
  simp only [u] at hexec ⊢
  simp only [hexec]
  rw [if_pos hclaimed]

theorem exec_startTimeout {t since : Nat} (htokens : s.sl.tokens = [(opid, t, since)]) : exec (.startTimeout opid) s = .next
    (if since + 1000 * s.reg R.SL_START_TIMEOUT ≤ s.now then s.slAbort (State.slKey opid t) 0x06 s.ownRank else s) := by
  refine (onUnit_opid hopid _).trans (congrArg _ ?_)
  rw [htokens]
  by_cases hdue : since + 1000 * s.reg R.SL_START_TIMEOUT ≤ s.now
  · simp [hdue]
  · simp [hdue]

theorem exec_sluiceGrant (c : Nat) (p : HopPass) (o : Nat) : ∃ u, s.heard u ∧
    (∀ y, s.slExec (State.slKey opid e) = some y → y.phase ≠ 3 → exec (.sluiceGrant opid e c p o) s =
      .next ((u.setExec (State.slKey opid e) { y with grants := y.grants ++ [(c, State.passNo p, o)] }).slRun (State.slKey opid e))) ∧
    ((∀ y, s.slExec (State.slKey opid e) = some y → y.phase = 3) → exec (.sluiceGrant opid e c p o) s = .next (u.count R.SL_DROPS_LO 1)) := by
  let u := s.takeMsg 0x11 fun m => leField m.body 0 2 == opid && leField m.body 2 2 == e && leField m.body 4 2 == c &&
    leField m.body 6 1 == State.passNo p && leField m.body 8 2 == o
  have hheard : s.heard u := s.takeMsg_heard ..
  simp only [← State.slExec_heard hheard]
  refine ⟨u, hheard, fun y hexec hlive => (onUnit_opid hopid _).trans ?_, fun hover => (onUnit_opid hopid _).trans (congrArg _ ?_)⟩
  · simp only [u] at hexec ⊢
    simp only [hexec]
    rw [if_neg hlive]
  · change (match u.slExec (State.slKey opid e) with | some y => _ | none => _) = _
    split
    · next y hexec => exact if_pos (hover y hexec)
    · rfl

end

theorem exec_sluiceHop (s : State) (h : BitVec 512) (data : List Byte) : exec (.sluiceHop h data) s = .next (s.hop h.toNat data) := rfl

/-- The passes by their numbers (R302). -/
theorem passNo_of_mem {p : HopPass × Nat} (hp : p ∈ [(HopPass.reduce, 0), (.gather, 1), (.data, 2)]) : State.passNo p.1 = p.2 := by
  simp only [List.mem_cons, List.not_mem_nil, or_false] at hp
  rcases hp with rfl | rfl | rfl <;> rfl

/-- Settles O32: a claim by the lemma of a fresh token, a hop by the three cases of its reception, and the other clauses by their commands. -/
theorem claimsStartAndHopsMove : Obligations.ClaimsStartAndHopsMove := by
  intro s opid e hopid he r k ring x
  refine ⟨fun d counts hd => ⟨?launch, fun h => exec_sluiceLaunch_none hopid hd h counts⟩, ?token, ?claims, ?waits, ?start,
    fun t since => exec_startTimeout hopid, ?grant, ?hop⟩
  case launch =>
    intro hvalid hkind hmember hidle hcount
    obtain ⟨hstaged, hother, hframe⟩ := s.slStaged_effect opid e counts
    subst hcount
    exact ⟨_, exec_sluiceLaunch hopid hd hvalid hkind hmember hidle counts, hstaged, hother, hframe⟩
  case token =>
    intro hvalid
    obtain ⟨u, hheard, hexec⟩ := exec_claimToken (e := e) hopid hvalid
    exact ⟨u, hexec, hheard⟩
  case claims =>
    intro hroom hphase hpast
    have htoken : s.slToken k = (s.slClaimed opid e).claimPassed opid e := (State.slToken_fresh he hphase hpast).trans (if_neg (Nat.not_lt.2 hroom))
    have hring : (s.slClaimed opid e).ringNext (slRing ((s.slClaimed opid e).slRec opid)) = s.ringNext ring := rfl
    refine ⟨s.slClaimed opid e, fun n hnext => ?_, fun hnext => ?_, s.slClaimed_effect opid e⟩
    · rw [htoken, State.claimPassed, hring, hnext]
    · rw [htoken, State.claimPassed, hring, hnext]
      rfl
  case waits =>
    intro hfull hphase hpast
    have htoken : s.slToken k = s.tokenKept opid e (s.tokenSince opid e) := (State.slToken_fresh he hphase hpast).trans (if_pos hfull)
    rw [htoken]
    exact ⟨_, s.tokenKept_effect opid e _⟩
  case start =>
    intro y hy hclaimed
    obtain ⟨u, hheard, hexec⟩ := exec_start hopid hy hclaimed
    exact ⟨u, hexec, hheard, State.slActivate_effect ((State.slExec_heard hheard k).trans hy)⟩
  case grant =>
    intro c o p hp
    rw [← passNo_of_mem hp]
    exact exec_sluiceGrant hopid c p.1 o
  case hop =>
    rintro h data c p o n rfl rfl rfl rfl rfl rfl
    refine ⟨s.hopHeard h.toNat, s.takeMsg_heard .., fun hover => congrArg _ (State.hop_over hover), fun hx hlive => ⟨?unawaited, ?awaited⟩⟩
    case unawaited => exact fun hnone => congrArg _ (State.hop_unawaited hx hlive hnone)
    case awaited =>
      intro hwait hactive hres hres' hres'' hlen hlenOk hhops
      have hgo := (exec_sluiceHop s h data).trans (congrArg _ (State.hop_awaited hx hwait hactive hres hres' hres'' hlen hlenOk hhops))
      refine ⟨fun hcrc => ?_, fun hcrc => ?_⟩
      · rw [hcrc]
        exact hgo.trans (congrArg _ (if_neg fun hne => hne hcrc))
      · exact hgo.trans (congrArg _ (if_pos hcrc))

end Sys2Proof.Machine
end

section
/-! SUPPORT. Late hops and their probes (R309), aborts and their settle windows (R311), and slow notices (R307, R308), and the statement about them. -/

namespace Sys2Proof.Machine

/-- A table changed in its values alone. -/
theorem Map.get?_map {α β : Type} (f : Nat → α → β) (m : Map α) (k : Nat) : Map.get? (m.map fun x => (x.1, f x.1 x.2)) k = (m.get? k).map (f k) := by
  induction m with
  | nil => rfl
  | cons a t ih =>
    obtain ⟨j, y⟩ := a
    rw [List.map_cons, Map.get?_cons, Map.get?_cons, ih]
    split
    · next h => rw [h]; rfl
    · rfl

namespace State

variable {s u : State} {opid k : Nat} {x : SlExec}

/-! ### What is not in the inbox -/

theorem reg_heard (h : s.heard u) (o : Nat) : u.reg o = s.reg o := by rw [h]; rfl
theorem reg64_heard (h : s.heard u) (o : Nat) : u.reg64 o = s.reg64 o := by rw [h]; rfl
theorem slowRanks_heard (h : s.heard u) : u.cu.slowRanks = s.cu.slowRanks := by rw [h]
theorem rings_heard (h : s.heard u) : u.cu.rings = s.cu.rings := by rw [h]

/-! ### The executions of an OPID -/

theorem slExec_eq_get?_slExecs (s : State) (k : Nat) : s.slExec k = Map.get? (s.slExecs (k / 65536)) k := by
  simp only [slExec, slExecs, Map.get?, List.find?_filter]
  congr 2
  funext y
  by_cases h : y.1 = k <;> simp [h]

theorem slExec_only (h : s.slExecs opid = [(k, x)]) (hk : k / 65536 = opid) : s.slExec k = some x := by
  rw [slExec_eq_get?_slExecs, hk, h, Map.get?_cons, if_pos rfl]

theorem slExec_only_other (h : s.slExecs opid = [(k, x)]) {j : Nat} (hj : j / 65536 = opid) (hjk : j ≠ k) : s.slExec j = none := by
  rw [slExec_eq_get?_slExecs, hj, h, Map.get?_cons, if_neg (Ne.symm hjk), Map.get?_nil]

/-! ### What counters and error bits leave as it was -/

@[simp] theorem count_sl (s : State) (off n : Nat) : (s.count off n).sl = s.sl := by rw [count_regs_only]
@[simp] theorem count_cu (s : State) (off n : Nat) : (s.count off n).cu = s.cu := by rw [count_regs_only]

theorem ringPred_eq (hrings : u.cu.rings = s.cu.rings) (hrank : u.ownRank = s.ownRank) (ring : Nat) : u.ringPred ring = s.ringPred ring := by
  simp only [ringPred, ringPos, ringRanks, hrings, hrank]

theorem ringMates_eq (hrings : u.cu.rings = s.cu.rings) (hrank : u.ownRank = s.ownRank) : u.ringMates = s.ringMates := by
  simp only [ringMates, hrings, hrank]

/-- The state in which a counter of the sluice engine has counted one event, and bits m of SL_ERR are set. -/
def slNoted (s : State) (off m : Nat) : State := (s.count off 1).orReg R.SL_ERR m

section

variable {off m : Nat} (hoff : R.SL_ERR + 4 ≤ off) (hrank : off + 8 ≤ R.CU_RT_STATUS) (hm : m < 2 ^ 32)

section

include hrank

theorem ownRank_count (s : State) (n : Nat) : (s.count off n).ownRank = s.ownRank := by
  unfold ownRank
  rw [reg_count_other _ _ (by omega) (by omega)]

theorem ownRank_slNoted (s : State) (m : Nat) : (s.slNoted off m).ownRank = s.ownRank := by
  rw [← ownRank_count hrank s 1]
  unfold ownRank slNoted
  rw [reg_orReg_other _ _ (by decide)]

end

include hoff

theorem slNoted_adds (s : State) (m : Nat) : s.adds (s.slNoted off m) off 1 := by
  unfold adds
  rw [← reg64_count_self]
  unfold reg64 slNoted
  rw [reg_orReg_other _ _ (by omega), reg_orReg_other _ _ (by omega)]

include hm

theorem slNoted_sets (s : State) : s.sets (s.slNoted off m) R.SL_ERR m := by
  rw [sets, slNoted, reg_orReg_self _ hm, reg_count_other _ _ (by omega) (by omega)]

end

@[simp] theorem slNoted_sl (s : State) (off m : Nat) : (s.slNoted off m).sl = s.sl := count_sl ..
@[simp] theorem slNoted_cu (s : State) (off m : Nat) : (s.slNoted off m).cu = s.cu := count_cu ..
@[simp] theorem slNoted_now (s : State) (off m : Nat) : (s.slNoted off m).now = s.now := now_count ..

@[simp] theorem reg_setExec (s : State) (k : Nat) (x : SlExec) (o : Nat) : (s.setExec k x).reg o = s.reg o := rfl
@[simp] theorem reg64_setExec (s : State) (k : Nat) (x : SlExec) (o : Nat) : (s.setExec k x).reg64 o = s.reg64 o := rfl

theorem slNoted_regsOnly (s : State) (off m : Nat) : s.regsOnly (s.slNoted off m) := regsOnly_trans (regsOnly_count ..) (regsOnly_orReg ..)

/-! ### Late hops (R309) -/

/-- An execution of an OPID whose wait w is late, and which asks the predecessor. -/
def askingExec (s : State) (opid : Nat) (x : SlExec) (w : SlWait) : SlExec :=
  { x with
    probe := some (w.cidx, w.pass, s.ringPred (slRing (s.slRec opid))), asked := s.now
    waits := x.waits.map fun v => if v = w then { v with late := true } else v }

/-- The state in which a hop has been noted as late, before the message to the predecessor leaves. -/
def lateAsked (s : State) (k : Nat) (x : SlExec) (w : SlWait) : State :=
  (s.slNoted R.SL_TIMEOUTS_LO 2).setExec k (s.askingExec (k / 65536) x w)

theorem lateAsked_effect (s : State) (k : Nat) (x : SlExec) (w : SlWait) : let u := s.lateAsked k x w
    s.sets u R.SL_ERR 2 ∧ s.adds u R.SL_TIMEOUTS_LO 1 ∧
    u.slExec k = some (s.askingExec (k / 65536) x w) ∧ u = { s with regs := u.regs, sl := { s.sl with execs := u.sl.execs } } := by
  have hsets : s.sets (s.slNoted R.SL_TIMEOUTS_LO 2) R.SL_ERR 2 := s.slNoted_sets (by decide) (by decide)
  have hadds : s.adds (s.slNoted R.SL_TIMEOUTS_LO 2) R.SL_TIMEOUTS_LO 1 := s.slNoted_adds (by decide) 2
  refine ⟨?_, ?_, slExec_setExec_self .., ?_⟩
  · rwa [sets, lateAsked, reg_setExec]
  · rwa [adds, lateAsked, reg64_setExec]
  · obtain ⟨g, hg⟩ := regsOnly_iff.1 (s.slNoted_regsOnly R.SL_TIMEOUTS_LO 2)
    rw [lateAsked, hg]
    rfl

/-- A late hop whose execution has no probe under way asks the predecessor. -/
theorem hopExpires_asks (hprobe : x.probe = none) (w : SlWait) : s.hopExpires k x w =
    (s.lateAsked k x w).sendControl (s.ringPred (slRing (s.slRec (k / 65536)))) 0x15 (slBody (k / 65536) x.exec w.cidx w.pass 0 s.ownRank 0 0) := by
  let v := s.slNoted R.SL_TIMEOUTS_LO 2
  have hrank : v.ownRank = s.ownRank := s.ownRank_slNoted (by decide) 2
  have hrec : v.slRec (k / 65536) = s.slRec (k / 65536) := by simp only [v, slRec, slNoted_sl]
  have hpred : v.ringPred (slRing (v.slRec (k / 65536))) = s.ringPred (slRing (s.slRec (k / 65536))) := by
    rw [hrec, ringPred_eq (by rw [slNoted_cu]) hrank]
  have hnow : v.now = s.now := s.slNoted_now ..
  rw [lateAsked, askingExec, ← hpred, ← hrank, ← hnow]
  exact if_neg (by simp [hprobe])

/-- The execution whose probe waits for a rank's answer. -/
theorem probed_only (h : s.slExecs opid = [(k, x)]) {c p rank : Nat} (hprobe : x.probe = some (c, p, rank)) : s.probed opid rank = some (k, x) := by
  simp [probed, h, hprobe]

/-- The rank before another one in its ring. -/
def ringBefore (s : State) (ring rank : Nat) : Nat :=
  let l := s.ringRanks ring
  l.getD (((l.idxOf? rank).getD 0 + l.length - 1) % max 1 l.length) rank

/-- A rank that waits hands the probe on to the one before it, and the ring's whole round ends at this member, which is late then. -/
theorem probeOn_heard (hheard : s.heard u) {c p rank : Nat} (hprobe : x.probe = some (c, p, rank)) :
    let prev := s.ringBefore (slRing (s.slRec (k / 65536))) rank
    u.probeOn k x rank = if prev = s.ownRank then u.slAbort k 0x01 prev else u.setExec k { x with probe := some (c, p, prev), asked := s.now } := by
  rw [← slRec_heard hheard, ringBefore, ← ringRanks_heard hheard, ← ownRank_heard hheard, ← now_heard hheard]
  simp only [probeOn, hprobe]

/-! ### Aborts (R311) -/

theorem slRetry_idle (h : s.sl.tokens = []) : s.slRetry = s := by rw [slRetry, h]; rfl

/-- Nothing starts for an execution that is not wanted or has claimed. -/
theorem slFirst_idle (h : ∀ y, s.slExec k = some y → y.phase ≠ 0) : s.slFirst k = s := by
  unfold slFirst
  split
  · rfl
  · next y hy => exact if_neg (by simp [h y hy])

/-- What an abort leaves of an execution: it holds nothing, and its settle window begins with the notice n. -/
def endedExec (x : SlExec) (n : Nat × Nat × Nat) (now : Nat) : SlExec :=
  { x with phase := 3, slots := 0, out := [], grants := [], waits := [], got := [], probe := none, notices := [n], since := now }

/-- The state in which an execution has stopped where nothing waits for what it frees, before it is counted. -/
def slQuiet (s : State) (k : Nat) (x : SlExec) (n : Nat × Nat × Nat) : State :=
  { s with
    tg := { s.tg with reqs := s.tg.reqs.filter fun q => match q.owner with | .sluice h => hopExec h != k | _ => true }
    sl := { s.sl with
      count := s.sl.count.store 0 (k / 65536) ((s.slCount (k / 65536) + 1) % 65536), tokens := s.otherTokens (k / 65536) (k % 65536)
      staged := s.sl.staged.filter fun t => t.1 / 4096 != k, execs := s.sl.execs.put k (endedExec x n s.now) } }

def slStopped (s : State) (k : Nat) (x : SlExec) (n : Nat × Nat × Nat) : State := (s.slQuiet k x n).slNoted R.SL_ABORTS_LO 1

theorem slStopped_sl (s : State) (k : Nat) (x : SlExec) (n : Nat × Nat × Nat) : (s.slStopped k x n).sl = (s.slQuiet k x n).sl := slNoted_sl ..

theorem slStopped_effect (s : State) (k : Nat) (x : SlExec) (n : Nat × Nat × Nat) : let t := s.slStopped k x n
    t.slExec k = some (endedExec x n s.now) ∧ t.slCount (k / 65536) = (s.slCount (k / 65536) + 1) % 65536 ∧ s.sets t R.SL_ERR 1 ∧
    s.adds t R.SL_ABORTS_LO 1 ∧ t = { s with regs := t.regs, sl := t.sl, tg := { s.tg with reqs := t.tg.reqs } } := by
  let v := s.slQuiet k x n
  refine ⟨?_, ?_, v.slNoted_sets (by decide) (by decide), v.slNoted_adds (by decide) 1, ?_⟩
  · rw [slExec, slStopped_sl]
    exact Map.get?_put_self ..
  · rw [slCount, slStopped_sl]
    exact Map.getD_store_self ..
  · obtain ⟨g, hg⟩ := regsOnly_iff.1 (v.slNoted_regsOnly R.SL_ABORTS_LO 1)
    rw [slStopped, hg]
    rfl

/-- An execution of the OPID that stands here after the stop is the one that has stopped. -/
theorem phase_slStopped (h : s.slExecs (k / 65536) = [(k, x)]) {j : Nat} (hj : j / 65536 = k / 65536) {n : Nat × Nat × Nat} {y : SlExec}
    (hy : (s.slStopped k x n).slExec j = some y) : y.phase = 3 := by
  rw [slExec, slStopped_sl] at hy
  by_cases hjk : j = k
  · subst hjk
    obtain rfl : endedExec x n s.now = y := Option.some.inj ((Map.get?_put_self ..).symm.trans hy)
    rfl
  · have hnone : s.sl.execs.get? j = none := slExec_only_other h hj hjk
    exact absurd (hnone.symm.trans ((Map.get?_put_other _ _ hjk).symm.trans hy)) nofun

/-- With no token here and no chunk of its OPID in a berm, the only execution of an OPID stops and starts nothing. -/
theorem slStop_only (h : s.slExecs (k / 65536) = [(k, x)]) (htokens : s.sl.tokens = []) (hberm : ∀ b ∈ s.berm, b.opid ≠ k / 65536)
    (cause late det : Nat) : s.slStop k cause late det = s.slStopped k x (cause, late, det) := by
  have hexec : s.slExec k = some x := slExec_only h rfl
  have hchunks : (s.berm.filter fun b => b.opid == k / 65536 && b.exec == x.exec) = [] :=
    List.filter_eq_nil_iff.2 fun b hb => by simp [hberm b hb]
  let t := s.slStopped k x (cause, late, det)
  have hidle : t.sl.tokens = [] := by
    rw [slStopped_sl]
    exact congrArg (List.filter _) htokens
  have hended : ∀ y, t.slExec (slKey (k / 65536) (t.slCount (k / 65536))) = some y → y.phase ≠ 0 := fun y hy => by
    rw [phase_slStopped h (slKey_div ..) hy]
    decide
  have hstop : s.slStop k cause late det = t.slRetry.slFirst (slKey (k / 65536) (t.slCount (k / 65536))) := by
    simp only [slStop, hexec, hchunks, Option.getD_some, List.foldl_nil]
    rfl
  rw [hstop, slRetry_idle hidle, slFirst_idle hended]

/-! ### The end of a settle window (R311) -/

theorem settleAbort_early (h : s.slExecs opid = [(k, x)]) (hearly : x.phase ≠ 3 ∨ s.now < x.since + s.reg R.SL_ABORT_SETTLE) : s.settleAbort opid = s := by
  have hnone : (x.phase == 3 && Nat.ble (x.since + s.reg R.SL_ABORT_SETTLE) s.now) = false := by
    rw [Bool.eq_false_iff, ne_eq, Bool.and_eq_true, beq_iff_eq, Nat.ble_eq]
    omega
  simp [settleAbort, h, hnone]

theorem settleAbort_due (h : s.slExecs opid = [(k, x)]) (hphase : x.phase = 3) (hdue : x.since + s.reg R.SL_ABORT_SETTLE ≤ s.now) :
    s.settleAbort opid = s.settleExec k x := by
  simp [settleAbort, h, hphase, hdue]

/-- The state in which SL_LAST_ABORT shows the abort of an execution, with its one notice. -/
def lastAbort (s : State) (k : Nat) (x : SlExec) (cause late det : Nat) : State :=
  (((s.setReg R.SL_LAST_ABORT0 (k / 65536 + x.exec * 65536)).setReg R.SL_LAST_ABORT1 (slRing (s.slRec (k / 65536)) + cause * 256 + late * 65536)).setReg
    R.SL_LAST_ABORT2 (det + 65536)).setReg64 R.SL_LAST_ABORT_TIME_LO x.since

theorem lastAbort_effect (s : State) (k : Nat) (x : SlExec) (cause late det : Nat) : let u := s.lastAbort k x cause late det
    u.reg R.SL_LAST_ABORT0 = (k / 65536 + x.exec * 65536) % 2 ^ 32 ∧
    u.reg R.SL_LAST_ABORT1 = (slRing (s.slRec (k / 65536)) + cause * 256 + late * 65536) % 2 ^ 32 ∧ u.reg R.SL_LAST_ABORT2 = (det + 65536) % 2 ^ 32 ∧
    s.regsOnly u := by
  intro u
  refine ⟨?_, ?_, ?_, regsOnly_trans (regsOnly_trans (regsOnly_setReg ..) (regsOnly_setReg ..)) (regsOnly_trans (regsOnly_setReg ..) (regsOnly_setReg64 ..))⟩
  · simp only [u, lastAbort]
    rw [reg_setReg64_other _ _ (by decide) (by decide), reg_setReg_other _ _ (by decide), reg_setReg_other _ _ (by decide), reg_setReg_self]
  · simp only [u, lastAbort]
    rw [reg_setReg64_other _ _ (by decide) (by decide), reg_setReg_other _ _ (by decide), reg_setReg_self]
  · simp only [u, lastAbort]
    rw [reg_setReg64_other _ _ (by decide) (by decide), reg_setReg_self]

/-- The state in which the abort of execution k is recorded and reported, and the execution is gone. -/
def settled (s : State) (k : Nat) (x : SlExec) (cause late det : Nat) : State :=
  ((s.lastAbort k x cause late det).report 2 0x09 cause (k / 65536) 0).slUpd fun l => { l with execs := l.execs.del k }

theorem settled_reg (s : State) (k : Nat) (x : SlExec) (cause late det o : Nat) :
    (s.settled k x cause late det).reg o = (s.lastAbort k x cause late det).reg o := by
  rw [settled, reg, slUpd_regs]
  exact reg_report ..

theorem settled_effect (s : State) (k : Nat) (x : SlExec) (cause late det : Nat) : let u := s.settled k x cause late det
    u.slExec k = none ∧ u = { s with regs := u.regs, sl := { s.sl with execs := u.sl.execs }, el := { s.el with raised := u.el.raised } } := by
  obtain ⟨-, -, -, hregs⟩ := s.lastAbort_effect k x cause late det
  obtain ⟨g, hg⟩ := regsOnly_iff.1 hregs
  refine ⟨Map.get?_del_self .., ?_⟩
  rw [settled, hg]
  rfl

/-- The result of a request that an aborted execution ends (R311). -/
def abortResult (k : Nat) (x : SlExec) (cause late : Nat) : Nat := k / 65536 + x.exec * 2 ^ 16 + late * 2 ^ 32 + cause * 2 ^ 48

/-- An execution that a step launched, with one notice and no batch that waits for it, ends its step and resets the cores of its model. -/
theorem settleExec_single {cause late det : Nat} (hnotices : x.notices = [(cause, late, det)]) (hdie : x.die = none) :
    let m := slModel (s.slRec (k / 65536))
    let v := ((s.settled k x cause late det).resetCores m).endStep m 0x15 0 (abortResult k x cause late)
    (∀ b ∈ v.sk.batches, v.skWaits b (k / 65536) x.exec = false) → s.settleExec k x = v := by
  intro m v hbatches
  have hnone : (v.sk.batches.filter fun b => v.skWaits b (k / 65536) x.exec) = [] := List.filter_eq_nil_iff.2 fun b hb => by simp [hbatches b hb]
  have hone : min 1 65535 * 65536 = 65536 := rfl
  have hend : s.settleExec k x = (v.sk.batches.filter fun b => v.skWaits b (k / 65536) x.exec).foldl (fun t b => t.skFail b 0x15 (abortResult k x cause late)) v := by
    simp only [settleExec, hnotices, hdie, List.foldl_nil, List.length_singleton, hone]
    rfl
  rw [hend, hnone, List.foldl_nil]

/-! ### Slow notices (R307, R308) -/

/-- The notice of a rank stands, or stands no more. -/
def slowKept (s : State) (rank : Nat) (on : Bool) : State :=
  { s with cu := { s.cu with slowRanks := (s.cu.slowRanks.filter fun r => r != rank) ++ (if on then [rank] else []) } }

theorem slExtend_cu (s : State) : s.slExtend.cu = s.cu := rfl
theorem reg_slExtend (s : State) (o : Nat) : s.slExtend.reg o = s.reg o := rfl
theorem reg64_slExtend (s : State) (o : Nat) : s.slExtend.reg64 o = s.reg64 o := rfl
theorem reg_slowKept (s : State) (rank : Nat) (on : Bool) (o : Nat) : (s.slowKept rank on).reg o = s.reg o := rfl
theorem reg64_slowKept (s : State) (rank : Nat) (on : Bool) (o : Nat) : (s.slowKept rank on).reg64 o = s.reg64 o := rfl
theorem slowKept_sl (s : State) (rank : Nat) (on : Bool) : (s.slowKept rank on).sl = s.sl := rfl
theorem slowKept_rings (s : State) (rank : Nat) (on : Bool) : (s.slowKept rank on).cu.rings = s.cu.rings := rfl

theorem mem_slowKept_self (s : State) (rank : Nat) (on : Bool) : rank ∈ (s.slowKept rank on).cu.slowRanks ↔ on = true := by
  cases on <;> simp [slowKept]

theorem mem_slowKept_other (s : State) {rank q : Nat} (h : q ≠ rank) (on : Bool) : q ∈ (s.slowKept rank on).cu.slowRanks ↔ q ∈ s.cu.slowRanks := by
  cases on <;> simp [slowKept, h]

/-- The notice of a member stands in its ring. -/
theorem slowIn_of_mem {rank ring : Nat} (hrank : rank ∈ s.cu.slowRanks) (hring : rank ∈ s.ringRanks ring) : s.slowIn ring = true := by
  rw [slowIn, Bool.or_eq_true]
  exact .inr (List.any_eq_true.2 ⟨rank, hrank, List.contains_iff_mem.2 hring⟩)

/-- An execution where active executions of slow rings are extended (R308). -/
def extendedExec (s : State) (k : Nat) (x : SlExec) : SlExec :=
  if x.phase == 2 && s.slowIn (slRing (s.slRec (k / 65536))) then { x with ext := true } else x

theorem slExec_slExtend (s : State) (k : Nat) : s.slExtend.slExec k = (s.slExec k).map (extendedExec s k) :=
  Map.get?_map (extendedExec s) s.sl.execs k

/-- A notice of a rank outside the rings only counts. -/
theorem slowCounted_effect (hheard : s.heard u) : let t := u.count R.SL_SLOW_RX_LO 1
    s.adds t R.SL_SLOW_RX_LO 1 ∧ t = { s with regs := t.regs, cu := { s.cu with inbox := t.cu.inbox } } := by
  refine ⟨?_, ?_⟩
  · rw [adds, reg64_count_self, reg64_heard hheard]
  · obtain ⟨l, hl⟩ := heard_iff.1 hheard
    rw [count_regs_only, hl]

/-- The state in which the notice of a ring member has been taken from the inbox of u. -/
def slowTaken (u : State) (rank : Nat) (on : Bool) : State := ((u.slNoted R.SL_SLOW_RX_LO 0x20).slowKept rank on).slExtend

theorem slowTaken_effect (hheard : s.heard u) (rank : Nat) (on : Bool) : let t := u.slowTaken rank on
    s.sets t R.SL_ERR 0x20 ∧ s.adds t R.SL_SLOW_RX_LO 1 ∧ (rank ∈ t.cu.slowRanks ↔ on = true) ∧
    (∀ q, q ≠ rank → (q ∈ t.cu.slowRanks ↔ q ∈ s.cu.slowRanks)) ∧
    t = { s with regs := t.regs, sl := { s.sl with execs := t.sl.execs }, cu := { s.cu with inbox := t.cu.inbox, slowRanks := t.cu.slowRanks } } := by
  have hsets : u.sets (u.slNoted R.SL_SLOW_RX_LO 0x20) R.SL_ERR 0x20 := u.slNoted_sets (by decide) (by decide)
  have hadds : u.adds (u.slNoted R.SL_SLOW_RX_LO 0x20) R.SL_SLOW_RX_LO 1 := u.slNoted_adds (by decide) 0x20
  refine ⟨?_, ?_, ?_, fun q hq => ?_, ?_⟩
  · rwa [sets, slowTaken, reg_slExtend, reg_slowKept, ← reg_heard hheard]
  · rwa [adds, slowTaken, reg64_slExtend, reg64_slowKept, ← reg64_heard hheard]
  · rw [slowTaken, slExtend_cu]
    exact mem_slowKept_self ..
  · rw [slowTaken, slExtend_cu, mem_slowKept_other _ hq, slNoted_cu, slowRanks_heard hheard]
  · obtain ⟨g, hg⟩ := regsOnly_iff.1 (u.slNoted_regsOnly R.SL_SLOW_RX_LO 0x20)
    obtain ⟨l, hl⟩ := heard_iff.1 hheard
    rw [slowTaken, hg, hl]
    rfl

/-- An active execution whose ring has the rank as a member is extended while its notice stands. -/
theorem slowTaken_extends (hexec : u.slExec k = some x) (hactive : x.phase = 2) {rank : Nat} (hring : rank ∈ u.ringRanks (slRing (u.slRec (k / 65536)))) :
    (u.slowTaken rank true).slExec k = some { x with ext := true } := by
  have hslow : ((u.slNoted R.SL_SLOW_RX_LO 0x20).slowKept rank true).slowIn
      (slRing (((u.slNoted R.SL_SLOW_RX_LO 0x20).slowKept rank true).slRec (k / 65536))) = true := by
    refine slowIn_of_mem ((mem_slowKept_self _ rank true).2 rfl) ?_
    rw [ringRanks, slRec, slowKept_rings, slowKept_sl, slNoted_cu, slNoted_sl]
    exact hring
  have hexec' : ((u.slNoted R.SL_SLOW_RX_LO 0x20).slowKept rank true).slExec k = some x := by
    rw [slExec, slowKept_sl, slNoted_sl]
    exact hexec
  rw [slowTaken, slExec_slExtend, hexec', Option.map_some, extendedExec, hslow, hactive]
  rfl

end State

/-! ### The commands -/

section

variable {s : State} {opid e k : Nat} {x : SlExec} (hopid : opid < 65536)

include hopid

section

variable (h : s.slExecs opid = [(k, x)])

include h

theorem exec_hopTimeout_due {c : Nat} {p : HopPass} {w : SlWait} (hactive : x.phase = 2) (hdue : s.waitDue x c (State.passNo p) = some w) :
    exec (.hopTimeout opid c p) s = .next (s.hopExpires k x w) := by
  refine (onUnit_opid hopid _).trans (congrArg _ ?_)
  simp [h, hactive, hdue]

theorem exec_hopTimeout_early {c : Nat} {p : HopPass} (hearly : x.phase ≠ 2 ∨ s.waitDue x c (State.passNo p) = none) :
    exec (.hopTimeout opid c p) s = .next s := by
  refine (onUnit_opid hopid _).trans (congrArg _ ?_)
  rcases hearly with hphase | hnone
  · simp [h, hphase]
  · simp [h, hnone]

theorem exec_probeTimeout {c p rank : Nat} (hprobe : x.probe = some (c, p, rank)) :
    exec (.probeTimeout opid rank) s = .next (if x.asked + 50 ≤ s.now then s.slAbort k 0x01 rank else s) := by
  refine (onUnit_opid hopid _).trans ?_
  simp only [State.probed_only h hprobe]

theorem exec_probeAnswer {c p rank : Nat} (hprobe : x.probe = some (c, p, rank)) : ∃ u, s.heard u ∧ ∀ waits : Bool,
    exec (.probeAnswer opid rank waits) s = .next (if waits then u.probeOn k x rank else u.slAbort k 0x01 rank) := by
  let u := s.takeMsg 0x16 fun m => leField m.body 0 2 == opid && leField m.body 10 2 == rank
  have hheard : s.heard u := s.takeMsg_heard ..
  refine ⟨u, hheard, fun waits => (onUnit_opid hopid _).trans ?_⟩
  have hprobed : u.probed opid rank = some (k, x) := State.probed_only ((State.slExecs_heard hheard opid).trans h) hprobe
  simp only [u] at hprobed ⊢
  simp only [hprobed]

end

theorem exec_abortSettle : exec (.abortSettle opid) s = .next (s.settleAbort opid) := onUnit_opid hopid _

theorem exec_lateProbe (hexec : s.slExec (State.slKey opid e) = some x) (c : Nat) (p : HopPass) (asker : Nat) : ∃ u, s.heard u ∧
    let w := x.phase == 2 && x.waits.any fun w => w.cidx == c && w.pass == State.passNo p
    let v := u.sendControl asker 0x16 (slBody opid e c (State.passNo p) 0 s.ownRank (b2n w) 0)
    exec (.lateProbe opid e c p asker) s =
      .next (if w then v.sendControl (v.ringPred (slRing (v.slRec opid))) 0x15 (slBody opid e c (State.passNo p) 0 asker 0 0) else v) := by
  let u := s.takeMsg 0x15 fun m => leField m.body 0 2 == opid && leField m.body 4 2 == c && leField m.body 6 1 == State.passNo p
  have hheard : s.heard u := s.takeMsg_heard ..
  refine ⟨u, hheard, (onUnit_opid hopid _).trans ?_⟩
  rw [← State.slExec_heard hheard] at hexec
  rw [← State.ownRank_heard hheard]
  simp only [u] at hexec ⊢
  simp only [hexec]

theorem exec_abortNotice (hexec : s.slExec (State.slKey opid e) = some x) {rg : Nat} (hrg : rg < 256) (cause : Byte) (late det : Nat) :
    ∃ u, s.heard u ∧ exec (.abortNotice opid e rg cause late det) s = .next (let k := State.slKey opid e
      if x.phase = 3 then u.setExec k { x with notices := x.notices ++ [(cause.toNat, late, det)] } else u.slStop k cause.toNat late det) := by
  let u := s.takeMsg 0x14 fun m => leField m.body 0 2 == opid && leField m.body 2 2 == e && leField m.body 14 2 == det
  have hheard : s.heard u := s.takeMsg_heard ..
  refine ⟨u, hheard, onUnit_next.2 ⟨by simp [hopid, hrg], ?_⟩⟩
  rw [← State.slExec_heard hheard] at hexec
  simp only [u] at hexec ⊢
  simp only [hexec]

end

/-- A slow notice counts, and is kept where it comes from a member of a ring of this chip. -/
theorem exec_slowNotice (s : State) {rank : Nat} (hrank : rank < 65536) (on : Bool) : ∃ u, s.heard u ∧
    exec (.slowNotice rank on) s = .next (if rank ∈ s.ringMates then u.slowTaken rank on else u.count R.SL_SLOW_RX_LO 1) := by
  let u := s.takeMsg 0x20 fun m => m.src == rank
  have hheard : s.heard u := s.takeMsg_heard ..
  have hrings : (u.count R.SL_SLOW_RX_LO 1).cu.rings = s.cu.rings := by rw [State.count_cu, State.rings_heard hheard]
  have hown : (u.count R.SL_SLOW_RX_LO 1).ownRank = s.ownRank := (State.ownRank_count (by decide) u 1).trans (State.ownRank_heard hheard)
  rw [← State.ringMates_eq hrings hown]
  refine ⟨u, hheard, onUnit_next.2 ⟨by simp [hrank], ?_⟩⟩
  by_cases hmate : rank ∈ (u.count R.SL_SLOW_RX_LO 1).ringMates
  · rw [if_pos hmate]
    exact if_neg (by simp [u, hmate])
  · rw [if_neg hmate]
    exact if_pos (by simp [u, hmate])

theorem exec_slowNoticeHoldEnd_none {s : State} (h : s.cu.hold = none) : exec .slowNoticeHoldEnd s = .next s := by
  simp [exec, execSlowNoticeHoldEnd, h]

theorem exec_slowNoticeHoldEnd {s : State} {t : Nat} (h : s.cu.hold = some t) : exec .slowNoticeHoldEnd s =
    .next (if t + bitsOf (s.reg R.SL_SLOW_CTRL) 31 8 ≤ s.now then s.postSlow false else s) := by
  simp [exec, execSlowNoticeHoldEnd, h]

/-- Settles O33: late hops and their probes by their commands, an abort by what it leaves where nothing waits, its settle window by its end, and a notice by what it extends. -/
theorem lateHopsEndInAborts : Obligations.LateHopsEndInAborts := by
  intro s opid e x hopid he k h r ring
  have hdiv : k / 65536 = opid := State.slKey_div ..
  have hexec : s.slExec k = some x := State.slExec_only h hdiv
  refine ⟨?late, ?probe, ?notice, ?stop, ?early, ?settle, ?slow, exec_slowNoticeHoldEnd_none, fun t => exec_slowNoticeHoldEnd⟩
  case late =>
    intro c p hp
    rw [← passNo_of_mem hp]
    refine ⟨fun w hactive hdue => ⟨exec_hopTimeout_due hopid h hactive hdue, fun hprobe => ⟨s.lateAsked k x w, ?_, ?_⟩⟩,
      exec_hopTimeout_early hopid h, fun asker w hw => ?_⟩
    · rw [State.hopExpires_asks hprobe, hdiv]
    · have heffect := s.lateAsked_effect k x w
      rwa [hdiv] at heffect
    · subst hw
      exact exec_lateProbe hopid hexec c p.1 asker
  case probe =>
    intro c p rank hprobe
    obtain ⟨u, hheard, hanswer⟩ := exec_probeAnswer hopid h hprobe
    have hon := State.probeOn_heard (k := k) hheard hprobe
    rw [hdiv] at hon
    exact ⟨u, hheard, hanswer false, exec_probeTimeout hopid h hprobe, (hanswer true).trans (congrArg _ hon)⟩
  case notice =>
    exact fun rg late det cause hrg => exec_abortNotice hopid hexec hrg cause late det
  case stop =>
    intro htokens hberm cause late det t
    rw [← hdiv] at h hberm
    have ht : t = s.slStopped k x (cause, late, det) := State.slStop_only h htokens hberm cause late det
    have heffect := s.slStopped_effect k x (cause, late, det)
    rw [hdiv, ← ht] at heffect
    exact heffect
  case early => exact fun hearly => (exec_abortSettle hopid).trans (congrArg _ (State.settleAbort_early h hearly))
  case settle =>
    intro cause late det hphase hdue hnotices hdie
    obtain ⟨hgone, hframe⟩ := s.settled_effect k x cause late det
    obtain ⟨hlast0, hlast1, hlast2, -⟩ := s.lastAbort_effect k x cause late det
    rw [← State.settled_reg] at hlast0 hlast1 hlast2
    have hsettle := State.settleExec_single (s := s) (k := k) hnotices hdie
    simp only [hdiv, State.abortResult] at hlast0 hlast1 hsettle
    exact ⟨_, hgone, fun hbatches => (exec_abortSettle hopid).trans (congrArg _ ((State.settleAbort_due h hphase hdue).trans (hsettle hbatches))),
      hlast0, hlast1, hlast2, hframe⟩
  case slow =>
    intro rank on hrank
    obtain ⟨u, hheard, hnotice⟩ := exec_slowNotice s hrank on
    by_cases hmate : rank ∈ s.ringMates
    · rw [if_pos hmate] at hnotice
      obtain ⟨hsets, hadds, hself, hother, hframe⟩ := State.slowTaken_effect hheard rank on
      refine ⟨_, hnotice, hadds, absurd hmate, fun _ => ⟨hsets, hself, hother, fun hon hactive hring => ?_, hframe⟩⟩
      subst hon
      refine State.slowTaken_extends ((State.slExec_heard hheard k).trans hexec) hactive ?_
      rw [State.slRec_heard hheard, hdiv, State.ringRanks_heard hheard]
      exact hring
    · rw [if_neg hmate] at hnotice
      obtain ⟨hadds, hframe⟩ := State.slowCounted_effect hheard
      exact ⟨_, hnotice, hadds, fun _ => hframe, fun h => absurd h hmate⟩

end Sys2Proof.Machine
end

section
/-! SUPPORT. What offers leave in a heap of a search (R333, R335), and the statement about them. -/

namespace Sys2Proof.Machine

/-! ### Distinct keys in key order -/

theorem eraseDups_concat_mem {ks : List Nat} {k : Nat} (h : k ∈ ks) : (ks ++ [k]).eraseDups = ks.eraseDups := by
  simp [List.eraseDups_append, List.removeAll, h]

theorem eraseDups_concat_fresh {ks : List Nat} {k : Nat} (h : k ∉ ks) : (ks ++ [k]).eraseDups = ks.eraseDups ++ [k] := by
  simp [List.eraseDups_append, List.removeAll, h, List.eraseDups_cons]

theorem eraseDups_nodup (ks : List Nat) : ks.eraseDups.Nodup := by
  induction ks using List.reverseRecOn with
  | nil => simp
  | append_singleton ks k ih =>
    by_cases h : k ∈ ks
    · rwa [eraseDups_concat_mem h]
    · rw [eraseDups_concat_fresh h, List.nodup_append_comm]
      exact List.nodup_cons.2 ⟨fun hk => h (List.mem_eraseDups.1 hk), ih⟩

/-- The distinct keys of a list of offers, in ascending order. -/
def keyOrder (ks : List Nat) : List Nat := ks.eraseDups.mergeSort Nat.ble

theorem keyOrder_perm (ks : List Nat) : (keyOrder ks).Perm ks.eraseDups := List.mergeSort_perm ..

theorem mem_keyOrder {ks : List Nat} {k : Nat} : k ∈ keyOrder ks ↔ k ∈ ks := (keyOrder_perm ks).mem_iff.trans List.mem_eraseDups

theorem keyOrder_ascends (ks : List Nat) : (keyOrder ks).Pairwise (· < ·) := by
  have hle : (keyOrder ks).Pairwise fun a b => Nat.ble a b = true :=
    List.pairwise_mergeSort (fun a b c => by simpa using Nat.le_trans) (fun a b => by simpa using Nat.le_total a b) _
  have hne : (keyOrder ks).Pairwise (· ≠ ·) := (keyOrder_perm ks).nodup_iff.2 (eraseDups_nodup ks)
  exact (hle.and hne).imp fun h => Nat.lt_of_le_of_ne (Nat.le_of_ble_eq_true h.1) h.2

/-- A key offered stands in the order between the smaller keys and the larger ones. -/
theorem keyOrder_split {ks : List Nat} {k : Nat} (h : k ∈ ks) :
    ∃ below above, keyOrder ks = below ++ k :: above ∧ (∀ a ∈ below, a < k) ∧ ∀ b ∈ above, k < b := by
  obtain ⟨below, above, hsplit⟩ := List.append_of_mem (mem_keyOrder.2 h)
  have hasc := keyOrder_ascends ks
  rw [hsplit] at hasc
  obtain ⟨-, habove, hbelow⟩ := List.pairwise_append.1 hasc
  exact ⟨below, above, hsplit, fun a ha => hbelow a ha k List.mem_cons_self, (List.pairwise_cons.1 habove).1⟩

/-- The order without the last offer, a key not offered before. -/
theorem keyOrder_before {ks below above : List Nat} {k : Nat} (hk : k ∉ ks) (h : keyOrder (ks ++ [k]) = below ++ k :: above) :
    keyOrder ks = below ++ above := by
  have hperm : (keyOrder ks).Perm (below ++ above) := by
    refine List.Perm.cons_inv (a := k) ?_
    calc (k :: keyOrder ks).Perm (k :: ks.eraseDups) := (keyOrder_perm ks).cons k
      _ |>.Perm (ks.eraseDups ++ [k]) := (List.perm_append_singleton ..).symm
      _ |>.Perm (below ++ k :: above) := by rw [← eraseDups_concat_fresh hk, ← h]; exact (keyOrder_perm _).symm
      _ |>.Perm (k :: (below ++ above)) := List.perm_middle
  have hasc : (below ++ above).Pairwise (· < ·) :=
    (h ▸ keyOrder_ascends (ks ++ [k])).sublist (List.sublist_cons_self k above |>.append_left below)
  exact hperm.eq_of_pairwise (fun a b _ _ hab hba => absurd hab (Nat.lt_asymm hba)) (keyOrder_ascends ks) hasc

/-! ### An offer to a heap (R335) -/

namespace State

variable {lim k : Nat} {below above : List Nat}

/-- A key that the heap does not hold goes between the smaller and the larger keys, and the heap keeps the first `lim`. -/
theorem skKeep_new (hbelow : ∀ a ∈ below, a < k) (habove : ∀ b ∈ above, k < b) :
    skKeep lim (below ++ above) k = (below ++ k :: above).take lim := by
  have hnew : k ∉ below ++ above := fun h => (List.mem_append.1 h).elim (fun h => Nat.lt_irrefl k (hbelow k h)) fun h => Nat.lt_irrefl k (habove k h)
  have hlow : (below ++ above).filter (fun j => Nat.blt j k) = below := by
    rw [List.filter_append, List.filter_eq_self.2 fun a ha => by simpa using hbelow a ha,
      List.filter_eq_nil_iff.2 fun b hb => by simpa using (habove b hb).le, List.append_nil]
  have hhigh : (below ++ above).filter (fun j => Nat.blt k j) = above := by
    rw [List.filter_append, List.filter_eq_nil_iff.2 fun a ha => by simpa using (hbelow a ha).le,
      List.filter_eq_self.2 fun b hb => by simpa using habove b hb, List.nil_append]
  rw [skKeep, if_neg (by simpa using hnew), hlow, hhigh]

/-- What a full heap dropped before makes no difference to an offer. -/
theorem skKeep_take (hbelow : ∀ a ∈ below, a < k) (habove : ∀ b ∈ above, k < b) :
    skKeep lim ((below ++ above).take lim) k = (below ++ k :: above).take lim := by
  rw [List.take_append, skKeep_new (fun a ha => hbelow a (List.mem_of_mem_take ha)) fun b hb => habove b (List.mem_of_mem_take hb)]
  rcases Nat.lt_or_ge below.length lim with hroom | hfull
  · obtain ⟨r, rfl⟩ : ∃ r, lim = below.length + (r + 1) := ⟨lim - below.length - 1, by omega⟩
    rw [List.take_of_length_le (l := below) (by omega), Nat.add_sub_cancel_left, List.take_length_add_append, List.take_length_add_append,
      List.take_succ_cons, List.take_succ_cons, List.take_take, Nat.min_eq_left (Nat.le_succ r)]
  · rw [List.take_append_of_le_length (by simp [hfull]), List.take_append_of_le_length hfull, List.take_take, Nat.min_self]

/-- A key offered again changes nothing: the heap holds it, or is full of smaller keys. -/
theorem skKeep_again (hbelow : ∀ a ∈ below, a < k) : skKeep lim ((below ++ k :: above).take lim) k = (below ++ k :: above).take lim := by
  rcases Nat.lt_or_ge below.length lim with hroom | hfull
  · refine if_pos (List.contains_iff_mem.2 ?_)
    obtain ⟨r, rfl⟩ : ∃ r, lim = below.length + (r + 1) := ⟨lim - below.length - 1, by omega⟩
    rw [List.take_length_add_append, List.take_succ_cons]
    exact List.mem_append_right _ List.mem_cons_self
  · have h := skKeep_take (lim := lim) (above := []) hbelow (by simp)
    rw [List.append_nil, List.take_append_of_le_length hfull] at h
    rwa [List.take_append_of_le_length hfull]

/-- A heap of the smallest distinct keys is one again after one offer more. -/
theorem skKeep_keyOrder (lim : Nat) (ks : List Nat) (k : Nat) : skKeep lim ((keyOrder ks).take lim) k = (keyOrder (ks ++ [k])).take lim := by
  by_cases hk : k ∈ ks
  · obtain ⟨below, above, hsplit, hbelow, -⟩ := keyOrder_split hk
    rw [show keyOrder (ks ++ [k]) = keyOrder ks from congrArg (List.mergeSort · Nat.ble) (eraseDups_concat_mem hk), hsplit]
    exact skKeep_again hbelow
  · obtain ⟨below, above, hsplit, hbelow, habove⟩ := keyOrder_split (ks := ks ++ [k]) (k := k) (by simp)
    rw [keyOrder_before hk hsplit, hsplit]
    exact skKeep_take hbelow habove

end State

/-- Settles O53, by induction on the offers from the last one on: each keeps the heap the front of the distinct keys in order. -/
theorem searchHeapsKeepTheSmallestKeys : Obligations.SearchHeapsKeepTheSmallestKeys := by
  intro lim ks
  change ks.foldl (State.skKeep lim) [] = (keyOrder ks).take lim
  induction ks using List.reverseRecOn with
  | nil => simp [keyOrder]
  | append_singleton ks k ih => rw [List.foldl_concat, ih, State.skKeep_keyOrder]

end Sys2Proof.Machine
end

section
/-! SUPPORT. What the SEARCH descriptor at the head of a quarry unit's queue leaves, phase by phase (R332–R336), and the statement about it. -/

namespace Sys2Proof.Machine

namespace Map

/-! ### Tables changed by what stands in them -/

variable {α β : Type}

/-- The table in which each element of a list, from number j on, has changed by f what stands at b + its number. -/
def foldFrom (d : β) (f : α → β → β) (b j : Nat) (l : List α) (m : Map β) : Map β :=
  (l.zipIdx j).foldl (fun t x => t.put (b + x.2) (f x.1 (getD d t (b + x.2)))) m

/-- What stands at the number of no element stays. -/
theorem getD_foldFrom_away (d : β) (f : α → β → β) (b : Nat) (l : List α) {j k : Nat} (h : ∀ i, i < l.length → k ≠ b + (j + i)) (m : Map β) :
    getD d (foldFrom d f b j l m) k = getD d m k := by
  induction l generalizing j m with
  | nil => rfl
  | cons a t ih =>
    refine (ih (j := j + 1) (fun i hi => ?_) _).trans (getD_put_other d m _ (h 0 (Nat.succ_pos _)))
    rw [show j + 1 + i = j + (i + 1) by omega]
    exact h (i + 1) (Nat.succ_lt_succ hi)

theorem getD_foldFrom (d : β) (f : α → β → β) (b j : Nat) {l : List α} {i : Nat} {a : α} (h : l[i]? = some a) (m : Map β) :
    getD d (foldFrom d f b j l m) (b + (j + i)) = f a (getD d m (b + (j + i))) := by
  induction l generalizing i j m with
  | nil => cases h
  | cons c t ih =>
    cases i with
    | zero =>
      obtain rfl : c = a := Option.some.inj h
      exact (getD_foldFrom_away d f b t (fun i _ => by omega) _).trans (getD_put_self ..)
    | succ i =>
      rw [show j + (i + 1) = j + 1 + i by omega]
      exact (ih (j + 1) h _).trans (congrArg (f a) (getD_put_other d m _ (by dsimp only; omega)))

end Map

namespace State

variable {s : State} {n ph : Nat} {d : QuDesc} {b : SkBatch} {ix : SkIdx} {x : Instr}

/-! ### A SEARCH descriptor that runs (R334) -/

/-- The reads of a list change registers and the heat of granules alone. -/
theorem quWarm_warmedTo (s : State) (l : List QuDesc) : s.warmedTo (s.quWarm l) := by
  refine s.foldl_warmedTo (fun t e => ?_) l
  split
  · rfl
  · exact t.heat_warmedTo ..

theorem sk_quWarm (s : State) (l : List QuDesc) : (s.quWarm l).sk = s.sk := by rw [s.quWarm_warmedTo l]

/-- What a phase does with a descriptor of a batch: the new state, the neighbour ids found and the compares made. -/
abbrev SearchRun := State → SkBatch → SkIdx → QuDesc → State × List (Nat × Nat) × Nat

/-- The SEARCH descriptor of a phase is done: the heaps stand in the score rows of the unit, on the state u that its offers left, and it has left the queue with the ids found. -/
def searchDone (u t : State) (num n ph : Nat) (d : QuDesc) (ids : List (Nat × Nat)) : Prop :=
  (u.skHeapRows num n ph).quFinished t n [d] (.search d.batch ids)

/-- A ready descriptor of a batch whose index is loaded runs by its phase and is done. -/
theorem skUnit_done (h : s.quReady n (0x500 + ph) [d]) (hb : s.sk.batches.find? (fun b => b.num % 65536 == d.batch) = some b)
    (hix : s.skIdx b.index = some ix) (f : SearchRun) : let y := f (s.quWarm [d]) b ix d
    y.1.searchDone (s.skUnit n ph .clean f) b.num n ph d y.2.1 := by
  have hb' : (s.quWarm [d]).sk.batches.find? (fun b => b.num % 65536 == d.batch) = some b := by rw [sk_quWarm]; exact hb
  have hix' : (s.quWarm [d]).skIdx b.index = some ix := by rw [skIdx, sk_quWarm]; exact hix
  rw [skUnit, quRun_ready h]
  simp only [hb', hix']
  exact quFinish_finished _ _ _ _ _ _ _ _ (List.cons_ne_nil d [])

/-- A phase's command leaves what the phase says when that follows from its run. -/
theorem exec_searchLeft (h : s.quReady n (0x500 + ph) [d]) (hb : s.sk.batches.find? (fun b => b.num % 65536 == d.batch) = some b)
    (hix : s.skIdx b.index = some ix) {f : SearchRun} (hexec : exec x s = onUnit (decide (n < 8)) (s.skUnit n ph .clean f))
    (hleft : let v := s.quWarm [d]; ∀ t, (f v b ix d).1.searchDone t b.num n ph d (f v b ix d).2.1 → v.searchLeft t n ph d b ix) :
    ∃ t, exec x s = .next t ∧ (s.quWarm [d]).searchLeft t n ph d b ix :=
  have hdone := skUnit_done h hb hix f
  have ⟨hn, _⟩ := h
  ⟨_, hexec.trans (onUnit_next.2 ⟨decide_eq_true hn, rfl⟩), hleft _ hdone⟩

/-! ### CENTROID ranks the lists of its extent (R332) -/

section

variable (v : State) (n : Nat) (d : QuDesc) (b : SkBatch) (ix : SkIdx)

/-- The lists whose centroids stand in the extent of d, with those centroids. -/
def extentLists : List (Nat × Nat) :=
  ((List.range (ceilDiv d.len (v.skSb b.index))).map fun i =>
    ((d.addr - ix.cent) / v.skSb b.index + i, ofLe (v.devRead (d.addr + i * v.skSb b.index) (v.skSb b.index)))).filter
      fun l => Nat.blt l.1 (v.skLists b.index)

/-- A heap of query q after the offers of these lists. -/
def rankLists (q : SkQuery) (heap : List Nat) : List Nat :=
  (v.extentLists d b ix).foldl (fun h l => skKeep b.nprobe h (hamming (8 * v.skSb b.index) q.sketch l.2 * 2 ^ 48 + l.1)) heap

/-- The batch whose queries have ranked the lists at unit n. -/
def centroidBatch : SkBatch := { b with heaps := Map.foldFrom [] (v.rankLists d b ix) (4096 * n) 0 b.queries b.heaps }

/-- Each query of a batch has a heap of its own at a unit, and no other unit's heap changes. -/
theorem centroidBatch_heaps (hfew : b.queries.length ≤ 4096) :
    (∀ j q, b.queries[j]? = some q →
      Map.getD [] (v.centroidBatch n d b ix).heaps (4096 * n + j) = v.rankLists d b ix q (Map.getD [] b.heaps (4096 * n + j))) ∧
    ∀ k, k / 4096 ≠ n → Map.getD [] (v.centroidBatch n d b ix).heaps k = Map.getD [] b.heaps k := by
  refine ⟨fun j q hq => ?_, fun k hk => Map.getD_foldFrom_away [] _ _ _ (fun i hi => by omega) _⟩
  have hheap := Map.getD_foldFrom [] (v.rankLists d b ix) (4096 * n) 0 hq b.heaps
  rwa [Nat.zero_add] at hheap

/-! ### GATHER finds the neighbours of its items (R336) -/

/-- The neighbour ids in the records of the items of d, each with the query of its item. -/
def gatheredIds : List (Nat × Nat) :=
  ((Map.getD [] b.visits d.visit).map fun i => (List.range (v.skNeigh b.index)).filterMap fun k =>
    let id := v.skRecField b.index ix (i % 2 ^ 48) (32 + v.skSb b.index + 8 * k) 8
    if id = skNone then none else some (i / 2 ^ 48, id % 2 ^ 48)).flatten

/-- An id is gathered when a neighbour field of an item holds it. -/
theorem mem_gatheredIds (j id : Nat) : (j, id) ∈ v.gatheredIds d b ix ↔
    ∃ i ∈ Map.getD [] b.visits d.visit, ∃ k, k < v.skNeigh b.index ∧ j = i / 2 ^ 48 ∧
      v.skRecField b.index ix (i % 2 ^ 48) (32 + v.skSb b.index + 8 * k) 8 ≠ skNone ∧
      id = v.skRecField b.index ix (i % 2 ^ 48) (32 + v.skSb b.index + 8 * k) 8 % 2 ^ 48 := by
  simp only [gatheredIds, List.mem_flatten, List.mem_map, exists_exists_and_eq_and, List.mem_filterMap, List.mem_range,
    Option.ite_none_left_eq_some, Option.some.injEq, Prod.mk.injEq]
  refine exists_congr fun i => and_congr_right fun _ => exists_congr fun k => and_congr_right fun _ => ?_
  constructor
  · rintro ⟨hid, rfl, rfl⟩
    exact ⟨rfl, hid, rfl⟩
  · rintro ⟨rfl, hid, rfl⟩
    exact ⟨hid, rfl, rfl⟩

/-! ### MERGE joins the heaps of its queries (R335) -/

/-- The keys that the heaps of query j hold, unit after unit. -/
def heldKeys (j : Nat) : List Nat := ((List.range 8).map fun u => Map.getD [] b.heaps (4096 * u + j)).flatten

/-- Query j when the heaps of the queries named are joined: its lists after the ranking, its candidates after a scan. -/
def mergeQuery (named : List Nat) (q : SkQuery × Nat) : SkQuery :=
  if !named.contains q.2 then q.1
  else if b.phase = 1 then { q.1 with lists := ((heldKeys b q.2).foldl (skKeep b.nprobe) []).map fun k => k % 2 ^ 48 }
  else { q.1 with cand := (heldKeys b q.2).foldl (skKeep b.cand) q.1.cand }

/-- The batch whose queries named have joined their heaps. -/
def mergedBatch (named : List Nat) : SkBatch :=
  { b with queries := b.queries.zipIdx.map (mergeQuery b named), heaps := b.heaps.filter fun h => !named.contains (h.1 % 4096) }

theorem mergedBatch_queries (named : List Nat) {j : Nat} {q : SkQuery} (hq : b.queries[j]? = some q) :
    (mergedBatch b named).queries[j]? = some (mergeQuery b named (q, j)) := by
  simp [mergedBatch, hq]

end

/-! ### What errors of the data count in (R231, R346) -/

section

variable {o : Nat}

/-- A counter keeps the registers above it. -/
theorem reg_count_above {off : Nat} (h : off + 4 < o) (s : State) (k : Nat) : (s.count off k).reg o = s.reg o :=
  reg_count_other s k (by omega) (by omega)

/-- An error of a unit's data counts in QU_UE and QU_ERR. -/
theorem reg_quUe {n : Nat} (h : quReg n 0x98 + 4 < o) (s : State) (site : Nat) : (s.quUe n site).reg o = s.reg o := by
  have herr : o ≠ quReg n 8 := by simp only [quReg] at h ⊢; omega
  unfold quUe
  split <;> rw [reg_report, reg_orReg_other _ _ herr, reg_count_above h]

/-- Queries that fail set a bit of SK_ERR, and no other register. -/
theorem reg_skFailQueries (h : o ≠ R.SK_ERR) (s : State) (b : SkBatch) (qs : List Nat) (g : Nat) : (s.skFailQueries b qs g).reg o = s.reg o := by
  unfold skFailQueries
  rw [foldl_reg_kept fun t j _ => ?_, skErr, reg_report, reg_orReg_other _ _ h]
  · rfl
  · split <;> rfl

end

/-! ### SCORE offers valid records with their own sketches (R332, R336) -/

/-- An offer counts in registers below the words of the indexes, whatever becomes of it. -/
theorem reg_skOffer {o : Nat} (ho : R.SK_IDX ≤ o) (hn : n < 8) (s : State) (num j sketch i : Nat) : (s.skOffer num n j sketch i).reg o = s.reg o := by
  have habove : ∀ off, off + 4 < R.SK_IDX → off + 4 < o := fun off h => Nat.lt_of_lt_of_le h ho
  have hunit : quReg n 0x98 + 4 < R.SK_IDX := by simp only [quReg, R.SK_IDX]; omega
  have hbatch : ∀ (u : State) (c : SkBatch), (u.setBatch c).reg o = u.reg o := fun _ _ => rfl
  unfold skOffer
  split
  · rfl
  · split
    · dsimp only
      split
      · rfl
      · rw [reg_count_above (habove _ (by decide)), hbatch]
      · rw [reg_count_above (habove _ (by decide)), hbatch]
      · rw [reg_skFailQueries (Nat.ne_of_gt (Nat.lt_of_lt_of_le (by decide) ho)), reg_quUe (habove _ hunit)]
    · rfl

/-- Item i of a scoring, with sketches of sb bytes, in index x: its record is offered with its own sketch, or is missing. -/
def scoreItem (num n x : Nat) (ix : SkIdx) (sb : Nat) (u : State) (i : Nat) : State :=
  if u.skValid x ix (i % 2 ^ 48) then u.skOffer num n (i / 2 ^ 48) (u.skRecField x ix (i % 2 ^ 48) 32 sb) (i % 2 ^ 48)
  else u.count R.SK_NEIGH_MISSING_LO 1

theorem skSb_scoreItem (hn : n < 8) (num x sb : Nat) (u : State) (i : Nat) : (u.scoreItem num n x ix sb i).skSb x = u.skSb x := by
  have hword : R.SK_IDX ≤ R.SK_IDX + 64 * x + 4 * 0 := Nat.le_add_right R.SK_IDX (64 * x)
  rw [skSb, skSb, skWord, skWord, scoreItem]
  split
  · rw [reg_skOffer hword hn]
  · rw [reg_count_above (Nat.lt_of_lt_of_le (by decide) hword)]

/-- The size of a sketch stays what it was before the first item. -/
theorem foldl_scoreItem (hn : n < 8) (num x : Nat) (items : List Nat) (u : State) :
    items.foldl (fun w i => w.scoreItem num n x ix (w.skSb x) i) u = items.foldl (scoreItem num n x ix (u.skSb x)) u := by
  induction items generalizing u with
  | nil => rw [List.foldl_nil, List.foldl_nil]
  | cons i items ih => rw [List.foldl_cons, List.foldl_cons, ih, skSb_scoreItem hn]

end State

/-- The command of each phase of a search. -/
theorem searchCommand_iff {n ph : Nat} {x : Instr} : (0x500 + ph, x) ∈ quarryCommands n ↔
    (ph = 0 ∧ x = .searchCentroid n .clean) ∨ (ph = 1 ∧ x = .searchList n .clean) ∨ (ph = 2 ∧ x = .searchSide n .clean) ∨
    (ph = 3 ∧ x = .searchGather n .clean) ∨ (ph = 4 ∧ x = .searchScore n .clean) ∨ (ph = 5 ∧ x = .searchMerge n .clean) := by
  simp [quarryCommands, Nat.add_comm 0x500]

/-- Settles O26: each phase's command runs by the action of its phase, which leaves what the statement says of it. -/
theorem searchPhasesRunAtTheirUnits : Obligations.SearchPhasesRunAtTheirUnits := by
  intro s n ph x d b ix hx h hb hix
  rcases searchCommand_iff.1 hx with ⟨rfl, rfl⟩ | ⟨rfl, rfl⟩ | ⟨rfl, rfl⟩ | ⟨rfl, rfl⟩ | ⟨rfl, rfl⟩ | ⟨rfl, rfl⟩ <;>
  refine State.exec_searchLeft h hb hix rfl ?_ <;>
  intro v t hdone
  · exact ⟨fun _ => ⟨v.centroidBatch n d b ix, hdone, rfl, v.centroidBatch_heaps n d b ix⟩, nofun, nofun, nofun, nofun, nofun⟩
  · exact ⟨nofun, fun _ => hdone, nofun, nofun, nofun, nofun⟩
  · exact ⟨nofun, nofun, fun _ => hdone, nofun, nofun, nofun⟩
  · exact ⟨nofun, nofun, nofun, fun _ => ⟨v.gatheredIds d b ix, hdone, v.mem_gatheredIds d b ix⟩, nofun, nofun⟩
  · have ⟨hn, _⟩ := h
    have hitems := State.foldl_scoreItem (ix := ix) hn b.num b.index (Map.getD [] b.visits d.visit) v
    exact ⟨nofun, nofun, nofun, nofun, fun _ => hitems ▸ hdone, nofun⟩
  · exact ⟨nofun, nofun, nofun, nofun, nofun, fun _ => ⟨State.mergedBatch b _, hdone, rfl, fun _ _ hq => State.mergedBatch_queries b _ hq⟩⟩

end Sys2Proof.Machine
end

section
/-! SUPPORT. The ports of the culvert links (R380): what registers, reports, events and other ports leave of a port, and what a port leaves of them. -/

namespace Sys2Proof.Machine

/-! ### Commands on a port -/

theorem onUnit_port {n : Nat} (hn : n < 18) (s : State) : onUnit (portOk n) s = .next s := by
  rw [portOk, decide_eq_true hn, onUnit_true]

/-- A command on a lane or a tunnel of a port, whose number is in range. -/
theorem onUnit_portPart {n k m : Nat} (hn : n < 18) (hk : k < m) (s : State) : onUnit (portOk n && decide (k < m)) s = .next s := by
  rw [decide_eq_true hk, Bool.and_true, onUnit_port hn]

/-- The states in which a port exchanges frames: UP, or draining (R379, R380). -/
theorem phase_contains {ph : Nat} : [2, 6, 7].contains ph = true ↔ ph ∈ [2, 6, 7] := List.contains_iff_mem

namespace State

/-! ### A port after a change of other parts of the state -/

theorem port_of_cu {s u : State} (h : u.cu = s.cu) (n : Nat) : u.port n = s.port n := by rw [port, port, h]

@[simp] theorem port_orReg (s : State) (o v n : Nat) : (s.orReg o v).port n = s.port n := rfl
@[simp] theorem port_report (s : State) (a b c d e n : Nat) : (s.report a b c d e).port n = s.port n := rfl
@[simp] theorem port_count (s : State) (off k n : Nat) : (s.count off k).port n = s.port n := port_of_cu (s.count_cu off k) n

/-! ### Other parts of the state after a change of a port -/

@[simp] theorem reg_setPort (s : State) (n : Nat) (p : Port) (o : Nat) : (s.setPort n p).reg o = s.reg o := rfl
@[simp] theorem portRole_setPort (s : State) (n : Nat) (p : Port) (m : Nat) : (s.setPort n p).portRole m = s.portRole m := rfl
@[simp] theorem port_updPort_self (s : State) (n : Nat) (f : Port → Port) : (s.updPort n f).port n = f (s.port n) := port_setPort_self ..

theorem port_updPort_other (s : State) {n m : Nat} (f : Port → Port) (h : m ≠ n) : (s.updPort n f).port m = s.port m :=
  port_setPort_other _ _ h

/-! ### Registers of a port -/

theorem cuReg_apart (n : Nat) {a b : Nat} (h : a ≠ b) : cuReg n a ≠ cuReg n b := by unfold cuReg; omega

theorem portRole_setReg (s : State) (n : Nat) {o : Nat} (v : Nat) (h : o ≠ 0x10) : (s.setReg (cuReg n o) v).portRole n = s.portRole n := by
  rw [portRole, portRole, reg_setReg_other _ _ (cuReg_apart n (Ne.symm h))]

/-- The state in which a counter of port n has counted one event, and bits m of its CU_ERR are set. -/
def cuNoted (s : State) (n c m : Nat) : State := (s.count (cuReg n c) 1).orReg (cuReg n 8) m

theorem cuNoted_regsOnly (s : State) (n c m : Nat) : s.regsOnly (s.cuNoted n c m) := regsOnly_trans (regsOnly_count ..) (regsOnly_orReg ..)

@[simp] theorem port_cuNoted (s : State) (n c m k : Nat) : (s.cuNoted n c m).port k = s.port k := s.port_count ..

theorem cuNoted_sets (s : State) (n : Nat) {c m : Nat} (hc : 8 < c) (hm : m < 2 ^ 32) : s.sets (s.cuNoted n c m) (cuReg n 8) m := by
  rw [sets, cuNoted, reg_orReg_self _ hm, reg_count_other _ _ (cuReg_apart n (by omega)) (by unfold cuReg; omega)]

theorem cuNoted_adds (s : State) (n : Nat) {c : Nat} (m : Nat) (hc : 8 < c) : s.adds (s.cuNoted n c m) (cuReg n c) 1 := by
  rw [adds, ← reg64_count_self, reg64, reg64, cuNoted, reg_orReg_other _ _ (cuReg_apart n (by omega)), reg_orReg_other _ _ (by unfold cuReg; omega)]

/-! ### Event entries (R402, R403) -/

theorem cu_msix (s : State) (v : Nat) : (s.msix v).cu = s.cu := by
  unfold msix
  split
  · rfl
  · rw [count_cu]; rfl

theorem cu_hostTx (s : State) (a : Nat) (bs : List Byte) : (s.hostTx a bs).cu = s.cu := by
  rw [hostTx, tagPulse, s.markTags_regsOnly .remote]
  rfl

theorem cu_postEvent (s : State) (ty data : Nat) : (s.postEvent ty data).cu = s.cu := by
  unfold postEvent
  split
  · rfl
  · dsimp only
    split
    · exact count_cu ..
    · rw [cu_msix, setReg_cu, cu_hostTx]

@[simp] theorem port_portEvent (s : State) (n cause m : Nat) : (s.portEvent n cause).port m = s.port m := port_of_cu (cu_postEvent ..) m

section

variable {o : Nat} (ho : R.CU_ERR ≤ o)
include ho

theorem reg_msix_culvert (s : State) {v : Nat} (hv : v < 2048) : (s.msix v).reg o = s.reg o := by
  unfold R.CU_ERR at ho
  unfold msix
  split
  · exact reg_orReg_other _ _ (by omega)
  · rw [reg_count_other _ _ (by unfold R.HI_IRQ_LO; omega) (by unfold R.HI_IRQ_LO; omega), reg_send]

theorem reg_hostTx_culvert (s : State) (a : Nat) (bs : List Byte) : (s.hostTx a bs).reg o = s.reg o := by
  have hmark : o ∉ [R.TG_HWM_READ, R.TG_HWM_WRITE, R.TG_HWM_REMOTE] := by
    rintro h
    fin_cases h <;> exact absurd ho (by decide)
  exact s.markTags_keeps .remote _ o hmark

/-- An event entry changes no register of the culvert ports. -/
theorem reg_postEvent_culvert (s : State) (ty data : Nat) : (s.postEvent ty data).reg o = s.reg o := by
  have hne : ∀ {k : Nat}, k < R.CU_ERR → o ≠ k := fun hk h => absurd (h ▸ ho) (Nat.not_le.2 hk)
  unfold postEvent
  split
  · rfl
  · dsimp only
    split
    · rw [reg_orReg_other _ _ (hne (by decide)), reg_count_other _ _ (hne (by decide)) (hne (by decide))]
    · rw [reg_msix_culvert ho _ (bitsOf_lt ..), reg_setReg_other _ _ (hne (by decide)), reg_hostTx_culvert ho]

end

end State

end Sys2Proof.Machine
end

section
/-! SUPPORT. A port trains, retrains, serves and drains (R361, R362, R372–R375, R379): its commands, and the statement about them. -/

namespace Sys2Proof.Machine

namespace State

variable {s : State} {n : Nat}

/-! ### Lanes that a training settles on (R374, R378) -/

theorem retireHalf_unmarked (h : (s.port n).retire = 0) : s.retireHalf n = s := if_pos h

/-- A port that has settled on the halves its partner has left. -/
def withHalves (p : Port) (half : BitVec 2) : Port := { p with pgone := half.toNat }

/-- With no half marked, a training goes on with the halves that both ends have left, and a port with none goes DOWN. -/
theorem settleLanes_unmarked (h : (s.port n).retire = 0) (half : BitVec 2) (f : State → State) :
    s.settleLanes n half f = let q := withHalves (s.port n) half
      if liveLanes q = 0 then (s.setPort n q).portDown n else f (s.setPort n q) := by
  simp only [settleLanes, retireHalf_unmarked h, updPort, port_setPort_self]
  rfl

/-- Steps 2–5 of R361, of a port that has just settled. -/
theorem afterPmd_setPort (s : State) (n : Nat) (q : Port) : let v := s.setPort n q
    v.afterPmd n = if s.portRole n = 7 then (v.setPort n { q with rev := 0x20 }).portUp n (!q.trained)
      else (v.setPort n { q with pmd := true, full := true }).sendCapability n := by
  simp only [afterPmd, updPort, port_setPort_self, portRole_setPort]

/-- A culvert port runs on every lane it has left; R365 narrows only Ethernet ports. -/
theorem lanesOf_culvert (h : s.portRole n ≠ 7) (p : Port) : s.lanesOf n p = liveLanes p := if_neg fun hr => h hr.1

/-! ### Miswired ports (R362) -/

theorem port_miswire_self (s : State) (n : Nat) : (s.miswire n).port n = { s.port n with phase := 4, pmd := false, retrain := false } := by
  rw [miswire, port_portEvent, port_report, port_orReg, port_updPort_self]

theorem port_miswire_other (s : State) {n m : Nat} (h : m ≠ n) : (s.miswire n).port m = s.port m := by
  rw [miswire, port_portEvent, port_report, port_orReg, port_updPort_other _ _ h]

theorem miswire_sets (s : State) (n : Nat) : s.sets (s.miswire n) (cuReg n 8) 0x10 := by
  have habove : R.CU_ERR ≤ cuReg n 8 := by unfold R.CU_ERR cuReg; omega
  rw [sets, miswire, portEvent, reg_postEvent_culvert habove, reg_report, reg_orReg_self _ (by decide), updPort, reg_setPort]

/-! ### Retrains that no lane is charged with (R372) -/

/-- A port in a retrain. -/
def retraining (p : Port) : Port := { p with phase := 3, back := p.phase, full := false, pmd := false, charged := [], retrain := true }

/-- A serving port retrains: it is counted, CU_ERR says so, and a report names no lane. -/
theorem startRetrain_serving (h : (s.port n).phase ∈ [2, 6, 7]) :
    s.startRetrain n [] = ((s.setPort n (retraining (s.port n))).cuNoted n 0x120 2).report 2 (0x20 + n) 0x01 0xFF 0 :=
  if_pos (phase_contains.2 h)

/-- What a retrain of a port that was UP leaves: the port waits with its flits and its unacknowledged frames, and the other ports stand. -/
theorem startRetrain_effect (h : (s.port n).phase = 2) : let p := s.port n; let t := s.startRetrain n []
    (t.port n).phase = 3 ∧ (t.port n).back = 2 ∧ (t.port n).queue = p.queue ∧ (t.port n).unacked = p.unacked ∧
    s.sets t (cuReg n 8) 2 ∧ s.adds t (cuReg n 0x120) 1 ∧ s.logs t (0x2000 + (0x20 + n) * 64 + 1) 0xFF 0 ∧ (∀ m, m ≠ n → t.port m = s.port m) := by
  let v := s.setPort n (retraining (s.port n))
  have hsets : v.sets (v.cuNoted n 0x120 2) (cuReg n 8) 2 := v.cuNoted_sets n (by decide) (by decide)
  have hadds : v.adds (v.cuNoted n 0x120 2) (cuReg n 0x120) 1 := v.cuNoted_adds n 2 (by decide)
  have hport : (s.startRetrain n []).port n = retraining (s.port n) := by
    rw [startRetrain_serving (by simp [h]), port_report, port_cuNoted, port_setPort_self]
  dsimp only
  rw [hport, startRetrain_serving (by simp [h])]
  refine ⟨rfl, h, rfl, rfl, hsets, hadds, ?_, fun m hm => ?_⟩
  · obtain ⟨g, hg⟩ := regsOnly_iff.1 (v.cuNoted_regsOnly n 0x120 2)
    rw [logs, hg]
    rfl
  · rw [port_report, port_cuNoted, port_setPort_other _ _ hm]

/-! ### The partner's record (R361) -/

/-- The later revision that a partner has as well, of revisions 1.2 and 2.0; 0 for none. -/
def linkRev (revs : BitVec 2) : Nat := if bitOf revs.toNat 1 then 0x20 else if bitOf revs.toNat 0 then 0x12 else 0

theorem linkRev_eq_zero (revs : BitVec 2) : linkRev revs = 0 ↔ revs = 0 := by decide +revert
theorem linkRev_eq_rev20 (revs : BitVec 2) : linkRev revs = 0x20 ↔ bitOf revs.toNat 1 = true := by decide +revert
theorem linkRev_eq_rev12 {revs : BitVec 2} (h : revs ≠ 0) : linkRev revs = 0x12 ↔ bitOf revs.toNat 1 = false := by decide +revert

/-- A port that has taken its partner's record; revision 1.2 has no SLOW bit (R362). -/
def withPartner (p : Port) (revs : BitVec 2) (role gidx : BitVec 4) (rank : BitVec 16) : Port :=
  { p with partner := (rank.toNat, gidx.toNat, role.toNat, revs.toNat), rev := linkRev revs, slowRx := if linkRev revs = 0x20 then p.slowRx else false }

theorem withPartner_eq (p : Port) (revs : BitVec 2) (role gidx : BitVec 4) (rank : BitVec 16) : withPartner p revs role gidx rank =
    { p with partner := (rank.toNat, gidx.toNat, role.toNat, revs.toNat), rev := (if bitOf revs.toNat 1 then 0x20 else if bitOf revs.toNat 0 then 0x12 else 0),
             slowRx := (if bitOf revs.toNat 1 then p.slowRx else false) } := by
  simp only [withPartner, linkRev_eq_rev20]
  rfl

/-! ### Enables (R379) -/

/-- A port that carries nothing, and has a role, trains once it is enabled. -/
theorem portOn_idle (hphase : (s.port n).phase = 0 ∨ (s.port n).phase = 4 ∨ (s.port n).phase = 5) (hrole : s.portRole n ≠ 0) :
    s.portOn n = (s.setReg (cuReg n 0xC) 1).setPort n { s.port n with phase := 1, full := true, pmd := false, latched := false } := by
  refine (if_neg ?_).trans ((if_neg ?_).trans (if_pos ⟨hphase, ?_⟩))
  · omega
  · omega
  · rwa [portRole_setReg _ _ _ (by decide)]

/-- A draining port that is enabled goes on draining, and trains when it has (R379). -/
theorem portOn_draining (h : (s.port n).phase = 6) :
    s.portOn n = (s.setReg (cuReg n 0xC) 1).setPort n { s.port n with phase := 7, latched := true } := if_pos h

theorem portOff_up (h : (s.port n).phase = 2) :
    s.portOff n = ((s.setReg (cuReg n 0xC) 0).setPort n { s.port n with phase := 6 }).sendCtrl n :=
  (if_neg (by omega)).trans (if_pos h)

/-- A port in a retrain drains once that is over. -/
theorem portOff_retraining (h : (s.port n).phase = 3 ∨ (s.port n).phase = 1 ∧ (s.port n).retrain = true) :
    s.portOff n = (s.setReg (cuReg n 0xC) 0).setPort n { s.port n with back := 6, latched := false } :=
  (if_neg (by omega)).trans ((if_neg (by omega)).trans (if_pos h))

theorem portOff_training (h : (s.port n).phase = 1) (hretrain : (s.port n).retrain = false) :
    s.portOff n = ((s.setReg (cuReg n 0xC) 0).setPort n { s.port n with phase := 0, pmd := false }).reroute n :=
  (if_neg (by omega)).trans ((if_neg (by omega)).trans ((if_neg (by simp [h, hretrain])).trans (if_neg (by omega))))

end State

/-! ### The commands -/

section

variable {s : State} {n : Nat} (hn : n < 18)
include hn

theorem exec_pmdTrainingDone (hphase : (s.port n).phase = 1) (hpmd : (s.port n).pmd = false) (hretire : (s.port n).retire = 0) (half : BitVec 2) :
    let q := State.withHalves (s.port n) half; let v := s.setPort n q
    exec (.pmdTrainingDone ⟨n, half⟩) s = .next (if State.liveLanes q = 0 then v.portDown n
      else if s.im.phase = 4 then v.afterPmd n else v.setPort n { q with pmd := true, full := true }) := by
  refine (onUnit_port hn _).trans (congrArg _ ((if_neg (by simp [hphase, hpmd])).trans ((State.settleLanes_unmarked hretire half _).trans ?_)))
  simp only [State.updPort, State.port_setPort_self, State.setPort_im]

theorem exec_retrainDone_ok (hphase : (s.port n).phase = 3) (hpmd : (s.port n).pmd = false) (hretire : (s.port n).retire = 0) (half : BitVec 2) :
    let q := State.withHalves (s.port n) half; let v := s.setPort n q
    exec (.retrainDone ⟨n, half⟩ true) s = .next (if State.liveLanes q = 0 then v.portDown n
      else let w := v.setPort n { q with pmd := true, fails := 0, lock := v.lanesOf n q }
        if s.portRole n = 7 then w.portUp n false else w.sendCapability n) := by
  refine (onUnit_port hn _).trans (congrArg _ ((if_neg (by simp [hphase, hpmd])).trans ((if_pos rfl).trans ((State.settleLanes_unmarked hretire half _).trans ?_))))
  simp only [State.updPort, State.port_setPort_self, State.portRole_setPort]

theorem exec_retrainDone_failed (hphase : (s.port n).phase = 3) (hpmd : (s.port n).pmd = false) (half : BitVec 2) :
    exec (.retrainDone ⟨n, half⟩ false) s = .next (s.setPort n
      (if (s.port n).fails < 2 then { s.port n with fails := (s.port n).fails + 1 } else { s.port n with phase := 1, full := true, fails := 0 })) := by
  refine (onUnit_port hn _).trans (congrArg _ ((if_neg (by simp [hphase, hpmd])).trans ((if_neg (by decide)).trans ?_)))
  by_cases hfails : (s.port n).fails < 2
  · rw [if_pos hfails]
    exact if_neg fun h => Nat.not_lt.2 (Nat.le_of_succ_le_succ h) hfails
  · rw [if_neg hfails]
    exact if_pos (Nat.succ_le_succ (Nat.not_lt.1 hfails))

theorem exec_laneLockLoss {lane : Nat} (hlane : lane < 8) : exec (.laneLockLoss n lane) s =
    .next (if bitOf (s.port n).lock lane then (s.setPort n { s.port n with lock := (s.port n).lock - 2 ^ lane }).startRetrain n [lane] else s) :=
  onUnit_portPart hn hlane _

theorem exec_fecUncorrectable {lane : Nat} (hlane : lane < 8) : exec (.fecUncorrectable n lane) s = let p := s.port n
    let l := (Map.getD [] p.fec lane).filter (fun t => Nat.blt s.now (t + 1000)) ++ [s.now]
    let u := s.count (cuReg n 0x128) 1
    .next (if 4 < l.length then (u.setPort n { p with fec := p.fec.del lane }).startRetrain n [lane] else u.setPort n { p with fec := p.fec.put lane l }) := by
  refine (onUnit_portPart hn hlane _).trans ?_
  simp only [State.port_count, State.now_count]

theorem exec_linkSilence : exec (.linkSilence n) s = .next (if (s.port n).phase = 2 then s.startRetrain n [] else s) := onUnit_port hn _

theorem exec_trainingTimeout : exec (.trainingTimeout n) s = let p := s.port n
    .next (if (p.phase = 1 ∧ s.im.phase = 4 ∧ (p.trained ∨ p.pmd)) ∨ p.phase = 6 ∨ p.phase = 7 then s.portDown n else s) := onUnit_port hn _

theorem exec_portEnable : exec (.portEnable n) s = .next (s.portOn n) := onUnit_port hn _

theorem exec_portDisable : exec (.portDisable n) s = .next (s.portOff n) := onUnit_port hn _

section

variable (hpmd : (s.port n).pmd = true) (hphase : (s.port n).phase = 1) (hrole : s.portRole n ≠ 7)
include hpmd hphase hrole

theorem exec_capabilityRecord (revs : BitVec 2) (role g : BitVec 4) (rank : BitVec 16) (tg inst : Word) :
    exec (.capabilityRecord n revs role g rank tg inst) s = let p := s.port n; let u := s.setPort n (State.withPartner p revs role g rank)
      .next (if State.linkRev revs = 0 then ((u.orReg (cuReg n 8) 0x40).report 2 (0x20 + n) 0x05 0xFF 0).portDown n
        else if !u.wiredOk n then (u.miswire n).reroute n
        else (u.updPort n fun p => { p with inst := some inst.toNat }).portUp n
          (!p.trained || (if State.linkRev revs = 0x12 then p.full else p.inst != some inst.toNat))) := by
  refine (onUnit_port hn _).trans (congrArg _ (if_neg ?_))
  simp [hpmd, hphase, hrole]

end

theorem exec_portDrainDone : exec (.portDrainDone n) s = let p := s.port n
    .next (if !(p.phase == 6 || p.phase == 7) || !p.unacked.isEmpty || (State.midMessage p || p.tuns.any fun t => !t.2.unacked.isEmpty) then s
      else if p.phase = 6 then ((s.setPort n { p with phase := 0 }).reroute n).updPort n fun p => { p with tuns := [] }
      else (s.setPort n { p with phase := 1, latched := false, full := true, pmd := false }).reroute n) := onUnit_port hn _

/-! ### The clauses of the statement -/

section

variable (half : BitVec 2) (hpmd : (s.port n).pmd = false) (hretire : (s.port n).retire = 0)
include hpmd hretire

/-- A port that both ends have left no lane goes DOWN (R374). -/
theorem trainingFindsNoLane (hnone : State.liveLanes (State.withHalves (s.port n) half) = 0) : let v := s.setPort n (State.withHalves (s.port n) half)
    ((s.port n).phase = 1 → exec (.pmdTrainingDone ⟨n, half⟩) s = .next (v.portDown n)) ∧
    ((s.port n).phase = 3 → exec (.retrainDone ⟨n, half⟩ true) s = .next (v.portDown n)) := by
  refine ⟨fun h => ?_, fun h => ?_⟩
  · rw [exec_pmdTrainingDone hn h hpmd hretire, if_pos hnone]
  · rw [exec_retrainDone_ok hn h hpmd hretire, if_pos hnone]

/-- A port with lanes left goes on with its exchange as soon as the start has reached LOADED; a retrain has passed that already (R361, R427). -/
theorem trainingFindsLanes (hsome : State.liveLanes (State.withHalves (s.port n) half) ≠ 0) :
    let q := State.withHalves (s.port n) half; let v := s.setPort n q; let done := exec (.pmdTrainingDone ⟨n, half⟩) s
    ((s.port n).phase = 1 → s.im.phase ≠ 4 → done = .next (v.setPort n { q with pmd := true, full := true })) ∧
    ((s.port n).phase = 1 → s.im.phase = 4 → s.portRole n ≠ 7 → done = .next ((v.setPort n { q with pmd := true, full := true }).sendCapability n)) ∧
    ((s.port n).phase = 1 → s.im.phase = 4 → s.portRole n = 7 → done = .next ((v.setPort n { q with rev := 0x20 }).portUp n (!q.trained))) ∧
    ((s.port n).phase = 3 → s.portRole n ≠ 7 →
      exec (.retrainDone ⟨n, half⟩ true) s = .next ((v.setPort n { q with pmd := true, fails := 0, lock := State.liveLanes q }).sendCapability n)) := by
  refine ⟨fun h hstart => ?_, fun h hstart hrole => ?_, fun h hstart hrole => ?_, fun h hrole => ?_⟩
  · rw [exec_pmdTrainingDone hn h hpmd hretire, if_neg hsome, if_neg hstart]
  · rw [exec_pmdTrainingDone hn h hpmd hretire, if_neg hsome, if_pos hstart, State.afterPmd_setPort, if_neg hrole]
  · rw [exec_pmdTrainingDone hn h hpmd hretire, if_neg hsome, if_pos hstart, State.afterPmd_setPort, if_pos hrole]
  · rw [exec_retrainDone_ok hn h hpmd hretire, if_neg hsome, State.lanesOf_culvert (s := s.setPort n _) hrole]
    exact congrArg _ (if_neg hrole)

end

section

variable (hpmd : (s.port n).pmd = true) (hphase : (s.port n).phase = 1) (hrole : s.portRole n ≠ 7)
include hpmd hphase hrole

/-- The partner's record settles a training: no common revision takes the port DOWN, wrong wiring makes it MISWIRED, and else it is UP (R361, R362). -/
theorem recordSettlesTraining (revs : BitVec 2) (role g : BitVec 4) (rank : BitVec 16) (tg inst : Word) :
    let p := s.port n; let q := State.withPartner p revs role g rank; let u := s.setPort n q; let go := exec (.capabilityRecord n revs role g rank tg inst) s
    (revs = 0 → ∃ w : State, go = .next (w.portDown n) ∧ s.sets w (cuReg n 8) 0x40 ∧ w = { u with regs := w.regs, el := { s.el with raised := w.el.raised } }) ∧
    (revs ≠ 0 → u.wiredOk n = false → go = .next ((u.miswire n).reroute n)) ∧
    (revs ≠ 0 → u.wiredOk n = true →
      go = .next ((u.setPort n { q with inst := some inst.toNat }).portUp n (!p.trained || (if bitOf revs.toNat 1 then p.inst != some inst.toNat else p.full)))) := by
  intro p q u go
  have hgo : go = _ := exec_capabilityRecord hn hpmd hphase hrole revs role g rank tg inst
  refine ⟨fun hnone => ⟨_, hgo.trans (congrArg _ (if_pos ((State.linkRev_eq_zero revs).2 hnone))), u.reg_orReg_self (by decide), rfl⟩,
    fun hsome hwired => hgo.trans (congrArg _ ((if_neg (mt (State.linkRev_eq_zero revs).1 hsome)).trans (if_pos (by rw [hwired]; rfl)))),
    fun hsome hwired => hgo.trans (congrArg _ ((if_neg (mt (State.linkRev_eq_zero revs).1 hsome)).trans ((if_neg (by rw [hwired]; decide)).trans ?_)))⟩
  have hchanged : (if State.linkRev revs = 0x12 then p.full else p.inst != some inst.toNat) = if bitOf revs.toNat 1 then p.inst != some inst.toNat else p.full := by
    simp only [State.linkRev_eq_rev12 hsome]
    cases bitOf revs.toNat 1 <;> rfl
  rw [hchanged, State.updPort, State.port_setPort_self]

end

/-- A training of which nothing has appeared yet may take its time (R375). -/
theorem trainingWaits (hphase : (s.port n).phase = 1) (h : s.im.phase ≠ 4 ∨ (s.port n).trained = false ∧ (s.port n).pmd = false) :
    exec (.trainingTimeout n) s = .next s := by
  refine (exec_trainingTimeout hn).trans (congrArg _ (if_neg ?_))
  rcases h with hstart | ⟨htrained, hpmd⟩
  · simp [hphase, hstart]
  · simp [hphase, htrained, hpmd]

/-- A port with nothing unacknowledged and no message begun has drained (R379). -/
theorem drainEnds (hacked : (s.port n).unacked = []) (hbegun : (s.port n).begun = []) (htuns : (s.port n).tuns = []) : let p := s.port n
    (p.phase = 6 → exec (.portDrainDone n) s = .next (((s.setPort n { p with phase := 0 }).reroute n).updPort n fun p => { p with tuns := [] })) ∧
    (p.phase = 7 → exec (.portDrainDone n) s = .next ((s.setPort n { p with phase := 1, latched := false, full := true, pmd := false }).reroute n)) := by
  refine ⟨fun h => (exec_portDrainDone hn).trans (congrArg _ ((if_neg ?_).trans (if_pos h))),
    fun h => (exec_portDrainDone hn).trans (congrArg _ ((if_neg ?_).trans (if_neg (by omega))))⟩ <;>
  simp [h, hacked, hbegun, htuns, State.midMessage]

theorem drainWaits (h : (s.port n).unacked ≠ [] ∨ (s.port n).begun ≠ []) : exec (.portDrainDone n) s = .next s := by
  refine (exec_portDrainDone hn).trans (congrArg _ (if_pos ?_))
  rcases h with h | h <;> simp [h, State.midMessage]

end

/-- Settles O35: each command takes the branch that the port's state selects. -/
theorem portsTrainAndDrain : Obligations.PortsTrainAndDrain := by
  intro s n hn p
  refine ⟨fun half hpmd hretire => ⟨fun hnone => trainingFindsNoLane hn half hpmd hretire hnone, fun hsome => trainingFindsLanes hn half hpmd hretire hsome⟩,
    fun half hphase hpmd => exec_retrainDone_failed hn hphase hpmd half,
    fun revs role g rank tg inst hpmd hphase hrole => ?_,
    ⟨?_, ?_, s.miswire_sets n, fun m hm => s.port_miswire_other hm⟩,
    fun lane hlane => ⟨exec_laneLockLoss hn hlane, exec_fecUncorrectable hn hlane⟩,
    fun hphase => ⟨(exec_linkSilence hn).trans (congrArg _ (if_pos hphase)), State.startRetrain_effect hphase⟩,
    fun hphase => (exec_linkSilence hn).trans (congrArg _ (if_neg hphase)),
    fun h => (exec_trainingTimeout hn).trans (congrArg _ (if_pos h)), fun hphase h => trainingWaits hn hphase h,
    ⟨fun hphase hrole => (exec_portEnable hn).trans (congrArg _ (State.portOn_idle hphase hrole)),
      fun hphase => (exec_portEnable hn).trans (congrArg _ (State.portOn_draining hphase))⟩,
    ⟨fun hphase => (exec_portDisable hn).trans (congrArg _ (State.portOff_up hphase)),
      fun h => (exec_portDisable hn).trans (congrArg _ (State.portOff_retraining h)),
      fun hphase hretrain => (exec_portDisable hn).trans (congrArg _ (State.portOff_training hphase hretrain))⟩,
    fun hacked hbegun htuns => drainEnds hn hacked hbegun htuns, fun h => drainWaits hn h⟩
  · rw [← State.withPartner_eq]
    exact recordSettlesTraining hn hpmd hphase hrole revs role g rank tg inst
  · rw [State.port_miswire_self]
  · rw [State.port_miswire_self]

end Sys2Proof.Machine
end

section
/-! SUPPORT. The bytes of a flit frame (R352, R353): little-endian fields, the CRC, and what a receiver reads of a frame that a sender has put together. -/

namespace Sys2Proof.Machine

/-! ### Byte order -/

theorem ofLe_leBytes (n v : Nat) : ofLe (leBytes n v) = v % 256 ^ n := by
  induction n generalizing v with
  | zero => rw [Nat.pow_zero, Nat.mod_one]; rfl
  | succ n ih =>
    have hbyte : (BitVec.ofNat 8 v).toNat = v % 256 := BitVec.toNat_ofNat v 8
    rw [leBytes, ofLe, ih, hbyte, Nat.pow_succ', Nat.mod_mul]

/-- The first field of a list of bytes that begins with a number. -/
theorem leField_leBytes (n v : Nat) (l : List Byte) : leField (leBytes n v ++ l) 0 n = v % 256 ^ n := by
  rw [leField, List.drop_zero, List.take_left' (State.length_leBytes n v), ofLe_leBytes]

/-! ### The CRC -/

theorem crcBits_lt {poly : Nat} (hp : poly < 2 ^ 32) (n : Nat) {c : Nat} (hc : c < 2 ^ 32) : crcBits poly n c < 2 ^ 32 := by
  induction n generalizing c with
  | zero => exact hc
  | succ n ih =>
    have hhalf : c / 2 < 2 ^ 32 := Nat.lt_of_le_of_lt (Nat.div_le_self c 2) hc
    refine ih ?_
    split
    · exact Nat.xor_lt_two_pow hhalf hp
    · exact hhalf

theorem crc32_lt (l : List Byte) : crc32 l < 2 ^ 32 := by
  refine Nat.xor_lt_two_pow (List.foldlRecOn l _ (motive := (· < 2 ^ 32)) (by decide) fun c hc b _ => ?_) (by decide)
  exact crcBits_lt (by decide) 8 (Nat.xor_lt_two_pow hc (Nat.lt_trans b.isLt (by decide)))

namespace State

/-! ### Frames -/

/-- The header of a flit frame that acknowledges nothing. -/
def headerOf (vl kind cls : Nat) (eom : Bool) (seq ack crvl crcls crcnt used : Nat) : Nat :=
  vl % 4 + kind % 4 * 4 + cls % 2 * 16 + b2n eom * 32 + seq % 4096 * 2 ^ 8 + ack % 4096 * 2 ^ 20 + 0 * 2 ^ 32
    + 0 * 2 ^ 33 + crvl % 4 * 2 ^ 34 + crcls % 2 * 2 ^ 36 + crcnt % 2048 * 2 ^ 37 + (used - 1) % 256 * 2 ^ 48

section

variable (vl kind cls : Nat) (eom : Bool) (seq ack crvl crcls crcnt : Nat) (data : List Byte)

/-- The header and the 256 data bytes of a frame, which its CRC covers. -/
def frameBody : List Byte := leBytes 10 (headerOf vl kind cls eom seq ack crvl crcls crcnt data.length) ++ (data ++ List.replicate 256 0).take 256

theorem length_frameBody : (frameBody vl kind cls eom seq ack crvl crcls crcnt data).length = 266 := by
  rw [frameBody, List.length_append, length_leBytes, List.length_take, List.length_append, List.length_replicate, Nat.min_eq_left (Nat.le_add_left ..)]

theorem frameOf_eq : frameOf vl kind cls eom seq ack 0 0 crvl crcls crcnt data =
    frameBody vl kind cls eom seq ack crvl crcls crcnt data ++ leBytes 4 (crc32 (frameBody vl kind cls eom seq ack crvl crcls crcnt data)) := rfl

theorem length_frameOf : (frameOf vl kind cls eom seq ack 0 0 crvl crcls crcnt data).length = 270 := by
  rw [frameOf_eq, List.length_append, length_frameBody, length_leBytes]

/-- A frame as it was sent has the CRC of its bytes. -/
theorem crc_frameOf : let f := frameOf vl kind cls eom seq ack 0 0 crvl crcls crcnt data
    leField f 266 4 = crc32 (f.take 266) := by
  have hlen := length_frameBody vl kind cls eom seq ack crvl crcls crcnt data
  simp only [frameOf_eq]
  rw [List.take_left' hlen, leField, List.drop_left' hlen, List.take_of_length_le (by rw [length_leBytes]), ofLe_leBytes]
  exact Nat.mod_eq_of_lt (crc32_lt _)

variable {vl cls crvl crcls crcnt seq : Nat}

/-- The header of a frame, as its receiver reads it. -/
theorem header_frameOf : leField (frameOf vl kind cls eom seq ack 0 0 crvl crcls crcnt data) 0 10 =
    headerOf vl kind cls eom seq ack crvl crcls crcnt data.length := by
  rw [frameOf_eq, frameBody, List.append_assoc, leField_leBytes]
  refine Nat.mod_eq_of_lt ?_
  have : b2n eom ≤ 1 := by cases eom <;> decide
  unfold headerOf
  omega

/-- The data bytes of a frame, as its receiver reads them. -/
theorem data_frameOf (h : data.length ≤ 256) : ((frameOf vl kind cls eom seq ack 0 0 crvl crcls crcnt data).drop 10).take data.length = data := by
  have hlen : data.length ≤ ((data ++ List.replicate 256 0).take 256).length := by
    rw [List.length_take, List.length_append, List.length_replicate]
    omega
  rw [frameOf_eq, frameBody, List.append_assoc, List.drop_left' (length_leBytes ..), List.take_append_of_le_length hlen, List.take_take,
    Nat.min_eq_left h, List.take_left]

/-- The fields of a header, each within its width. -/
theorem fields_headerOf {kind used : Nat} (hvl : vl < 4) (hkind : kind < 4) (hcls : cls < 2) (hseq : seq < 4096) (hcrvl : crvl < 4) (hcrcls : crcls < 2)
    (hcrcnt : crcnt < 2048) (hused : 0 < used) (hused' : used ≤ 256) : let h := headerOf vl kind cls eom seq ack crvl crcls crcnt used
    bitsOf h 1 0 = vl ∧ bitsOf h 3 2 = kind ∧ bitsOf h 4 4 = cls ∧ bitOf h 5 = eom ∧ bitsOf h 19 8 = seq ∧ bitOf h 32 = false ∧ bitOf h 33 = false ∧
    bitsOf h 35 34 = crvl ∧ bitsOf h 36 36 = crcls ∧ bitsOf h 47 37 = crcnt ∧ bitsOf h 55 48 + 1 = used := by
  have heom : b2n eom ≤ 1 := by cases eom <;> decide
  have hbit : (b2n eom == 1) = eom := by cases eom <;> rfl
  intro h
  have h5 : bitsOf h 5 5 = b2n eom := by simp only [h, headerOf, bitsOf]; omega
  have h32 : bitsOf h 32 32 = 0 := by simp only [h, headerOf, bitsOf]; omega
  have h33 : bitsOf h 33 33 = 0 := by simp only [h, headerOf, bitsOf]; omega
  rw [bitOf_eq_bitsOf, bitOf_eq_bitsOf, bitOf_eq_bitsOf, h5, h32, h33, hbit]
  refine ⟨?_, ?_, ?_, rfl, ?_, rfl, rfl, ?_, ?_, ?_, ?_⟩ <;>
  simp only [h, headerOf, bitsOf] <;>
  omega

end

end State

end Sys2Proof.Machine
end

section
/-! SUPPORT. Frames of a culvert port (R353–R356): what sending one leaves, and what becomes of one that arrives. -/

namespace Sys2Proof.Machine

namespace State

variable {s : State} {n : Nat}

/-! ### Sending -/

theorem cu_transmit (s : State) (n : Nat) (b : List Byte) : (s.transmit n b).cu = s.cu := by
  unfold transmit
  split <;> rfl

theorem pw_transmit (s : State) (n : Nat) (b : List Byte) : (s.transmit n b).pw = s.pw := by
  unfold transmit
  split <;> rfl

theorem out_transmit (h : s.pw.stopped = false) (n : Nat) (b : List Byte) : (s.transmit n b).out = s.out ++ [.frame n b] := by
  rw [transmit, if_neg (by rw [h]; decide)]
  rfl

section

variable (s) (vl kind cls : Nat) (eom : Bool) (seq : Nat) (nak : Bool) (data : List Byte)

/-- A frame sent carries the port's acknowledgement, so none is owed (R354). -/
theorem port_sendFrame : (s.sendFrame n vl kind cls eom seq nak data).port n = { s.port n with owe := 0 } := by
  rw [sendFrame]
  exact (port_of_cu (cu_transmit ..) n).trans (port_setPort_self ..)

theorem pw_sendFrame : (s.sendFrame n vl kind cls eom seq nak data).pw = s.pw := by
  rw [sendFrame]
  exact pw_transmit ..

theorem length_out_sendFrame (h : s.pw.stopped = false) : (s.sendFrame n vl kind cls eom seq nak data).out.length = s.out.length + 1 := by
  have hout : (s.sendFrame n vl kind cls eom seq nak data).out = s.out ++ [_] := out_transmit (s := s.draw.2.setPort n _) h n _
  rw [hout, List.length_append]
  rfl

end

/-- A NAK, or none where one stands: the port keeps all but the gap and what it owes. -/
theorem port_nakOnce (s : State) (n : Nat) : ∃ gap owe, (s.nakOnce n).port n = { s.port n with gap := gap, owe := owe } := by
  unfold nakOnce
  split
  · exact ⟨_, _, rfl⟩
  · exact ⟨true, 0, by rw [sendIdle, port_sendFrame, port_updPort_self]⟩

/-! ### Replays (R354) -/

/-- The flits of frames sent again, in order: one frame goes out for each, and the replay buffer stands. -/
theorem resend_effect (n : Nat) (l : List TxFrame) (s : State) : let u := l.foldl (fun s f => s.sendFlit n f.seq f.flit) s
    (u.port n).unacked = (s.port n).unacked ∧ (s.pw.stopped = false → u.out.length = s.out.length + l.length) := by
  induction l generalizing s with
  | nil => exact ⟨rfl, fun _ => rfl⟩
  | cons f l ih =>
    obtain ⟨hunacked, hout⟩ := ih (s.sendFlit n f.seq f.flit)
    refine ⟨hunacked.trans (by rw [sendFlit, port_sendFrame]), fun hstopped => ?_⟩
    rw [List.foldl_cons, hout (by rw [sendFlit, pw_sendFrame, hstopped]), sendFlit, length_out_sendFrame _ _ _ _ _ _ _ _ hstopped, List.length_cons]
    omega

/-- A replay leaves every unacknowledged frame in the buffer, with one try more. -/
theorem unacked_replayFrames (s : State) (n : Nat) :
    ((s.replayFrames n).port n).unacked = (s.port n).unacked.map fun f => { f with tries := f.tries + 1, sent := s.now } := by
  rw [replayFrames, (resend_effect ..).1, port_setPort_self]

/-! ### Arrivals (R353) -/

theorem receiveFrame_closed (h : (s.port n).phase ∉ [2, 6, 7] ∨ s.portRole n = 7) (f : List Byte) : s.receiveFrame n f = s := by
  refine if_pos ?_
  rcases h with h | h
  · rw [Bool.eq_false_iff.2 (mt phase_contains.1 h)]
    rfl
  · rw [h]
    exact Bool.or_true _

/-- A flit frame by its number: the one expected is accepted; any other is owed an acknowledgement, and one ahead of it a NAK. -/
def sequenceFlit (s : State) (n vl cls : Nat) (head eom : Bool) (seq : Nat) (frame data : List Byte) : State :=
  let p := s.port n
  let w := s.updPort n fun p => { p with owe := p.owe + 1 }
  if seq = p.expect then s.acceptFlit n vl cls head eom frame data
  else if (seq + 4096 - p.expect) % 4096 < 2048 then w.nakOnce n
  else if 64 ≤ p.owe + 1 then w.sendIdle n false else w

/-- A port after a frame: it retrains if a frame has been replayed 16 times, and sends what it can now. -/
def afterFrame (s : State) (n : Nat) : State :=
  let u := if (s.port n).unacked.any fun f => Nat.ble 16 f.tries then s.startRetrain n [] else s
  portRun n (u.port n).queue.length u

section

variable (hopen : (s.port n).phase ∈ [2, 6, 7]) (hrole : s.portRole n ≠ 7)
include hopen hrole

theorem receives_open : ¬ (!([2, 6, 7].contains (s.port n).phase) || s.portRole n == 7) = true := by
  rw [phase_contains.2 hopen, beq_false_of_ne hrole]
  decide

/-- A frame of a wrong length or CRC is counted and discarded. -/
theorem receiveFrame_damaged {f : List Byte} (h : f.length ≠ 270 ∨ leField f 266 4 ≠ crc32 (f.take 266)) :
    s.receiveFrame n f = (s.cuNoted n 0x110 1).nakOnce n :=
  (if_neg (receives_open hopen hrole)).trans (if_pos h)

/-- A good HEAD or DATA frame that acknowledges nothing: its credit count is noted, and its flit goes by its number. -/
theorem receiveFrame_flit {f : List Byte} (hgood : f.length = 270 ∧ leField f 266 4 = crc32 (f.take 266)) : let h := leField f 0 10
    bitOf h 32 = false → bitOf h 33 = false → 2 ≤ bitsOf h 3 2 →
    s.receiveFrame n f = ((s.setPort n { s.port n with seen := (s.port n).seen.put (2 * bitsOf h 35 34 + bitsOf h 36 36) (bitsOf h 47 37) }).sequenceFlit n
      (bitsOf h 1 0) (bitsOf h 4 4) (bitsOf h 3 2 == 2) (bitOf h 5) (bitsOf h 19 8) f ((f.drop 10).take (bitsOf h 55 48 + 1))).afterFrame n := by
  intro h hack hnak hkind
  have hdamaged : ¬ (f.length ≠ 270 ∨ leField f 266 4 ≠ crc32 (f.take 266)) := by simp [hgood]
  refine (if_neg (receives_open hopen hrole)).trans ((if_neg hdamaged).trans ?_)
  have hidle : bitsOf h 3 2 ≠ 0 := by omega
  have hctrl : bitsOf h 3 2 ≠ 1 := by omega
  simp only [hack, hnak, Bool.false_and, Bool.false_eq_true, if_false, if_neg hidle, if_neg hctrl, h]
  simp only [sequenceFlit, afterFrame, updPort, port_setPort_self]

/-- A flit frame that arrives as it was sent. -/
theorem receiveFrame_frameOf {vl cls seq crvl crcls crcnt : Nat} (ack : Nat) (head eom : Bool) {data : List Byte} (hvl : vl < 4) (hcls : cls < 2) (hseq : seq < 4096)
    (hcrvl : crvl < 4) (hcrcls : crcls < 2) (hcrcnt : crcnt < 2048) (hdata : 0 < data.length) (hdata' : data.length ≤ 256) :
    let f := frameOf vl (if head then 2 else 3) cls eom seq ack 0 0 crvl crcls crcnt data
    s.receiveFrame n f = ((s.setPort n { s.port n with seen := (s.port n).seen.put (2 * crvl + crcls) crcnt }).sequenceFlit n vl cls head eom seq f data).afterFrame n := by
  intro f
  have hkind : (if head then 2 else 3) < 4 := by cases head <;> decide
  have hkind' : 2 ≤ if head then 2 else 3 := by cases head <;> decide
  have hhead : ((if head then 2 else 3) == 2) = head := by cases head <;> decide
  obtain ⟨hlane, hkindIs, hclass, heom, hnumber, hack, hnak, hcreditLane, hcreditClass, hcredit, hused⟩ :=
    fields_headerOf (ack := ack) eom hvl hkind hcls hseq hcrvl hcrcls hcrcnt hdata hdata'
  have hread : leField f 0 10 = headerOf vl (if head then 2 else 3) cls eom seq ack crvl crcls crcnt data.length := header_frameOf ..
  have hgood : f.length = 270 ∧ leField f 266 4 = crc32 (f.take 266) := ⟨length_frameOf .., crc_frameOf ..⟩
  have hbytes : (f.drop 10).take data.length = data := data_frameOf _ _ _ _ hdata'
  clear_value f
  rw [← hread] at hlane hkindIs hclass heom hnumber hack hnak hcreditLane hcreditClass hcredit hused
  rw [receiveFrame_flit hopen hrole hgood hack hnak (hkind'.trans_eq hkindIs.symm), hlane, hkindIs, hclass, heom, hnumber, hcreditLane, hcreditClass, hcredit, hused, hhead, hbytes]

end

end State

end Sys2Proof.Machine
end

section
/-! SUPPORT. Flits accepted by a port (R355, R357, R360, R364): those of a message for this chip, and those passed on at once. -/

namespace Sys2Proof.Machine

namespace State

/-! ### Routes (R364) -/

theorem devRead_congr {s u : State} (hti : u.ti = s.ti) (hstk : u.stk = s.stk) (a k : Nat) : u.devRead a k = s.devRead a k := by
  have hentry : ∀ g, u.entry g = s.entry g := entry_congr (by rw [hti]) (by rw [hti])
  have hhome : ∀ st f off m, u.readHome st f off m = s.readHome st f off m := fun st f off m => by rw [readHome, readHome, readFrame, readFrame, hti, hstk]
  rw [devRead, devRead]
  simp only [hentry, hhome]

/-- State u routes as s does: only counts of frames received, buffers and sequence numbers of ports may differ. -/
structure RoutesAs (s u : State) : Prop where
  reg : ∀ o, (∀ m, o ≠ cuReg m 0x108 ∧ o ≠ cuReg m 0x10C) → u.reg o = s.reg o
  ti : u.ti = s.ti
  stk : u.stk = s.stk
  flows : u.cu.flows = s.cu.flows
  port : ∀ m, (u.port m).phase = (s.port m).phase ∧ (u.port m).retrain = (s.port m).retrain ∧ (u.port m).tuns = (s.port m).tuns

namespace RoutesAs

variable {s u v : State} (h : RoutesAs s u)

theorem trans (h : RoutesAs s u) (h' : RoutesAs u v) : RoutesAs s v where
  reg o ho := (h'.reg o ho).trans (h.reg o ho)
  ti := h'.ti.trans h.ti
  stk := h'.stk.trans h.stk
  flows := h'.flows.trans h.flows
  port m := by
    obtain ⟨hphase, hretrain, htuns⟩ := h.port m
    obtain ⟨hphase', hretrain', htuns'⟩ := h'.port m
    exact ⟨hphase'.trans hphase, hretrain'.trans hretrain, htuns'.trans htuns⟩

include h

theorem portRole (m : Nat) : u.portRole m = s.portRole m := by
  rw [State.portRole, State.portRole, h.reg _ fun k => by unfold cuReg; omega]

theorem portGidx (m : Nat) : u.portGidx m = s.portGidx m := by
  rw [State.portGidx, State.portGidx, h.reg _ fun k => by unfold cuReg; omega]

/-- A word of the rank table. -/
theorem reg_rankTable {o : Nat} (ho : 0xC00800 ≤ o) (ho' : o < 0xC00900) : u.reg o = s.reg o := h.reg o fun k => by unfold cuReg; omega

theorem ownRank : u.ownRank = s.ownRank := by rw [State.ownRank, State.ownRank, h.reg_rankTable (by decide) (by decide)]
theorem rankLoaded : u.rankLoaded = s.rankLoaded := by rw [State.rankLoaded, State.rankLoaded, h.reg_rankTable (by decide) (by decide)]
theorem topo : u.topo = s.topo := by rw [State.topo, State.topo, h.reg_rankTable (by decide) (by decide)]
theorem nrank : u.nrank = s.nrank := by rw [State.nrank, State.nrank, h.reg_rankTable (by decide) (by decide)]
theorem tgen : u.tgen = s.tgen := by rw [State.tgen, State.tgen, h.reg_rankTable (by decide) (by decide)]
theorem ownIsland : u.ownIsland = s.ownIsland := by rw [State.ownIsland, State.ownIsland, h.reg_rankTable (by decide) (by decide)]

theorem rankEntry (r : Nat) : u.rankEntry r = s.rankEntry r := by
  rw [State.rankEntry, State.rankEntry, reg64, reg64, h.reg_rankTable (by decide) (by decide), h.reg_rankTable (by decide) (by decide),
    devRead_congr h.ti h.stk]

theorem dimSize (d : Nat) : u.dimSize d = s.dimSize d := by
  simp only [State.dimSize, h.reg_rankTable (o := R.CU_RT_DIM0) (by decide) (by decide), h.reg_rankTable (o := R.CU_RT_DIM1) (by decide) (by decide)]

theorem ownCoord (d : Nat) : u.ownCoord d = s.ownCoord d := by
  simp only [State.ownCoord, h.reg_rankTable (o := R.CU_RT_COORD0) (by decide) (by decide), h.reg_rankTable (o := R.CU_RT_COORD1) (by decide) (by decide)]

theorem groupTo (r : Nat) : u.groupTo r = s.groupTo r := by
  simp only [State.groupTo, rankIsland, rankCoord, h.topo, h.ownIsland, h.ownRank, h.rankEntry, h.dimSize, h.ownCoord] <;> rfl

/-- Where a message that arrives goes on to. -/
theorem passOn (n lane cls : Nat) (l : List Byte) : u.passOn n lane cls l = s.passOn n lane cls l := by
  simp only [State.passOn, nextClass, h.rankLoaded, h.tgen, h.ownRank, h.nrank, h.portRole, h.groupTo, h.dimSize, h.ownCoord]

/-- The port that a flow takes. -/
theorem portTo (flow role : Nat) : u.portTo flow role = s.portTo flow role := by
  have hgroup : u.groupPorts role = s.groupPorts role := by simp only [groupPorts, h.portRole, h.portGidx]
  have hphase : ∀ m, (u.port m).phase = (s.port m).phase := fun m => (h.port m).1
  have hserves : ∀ m, u.portServes m = s.portServes m := fun m => by rw [portServes, portServes, hphase, (h.port m).2.1]
  have hlost : ∀ m r, u.tunnelLost m r = s.tunnelLost m r := fun m r => by rw [tunnelLost, tunnelLost, (h.port m).2.2]
  simp only [State.portTo, hgroup, hphase, hserves, hlost, h.flows, h.portRole]

end RoutesAs

variable {s : State} {n : Nat}

/-- A port changed in its buffers and numbers alone. -/
theorem routesAs_setPort {p : Port} (hphase : p.phase = (s.port n).phase) (hretrain : p.retrain = (s.port n).retrain) (htuns : p.tuns = (s.port n).tuns) :
    RoutesAs s (s.setPort n p) where
  reg _ _ := rfl
  ti := rfl
  stk := rfl
  flows := rfl
  port m := by
    by_cases hm : m = n
    · rw [hm, port_setPort_self]
      exact ⟨hphase, hretrain, htuns⟩
    · rw [port_setPort_other _ _ hm]
      exact ⟨rfl, rfl, rfl⟩

/-- A count of frames received. -/
theorem routesAs_count (s : State) (n k : Nat) : RoutesAs s (s.count (cuReg n 0x108) k) where
  reg _ ho := reg_count_other _ _ (ho n).1 (ho n).2
  ti := count_ti ..
  stk := by rw [count_regs_only]
  flows := congrArg CuState.flows (count_cu ..)
  port m := by
    rw [port_count]
    exact ⟨rfl, rfl, rfl⟩

/-! ### A flit in its place (R353, R354) -/

/-- A port after a frame in its place: the next one is expected, and an acknowledgement is owed. -/
def advanced (p : Port) : Port := { p with expect := (p.expect + 1) % 4096, gap := false, owe := p.owe + 1 }

/-- The state in which a frame of port n has been taken in its place. -/
def inPlace (s : State) (n : Nat) : State := (s.setPort n (advanced (s.port n))).count (cuReg n 0x108) 1

theorem port_inPlace_self (s : State) (n : Nat) : (s.inPlace n).port n = advanced (s.port n) := by rw [inPlace, port_count, port_setPort_self]

theorem port_inPlace_other (s : State) {n m : Nat} (h : m ≠ n) : (s.inPlace n).port m = s.port m := by rw [inPlace, port_count, port_setPort_other _ _ h]

theorem inPlace_only (s : State) (n : Nat) : ∃ g l, s.inPlace n = { s with regs := g, cu := { s.cu with ports := l } } := by
  obtain ⟨g, hg⟩ := regsOnly_iff.1 (regsOnly_count (s.setPort n (advanced (s.port n))) (cuReg n 0x108) 1)
  exact ⟨g, _, hg⟩

theorem routesAs_inPlace (s : State) (n : Nat) : RoutesAs s (s.inPlace n) :=
  (routesAs_setPort (p := advanced (s.port n)) rfl rfl rfl).trans (routesAs_count ..)

/-- An accepted flit after which fewer than 64 frames wait for their acknowledgement. -/
theorem acceptFlit_few {vl cls : Nat} {head eom : Bool} {frame data : List Byte} (h : (((s.inPlace n).takeFlit n vl cls head eom frame data).port n).owe < 64) :
    s.acceptFlit n vl cls head eom frame data = (s.inPlace n).takeFlit n vl cls head eom frame data := if_neg (Nat.not_le.2 h)

/-! ### Flits for this chip, and flits for others -/

section

variable {vl : Nat} {head : Bool} (hfwd : (s.port n).fwd.get? vl = none) (hrx : head = true → (s.port n).rx.get? vl = none)
include hfwd hrx

/-- A lane on which nothing is under way has nothing to abandon. -/
theorem abandon_idle : (if head then s.abandon n vl else s) = s := by
  cases head with
  | false => rfl
  | true =>
    have hnone : ((s.port n).rx.get? vl).isNone && ((s.port n).fwd.get? vl).isNone := by rw [hrx rfl, hfwd]; rfl
    exact if_pos hnone

theorem takeFlit_stays {cls : Nat} {data : List Byte} (hstay : head = false ∨ s.passOn n vl cls data = none) (eom : Bool) (frame : List Byte) :
    s.takeFlit n vl cls head eom frame data = s.keepFlit n vl cls head eom frame data := by
  have hpass : (if head then s.passOn n vl cls data else none) = none := by
    rcases hstay with rfl | h
    · rfl
    · rw [h, ite_self]
  simp only [takeFlit, abandon_idle hfwd hrx, hpass, hfwd]

end

/-- The bytes of a lane's message with those of a flit: a HEAD finds none. -/
theorem joinFlit_idle {vl : Nat} {head : Bool} (hrx : head = true → (s.port n).rx.get? vl = none) (data : List Byte) :
    joinFlit (s.port n).rx vl head data = Map.getD [] (s.port n).rx vl ++ data := by
  cases head with
  | false => rfl
  | true => rw [joinFlit, Map.getD, hrx rfl]; rfl

theorem takeFlit_passes {vl cls flow role c : Nat} {data : List Byte} (hfwd : (s.port n).fwd.get? vl = none) (hrx : (s.port n).rx.get? vl = none)
    (hpass : s.passOn n vl cls data = some (flow, role, c)) (eom : Bool) (frame : List Byte) : s.takeFlit n vl cls true eom frame data =
      s.passFlit n (2 * vl + cls) ⟨vl, c, true, eom, data, none, flow, false, none⟩ frame fun s f => s.putFlow flow role [f] := by
  have hidle : s.abandon n vl = s := abandon_idle (head := true) hfwd fun _ => hrx
  simp only [takeFlit, if_true, hidle, hpass]

/-- A DATA flit for this chip, or a HEAD of a message of several flits: its frame and its bytes are kept. -/
theorem keepFlit_more (s : State) (n vl cls : Nat) (head : Bool) (frame data : List Byte) :
    s.keepFlit n vl cls head false frame data = let p := s.port n; let key := 2 * vl + cls
      s.setPort n { p with rbuf := p.rbuf.put key (Map.getD [] p.rbuf key ++ [(false, frame)]), rx := p.rx.put vl (joinFlit p.rx vl head data) } := rfl

/-- A port that exchanges no frames has no frame slots. -/
theorem portRun_closed (h : (s.port n).phase ∉ [2, 6, 7]) (k : Nat) : portRun n k s = s := by
  cases k with
  | zero => rfl
  | succ k =>
    have hclosed : [2, 6, 7].contains (s.port n).phase = false := Bool.eq_false_iff.2 (mt phase_contains.1 h)
    exact if_pos (by rw [hclosed, Bool.not_false, Bool.or_true, Bool.true_or])

/-- Flits given to a culvert port that exchanges no frames now wait in its queue (R372). -/
theorem putFlow_waits {m flow role : Nat} (hto : s.portTo flow role = some m) (hrole : s.portRole m ≠ 7) (hclosed : (s.port m).phase ∉ [2, 6, 7]) (fs : List Flit) :
    ∃ g, s.putFlow flow role fs = (({ s with cu := { s.cu with flows := g } } : State).updPort m fun p => { p with queue := p.queue ++ fs }, true) := by
  let g := if s.ownPort flow role = some m then s.cu.flows.del flow else s.cu.flows.put flow m
  let u : State := ({ s with cu := { s.cu with flows := g } } : State).updPort m fun p => { p with queue := p.queue ++ fs }
  have hrun : u.runPort m = u := (if_neg hrole).trans (portRun_closed (by rw [port_updPort_self]; exact hclosed) _)
  refine ⟨g, ?_⟩
  rw [putFlow, hto]
  exact congrArg (·, true) ((if_neg hrole).trans hrun)

/-- A flit that a port has been found for, of a message of which more is to come: the message goes on in its flow. -/
theorem passFlit_given {key : Nat} {f : Flit} {frame : List Byte} {give : State → Flit → State × Bool} {v : State} (heom : f.eom = false) (hgive : give
      (s.setPort n { s.port n with rbuf := (s.port n).rbuf.put key (Map.getD [] (s.port n).rbuf key ++ [(true, frame)]) }) { f with held := some (n, key) } = (v, true)) :
    s.passFlit n key f frame give = v.setPort n { v.port n with fwd := (v.port n).fwd.put f.lane (some (f.flow, f.cls)) } := by
  simp only [passFlit, updPort, hgive, if_true]
  simp only [heom, Bool.false_eq_true, if_false]

/-! ### Accepted flits -/

section

variable {vl cls : Nat} {head : Bool} {data : List Byte} (howe : (s.port n).owe + 1 < 64) (hfwd : (s.port n).fwd.get? vl = none)
include howe hfwd

/-- A port that has kept one flit more of a message for this chip. -/
def keeping (p : Port) (vl cls : Nat) (head : Bool) (frame data : List Byte) : Port :=
  { advanced p with
    rbuf := p.rbuf.put (2 * vl + cls) (Map.getD [] p.rbuf (2 * vl + cls) ++ [(false, frame)]), rx := p.rx.put vl (joinFlit p.rx vl head data) }

theorem acceptFlit_stays (hrx : head = true → (s.port n).rx.get? vl = none) (hstay : head = false ∨ s.passOn n vl cls data = none) (frame : List Byte) :
    s.acceptFlit n vl cls head false frame data = (s.inPlace n).setPort n (keeping (s.port n) vl cls head frame data) := by
  have hport := s.port_inPlace_self n
  have htake : (s.inPlace n).takeFlit n vl cls head false frame data = (s.inPlace n).setPort n (keeping (s.port n) vl cls head frame data) := by
    rw [takeFlit_stays (by rw [hport]; exact hfwd) (by rw [hport]; exact hrx) (by rwa [(routesAs_inPlace s n).passOn]), keepFlit_more, hport]
    rfl
  rw [acceptFlit_few (by rw [htake, port_setPort_self]; exact howe), htake]

/-- A port that has passed on the first flit of a message on lane vl, as one of a flow in class c. -/
def passing (p : Port) (vl cls flow c : Nat) (frame : List Byte) : Port :=
  { advanced p with
    rbuf := p.rbuf.put (2 * vl + cls) (Map.getD [] p.rbuf (2 * vl + cls) ++ [(true, frame)]), fwd := p.fwd.put vl (some (flow, c)) }

/-- A HEAD for another chip, towards which the port retrains, waits there at once, and this port holds its frame. -/
theorem acceptFlit_passes {flow role c m : Nat} (hrx : (s.port n).rx.get? vl = none) (hpass : s.passOn n vl cls data = some (flow, role, c))
    (hto : s.portTo flow role = some m) (hmn : m ≠ n) (hrole : s.portRole m ≠ 7) (hclosed : (s.port m).phase ∉ [2, 6, 7]) (frame : List Byte) :
    let t := s.acceptFlit n vl cls true false frame data
    t.port n = passing (s.port n) vl cls flow c frame ∧
    (t.port m).queue = (s.port m).queue ++ [⟨vl, c, true, false, data, none, flow, false, some (n, 2 * vl + cls)⟩] := by
  let key := 2 * vl + cls
  let p := (s.inPlace n).port n
  let held : Port := { p with rbuf := p.rbuf.put key (Map.getD [] p.rbuf key ++ [(true, frame)]) }
  let u := (s.inPlace n).setPort n held
  have hroutes : RoutesAs s u := (routesAs_inPlace s n).trans (routesAs_setPort rfl rfl rfl)
  have hown : p = advanced (s.port n) := s.port_inPlace_self n
  have hother : u.port m = s.port m := (port_setPort_other _ _ hmn).trans (s.port_inPlace_other hmn)
  obtain ⟨g, hg⟩ := putFlow_waits (s := u) ((hroutes.portTo ..).trans hto) (by rwa [hroutes.portRole]) (by rwa [hother])
    [⟨vl, c, true, false, data, none, flow, false, some (n, key)⟩]
  let v : State := { u with cu := { u.cu with flows := g } }
  let w := v.updPort m fun p => { p with queue := p.queue ++ [⟨vl, c, true, false, data, none, flow, false, some (n, key)⟩] }
  have hw : w.port n = held := (port_updPort_other _ _ (Ne.symm hmn)).trans (port_setPort_self ..)
  have htake : (s.inPlace n).takeFlit n vl cls true false frame data = w.setPort n (passing (s.port n) vl cls flow c frame) := by
    rw [takeFlit_passes (by rw [port_inPlace_self]; exact hfwd) (by rw [port_inPlace_self]; exact hrx) (by rwa [(routesAs_inPlace s n).passOn]),
      passFlit_given rfl hg, hw]
    simp only [held, hown]
    rfl
  have ht : s.acceptFlit n vl cls true false frame data = w.setPort n (passing (s.port n) vl cls flow c frame) := by
    rw [acceptFlit_few (by rw [htake, port_setPort_self]; exact howe), htake]
  simp only [ht, port_setPort_self, true_and]
  rw [port_setPort_other _ _ hmn, port_updPort_self]
  exact congrArg (·.queue ++ _) hother

end

end State

end Sys2Proof.Machine
end

section
/-! SUPPORT. The commands of a culvert port's frames (R353, R354, R360): arrivals, replays, acknowledgements and the sideband word. -/

namespace Sys2Proof.Machine

namespace State

variable {s : State} {n : Nat}

/-! ### Arrivals by number -/

theorem sequenceFlit_expected {seq : Nat} (h : seq = (s.port n).expect) (vl cls : Nat) (head eom : Bool) (frame data : List Byte) :
    s.sequenceFlit n vl cls head eom seq frame data = s.acceptFlit n vl cls head eom frame data := if_pos h

theorem sequenceFlit_other {seq : Nat} (h : seq ≠ (s.port n).expect) (vl cls : Nat) (head eom : Bool) (frame data : List Byte) :
    s.sequenceFlit n vl cls head eom seq frame data = let w := s.updPort n fun p => { p with owe := p.owe + 1 }
      if (seq + 4096 - (s.port n).expect) % 4096 < 2048 then w.nakOnce n else if 64 ≤ (s.port n).owe + 1 then w.sendIdle n false else w := if_neg h

/-- A frame out of sequence leaves the port what it had but the gap and what it owes. -/
theorem port_sequenceFlit_other {seq : Nat} (h : seq ≠ (s.port n).expect) (vl cls : Nat) (head eom : Bool) (frame data : List Byte) :
    ∃ gap owe, (s.sequenceFlit n vl cls head eom seq frame data).port n = { s.port n with gap := gap, owe := owe } := by
  rw [sequenceFlit_other h]
  dsimp only
  split
  · obtain ⟨gap, owe, hport⟩ := port_nakOnce (s.updPort n fun p => { p with owe := p.owe + 1 }) n
    exact ⟨gap, owe, by rw [hport, port_updPort_self]⟩
  · split
    · exact ⟨(s.port n).gap, 0, by rw [sendIdle, port_sendFrame, port_updPort_self]⟩
    · exact ⟨(s.port n).gap, (s.port n).owe + 1, port_updPort_self ..⟩

/-- A port none of whose frames has been replayed 16 times goes on without a retrain. -/
theorem afterFrame_fresh (h : ∀ f ∈ (s.port n).unacked, f.tries < 16) : s.afterFrame n = portRun n (s.port n).queue.length s := by
  have hany : ¬ ((s.port n).unacked.any fun f => Nat.ble 16 f.tries) = true := by
    rw [List.any_eq_true]
    rintro ⟨f, hf, hle⟩
    exact Nat.not_le.2 (h f hf) (Nat.le_of_ble_eq_true hle)
  rw [afterFrame, if_neg hany]

/-! ### The sideband word (R353) -/

/-- A port that exchanges frames says in its sideband whether it drains. -/
theorem sideband_open (h : (s.port n).phase ∈ [2, 6, 7]) : s.sideband n = leBytes 4 (b2n s.cu.slow + 2 * b2n ((s.port n).phase != 2)) := by
  have hdrains : ((s.port n).phase == 6 || (s.port n).phase == 7) = ((s.port n).phase != 2) := by
    generalize (s.port n).phase = ph at h
    fin_cases h <;> rfl
  rw [sideband, hdrains]

theorem sendCtrl_culvert (h : (s.port n).phase ∈ [2, 6, 7]) (hrev : (s.port n).rev = 0x20) (hrole : s.portRole n ≠ 7) :
    s.sendCtrl n = s.sendFrame n 0 1 0 false 0 false (s.sideband n) := by
  refine (if_neg ?_).trans (if_neg hrole)
  rw [phase_contains.2 h, hrev]
  decide

end State

/-! ### The commands -/

section

variable {s : State} {n : Nat} (hn : n < 18)
include hn

theorem exec_frameReceive (f : List Byte) : exec (.frameReceive n f) s = .next (s.receiveFrame n f) := onUnit_port hn _

section

variable (hopen : (s.port n).phase ∈ [2, 6, 7])
include hopen

theorem exec_replayTimeout (hsome : (s.port n).unacked ≠ []) (htries : ∀ f ∈ (s.port n).unacked, f.tries < 15) :
    exec (.replayTimeout n) s = .next ((s.replayFrames n).count (cuReg n 0x118) 1) := by
  have hfresh : ¬ (((s.replayFrames n).count (cuReg n 0x118) 1).port n).unacked.any (fun f => Nat.ble 16 f.tries) = true := by
    rw [State.port_count, State.unacked_replayFrames, List.any_map, List.any_eq_true]
    rintro ⟨f, hf, hle⟩
    have := htries f hf
    have : 16 ≤ f.tries + 1 := Nat.le_of_ble_eq_true hle
    omega
  refine (onUnit_port hn _).trans (congrArg _ ((if_neg ?_).trans (if_neg hfresh)))
  rw [phase_contains.2 hopen, List.isEmpty_eq_false_iff.2 hsome]
  decide

theorem exec_ackTimer (hrole : s.portRole n ≠ 7) :
    exec (.ackTimer n) s = .next (if 0 < (s.port n).owe then s.sendFrame n 0 0 0 false 0 false [] else s) := by
  refine (onUnit_port hn _).trans (congrArg _ ?_)
  have howe : ([2, 6, 7].contains (s.port n).phase && s.portRole n != 7 && Nat.blt 0 (s.port n).owe) = decide (0 < (s.port n).owe) := by
    rw [phase_contains.2 hopen, bne_iff_ne.2 hrole]
    exact Bool.eq_iff_iff.2 (by simp)
  simp only [howe, decide_eq_true_eq]
  rfl

theorem exec_ctrlFrameTimer_culvert (hrole : s.portRole n ≠ 7) (hrev : (s.port n).rev = 0x20) :
    exec (.ctrlFrameTimer n) s = .next (s.sendFrame n 0 1 0 false 0 false (leBytes 4 (b2n s.cu.slow + 2 * b2n ((s.port n).phase != 2)))) := by
  refine (onUnit_port hn _).trans (congrArg _ ((if_pos ?_).trans ?_))
  · rw [phase_contains.2 hopen, hrev]
    rfl
  · rw [State.sendCtrl_culvert hopen hrev hrole, State.sideband_open hopen]

end

/-- Revision 1.2 sends no sideband word (R362). -/
theorem exec_ctrlFrameTimer_old (hrev : (s.port n).rev ≠ 0x20) : exec (.ctrlFrameTimer n) s = .next s := by
  refine (onUnit_port hn _).trans (congrArg _ (if_neg ?_))
  simp [hrev]

/-! ### The clauses of the statement -/

/-- A frame of a wrong length or CRC is counted, and asks for the sequence again once (R353). -/
theorem damagedFrameIsAskedAgain (hopen : (s.port n).phase ∈ [2, 6, 7]) (hrole : s.portRole n ≠ 7) {f : List Byte}
    (h : f.length ≠ 270 ∨ leField f 266 4 ≠ crc32 (f.take 266)) : ∃ u : State,
    exec (.frameReceive n f) s = .next (u.nakOnce n) ∧ s.sets u (cuReg n 8) 1 ∧ s.adds u (cuReg n 0x110) 1 ∧ s.regsOnly u :=
  ⟨s.cuNoted n 0x110 1, (exec_frameReceive hn f).trans (congrArg _ (State.receiveFrame_damaged hopen hrole h)),
    s.cuNoted_sets n (by decide) (by decide), s.cuNoted_adds n 1 (by decide), s.cuNoted_regsOnly ..⟩

section

variable {vl cls crvl crcls crcnt : Nat} (ack : Nat) (head eom : Bool) {data : List Byte} (hopen : (s.port n).phase ∈ [2, 6, 7]) (hrole : s.portRole n ≠ 7)
  (hvl : vl < 4) (hcls : cls < 2) (hcrvl : crvl < 4) (hcrcls : crcls < 2) (hcrcnt : crcnt < 2048) (hdata : 0 < data.length) (hdata' : data.length ≤ 256)
include hopen hrole hvl hcls hcrvl hcrcls hcrcnt hdata hdata'

/-- A frame in sequence is accepted, and then the port sends what it can (R353, R356). -/
theorem expectedFrameIsAccepted (hexpect : (s.port n).expect < 4096) : let p := s.port n
    let f := State.frameOf vl (if head then 2 else 3) cls eom p.expect ack 0 0 crvl crcls crcnt data
    exec (.frameReceive n f) s =
      .next (((s.setPort n { p with seen := p.seen.put (2 * crvl + crcls) crcnt }).acceptFlit n vl cls head eom f data).afterFrame n) := by
  intro p f
  rw [exec_frameReceive hn, State.receiveFrame_frameOf hopen hrole ack head eom hvl hcls hexpect hcrvl hcrcls hcrcnt hdata hdata',
    State.sequenceFlit_expected (by rw [State.port_setPort_self])]

/-- A frame out of sequence is owed an acknowledgement if it is behind, and asks for the sequence again once if it is ahead (R353). -/
theorem otherFrameIsNotAccepted (htries : ∀ f ∈ (s.port n).unacked, f.tries < 16) {seq : Nat} (hseq : seq < 4096) (hne : seq ≠ (s.port n).expect) :
    let p := s.port n; let w := (s.setPort n { p with seen := p.seen.put (2 * crvl + crcls) crcnt }).updPort n fun p => { p with owe := p.owe + 1 }
    exec (.frameReceive n (State.frameOf vl (if head then 2 else 3) cls eom seq ack 0 0 crvl crcls crcnt data)) s = .next (State.portRun n p.queue.length
      (if (seq + 4096 - p.expect) % 4096 < 2048 then w.nakOnce n else if 64 ≤ p.owe + 1 then w.sendIdle n false else w)) := by
  intro p w
  let v := s.setPort n { p with seen := p.seen.put (2 * crvl + crcls) crcnt }
  let f := State.frameOf vl (if head then 2 else 3) cls eom seq ack 0 0 crvl crcls crcnt data
  have hv : v.port n = { p with seen := p.seen.put (2 * crvl + crcls) crcnt } := s.port_setPort_self ..
  have hne' : seq ≠ (v.port n).expect := by rw [hv]; exact hne
  obtain ⟨gap, owe, hport⟩ := State.port_sequenceFlit_other hne' vl cls head eom f data
  have hfresh : (v.sequenceFlit n vl cls head eom seq f data).afterFrame n = State.portRun n p.queue.length (v.sequenceFlit n vl cls head eom seq f data) := by
    rw [State.afterFrame_fresh (by rw [hport, hv]; exact htries), hport, hv]
  rw [exec_frameReceive hn, State.receiveFrame_frameOf hopen hrole ack head eom hvl hcls hseq hcrvl hcrcls hcrcnt hdata hdata', hfresh, State.sequenceFlit_other hne', hv]

end

/-- Every unacknowledged frame goes out again in order (R354). -/
theorem replayGoesOut (hsome : (s.port n).unacked ≠ []) (hopen : (s.port n).phase ∈ [2, 6, 7]) (htries : ∀ f ∈ (s.port n).unacked, f.tries < 15) : ∃ u : State,
    exec (.replayTimeout n) s = .next (u.count (cuReg n 0x118) 1) ∧
    u = (s.port n).unacked.foldl (fun s f => s.sendFlit n f.seq f.flit)
      (s.setPort n { s.port n with unacked := (s.port n).unacked.map fun f => { f with tries := f.tries + 1, sent := s.now } }) ∧
    (s.pw.stopped = false → u.out.length = s.out.length + (s.port n).unacked.length) :=
  ⟨s.replayFrames n, exec_replayTimeout hn hopen hsome htries, rfl,
    (State.resend_effect n (s.port n).unacked (s.setPort n _)).2⟩

end

namespace State

section

variable {s : State} {n vl cls : Nat} {head : Bool} {data : List Byte} (howe : (s.port n).owe + 1 < 64) (hfwd : (s.port n).fwd.get? vl = none)
include howe hfwd

/-- What an accepted flit of a message for this chip leaves: its bytes join the message of its lane, and its frame is held (R355, R360). -/
theorem acceptFlit_stays_effect (hrx : head = true → (s.port n).rx.get? vl = none) (hstay : head = false ∨ s.passOn n vl cls data = none) (frame : List Byte) :
    let p := s.port n; let t := s.acceptFlit n vl cls head false frame data
    (t.port n).expect = (p.expect + 1) % 4096 ∧ (t.port n).gap = false ∧
    Map.getD [] (t.port n).rx vl = Map.getD [] p.rx vl ++ data ∧ (∀ l, l ≠ vl → Map.getD [] (t.port n).rx l = Map.getD [] p.rx l) ∧
    Map.getD [] (t.port n).rbuf (2 * vl + cls) = Map.getD [] p.rbuf (2 * vl + cls) ++ [(false, frame)] ∧ (t.port n).freed = p.freed ∧
    (∀ m, m ≠ n → t.port m = s.port m) ∧ t = { s with regs := t.regs, cu := { s.cu with ports := t.cu.ports } } := by
  intro p t
  have ht : t = (s.inPlace n).setPort n (keeping p vl cls head frame data) := acceptFlit_stays howe hfwd hrx hstay frame
  have hport : t.port n = keeping p vl cls head frame data := by rw [ht, port_setPort_self]
  rw [hport]
  refine ⟨rfl, rfl, ?_, fun l hl => Map.getD_put_other _ _ _ hl, Map.getD_put_self .., rfl, fun m hm => ?_, ?_⟩
  · exact (Map.getD_put_self ..).trans (joinFlit_idle hrx data)
  · rw [ht, port_setPort_other _ _ hm, port_inPlace_other _ hm]
  · obtain ⟨g, l, hg⟩ := s.inPlace_only n
    rw [ht, hg]
    rfl

/-- What an accepted HEAD of a message for another chip leaves: it waits at the port towards that chip, and its frame is held (R355, R357, R364). -/
theorem acceptFlit_passes_effect {flow role c m : Nat} (hhead : head = true) (hrx : head = true → (s.port n).rx.get? vl = none)
    (hpass : s.passOn n vl cls data = some (flow, role, c)) (hto : s.portTo flow role = some m) (hmn : m ≠ n) (hrole : s.portRole m ≠ 7) (hphase : (s.port m).phase = 3)
    (frame : List Byte) : let p := s.port n; let t := s.acceptFlit n vl cls head false frame data
    (t.port m).queue = (s.port m).queue ++ [⟨vl, c, true, false, data, none, flow, false, some (n, 2 * vl + cls)⟩] ∧ (t.port n).fwd.get? vl = some (some (flow, c)) ∧
    Map.getD [] (t.port n).rbuf (2 * vl + cls) = Map.getD [] p.rbuf (2 * vl + cls) ++ [(true, frame)] ∧
    (t.port n).expect = (p.expect + 1) % 4096 ∧ (t.port n).rx = p.rx ∧ (t.port n).freed = p.freed := by
  subst hhead
  obtain ⟨hport, hqueue⟩ := acceptFlit_passes howe hfwd (hrx rfl) hpass hto hmn hrole (by rw [hphase]; decide) frame
  refine ⟨hqueue, ?_⟩
  rw [hport]
  exact ⟨Map.get?_put_self .., Map.getD_put_self .., rfl, rfl, rfl⟩

end

end State

end Sys2Proof.Machine
end

section
/-! SUPPORT. Ethernet ports and their tunnels (R365–R367): frames that arrive, partial frames, timers, and the statement about frames. -/

namespace Sys2Proof.Machine

namespace State

variable {s : State} {n k : Nat}

/-! ### Tunnels -/

theorem tunnel_updTun_self (s : State) (n k : Nat) (f : Tunnel → Tunnel) : tunnel ((s.updTun n k f).port n) k = f (tunnel (s.port n) k) := by
  rw [updTun, port_updPort_self]
  exact Map.getD_put_self ..

theorem tunnel_of_only {p : Port} {t : Tunnel} (h : p.tuns = [(k, t)]) : tunnel p k = t := by
  rw [tunnel, h, Map.getD, Map.get?_cons, if_pos rfl]
  rfl

/-! ### Frames that arrive (R366, R367) -/

/-- A frame that is not acceptable is counted and discarded. -/
theorem ethDrop_eq (s : State) (n : Nat) : s.ethDrop n = s.cuNoted n 0x138 0x80 := rfl

/-- What a frame's acknowledgement and its NAK do, before its flits are taken. -/
def ethHeard (s : State) (n k : Nat) (l : List Byte) : State :=
  let s := if bitOf (leField l 1 1) 2 then s.updTun n k (ethAcked (leField l 12 4)) else s
  if bitOf (leField l 1 1) 3 then s.ethReplay n k else s

theorem ethFrame_eq (s : State) (n k : Nat) (l : List Byte) : s.ethFrame n k l = ((s.ethHeard n k l).ethSequence n k l).runPort n := rfl

theorem ethHeard_silent {l : List Byte} (hack : bitOf (leField l 1 1) 2 = false) (hnak : bitOf (leField l 1 1) 3 = false) : s.ethHeard n k l = s := by
  simp only [ethHeard, hack, hnak, Bool.false_eq_true, if_false]

/-- A frame in its tunnel's sequence, for which its lane has room: the next is expected, and its flits are taken. -/
theorem ethSequence_expected {l : List Byte} (hsome : leField l 2 1 ≠ 0) (hseq : leField l 8 4 = (tunnel (s.port n) k).expect)
    (hroom : rxFull (s.port n) (leField l 1 1 % 4) (256 * leField l 2 1) = false) :
    let w := s.updTun n k fun t => { t with expect := (t.expect + 1) % 2 ^ 32, gap := false }
    s.ethSequence n k l = (takeFlits n k (leField l 2 1) (l.drop 16) (w.count (cuReg n 0x108) 1)).ethAck n k false :=
  (if_neg hsome).trans ((if_pos hseq).trans (if_neg (by rw [hroom]; decide)))

section

variable (hrole : s.portRole n = 7) (hopen : (s.port n).phase ∈ [2, 6, 7])
include hrole hopen

theorem receivesEth_open : ¬ (s.portRole n ≠ 7 ∨ !([2, 6, 7].contains (s.port n).phase)) := by
  rw [phase_contains.2 hopen, hrole]
  decide

theorem receiveEth_unacceptable {f : List Byte} (h : s.ethParse n f = none ∨ ∃ l ip, s.ethParse n f = some (l, ip) ∧ s.ethShimOk l ip = false) :
    s.receiveEth n f = s.cuNoted n 0x138 0x80 := by
  rw [← ethDrop_eq, receiveEth, if_neg (receivesEth_open hrole hopen)]
  obtain h | ⟨l, ip, h, hshim⟩ := h
  · rw [h]
  · simp only [h, hshim, Bool.not_false, if_true]

theorem receiveEth_tunnel {f l : List Byte} {ip : Nat} {t : Tunnel} (hparse : s.ethParse n f = some (l, ip)) (hshim : s.ethShimOk l ip = true)
    (hfind : (s.port n).tuns.find? (fun t => t.2.rank == leField l 4 2 && t.2.phase == 1) = some (k, t)) :
    s.receiveEth n f = ((s.ethHeard n k l).ethSequence n k l).runPort n := by
  have htunnel : s.ethTunnel n l = some (k, s) := by simp only [ethTunnel, hfind]
  rw [receiveEth, if_neg (receivesEth_open hrole hopen)]
  simp only [hparse, hshim, Bool.not_true, Bool.false_eq_true, if_false, htunnel, ethFrame_eq]

end

/-! ### Lanes that are due (R366) -/

/-- The state in which every lane of which a tunnel of port n holds flits is due. -/
def allDue (s : State) (n : Nat) : State := s.updPort n fun p => { p with tuns := p.tuns.map fun t => (t.1, { t.2 with due := heldLanes t.2 }) }

end State

/-! ### The commands -/

section

variable {s : State} {n : Nat} (hn : n < 18)
include hn

theorem exec_ethFrameReceive (f : List Byte) : exec (.ethFrameReceive n f) s = .next (s.receiveEth n f) := onUnit_port hn _

theorem exec_ethCoalesce : exec (.ethCoalesce n) s = .next ((s.allDue n).runPort n) := onUnit_port hn _

section

variable {k : Nat} (hk : k < 256)
include hk

theorem exec_tunnelIdle : exec (.tunnelIdle n k) s = let p := s.port n; let t := State.tunnel p k
    .next (if t.phase = 1 ∧ t.unacked.isEmpty ∧ t.hold.isEmpty ∧ t.begun.isEmpty then (s.setPort n { p with tuns := p.tuns.del k }).requeue n else s) :=
  onUnit_portPart hn hk _

theorem exec_tunnelRto : exec (.tunnelRto n k) s = let t := State.tunnel (s.port n) k
    .next (if t.phase ≠ 1 ∨ t.unacked.isEmpty ∨ !([2, 6, 7].contains (s.port n).phase) then s
      else if 16 ≤ t.rto + 1 then s.tunnelDown n k
      else (s.updTun n k fun t => { t with rto := t.rto + 1 }).ethReplay n k) := onUnit_portPart hn hk _

/-! ### The clauses of the statement -/

/-- A tunnel that carries nothing closes, and one with frames unacknowledged or flits held stays open (R367). -/
theorem tunnelClosesIdle : let p := s.port n; let t := State.tunnel p k
    (t.phase = 1 → t.unacked = [] → t.hold = [] → t.begun = [] → exec (.tunnelIdle n k) s = .next ((s.setPort n { p with tuns := p.tuns.del k }).requeue n)) ∧
    ((t.unacked ≠ [] ∨ t.hold ≠ []) → exec (.tunnelIdle n k) s = .next s) := by
  refine ⟨fun hphase hacked hhold hbegun => ?_, fun h => ?_⟩
  · refine (exec_tunnelIdle hn hk).trans (congrArg _ (if_pos ?_))
    rw [hphase, hacked, hhold, hbegun]
    decide
  · refine (exec_tunnelIdle hn hk).trans (congrArg _ (if_neg ?_))
    rintro ⟨-, hacked, hhold, -⟩
    exact h.elim (absurd (List.isEmpty_iff.1 hacked)) (absurd (List.isEmpty_iff.1 hhold))

/-- A tunnel's timer waits with its port, sends its frames again, and at its 16th expiry in a row takes it DOWN (R367, R372). -/
theorem tunnelTimerExpires : let p := s.port n; let t := State.tunnel p k
    (p.phase ∉ [2, 6, 7] → exec (.tunnelRto n k) s = .next s) ∧
    (p.phase ∈ [2, 6, 7] → t.phase = 1 → t.unacked ≠ [] → t.rto < 15 → ∃ u : State, exec (.tunnelRto n k) s = .next (u.ethReplay n k) ∧
      State.tunnel (u.port n) k = { t with rto := t.rto + 1 } ∧ u = { s with cu := { s.cu with ports := u.cu.ports } }) ∧
    (p.phase ∈ [2, 6, 7] → t.phase = 1 → t.unacked ≠ [] → 15 ≤ t.rto → exec (.tunnelRto n k) s = .next (s.tunnelDown n k)) := by
  intro p t
  have hruns : p.phase ∈ [2, 6, 7] → t.phase = 1 → t.unacked ≠ [] → ¬ (t.phase ≠ 1 ∨ t.unacked.isEmpty ∨ !([2, 6, 7].contains p.phase)) :=
    fun hopen hphase hsome => by
      rw [phase_contains.2 hopen, hphase, List.isEmpty_eq_false_iff.2 hsome]
      decide
  refine ⟨fun hclosed => ?_, fun hopen hphase hsome hrto => ⟨s.updTun n k fun t => { t with rto := t.rto + 1 }, ?_, s.tunnel_updTun_self .., rfl⟩,
    fun hopen hphase hsome hrto => ?_⟩
  · exact (exec_tunnelRto hn hk).trans (congrArg _ (if_pos (.inr (.inr (by rw [Bool.eq_false_iff.2 (mt phase_contains.1 hclosed)]; rfl)))))
  · exact (exec_tunnelRto hn hk).trans (congrArg _ ((if_neg (hruns hopen hphase hsome)).trans (if_neg (Nat.not_le.2 (Nat.succ_lt_succ hrto)))))
  · exact (exec_tunnelRto hn hk).trans (congrArg _ ((if_neg (hruns hopen hphase hsome)).trans (if_pos (Nat.succ_le_succ hrto))))

end

section

variable (hrole : s.portRole n = 7) (hopen : (s.port n).phase ∈ [2, 6, 7])
include hrole hopen

theorem unacceptableFrameIsDropped {f : List Byte} (h : s.ethParse n f = none ∨ ∃ l ip, s.ethParse n f = some (l, ip) ∧ s.ethShimOk l ip = false) :
    ∃ t, exec (.ethFrameReceive n f) s = .next t ∧ s.sets t (cuReg n 8) 0x80 ∧ s.adds t (cuReg n 0x138) 1 ∧ s.regsOnly t :=
  ⟨s.cuNoted n 0x138 0x80, (exec_ethFrameReceive hn f).trans (congrArg _ (State.receiveEth_unacceptable hrole hopen h)),
    s.cuNoted_sets n (by decide) (by decide), s.cuNoted_adds n _ (by decide), s.cuNoted_regsOnly ..⟩

/-- A frame of an open tunnel is taken in its sequence (R367). -/
theorem tunnelFrameIsTaken {f l : List Byte} {ip k : Nat} {t : Tunnel} (hparse : s.ethParse n f = some (l, ip)) (hshim : s.ethShimOk l ip = true)
    (hfind : (s.port n).tuns.find? (fun t => t.2.rank == leField l 4 2 && t.2.phase == 1) = some (k, t)) :
    ∃ u : State, exec (.ethFrameReceive n f) s = .next (u.runPort n) ∧
      (bitOf (leField l 1 1) 2 = false → bitOf (leField l 1 1) 3 = false → State.tunnel (s.port n) k = t → leField l 2 1 ≠ 0 → leField l 8 4 = t.expect →
        State.rxFull (s.port n) (leField l 1 1 % 4) (256 * leField l 2 1) = false → ∃ v w : State,
        u = (State.takeFlits n k (leField l 2 1) (l.drop 16) v).ethAck n k false ∧ v = w.count (cuReg n 0x108) 1 ∧ w = { s with cu := { s.cu with ports := w.cu.ports } } ∧
        State.tunnel (w.port n) k = { t with expect := (t.expect + 1) % 2 ^ 32, gap := false } ∧ (∀ m, m ≠ n → w.port m = s.port m)) := by
  refine ⟨(s.ethHeard n k l).ethSequence n k l, (exec_ethFrameReceive hn f).trans (congrArg _ (State.receiveEth_tunnel hrole hopen hparse hshim hfind)), ?_⟩
  rintro hack hnak rfl hsome hseq hroom
  refine ⟨_, s.updTun n k fun t => { t with expect := (t.expect + 1) % 2 ^ 32, gap := false }, ?_, rfl, rfl,
    s.tunnel_updTun_self .., fun m hm => State.port_updPort_other _ _ hm⟩
  rw [State.ethHeard_silent hack hnak]
  exact State.ethSequence_expected hsome hseq hroom

end

end

end Sys2Proof.Machine
end

section
/-! SUPPORT. Partial frames of a tunnel (R366, R367): which flits leave, the frame slot that they take, and the frame that goes out; and the statement about frames. -/

namespace Sys2Proof.Machine

namespace State

variable {s : State} {n k vl : Nat} {p : Port} {t : Tunnel}

/-! ### The flits of a lane -/

theorem laneNext_none {l : List Flit} (h : ∀ f ∈ l, f.lane ≠ vl) (drain : Bool) (begun : Map Nat) : laneNext drain begun l vl = none :=
  List.find?_eq_none.2 fun f hf => by simp [h f hf]

/-- A hold without flits of a lane gives none of it. -/
theorem takeLane_none {hold : List Flit} (h : ∀ f ∈ hold, f.lane ≠ vl) (drain : Bool) (m : Nat) (begun : Map Nat) :
    takeLane drain vl m hold begun = ([], hold, begun) := by
  cases m with
  | zero => rfl
  | succ m => rw [takeLane, laneNext_none h]

/-- The flits taken of a lane come from the hold. -/
theorem mem_of_mem_takeLane {f : Flit} (drain : Bool) (m : Nat) {hold : List Flit} {begun : Map Nat} (hf : f ∈ (takeLane drain vl m hold begun).1) : f ∈ hold := by
  induction m generalizing hold begun with
  | zero => exact absurd hf List.not_mem_nil
  | succ m ih =>
    rw [takeLane] at hf
    cases hnext : laneNext drain begun hold vl with
    | none =>
      rw [hnext] at hf
      exact absurd hf List.not_mem_nil
    | some g =>
      rw [hnext] at hf
      rcases List.mem_cons.1 hf with rfl | hf
      · exact List.mem_of_find?_eq_some hnext
      · exact List.mem_of_mem_erase (ih hf)

/-! ### Frame slots (R356, R366, R367) -/

/-- A tunnel that holds nothing of a lane has no frame of it ready. -/
theorem ethReady_none (h : ∀ f ∈ t.hold, f.lane ≠ vl) (p : Port) : ethReady p t vl = false := by
  have hnone : (ethNext p t vl).1 = [] := by rw [ethNext, takeLane_none h]
  simp [ethReady, hnone, show Nat.ble 32 0 = false from rfl]

/-- With room for every frame that is ready, no slot passes for want of it. -/
theorem ethFull_false (h : ∀ x ∈ p.tuns, ∀ v, ethReady p x.2 v = true → ethRoom p x.2 v = true) : ethFull p = false := by
  simp only [ethFull, List.any_eq_false, Bool.and_eq_true, Bool.not_eq_true', not_exists, not_and, List.any_eq_true, Bool.not_eq_false]
  exact fun x hx v _ hready => h x hx v hready

theorem ethSlot_none (h : ∀ x ∈ p.tuns, ∀ v, ethReady p x.2 v = false) : ethSlot p = none := by
  refine List.findSome?_eq_none_iff.2 fun v _ => ?_
  rw [Option.map_eq_none_iff, List.find?_eq_none]
  intro x hx
  rw [h x hx v, Bool.false_and]
  decide

/-- The slot of a port whose one tunnel has a frame of one lane ready. -/
theorem ethSlot_only (hvl : vl < 4) (htuns : p.tuns = [(k, t)]) (hready : ethReady p t vl = true) (hroom : ethRoom p t vl = true)
    (hother : ∀ v, v ≠ vl → ethReady p t v = false) : ethSlot p = some (k, vl) := by
  have hmem : vl ∈ (List.range 4).map fun j => (p.lastVl + 1 + j) % 4 :=
    List.mem_map.2 ⟨(vl + 3 * (p.lastVl + 1)) % 4, List.mem_range.2 (Nat.mod_lt _ (by decide)), by omega⟩
  have hfind : ∀ v, (p.tuns.find? fun x => ethReady p x.2 v && ethRoom p x.2 v).map (fun x => (x.1, v)) = if v = vl then some (k, vl) else none := fun v => by
    rw [htuns]
    by_cases hv : v = vl
    · subst hv
      simp [hready, hroom]
    · simp [hother v hv, hv]
  rw [ethSlot]
  simp only [hfind]
  generalize (List.range 4).map (fun j => (p.lastVl + 1 + j) % 4) = lanes at hmem
  induction lanes with
  | nil => exact absurd hmem List.not_mem_nil
  | cons v lanes ih =>
    rw [List.findSome?_cons]
    by_cases hv : v = vl
    · rw [if_pos hv]
    · rw [if_neg hv]
      exact ih ((List.mem_cons.1 hmem).resolve_left (Ne.symm hv))

theorem ethRun_slot (hrun : s.pw.stopped = false) (hopen : (s.port n).phase ∈ [2, 6, 7]) (hfull : ethFull (s.port n) = false)
    (hslot : ethSlot (s.port n) = some (k, vl)) (m : Nat) : ethRun n (m + 1) s = ethRun n m (s.ethSend n k vl) := by
  have hgo : ¬ (s.pw.stopped || !([2, 6, 7].contains (s.port n).phase)) = true := by
    rw [hrun, phase_contains.2 hopen]
    decide
  rw [ethRun]
  simp only [if_neg hgo, hfull, hslot, Bool.false_eq_true, if_false]

/-- A port none of whose tunnels has a frame ready sends nothing. -/
theorem ethRun_idle (h : ∀ x ∈ (s.port n).tuns, ∀ v, ethReady (s.port n) x.2 v = false) (m : Nat) : ethRun n m s = s := by
  have hfull : ethFull (s.port n) = false := ethFull_false fun x hx v hready => absurd hready (by rw [h x hx v]; decide)
  cases m with
  | zero => rfl
  | succ m =>
    rw [ethRun]
    simp only [hfull, ethSlot_none h, Bool.false_eq_true, if_false, ite_self]

/-! ### A partial frame goes out -/

/-- Flits that came from this chip hold no receive frame. -/
theorem foldl_release_free {l : List Flit} (h : ∀ f ∈ l, f.held = none) (s : State) : l.foldl release s = s :=
  List.foldlRecOn l release (motive := (· = s)) rfl fun u hu f hf => by rw [release, h f hf, hu]

/-- A tunnel whose hold has left in one frame of flits l. -/
def emptied (t : Tunnel) (vl : Nat) (l : List Flit) (begun : Map Nat) : Tunnel :=
  { t with
    hold := [], begun := begun, due := t.due.filter (· != vl), next := (t.next + 1) % 2 ^ 32
    unacked := t.unacked ++ [⟨t.next, l.map fun f => { f with held := none }⟩] }

/-- The frame that takes the whole hold of a port's one tunnel. -/
theorem ethSend_only (hrun : s.pw.stopped = false) (htuns : (s.port n).tuns = [(k, t)]) {l : List Flit} {b : Map Nat} (hnext : ethNext (s.port n) t vl = (l, [], b))
    (hfree : ∀ f ∈ l, f.held = none) : s.ethSend n k vl =
      ((s.setPort n { s.port n with tuns := [(k, emptied t vl l b)], lastVl := vl }).send
        (.frame n (s.ethBytes n k t.rank vl (t.expect + 2 ^ 32 - 1) t.next false l))).count (cuReg n 0x100) 1 := by
  have hput : (s.port n).tuns.put k (emptied t vl l b) = [(k, emptied t vl l b)] := by
    rw [htuns, Map.put, if_neg (Nat.lt_irrefl k), if_pos rfl]
  rw [ethSend]
  simp only [tunnel_of_only htuns, hnext, List.any_nil, Bool.false_eq_true, and_false, if_false, foldl_release_free hfree]
  rw [transmit, if_neg (by rw [setPort_pw, hrun]; decide)]
  exact congrArg (fun x => State.count (State.send (s.setPort n { s.port n with tuns := x, lastVl := vl }) _) _ _) hput

theorem out_count (s : State) (off k : Nat) : (s.count off k).out = s.out := by rw [count_regs_only]

/-- What that frame leaves: it has gone out, and the tunnel holds nothing. -/
theorem ethSend_only_effect (hrun : s.pw.stopped = false) (htuns : (s.port n).tuns = [(k, t)]) {l : List Flit} {b : Map Nat} (hnext : ethNext (s.port n) t vl = (l, [], b))
    (hfree : ∀ f ∈ l, f.held = none) : let u := s.ethSend n k vl
    u.out = s.out ++ [.frame n (s.ethBytes n k t.rank vl (t.expect + 2 ^ 32 - 1) t.next false l)] ∧ (u.port n).tuns = [(k, emptied t vl l b)] := by
  rw [ethSend_only hrun htuns hnext hfree]
  refine ⟨out_count .., ?_⟩
  rw [port_count]
  exact congrArg Port.tuns (port_setPort_self ..)

/-- The lanes of which a tunnel holds flits are due. -/
theorem heldLanes_contains (hvl : vl < 4) (h : ∃ f ∈ t.hold, f.lane = vl) : (heldLanes t).contains vl = true := by
  obtain ⟨f, hf, hlane⟩ := h
  exact List.contains_iff_mem.2 (List.mem_filter.2 ⟨List.mem_range.2 hvl, List.any_eq_true.2 ⟨f, hf, beq_iff_eq.2 hlane⟩⟩)

/-- A tunnel all of whose lanes are due. -/
def dueTunnel (t : Tunnel) : Tunnel := { t with due := heldLanes t }

theorem port_allDue_only (h : (s.port n).tuns = [(k, t)]) : (s.allDue n).port n = { s.port n with tuns := [(k, dueTunnel t)] } := by
  rw [allDue, port_updPort_self, h]
  rfl

/-- A partial frame that is due is ready. -/
theorem ethReady_due (hphase : t.phase = 1) (hacked : t.unacked = []) (hsome : (ethNext p t vl).1 ≠ []) (hdue : t.due.contains vl = true) :
    ethReady p t vl = true := by
  have hlen : Nat.blt 0 (ethNext p t vl).1.length = true := Nat.ble_eq_true_of_le (List.length_pos_iff.2 hsome)
  rw [ethReady, hphase, hacked, hlen, hdue]
  exact Bool.or_true _

/-- A replay store that holds nothing has room for a partial frame. -/
theorem ethRoom_empty (htuns : p.tuns = [(k, t)]) (hacked : t.unacked = []) (hfew : (ethNext p t vl).1.length < 32) : ethRoom p t vl = true := by
  have hstored : ethStored p = 0 := by rw [ethStored, htuns, List.map_singleton, hacked]; rfl
  rw [ethRoom, hstored]
  exact Nat.ble_eq_true_of_le (by omega)

/-- A port whose one tunnel has a partial frame due, and nothing else to send, sends that frame. -/
theorem runPort_only (hrole : s.portRole n = 7) (hopen : (s.port n).phase ∈ [2, 6, 7]) (hrun : s.pw.stopped = false) (htuns : (s.port n).tuns = [(k, t)])
    (hphase : t.phase = 1) (hacked : t.unacked = []) (hvl : vl < 4) (hhold : ∀ f ∈ t.hold, f.lane = vl) (hdue : t.due.contains vl = true) {l : List Flit} {b : Map Nat}
    (hnext : ethNext (s.port n) t vl = (l, [], b)) (hsome : l ≠ []) (hfew : l.length < 32) (hfree : ∀ f ∈ l, f.held = none) : s.runPort n = s.ethSend n k vl := by
  have hready : ethReady (s.port n) t vl = true := ethReady_due hphase hacked (by rw [hnext]; exact hsome) hdue
  have hroom : ethRoom (s.port n) t vl = true := ethRoom_empty htuns hacked (by rw [hnext]; exact hfew)
  have hother : ∀ v, v ≠ vl → ethReady (s.port n) t v = false := fun v hv => ethReady_none (fun f hf hlane => hv (hlane.symm.trans (hhold f hf))) _
  have hfull : ethFull (s.port n) = false := ethFull_false fun x hx v hv => by
    rw [htuns, List.mem_singleton] at hx
    subst hx
    by_cases h : v = vl
    · rw [h, hroom]
    · exact absurd hv (by rw [hother v h]; decide)
  have hsent : ((s.ethSend n k vl).port n).tuns = [(k, emptied t vl l b)] := (ethSend_only_effect hrun htuns hnext hfree).2
  rw [runPort, if_pos hrole, ethRun_slot hrun hopen hfull (ethSlot_only hvl htuns hready hroom hother), ethRun_idle]
  intro x hx v
  rw [hsent, List.mem_singleton] at hx
  subst hx
  exact ethReady_none (fun _ hf => absurd hf List.not_mem_nil) _

end State

/-- The flits that an open tunnel holds, all of one lane and fewer than 32, leave in one frame as soon as they may (R366). -/
theorem partialFrameGoesOut {s : State} {n k vl : Nat} {t : Tunnel} {l : List Flit} {b : Map Nat} (hn : n < 18) (hrole : s.portRole n = 7)
    (hopen : (s.port n).phase ∈ [2, 6, 7]) (hrun : s.pw.stopped = false) (htuns : (s.port n).tuns = [(k, t)]) (hphase : t.phase = 1) (hacked : t.unacked = [])
    (hvl : vl < 4) (hhold : ∀ f ∈ t.hold, f.lane = vl ∧ f.held = none) (hnext : State.ethNext (s.port n) t vl = (l, [], b)) (hsome : l ≠ []) (hfew : l.length < 32) :
    ∃ u, exec (.ethCoalesce n) s = .next u ∧ u.out = s.out ++ [.frame n (s.ethBytes n k t.rank vl (t.expect + 2 ^ 32 - 1) t.next false l)] ∧
      (State.tunnel (u.port n) k).hold = [] ∧ (State.tunnel (u.port n) k).next = (t.next + 1) % 2 ^ 32 := by
  have hport := State.port_allDue_only htuns
  have hmem : ∀ f ∈ l, f ∈ t.hold := fun f hf => State.mem_of_mem_takeLane ((s.port n).phase != 2) 32 (by rw [← State.ethNext, hnext]; exact hf)
  have hfree : ∀ f ∈ l, f.held = none := fun f hf => (hhold f (hmem f hf)).2
  have hdue : (State.heldLanes t).contains vl = true :=
    State.heldLanes_contains hvl ⟨l.head hsome, hmem _ (List.head_mem hsome), (hhold _ (hmem _ (List.head_mem hsome))).1⟩
  have hnext' : State.ethNext ((s.allDue n).port n) (State.dueTunnel t) vl = (l, [], b) := by rw [hport]; exact hnext
  have hsend := State.runPort_only (s := s.allDue n) hrole (by rw [hport]; exact hopen) hrun (by rw [hport])
    (t := State.dueTunnel t) hphase hacked hvl (fun f hf => (hhold f hf).1) hdue hnext' hsome hfew hfree
  obtain ⟨hout, hsent⟩ := State.ethSend_only_effect (s := s.allDue n) hrun (by rw [hport]) hnext' hfree
  have htunnel := State.tunnel_of_only hsent
  refine ⟨(s.allDue n).ethSend n k vl, (exec_ethCoalesce hn).trans (congrArg _ hsend), hout, ?_, ?_⟩
  · rw [htunnel]
    rfl
  · rw [htunnel]
    rfl

/-- Settles O34: frames by their place in the sequence, then the timers, then Ethernet frames and tunnels. -/
theorem framesArriveInSequence : Obligations.FramesArriveInSequence := by
  intro s n hn p
  refine ⟨fun hclosed f => (exec_frameReceive hn f).trans (congrArg _ (State.receiveFrame_closed hclosed f)),
    fun hopen hrole f hbad => damagedFrameIsAskedAgain hn hopen hrole hbad, ?_,
    fun hsome hopen htries => replayGoesOut hn hsome hopen htries,
    fun hopen => ⟨fun hrole => exec_ackTimer hn hopen hrole, fun hrole hrev => exec_ctrlFrameTimer_culvert hn hopen hrole hrev, exec_ctrlFrameTimer_old hn⟩,
    fun f hrole hopen => ⟨fun hbad => unacceptableFrameIsDropped hn hrole hopen hbad,
      fun l ip k t hparse hshim hfind => tunnelFrameIsTaken hn hrole hopen hparse hshim hfind⟩,
    fun _ => ⟨s.allDue n, exec_ethCoalesce hn, congrArg Port.tuns (State.port_updPort_self ..), fun m hm => State.port_updPort_other _ _ hm, rfl⟩,
    fun k t l b vl hrole hopen hrun htuns hphase hacked hvl hhold hnext hsome hfew =>
      partialFrameGoesOut hn hrole hopen hrun htuns hphase hacked hvl hhold hnext hsome hfew,
    fun k hk => ⟨(tunnelClosesIdle hn hk).1, (tunnelClosesIdle hn hk).2, tunnelTimerExpires hn hk⟩⟩
  intro hopen hrole vl cls ack crvl crcls crcnt head eom data hvl hcls hcrvl hcrcls hcrcnt _ hdata hdata' hexpect htries
  refine ⟨expectedFrameIsAccepted hn ack head eom hopen hrole hvl hcls hcrvl hcrcls hcrcnt hdata hdata' hexpect,
    fun seq hseq hne => otherFrameIsNotAccepted hn ack head eom hopen hrole hvl hcls hcrvl hcrcls hcrcnt hdata hdata' htries hseq hne, ?_⟩
  rintro rfl howe hfwd hrx frame
  exact ⟨fun hstay => State.acceptFlit_stays_effect howe hfwd hrx hstay frame,
    fun flow role c m hhead hpass hto hmn hrole' hphase => State.acceptFlit_passes_effect howe hfwd hhead hrx hpass hto hmn hrole' hphase frame⟩

end Sys2Proof.Machine
end

section
/-! SUPPORT. The anchor of a state: the commands that wait and the fuses. What the shared operations, the rings and the tiers leave as it is. -/

namespace Sys2Proof.Machine

/-- The fuses of the D8 (R424, R440): OTP words, key digests, the key-encryption key, the fused SVN and the revoked key slots. -/
def GlState.fused (g : GlState) : Map Nat × Map (List Byte) × Option (List Byte) × Nat × List Nat :=
  (g.otp, g.fuseKeys, g.kek, g.svn, g.revoked)

@[simp] theorem GlState.fused_mk (g : GlState) (kind phase : Nat) (running : Bool) (cause : Nat) (badCores badPcs : List Nat) (quiesced stuck : Bool) (spares polders : Map Nat)
    (defined : List Nat) :
    (GlState.mk kind phase running cause badCores badPcs quiesced stuck spares g.otp g.fuseKeys g.revoked g.kek g.svn polders defined).fused = g.fused := rfl

namespace State

/-- What a command leaves as it is, unless it writes a fuse: the commands that wait, and the fuses. -/
def anchor (s : State) : List Instr × Map Nat × Map (List Byte) × Option (List Byte) × Nat × List Nat := (s.pending, s.gl.fused)

@[simp] theorem anchor_mk (pending : List Instr) (clk free : Nat) (regs : Map Word) (mem : Memory) (bad soft : List Nat) (out : List Out) (el : ElState)
    (cores : Map CoreState) (signals : List Signal) (dikes : Map Dike) (emits : Map (List EmitMsg)) (chains : List Chain)
    (berm : List BermChunk) (tg : TgState) (models : Map Model) (ti : TiState) (stk : Memory) (kv : KvState) (qus : Map QuState) (sl : SlState)
    (cu : CuState) (sk : SkState) (hi : HiState) (dt : DtState) (gl : GlState) (im : ImState) (mg : MgState) (pw : PwState) (jt : JtState)
    (seamKey : Nat × Nat) (keys : Map (List Byte)) :
    (State.mk pending clk free regs mem bad soft out el cores signals dikes emits chains berm tg models ti stk kv qus sl cu sk hi dt gl im mg pw jt
      seamKey keys).anchor = (pending, gl.fused) := rfl

@[simp] theorem anchor_eta (s : State) : (s.pending, s.gl.fused) = s.anchor := rfl

@[simp] theorem anchor_ite {c : Prop} [Decidable c] (a b : State) : (if c then a else b).anchor = if c then a.anchor else b.anchor :=
  apply_ite anchor c a b

@[simp] theorem anchor_foldl {α : Type} (f : State → α → State) (hf : ∀ s x, (f s x).anchor = s.anchor) (l : List α) (s : State) :
    (l.foldl f s).anchor = s.anchor := by
  induction l generalizing s with
  | nil => rfl
  | cons x l ih => rw [List.foldl_cons, ih, hf]

theorem anchor_foldl_snd {α β : Type} (f : β × State → α → β × State) (hf : ∀ p x, (f p x).2.anchor = p.2.anchor) (l : List α) (p : β × State) :
    (l.foldl f p).2.anchor = p.2.anchor := by
  induction l generalizing p with
  | nil => rfl
  | cons x l ih => rw [List.foldl_cons, ih, hf]

@[simp] theorem anchor_setReg (s : State) (off v : Nat) : (setReg s off v).anchor = s.anchor := by
  simp [setReg]

@[simp] theorem anchor_orReg (s : State) (off v : Nat) : (orReg s off v).anchor = s.anchor := by
  simp [orReg]

@[simp] theorem anchor_setReg64 (s : State) (off v : Nat) : (setReg64 s off v).anchor = s.anchor := by
  simp [setReg64]

@[simp] theorem anchor_count (s : State) (off n : Nat) : (count s off n).anchor = s.anchor := by
  simp [count]

@[simp] theorem anchor_count32 (s : State) (off n : Nat) : (count32 s off n).anchor = s.anchor := by
  simp [count32]

@[simp] theorem anchor_send (s : State) (m : Out) : (send s m).anchor = s.anchor := by
  simp [send]

@[simp] theorem anchor_raise (s : State) (r : Report) : (raise s r).anchor = s.anchor := by
  simp [raise]

@[simp] theorem anchor_report (s : State) (cls blk cause source data : Nat) : (report s cls blk cause source data).anchor = s.anchor := by
  simp [report]

@[simp] theorem anchor_reportAt (s : State) (cls blk cause source addr : Nat) : (reportAt s cls blk cause source addr).anchor = s.anchor := by
  simp [reportAt]

@[simp] theorem anchor_reports (s : State) (n : Nat) (f : State → State) (hf : ∀ s, (f s).anchor = s.anchor) : (s.reports n f).anchor = s.anchor := by
  induction n generalizing s with
  | zero => rfl
  | succ n ih => rw [reports, ih, hf]

@[simp] theorem anchor_draw (s : State) : (draw s).2.anchor = s.anchor := by
  simp [draw]

@[simp] theorem anchor_freeLine (s : State) (a n : Nat) : (freeLine s a n).2.anchor = s.anchor := by
  simp [freeLine]

@[simp] theorem anchor_markTags (s : State) (c : TagClass) (n : Nat) : (markTags s c n).anchor = s.anchor := by
  simp [markTags]

@[simp] theorem anchor_tagPulse (s : State) (c : TagClass) : (tagPulse s c).anchor = s.anchor := by
  simp [tagPulse]

@[simp] theorem anchor_hostTx (s : State) (a : Nat) (bs : List Byte) : (hostTx s a bs).anchor = s.anchor := by
  simp [hostTx]

@[simp] theorem anchor_hostRx (s : State) (a n : Nat) : (hostRx s a n).anchor = s.anchor := by
  simp [hostRx]

@[simp] theorem anchor_writeMem (s : State) (a : Nat) (bs : List Byte) : (writeMem s a bs).anchor = s.anchor := by
  simp [writeMem]

@[simp] theorem anchor_setCore (s : State) (c : Nat) (x : CoreState) : (setCore s c x).anchor = s.anchor := by
  simp [setCore]

@[simp] theorem anchor_updCore (s : State) (c : Nat) (f : CoreState → CoreState) : (updCore s c f).anchor = s.anchor := by
  simp [updCore]

@[simp] theorem anchor_writeStore (s : State) (c a : Nat) (bs : List Byte) : (writeStore s c a bs).anchor = s.anchor := by
  simp [writeStore]

@[simp] theorem anchor_storeUe (s : State) (c blk : Nat) (word : Option Nat) : (storeUe s c blk word).anchor = s.anchor := by
  simp only [storeUe]; split <;> simp

@[simp] theorem anchor_storeCe (s : State) (c : Nat) : (storeCe s c).anchor = s.anchor := by
  simp [storeCe]

@[simp] theorem anchor_seep (s : State) (c a n : Nat) : (seep s c a n).anchor = s.anchor := by
  simp [seep]

@[simp] theorem anchor_meetStore (s : State) (c a n : Nat) : (meetStore s c a n).anchor = s.anchor := by
  simp [meetStore]

@[simp] theorem anchor_arith (s : State) (c : Nat) (a : Arith) : (arith s c a).anchor = s.anchor := by
  simp [arith]

@[simp] theorem anchor_setArith (s : State) (c bits : Nat) : (setArith s c bits).anchor = s.anchor := by
  simp [setArith]

@[simp] theorem anchor_raisedOver (s : State) (c bits : Nat) (clear : State → State) (hclear : ∀ s, (clear s).anchor = s.anchor) : (raisedOver s c bits clear).anchor = s.anchor := by
  simp [raisedOver, hclear]

@[simp] theorem anchor_setPair (s : State) (q : Nat) (x : QPair) : (setPair s q x).anchor = s.anchor := by
  simp [setPair]

@[simp] theorem anchor_msix (s : State) (v : Nat) : (msix s v).anchor = s.anchor := by
  simp [msix]

@[simp] theorem anchor_signalIrq (s : State) (q : Nat) (irqNow : Bool) : (signalIrq s q irqNow).anchor = s.anchor := by
  simp [signalIrq]

@[simp] theorem anchor_postEvent (s : State) (ty data : Nat) : (postEvent s ty data).anchor = s.anchor := by
  simp [postEvent]

@[simp] theorem anchor_complete (s : State) (r : Req) (status detail result : Nat) : (complete s r status detail result).anchor = s.anchor := by
  simp [complete]

@[simp] theorem anchor_updReq (s : State) (r : Req) (f : Req → Req) : (updReq s r f).anchor = s.anchor := by
  simp [updReq]

@[simp] theorem anchor_failReq (s : State) (r : Req) (status detail result : Nat) : (failReq s r status detail result).anchor = s.anchor := by
  simp [failReq]

@[simp] theorem anchor_setEntry (s : State) (g : Nat) (x : MapEntry) : (setEntry s g x).anchor = s.anchor := by
  simp only [setEntry]; split <;> simp

@[simp] theorem anchor_updEntry (s : State) (g : Nat) (f : MapEntry → MapEntry) : (updEntry s g f).anchor = s.anchor := by
  simp [updEntry]

@[simp] theorem anchor_upd (s : State) (f : TiState → TiState) : (upd s f).anchor = s.anchor := by
  simp [upd]

@[simp] theorem anchor_writeFrame (s : State) (stack frame off : Nat) (bs : List Byte) : (writeFrame s stack frame off bs).anchor = s.anchor := by
  simp [writeFrame]

@[simp] theorem anchor_writeHome (s : State) (st f off : Nat) (bs : List Byte) : (writeHome s st f off bs).anchor = s.anchor := by
  simp [writeHome]

@[simp] theorem anchor_zeroDone (s : State) (key : Nat) : (zeroDone s key).anchor = s.anchor := by
  simp [zeroDone]

@[simp] theorem anchor_devWriteList (s : State) (l : List (Nat × Nat × Nat)) (bs : List Byte) : (s.devWriteList l bs).anchor = s.anchor := by
  induction l generalizing s bs with
  | nil => rfl
  | cons x t ih =>
    rw [devWriteList, ih]
    split <;> simp

@[simp] theorem anchor_devWrite (s : State) (a : Nat) (bs : List Byte) : (devWrite s a bs).anchor = s.anchor := by
  simp [devWrite]

@[simp] theorem anchor_heat (s : State) (a n : Nat) : (heat s a n).anchor = s.anchor := by
  simp [heat]

@[simp] theorem anchor_plan (s : State) (m : Move) : (plan s m).anchor = s.anchor := by
  simp [plan]

@[simp] theorem anchor_demote (s : State) (g : Nat) (kind : MoveKind) : (demote s g kind).anchor = s.anchor := by
  simp [demote]

@[simp] theorem anchor_demandAny (s : State) (g : Nat) : (demandAny s g).anchor = s.anchor := by
  simp only [demandAny]; (repeat' split) <;> simp

@[simp] theorem anchor_demand (s : State) (g : Nat) : (demand s g).anchor = s.anchor := by
  simp [demand]

@[simp] theorem anchor_passDown (d b free : Nat) (s : State) : (passDown d b free s).2.2.anchor = s.anchor := by
  induction b generalizing free s with
  | zero => rfl
  | succ b ih =>
    simp only [passDown]
    (repeat' split) <;> simp [ih]

@[simp] theorem anchor_passUp (d : Nat) (l : List Nat) (b free : Nat) (s : State) : (passUp d l b free s).anchor = s.anchor := by
  induction l generalizing b free s with
  | nil => rfl
  | cons u t ih =>
    simp only [passUp]
    (repeat' split) <;> simp [ih]

@[simp] theorem anchor_pass (s : State) (d : Nat) : (pass s d).anchor = s.anchor := by
  simp [pass]

@[simp] theorem anchor_notify (s : State) (g : Nat) : (notify s g).anchor = s.anchor := by
  simp [notify]

@[simp] theorem anchor_poison (s : State) (g : Nat) : (poison s g).anchor = s.anchor := by
  simp [poison]

@[simp] theorem anchor_stackUe (s : State) (a n : Nat) : (stackUe s a n).anchor = s.anchor := by
  simp [stackUe]

@[simp] theorem anchor_stackCorr (s : State) (st pc : Nat) : (stackCorr s st pc).anchor = s.anchor := by
  simp [stackCorr]

@[simp] theorem anchor_quPush (s : State) (st : Nat) (d : QuDesc) : (quPush s st d).anchor = s.anchor := by
  simp [quPush]

@[simp] theorem anchor_claimFrame (s : State) (st f p : Nat) : (claimFrame s st f p).anchor = s.anchor := by
  simp only [claimFrame]; split <;> simp

@[simp] theorem anchor_giveHome (s : State) (g st f p : Nat) : (s.giveHome g st f p).anchor = s.anchor := by
  have homed : ∀ x : MapEntry → MapEntry, ((s.claimFrame st f p).updEntry g x).anchor = s.anchor := by simp
  unfold giveHome
  dsimp only
  split
  · rw [anchor_devWrite, homed]
  · exact homed _

@[simp] theorem anchor_freeFrame (s : State) (st f p : Nat) : (freeFrame s st f p).anchor = s.anchor := by
  simp [freeFrame]

@[simp] theorem anchor_dropHome (s : State) (g : Nat) : (dropHome s g).anchor = s.anchor := by
  simp [dropHome]

@[simp] theorem anchor_giveHomes (s : State) (grans : List Nat) (p : Nat) : (s.giveHomes grans p).anchor = s.anchor := by
  refine (anchor_foldl _ (fun t g => ?_) _ _).trans (anchor_draw s)
  dsimp only
  split <;> simp

end State

end Sys2Proof.Machine
end

section
/-! SUPPORT. The anchor under the operations of links, arithmetic units and flags. -/

namespace Sys2Proof.Machine

namespace State

@[simp] theorem anchor_setPort (s : State) (n : Nat) (p : Port) : (setPort s n p).anchor = s.anchor := by
  simp [setPort]

@[simp] theorem anchor_updPort (s : State) (n : Nat) (f : Port → Port) : (updPort s n f).anchor = s.anchor := by
  simp [updPort]

@[simp] theorem anchor_transmit (s : State) (n : Nat) (b : List Byte) : (transmit s n b).anchor = s.anchor := by
  simp [transmit]

@[simp] theorem anchor_sendFrame (s : State) (n vl kind cls : Nat) (eom : Bool) (seq : Nat) (nak : Bool) (data : List Byte) : (sendFrame s n vl kind cls eom seq nak data).anchor = s.anchor := by
  simp [sendFrame]

@[simp] theorem anchor_sendFlit (s : State) (n seq : Nat) (f : Flit) : (sendFlit s n seq f).anchor = s.anchor := by
  simp [sendFlit]

@[simp] theorem anchor_release (s : State) (f : Flit) : (release s f).anchor = s.anchor := by
  simp only [release]; split <;> simp

@[simp] theorem anchor_portRun (n k : Nat) (s : State) : (portRun n k s).anchor = s.anchor := by
  induction k generalizing s with
  | zero => rfl
  | succ k ih =>
    simp only [portRun]
    (repeat' split) <;> simp [ih]

@[simp] theorem anchor_ethSend (s : State) (n tun vl : Nat) : (s.ethSend n tun vl).anchor = s.anchor := by
  refine (anchor_foldl _ anchor_release _ _).trans ?_
  rw [anchor_count, anchor_transmit, anchor_setPort]

@[simp] theorem anchor_ethRun (n k : Nat) (s : State) : (ethRun n k s).anchor = s.anchor := by
  induction k generalizing s with
  | zero => rfl
  | succ k ih =>
    simp only [ethRun]
    (repeat' split) <;> simp [ih]

@[simp] theorem anchor_runPort (s : State) (n : Nat) : (runPort s n).anchor = s.anchor := by
  simp [runPort]

theorem anchor_of_openTunnel {s t : State} {n rank k : Nat} (h : s.openTunnel n rank = some (k, t)) : t.anchor = s.anchor := by
  revert h
  simp only [openTunnel]
  (repeat' split) <;> simp +contextual [eq_comm]

@[simp] theorem anchor_putFlits (s : State) (n rank : Nat) (fs : List Flit) : (s.putFlits n rank fs).anchor = s.anchor := by
  unfold putFlits
  split
  · split
    · next h => simp [anchor_of_openTunnel h]
    · simp
  · simp

@[simp] theorem anchor_putFlow (s : State) (flow role : Nat) (fs : List Flit) : (putFlow s flow role fs).1.anchor = s.anchor := by
  simp only [putFlow]; split <;> simp

@[simp] theorem anchor_forward (s : State) (m : Msg) (cls : Nat) (model : Option Nat) : (forward s m cls model).1.anchor = s.anchor := by
  simp only [forward]; split <;> simp

@[simp] theorem anchor_sendMsg (s : State) (dst lane mtype : Nat) (body data : List Byte) (model : Option Nat) : (sendMsg s dst lane mtype body data model).1.anchor = s.anchor := by
  simp only [sendMsg]; split <;> simp

@[simp] theorem anchor_sendControl (s : State) (dst mtype : Nat) (body : List Byte) : (sendControl s dst mtype body).anchor = s.anchor := by
  simp [sendControl]

@[simp] theorem anchor_sendCtrl (s : State) (n : Nat) : (sendCtrl s n).anchor = s.anchor := by
  simp [sendCtrl]

@[simp] theorem anchor_takeMsg (s : State) (mtype : Nat) (p : Msg → Bool) : (takeMsg s mtype p).anchor = s.anchor := by
  simp only [takeMsg]; split <;> simp

@[simp] theorem anchor_setSctx (s : State) (k v : Nat) : (setSctx s k v).anchor = s.anchor := by
  simp [setSctx]

@[simp] theorem anchor_setScField (s : State) (k hi lo v : Nat) : (setScField s k hi lo v).anchor = s.anchor := by
  simp [setScField]

@[simp] theorem anchor_setRun (s : State) (k : Nat) (r : StreamRun) : (setRun s k r).anchor = s.anchor := by
  simp [setRun]

@[simp] theorem anchor_delRun (s : State) (k : Nat) : (delRun s k).anchor = s.anchor := by
  simp [delRun]

@[simp] theorem anchor_tgUpd (s : State) (f : TgState → TgState) : (tgUpd s f).anchor = s.anchor := by
  simp [tgUpd]

@[simp] theorem anchor_setPos (s : State) (k : Nat) (r : StreamRun) : (setPos s k r).anchor = s.anchor := by
  simp [setPos]

@[simp] theorem anchor_tellPeer (s : State) (k mtype fill : Nat) : (tellPeer s k mtype fill).anchor = s.anchor := by
  simp [tellPeer]

@[simp] theorem anchor_keepRest (s : State) (k : Nat) (r : StreamRun) (used : Nat) : (keepRest s k r used).anchor = s.anchor := by
  simp [keepRest]

@[simp] theorem anchor_endChain (s : State) (k : Nat) : (endChain s k).anchor = s.anchor := by
  simp only [endChain]; split <;> simp

@[simp] theorem anchor_freeCtx (s : State) (k : Nat) (r : StreamRun) (used : Nat) : (freeCtx s k r used).anchor = s.anchor := by
  simp [freeCtx]

@[simp] theorem anchor_cancelRun (s : State) (k : Nat) : (cancelRun s k).anchor = s.anchor := by
  simp only [cancelRun]; split <;> simp

@[simp] theorem anchor_faultAny (s : State) (c i cause data : Nat) : (faultAny s c i cause data).anchor = s.anchor := by
  simp [faultAny]

@[simp] theorem anchor_faultSlotWith (s : State) (c i cause data : Nat) : (faultSlotWith s c i cause data).anchor = s.anchor := by
  simp [faultSlotWith]

@[simp] theorem anchor_faultSlot (s : State) (c i cause : Nat) : (faultSlot s c i cause).anchor = s.anchor := by
  simp [faultSlot]

@[simp] theorem anchor_endErr (s : State) (k : Nat) (r : StreamRun) (cause : Nat) : (endErr s k r cause).anchor = s.anchor := by
  simp [endErr]

@[simp] theorem anchor_endHalted (s : State) (k : Nat) (r : StreamRun) (cause g : Nat) : (endHalted s k r cause g).anchor = s.anchor := by
  simp [endHalted]

@[simp] theorem anchor_drainEnd (s : State) (k : Nat) : (drainEnd s k).anchor = s.anchor := by
  simp only [drainEnd]; (repeat' split) <;> simp

@[simp] theorem anchor_dropReqs (s : State) (o : Owner) : (dropReqs s o).anchor = s.anchor := by
  simp [dropReqs]

@[simp] theorem anchor_streamErr (s : State) (k cause : Nat) : (streamErr s k cause).anchor = s.anchor := by
  simp only [streamErr]; split <;> simp

@[simp] theorem anchor_streamHalt (s : State) (k cause g : Nat) : (streamHalt s k cause g).anchor = s.anchor := by
  simp only [streamHalt]; split <;> simp

@[simp] theorem anchor_takeFills (k n : Nat) (s : State) : (takeFills k n s).anchor = s.anchor := by
  induction n generalizing s with
  | zero => rfl
  | succ n ih =>
    simp only [takeFills]
    (repeat' split) <;> simp [ih]

@[simp] theorem anchor_feedDescs (s : State) (k : Nat) : (feedDescs s k).anchor = s.anchor := by
  simp [feedDescs]

@[simp] theorem anchor_pushDescs (s : State) (k : Nat) (l : List (BitVec 256)) : (pushDescs s k l).anchor = s.anchor := by
  simp [pushDescs]

@[simp] theorem anchor_takeDescs (k n : Nat) (s : State) : (takeDescs k n s).anchor = s.anchor := by
  induction n generalizing s with
  | zero => rfl
  | succ n ih =>
    simp only [takeDescs]
    (repeat' split) <;> simp [ih]

@[simp] theorem anchor_takeGrants (k n : Nat) (s : State) : (takeGrants k n s).anchor = s.anchor := by
  induction n generalizing s with
  | zero => rfl
  | succ n ih =>
    simp only [takeGrants]
    (repeat' split) <;> simp [ih]

@[simp] theorem anchor_advanceStream (s : State) (k : Nat) : (advanceStream s k).anchor = s.anchor := by
  simp only [advanceStream]; (repeat' split) <;> simp

@[simp] theorem anchor_advanceStreams (s : State) (c : Nat) : (advanceStreams s c).anchor = s.anchor := by
  simp [advanceStreams]

@[simp] theorem anchor_wake (s : State) (c : Nat) : (wake s c).anchor = s.anchor := by
  simp [wake]

@[simp] theorem anchor_orFlags (s : State) (c fw mask : Nat) : (orFlags s c fw mask).anchor = s.anchor := by
  simp [orFlags]

@[simp] theorem anchor_endHalt (s : State) (c i : Nat) : (endHalt s c i).anchor = s.anchor := by
  simp only [endHalt]; split <;> simp

@[simp] theorem anchor_settleLoop (c n : Nat) (s : State) : (settleLoop c n s).anchor = s.anchor := by
  induction n generalizing s with
  | zero => rfl
  | succ n ih =>
    simp only [settleLoop]
    (repeat' split) <;> simp [ih]

@[simp] theorem anchor_settle (s : State) (c : Nat) : (settle s c).anchor = s.anchor := by
  simp [settle]

@[simp] theorem anchor_followEnd (t s : State) (c : Nat) : (t.followEnd s c).anchor = t.anchor := by
  simp [followEnd]

@[simp] theorem anchor_failStream (s : State) (k cause : Nat) : (failStream s k cause).anchor = s.anchor := by
  simp [failStream]

@[simp] theorem anchor_slotFault (s : State) (c i cause : Nat) : (slotFault s c i cause).anchor = s.anchor := by
  simp [slotFault]

@[simp] theorem anchor_cancelSlot (s : State) (c i : Nat) : (cancelSlot s c i).anchor = s.anchor := by
  simp [cancelSlot]

@[simp] theorem anchor_setFlags (s : State) (c fw mask : Nat) : (setFlags s c fw mask).anchor = s.anchor := by
  simp [setFlags]

@[simp] theorem anchor_clearFlags (s : State) (c fw mask : Nat) : (clearFlags s c fw mask).anchor = s.anchor := by
  simp [clearFlags]

end State

end Sys2Proof.Machine
end

section
/-! SUPPORT. The anchor under the operations of units, attention, sluice cores and moves. -/

namespace Sys2Proof.Machine

namespace State

@[simp] theorem anchor_writeRows (s : State) (c a pitch : Nat) (rows : List (List Byte)) : (writeRows s c a pitch rows).anchor = s.anchor := by
  simp [writeRows]

@[simp] theorem anchor_runMma (s : State) (c : Nat) (q : QStep) : (runMma s c q).anchor = s.anchor := by
  simp [runMma]

@[simp] theorem anchor_runVec (s : State) (c : Nat) (q : QStep) : (runVec s c q).anchor = s.anchor := by
  simp [runVec]

@[simp] theorem anchor_runSfu (s : State) (c : Nat) (q : QStep) : (runSfu s c q).anchor = s.anchor := by
  simp [runSfu]

@[simp] theorem anchor_runNorm (s : State) (c : Nat) (q : QStep) : (runNorm s c q).anchor = s.anchor := by
  simp [runNorm]

@[simp] theorem anchor_runRope (s : State) (c : Nat) (q : QStep) : (runRope s c q).anchor = s.anchor := by
  simp [runRope]

@[simp] theorem anchor_meetTarget (s : State) (c oAt stAt qr d : Nat) : (meetTarget s c oAt stAt qr d).anchor = s.anchor := by
  simp [meetTarget]

@[simp] theorem anchor_writeTarget (s : State) (c oAt stAt d : Nat) (rs : List RowState) : (writeTarget s c oAt stAt d rs).anchor = s.anchor := by
  simp [writeTarget]

@[simp] theorem anchor_writeEntry (s : State) (c qr d tidx : Nat) (base : Bool) (rows : List RowState) : (writeEntry s c qr d tidx base rows).anchor = s.anchor := by
  simp [writeEntry]

@[simp] theorem anchor_foldEntries (s : State) (c qr d : Nat) (sat : Bool) (t n : Nat) (rs : List RowState) (st : Arith) :
    (s.foldEntries c qr d sat t n rs st).1.anchor = s.anchor := by
  induction n generalizing s t rs st with
  | zero => rfl
  | succ n ih => rw [foldEntries, ih, anchor_writeStore]

@[simp] theorem anchor_finishTarget (s : State) (c : Nat) (t : BenchTarget) : (finishTarget s c t).anchor = s.anchor := by
  simp [finishTarget]

@[simp] theorem anchor_emptyTargets (s : State) (c : Nat) : (emptyTargets s c).anchor = s.anchor := by
  simp [emptyTargets]

@[simp] theorem anchor_runAttn (s : State) (c model : Nat) (q : QStep) : (runAttn s c model q).anchor = s.anchor := by
  simp [runAttn]

@[simp] theorem anchor_operandSeep (s : State) (c model : Nat) (q : QStep) : (operandSeep s c model q).anchor = s.anchor := by
  simp [operandSeep]

@[simp] theorem anchor_slUpd (s : State) (f : SlState → SlState) : (slUpd s f).anchor = s.anchor := by
  simp [slUpd]

@[simp] theorem anchor_setExec (s : State) (k : Nat) (x : SlExec) : (setExec s k x).anchor = s.anchor := by
  simp [setExec]

@[simp] theorem anchor_tellRing (s : State) (r mtype : Nat) (body : List Byte) : (tellRing s r mtype body).anchor = s.anchor := by
  simp [tellRing]

@[simp] theorem anchor_slExtend (s : State) : (slExtend s).anchor = s.anchor := by
  simp [slExtend]

@[simp] theorem anchor_slActivate (s : State) (k : Nat) : (slActivate s k).anchor = s.anchor := by
  simp only [slActivate]; split <;> simp

@[simp] theorem anchor_slToken (s : State) (k : Nat) : (slToken s k).anchor = s.anchor := by
  simp only [slToken]; (repeat' split) <;> simp

@[simp] theorem anchor_slFirst (s : State) (k : Nat) : (slFirst s k).anchor = s.anchor := by
  simp only [slFirst]; split <;> simp

@[simp] theorem anchor_slWant (s : State) (k : Nat) (f : SlExec → SlExec) : (slWant s k f).anchor = s.anchor := by
  simp [slWant]

@[simp] theorem anchor_slRetry (s : State) : (slRetry s).anchor = s.anchor := by
  simp [slRetry]

@[simp] theorem anchor_slTake (s : State) (b : BermChunk) : (slTake s b).anchor = s.anchor := by
  simp [slTake]

@[simp] theorem anchor_dropChunk (s : State) (b : BermChunk) : (dropChunk s b).anchor = s.anchor := by
  simp [dropChunk]

@[simp] theorem anchor_slMeet (s : State) (k : Nat) (x : SlExec) (cidx : Nat) : (slMeet s k x cidx).anchor = s.anchor := by
  simp only [slMeet]; (repeat' split) <;> simp

@[simp] theorem anchor_arithSl (s : State) (a : Arith) : (arithSl s a).anchor = s.anchor := by
  simp [arithSl]

@[simp] theorem anchor_slCombine (s : State) (k : Nat) (x : SlExec) (cidx : Nat) (inc : List Byte) : (slCombine s k x cidx inc).2.anchor = s.anchor := by
  simp only [slCombine]; (repeat' split) <;> simp

@[simp] theorem anchor_slWrite (s : State) (k cidx p : Nat) (data : List Byte) : (slWrite s k cidx p data).anchor = s.anchor := by
  unfold slWrite; split <;> simp

@[simp] theorem anchor_skFail (s : State) (b : SkBatch) (status result : Nat) : (s.skFail b status result).anchor = s.anchor := by
  refine anchor_foldl _ (fun t p => ?_) _ _
  split <;> simp

@[simp] theorem anchor_slStop (s : State) (k cause late detect : Nat) : (slStop s k cause late detect).anchor = s.anchor := by
  simp [slStop]

@[simp] theorem anchor_slAbort (s : State) (k cause late : Nat) : (slAbort s k cause late).anchor = s.anchor := by
  simp only [slAbort]; split <;> simp

@[simp] theorem anchor_slAbortAll (s : State) (cause : Nat) (p : Nat → SlExec → Bool) : (slAbortAll s cause p).anchor = s.anchor := by
  simp [slAbortAll]

@[simp] theorem anchor_slAbortModel (s : State) (m : Nat) : (slAbortModel s m).anchor = s.anchor := by
  simp [slAbortModel]

@[simp] theorem anchor_slAbortCore (s : State) (c : Nat) : (slAbortCore s c).anchor = s.anchor := by
  simp [slAbortCore]

@[simp] theorem anchor_setCtx (s : State) (x : Nat) (c : Ctx) : (setCtx s x c).anchor = s.anchor := by
  simp [setCtx]

@[simp] theorem anchor_updCtx (s : State) (x : Nat) (f : Ctx → Ctx) : (updCtx s x f).anchor = s.anchor := by
  simp [updCtx]

@[simp] theorem anchor_cancelModel (s : State) (m : Nat) : (cancelModel s m).anchor = s.anchor := by
  simp [cancelModel]

@[simp] theorem anchor_dropGrowth (s : State) (f : Nat → Bool) : (dropGrowth s f).anchor = s.anchor := by
  simp [dropGrowth]

@[simp] theorem anchor_endStep (s : State) (m status detail result : Nat) : (endStep s m status detail result).anchor = s.anchor := by
  simp [endStep]

@[simp] theorem anchor_endSteps (s : State) (status detail result : Nat) : (endSteps s status detail result).anchor = s.anchor := by
  simp [endSteps]

@[simp] theorem anchor_loseModel (s : State) (m g : Nat) : (loseModel s m g).anchor = s.anchor := by
  simp [loseModel]

@[simp] theorem anchor_failCtx (s : State) (x status detail result : Nat) : (failCtx s x status detail result).anchor = s.anchor := by
  simp [failCtx]

@[simp] theorem anchor_setMove (s : State) (m m' : Move) : (setMove s m m').anchor = s.anchor := by
  simp [setMove]

@[simp] theorem anchor_dropMove (s : State) (m : Move) : (dropMove s m).anchor = s.anchor := by
  simp [dropMove]

@[simp] theorem anchor_setPumpRun (s : State) (r : PumpRun) : (setPumpRun s r).anchor = s.anchor := by
  simp [setPumpRun]

@[simp] theorem anchor_startPump (s : State) (p e layer again : Nat) : (startPump s p e layer again).anchor = s.anchor := by
  simp [startPump]

@[simp] theorem anchor_pumpResume (s : State) (g : Nat) : (pumpResume s g).anchor = s.anchor := by
  refine anchor_foldl _ (fun t x => ?_) _ _; split <;> simp

@[simp] theorem anchor_needGran (s : State) (m g : Nat) : (needGran s m g).anchor = s.anchor := by
  simp [needGran]

@[simp] theorem anchor_pumpDrain (s : State) (r : PumpRun) : (pumpDrain s r).anchor = s.anchor := by
  simp only [pumpDrain]; (repeat' split) <;> simp

@[simp] theorem anchor_pumpHalt (s : State) (r : PumpRun) (cause g : Nat) : (pumpHalt s r cause g).anchor = s.anchor := by
  simp [pumpHalt]

@[simp] theorem anchor_askMove (s : State) (g : Nat) (cs : List TagClass) : (askMove s g cs).anchor = s.anchor := by
  simp [askMove]

@[simp] theorem anchor_startCopy (s : State) (m : Move) : (startCopy s m).anchor = s.anchor := by
  simp only [startCopy]; (repeat' split) <;> simp

@[simp] theorem anchor_reserve (s : State) (g f : Nat) : (reserve s g f).anchor = s.anchor := by
  simp only [reserve]; (repeat' split) <;> simp

@[simp] theorem anchor_finish (s : State) (m : Move) (g : Nat) : (finish s m g).anchor = s.anchor := by
  simp [finish]

@[simp] theorem anchor_dataDone (s : State) (g : Nat) (st : XferStatus) : (dataDone s g st).anchor = s.anchor := by
  simp only [dataDone]; (repeat' split) <;> simp

@[simp] theorem anchor_retryRead (s : State) (m : Move) (g : Nat) : (retryRead s m g).anchor = s.anchor := by
  simp [retryRead]

@[simp] theorem anchor_spillRead (s : State) (g : Nat) (good : Bool) (cipher : List Byte) : (spillRead s g good cipher).anchor = s.anchor := by
  simp only [spillRead]; split <;> simp

@[simp] theorem anchor_evacStuck (s : State) (p : Nat) : (evacStuck s p).anchor = s.anchor := by
  simp [evacStuck]

@[simp] theorem anchor_relocate (s : State) (st pc : Nat) : (relocate s st pc).anchor = s.anchor := by
  refine anchor_foldl _ (fun t x => ?_) _ _; split <;> simp

@[simp] theorem anchor_evacuate (s : State) : (evacuate s).anchor = s.anchor := by
  simp [evacuate]

@[simp] theorem anchor_retireEmpty (s : State) : (retireEmpty s).anchor = s.anchor := by
  simp [retireEmpty]

@[simp] theorem anchor_frameFreed (s : State) : (frameFreed s).anchor = s.anchor := by
  simp [frameFreed]

@[simp] theorem anchor_retirePc (s : State) (st pc : Nat) : (retirePc s st pc).anchor = s.anchor := by
  simp [retirePc]

@[simp] theorem anchor_keepReads (s : State) (grans : List Nat) : (keepReads s grans).anchor = s.anchor := by
  simp [keepReads]

@[simp] theorem anchor_commitMove (s : State) (m : Move) : (commitMove s m).anchor = s.anchor := by
  simp [commitMove]

@[simp] theorem anchor_selectGran (s : State) (v : Nat) : (selectGran s v).anchor = s.anchor := by
  simp [selectGran]

end State

end Sys2Proof.Machine
end

section
/-! SUPPORT. The anchor under the operations of contexts, page walks and quarry units. -/

namespace Sys2Proof.Machine

namespace State

@[simp] theorem anchor_tableRead (s : State) (a n : Nat) : (tableRead s a n).anchor = s.anchor := by
  simp [tableRead]

@[simp] theorem anchor_tableWrite (s : State) (a : Nat) (bs : List Byte) : (tableWrite s a bs).anchor = s.anchor := by
  simp [tableWrite]

@[simp] theorem anchor_setPft (s : State) (pn v : Nat) : (setPft s pn v).anchor = s.anchor := by
  simp [setPft]

@[simp] theorem anchor_setRef (s : State) (pn n : Nat) : (setRef s pn n).anchor = s.anchor := by
  simp [setRef]

@[simp] theorem anchor_kvUpd (s : State) (f : KvState → KvState) : (kvUpd s f).anchor = s.anchor := by
  simp [kvUpd]

@[simp] theorem anchor_setNext (s : State) (pn n : Nat) : (setNext s pn n).anchor = s.anchor := by
  simp [setNext]

@[simp] theorem anchor_linkSpoil (s : State) : (linkSpoil s).anchor = s.anchor := by
  simp [linkSpoil]

@[simp] theorem anchor_spoilPage (s : State) (d pn : Nat) : (spoilPage s d pn).anchor = s.anchor := by
  simp only [spoilPage]; split <;> simp

@[simp] theorem anchor_spoilBlock (s : State) (d a : Nat) : (spoilBlock s d a).anchor = s.anchor := by
  simp only [spoilBlock]; split <;> simp

@[simp] theorem anchor_dropRef (s : State) (d a : Nat) : (dropRef s d a).anchor = s.anchor := by
  simp [dropRef]

@[simp] theorem anchor_linkPool (s : State) : (linkPool s).anchor = s.anchor := by
  simp [linkPool]

@[simp] theorem anchor_unlinkFree (s : State) (pn : Nat) : (unlinkFree s pn).anchor = s.anchor := by
  simp only [unlinkFree]; split <;> simp

@[simp] theorem anchor_linkFree (s : State) (pn : Nat) : (linkFree s pn).anchor = s.anchor := by
  simp only [linkFree]; split <;> simp

@[simp] theorem anchor_returnPage (s : State) (pn : Nat) : (returnPage s pn).anchor = s.anchor := by
  simp [returnPage]

@[simp] theorem anchor_returnSpoil (s : State) : (returnSpoil s).anchor = s.anchor := by
  simp only [returnSpoil]; split <;> simp

theorem anchor_of_allocPage {s t : State} {p st pn : Nat} {fb : Bool} (h : s.allocPage p st fb = .ok (pn, t)) : t.anchor = s.anchor := by
  simp only [allocPage] at h
  split at h
  · cases h
  · split at h
    · cases h
    · cases h
      simp

theorem anchor_of_allocBlock {s t : State} {p kib a : Nat} {fb : Bool} (h : s.allocBlock p kib fb = .ok (a, t)) : t.anchor = s.anchor := by
  simp only [allocBlock] at h
  split at h
  · split at h
    · cases h
    · next hp =>
      obtain ⟨-, rfl⟩ := Prod.ext_iff.1 (Except.ok.inj h)
      rw [anchor_kvUpd, anchor_tableWrite, anchor_kvUpd, anchor_of_allocPage hp]
  · obtain ⟨-, rfl⟩ := Prod.ext_iff.1 (Except.ok.inj h)
    rw [anchor_kvUpd, anchor_tableWrite, anchor_draw]

@[simp] theorem anchor_setRowField (s : State) (row off n v : Nat) : (setRowField s row off n v).anchor = s.anchor := by
  simp [setRowField]

@[simp] theorem anchor_setRecord (s : State) (m : Model) (row t : Nat) (bs : List Byte) : (setRecord s m row t bs).anchor = s.anchor := by
  simp [setRecord]

theorem anchor_of_newPages {s t : State} {p row n l : Nat} {fb : Bool} (h : s.newPages p fb row n l = .ok t) : t.anchor = s.anchor := by
  induction n generalizing s l with
  | zero => cases h; rfl
  | succ n ih =>
    rw [newPages] at h
    split at h
    · cases h
    · next hp => rw [ih h, anchor_setRowField, anchor_of_allocPage hp]

@[simp] theorem anchor_initRow (s : State) (m : Model) (row sk : Nat) : (initRow s m row sk).anchor = s.anchor := by
  simp [initRow]

theorem anchor_of_newRowBlocks {s t : State} {m : Model} {p row : Nat} {fb : Bool} (h : s.newRowBlocks m p fb = .ok (row, t)) :
    t.anchor = s.anchor := by
  rw [newRowBlocks] at h
  split at h
  · cases h
  · next hr =>
    split at h
    · split at h
      · cases h
      · next hk =>
        cases h
        rw [anchor_initRow, anchor_of_allocBlock hk, anchor_of_allocBlock hr]
    · cases h
      rw [anchor_initRow, anchor_of_allocBlock hr]

theorem anchor_of_newRow {s t : State} {m : Model} {p row : Nat} {fb : Bool} (h : s.newRow m p fb = .ok (row, t)) : t.anchor = s.anchor := by
  rw [newRow] at h
  split at h
  · cases h
  · next hr =>
    split at h
    · cases h
    · next hp =>
      cases h
      rw [anchor_of_newPages hp, anchor_of_newRowBlocks hr]

@[simp] theorem anchor_dropPages (s : State) (d row : Nat) (layers : Nat) : (dropPages s d row layers).anchor = s.anchor := by
  simp [dropPages]

@[simp] theorem anchor_releaseRow (s : State) (m : Model) (d row : Nat) : (releaseRow s m d row).anchor = s.anchor := by
  simp [releaseRow]

@[simp] theorem anchor_setSeam (s : State) (k : Nat) (e : SeamEntry) : (setSeam s k e).anchor = s.anchor := by
  simp [setSeam]

@[simp] theorem anchor_sharePages (s : State) (row layers : Nat) (seam : Bool) : (sharePages s row layers seam).anchor = s.anchor := by
  simp [sharePages]

@[simp] theorem anchor_refSat (s : State) (x : Nat) : (refSat s x).anchor = s.anchor := by
  simp [refSat]

@[simp] theorem anchor_releaseSeam (s : State) (d k : Nat) (e : SeamEntry) : (releaseSeam s d k e).anchor = s.anchor := by
  simp [releaseSeam]

@[simp] theorem anchor_publish (s : State) (x : Nat) (m : Model) (row prev : Nat) (toks : List Nat) :
    (s.publish x m row prev toks).anchor = s.anchor := by
  simp only [publish]
  split
  · rfl
  split
  · simp
  split
  · rfl
  next u hblocks =>
  have hu : u.anchor = s.anchor := by
    split at hblocks
    · cases hblocks
    next ha =>
    split at hblocks
    · split at hblocks
      · cases hblocks
      · next hk =>
        cases hblocks
        rw [anchor_of_allocBlock hk, anchor_of_allocBlock ha]
    · cases hblocks
      exact anchor_of_allocBlock ha
  rw [anchor_setRowField, anchor_count, anchor_setSeam]
  split <;> simp [hu]

@[simp] theorem anchor_ageRewrite (s : State) : (ageRewrite s).anchor = s.anchor := by
  simp [ageRewrite]

@[simp] theorem anchor_putRoot (s : State) (x r v : Nat) : (putRoot s x r v).anchor = s.anchor := by
  simp [putRoot]

theorem anchor_of_roomyRoot {s t : State} {x r need : Nat} {fb : Bool} (h : s.roomyRoot x r need fb = .ok t) : t.anchor = s.anchor := by
  simp only [roomyRoot] at h
  split at h
  · cases h; rfl
  · split at h
    · cases h
    · next hb =>
      obtain rfl := Except.ok.inj h
      rw [anchor_kvUpd, anchor_tableWrite, anchor_of_allocBlock hb]

@[simp] theorem anchor_adoptRow (s : State) (x : Nat) (m : Model) (mi r need : Nat) (toks : List (Nat × Nat)) (fb : Bool) :
    (s.adoptRow x m mi r need toks fb).1.anchor = s.anchor := by
  simp only [adoptRow]
  split
  · rfl
  split
  · simp
  split
  · simp
  split
  · simp
  split
  · simp
  split
  · simp
  · next t h =>
    split at h
    · cases h
    · next hroot =>
      have hrow := (anchor_of_newRowBlocks h).trans (anchor_of_roomyRoot hroot)
      cases t.nextRow x r <;> cases m.select <;> simp [hrow]

@[simp] theorem anchor_seamLookup (x : Nat) (m : Model) (mi need : Nat) (fb : Bool) (n : Nat) (s : State) (toks : List (Nat × Nat)) :
    (seamLookup x m mi need fb n s toks).1.anchor = s.anchor := by
  induction n generalizing s toks with
  | zero => rfl
  | succ n ih =>
    have hrow := fun r => s.anchor_adoptRow x m mi r need (toks.take m.tpp) fb
    simp only [seamLookup]
    split
    · rfl
    · specialize hrow ((s.ctx x).len / m.tpp)
      split <;> simp_all

theorem anchor_of_growRows {s t : State} {m : Model} {p old oldN root rootN n r : Nat} {fb : Bool}
    (h : s.growRows m p fb old oldN root rootN n r = .ok t) : t.anchor = s.anchor := by
  induction n generalizing s r with
  | zero => cases h; rfl
  | succ n ih =>
    simp only [growRows] at h
    split at h
    · cases h
    · next u hrow =>
      have hu : u.anchor = s.anchor := by
        split at hrow
        · cases hrow; rfl
        · exact anchor_of_newRow hrow
      rw [ih h]
      simp [hu]

theorem anchor_of_growCopies {s t : State} {x row r p n l : Nat} {fb : Bool} {acc cs : List CowCopy}
    (h : s.growCopies x row r p fb n l acc = .ok (cs, t)) : t.anchor = s.anchor := by
  induction n generalizing s l acc with
  | zero => cases h; rfl
  | succ n ih =>
    simp only [growCopies] at h
    split at h
    · exact ih h
    · split at h
      · cases h
      · next hp => rw [ih h, anchor_of_allocPage hp]

theorem anchor_of_planGrowth {s t : State} {x span : Nat} {toks : List (Nat × Nat)} {fb : Bool} (h : s.planGrowth x toks span fb = .ok t) :
    t.anchor = s.anchor := by
  simp only [planGrowth] at h
  split at h
  · cases h; rfl
  split at h
  · cases h; simp
  split at h
  · cases h
  next u hroot =>
  have hu : u.anchor = s.anchor := by
    split at hroot
    · cases hroot; rfl
    · split at hroot
      · cases hroot
      · next hb =>
        cases hroot
        rw [anchor_tableWrite, anchor_of_allocBlock hb]
  split at h
  · cases h
  next v hrows =>
  split at h
  · cases h
  next w hcopied =>
  have hw : w.anchor = v.anchor := by
    split at hcopied
    · cases hcopied; rfl
    · split at hcopied
      · exact anchor_of_growCopies hcopied
      · cases hcopied; rfl
  cases h
  rw [anchor_kvUpd, hw, anchor_of_growRows hrows, hu]

@[simp] theorem anchor_cowSwitch (s : State) (x : Nat) (c : CowCopy) : (cowSwitch s x c).anchor = s.anchor := by
  simp only [cowSwitch]; (repeat' split) <;> simp

@[simp] theorem anchor_issueCopies (s : State) : (issueCopies s).anchor = s.anchor := by
  refine anchor_foldl _ (fun t x => ?_) _ _; dsimp only; (repeat' split) <;> simp

@[simp] theorem anchor_failTable (s : State) (x : Nat) : (failTable s x).anchor = s.anchor := by
  simp [failTable]

@[simp] theorem anchor_swapMoves (s : State) (us : List Nat) : (swapMoves s us).anchor = s.anchor := by
  simp [swapMoves]

@[simp] theorem anchor_swapOut (s : State) (x : Nat) : (swapOut s x).anchor = s.anchor := by
  simp [swapOut]

@[simp] theorem anchor_swapProgress (s : State) : (swapProgress s).anchor = s.anchor := by
  simp [swapProgress]

theorem anchor_of_swapIn {s t : State} {x : Nat} (h : s.swapIn x = some t) : t.anchor = s.anchor := by
  simp only [swapIn] at h
  split at h
  · cases h
    simp
  · cases h

@[simp] theorem anchor_dropCopies (s : State) (x : Nat) (f : CowCopy → Bool) : (dropCopies s x f).anchor = s.anchor := by
  simp [dropCopies]

theorem anchor_of_orAlloc {s t : State} {l l' : List Nat} {a : Nat} {alloc : State → Except Short (Nat × State)}
    (halloc : ∀ {s t a}, alloc s = .ok (a, t) → t.anchor = s.anchor) (h : orAlloc l s alloc = .ok (a, l', t)) : t.anchor = s.anchor := by
  unfold orAlloc at h
  split at h
  · cases h; rfl
  · split at h
    · cases h
    · next ha =>
      cases h
      exact halloc ha

theorem anchor_of_forkPage {s t : State} {p a : Nat} (h : s.forkPage p = .ok (a, t)) : t.anchor = s.anchor := by
  rw [forkPage] at h
  split at h
  · cases h
  · next hp =>
    cases h
    exact anchor_of_allocPage hp

theorem anchor_of_allocMany {s t : State} {alloc : State → Except Short (Nat × State)} {n : Nat} {l l' : List Nat}
    (halloc : ∀ {s t a}, alloc s = .ok (a, t) → t.anchor = s.anchor) (h : allocMany alloc n s l = .ok (l', t)) : t.anchor = s.anchor := by
  induction n generalizing s l with
  | zero => cases h; rfl
  | succ n ih =>
    rw [allocMany] at h
    split at h
    · cases h
    · next ha => rw [ih h, halloc ha]

theorem anchor_of_forkSat {s t : State} {x p row a : Nat} {ls fresh fresh' : List Nat} (h : forkSat x p row a ls fresh s = .ok (fresh', t)) :
    t.anchor = s.anchor := by
  induction ls generalizing s fresh with
  | nil => cases h; rfl
  | cons l ls ih =>
    simp only [forkSat] at h
    split at h
    · cases h
    · next hp =>
      rw [ih h]
      simp [anchor_of_orAlloc anchor_of_forkPage hp]

theorem anchor_of_forkRows {s t : State} {m : Model} {x y p : Nat} {rows : List (Nat × Nat)} {f g : ForkPlan}
    (h : forkRows m x y p rows f s = .ok (g, t)) : t.anchor = s.anchor := by
  induction rows generalizing s f with
  | nil => cases h; rfl
  | cons r rows ih =>
    simp only [forkRows] at h
    split at h
    · cases h
    next hrow =>
    split at h
    · cases h
    next u hsk =>
    split at h
    · cases h
    next hsat =>
    rw [ih h, anchor_of_forkSat hsat]
    have hu := anchor_of_orAlloc anchor_of_allocBlock hrow
    split at hsk
    · simp [anchor_of_orAlloc anchor_of_allocBlock hsk, hu]
    · cases hsk
      simp [hu]

@[simp] theorem anchor_releaseFork (s : State) (f : ForkPlan) : (releaseFork s f).anchor = s.anchor := by
  simp [releaseFork]

@[simp] theorem anchor_truncate (s : State) (x n : Nat) : (truncate s x n).anchor = s.anchor := by
  simp only [truncate]; split <;> simp

@[simp] theorem anchor_deleteRow (s : State) (m : Model) (d row : Nat) : (deleteRow s m d row).anchor = s.anchor := by
  simp [deleteRow]

@[simp] theorem anchor_deleteRoot (s : State) (d root code : Nat) : (deleteRoot s d root code).anchor = s.anchor := by
  simp [deleteRoot]

@[simp] theorem anchor_freeRecord (s : State) (x : Nat) : (freeRecord s x).anchor = s.anchor := by
  simp [freeRecord]

@[simp] theorem anchor_deleteCtx (s : State) (x : Nat) : (deleteCtx s x).anchor = s.anchor := by
  simp only [deleteCtx]; split <;> simp

@[simp] theorem anchor_selectCtx (s : State) (v : Nat) : (selectCtx s v).anchor = s.anchor := by
  simp [selectCtx]

@[simp] theorem anchor_emitList (s : State) (st d x : Nat) (l : List Nat) : (emitList s st d x l).anchor = s.anchor := by
  simp [emitList]

@[simp] theorem anchor_addTarget (s : State) (x : Nat) (m : Model) (qaddr : Nat) (h : List Byte) (npart : Nat) : (addTarget s x m qaddr h npart).anchor = s.anchor := by
  simp [addTarget]

@[simp] theorem anchor_writeHeader (s : State) (qaddr : Nat) (header : BitVec 512) : (writeHeader s qaddr header).anchor = s.anchor := by
  simp [writeHeader]

@[simp] theorem anchor_walkReads (s : State) (x layer : Nat) : (walkReads s x layer).anchor = s.anchor := by
  simp [walkReads]

@[simp] theorem anchor_walk (s : State) (x layer : Nat) (dst : WalkDest) : (walk s x layer dst).anchor = s.anchor := by
  simp only [walk]; (repeat' split) <;> simp

@[simp] theorem anchor_rewalk (s : State) (g : Nat) : (rewalk s g).anchor = s.anchor := by
  simp [rewalk]

@[simp] theorem anchor_select (s : State) (x layer : Nat) : (select s x layer).anchor = s.anchor := by
  simp only [select]; split <;> simp

@[simp] theorem anchor_queueUpdates (s : State) : (queueUpdates s).anchor = s.anchor := by
  refine anchor_foldl _ (fun t x => ?_) _ _; dsimp only; (repeat' split) <;> simp

@[simp] theorem anchor_rowFull (s : State) (x : Nat) (m : Model) (r row : Nat) : (rowFull s x m r row).anchor = s.anchor := by
  simp [rowFull]

@[simp] theorem anchor_commitToken (s : State) (x : Nat) (m : Model) (t : Nat × Nat) : (commitToken s x m t).anchor = s.anchor := by
  simp only [commitToken]; split <;> simp

@[simp] theorem anchor_commitGrowth (s : State) (g : Growth) : (commitGrowth s g).anchor = s.anchor := by
  simp only [commitGrowth]; (repeat' split) <;> simp

@[simp] theorem anchor_switchRoots (s : State) : (switchRoots s).anchor = s.anchor := by
  simp [switchRoots]

@[simp] theorem anchor_commitAll (s : State) : (commitAll s).anchor = s.anchor := by
  simp [commitAll]

@[simp] theorem anchor_setPageWriters (s : State) : (s.setPageWriters).anchor = s.anchor := by
  refine anchor_foldl _ (fun t g => ?_) _ _
  dsimp only
  split
  · rfl
  · refine anchor_foldl _ (fun t i => ?_) _ _
    split
    · rfl
    · exact anchor_foldl _ (by simp) _ _

@[simp] theorem anchor_setQu (s : State) (n : Nat) (q : QuState) : (setQu s n q).anchor = s.anchor := by
  simp [setQu]

@[simp] theorem anchor_descBad (s : State) (n : Nat) : (descBad s n).anchor = s.anchor := by
  simp [descBad]

@[simp] theorem anchor_quPurge (n k : Nat) (s : State) : (quPurge n k s).anchor = s.anchor := by
  induction k generalizing s with
  | zero => rfl
  | succ k ih =>
    simp only [quPurge]
    (repeat' split) <;> simp [ih]

@[simp] theorem anchor_listUe (s : State) (l : List QuDesc) (ecc : Ecc) : (listUe s l ecc).2.anchor = s.anchor := by
  simp only [listUe]; split <;> simp

@[simp] theorem anchor_heatWrites (s : State) (ws : List (Nat × List Byte)) : (heatWrites s ws).anchor = s.anchor := by
  simp [heatWrites]

@[simp] theorem anchor_quFinish (s : State) (n : Nat) (l : List QuDesc) (r : QuResult) (macs exps cmps reads : Nat) : (quFinish s n l r macs exps cmps reads).anchor = s.anchor := by
  simp [quFinish]

@[simp] theorem anchor_quBad (s : State) (n : Nat) (l : List QuDesc) (d : QuDesc) : (quBad s n l d).anchor = s.anchor := by
  simp [quBad]

@[simp] theorem anchor_quCorr (s : State) (n site pc : Nat) : (quCorr s n site pc).anchor = s.anchor := by
  simp [quCorr]

@[simp] theorem anchor_quUe (s : State) (n site : Nat) : (quUe s n site).anchor = s.anchor := by
  simp [quUe]

theorem anchor_quRun (s : State) (n op : Nat) (ecc : Ecc)
    (f : State → List QuDesc → List Nat → Bool → State × QuResult × Nat × Nat × Nat × Nat)
    (hf : ∀ s l ue err, (f s l ue err).1.anchor = s.anchor) : (s.quRun n op ecc f).anchor = s.anchor := by
  simp only [quRun]
  split
  · simp
  split
  · simp
  split
  · simp
  split
  · simp
  all_goals (repeat' split) <;> simp [hf]

@[simp] theorem anchor_bench (s : State) (n op : Nat) (ecc : Ecc) : (s.bench n op ecc).anchor = s.anchor := by
  refine anchor_quRun _ _ _ _ _ fun t l ue err => ?_
  (repeat' split) <;> simp

@[simp] theorem anchor_deliverOp (s : State) (n op : Nat) (ecc : Ecc) : (s.deliverOp n op ecc).anchor = s.anchor := by
  refine anchor_quRun _ _ _ _ _ fun t l ue err => ?_
  (repeat' split) <;> rfl

@[simp] theorem anchor_foldPartial (s : State) (c : Nat) (t : BenchTarget) (p : Partial) : (foldPartial s c t p).anchor = s.anchor := by
  simp [foldPartial]

end State

end Sys2Proof.Machine
end

section
/-! SUPPORT. The anchor under the operations of the sequencer, sluices, culvert ports, streams and DIKEs. -/

namespace Sys2Proof.Machine

namespace State

@[simp] theorem anchor_becomeCurrent (s : State) (c i : Nat) : (becomeCurrent s c i).anchor = s.anchor := by
  simp [becomeCurrent]

@[simp] theorem anchor_blockSlot (s : State) (c i w reason : Nat) : (blockSlot s c i w reason).anchor = s.anchor := by
  simp [blockSlot]

@[simp] theorem anchor_stepError (s : State) (c i : Nat) : (stepError s c i).anchor = s.anchor := by
  simp [stepError]

/-- A step that issues keeps the anchor, where its effect does. -/
theorem anchor_issue (s : State) (c i : Nat) (p : Nat → Bool) (pre : State → Nat → Option Nat) (eff : State → Nat → State)
    (heff : ∀ s w, (eff s w).anchor = s.anchor) : (s.issue c i p pre eff).anchor = s.anchor := by
  simp only [issue]
  (repeat' split) <;> simp [heff]

@[simp] theorem anchor_enqueue (s : State) (c i : Nat) (u : UnitId) (q : QStep) : (enqueue s c i u q).anchor = s.anchor := by
  simp [enqueue]

@[simp] theorem anchor_issueUnit (s : State) (c i : Nat) (u : UnitId) (p : Nat → Bool) : (s.issueUnit c i u p).anchor = s.anchor :=
  anchor_issue _ _ _ _ _ _ fun _ _ => anchor_enqueue ..

@[simp] theorem anchor_headerBits (s : State) (c w : Nat) (odd : Bool) : (headerBits s c w odd).anchor = s.anchor := by
  simp [headerBits]

@[simp] theorem anchor_updExec (s : State) (k : Nat) (f : SlExec → SlExec) : (updExec s k f).anchor = s.anchor := by
  simp only [updExec]; split <;> simp

@[simp] theorem anchor_slFinish (s : State) (k cidx : Nat) : (slFinish s k cidx).anchor = s.anchor := by
  simp only [slFinish]; (repeat' split) <;> simp

@[simp] theorem anchor_skMerged (s : State) (opid exec : Nat) : (skMerged s opid exec).anchor = s.anchor := by
  simp [skMerged]

@[simp] theorem anchor_slComplete (s : State) (k : Nat) : (slComplete s k).anchor = s.anchor := by
  simp only [slComplete]; (repeat' split) <;> simp

@[simp] theorem anchor_slSendHop (s : State) (k : Nat) (x : SlExec) (h : SlHop) : (slSendHop s k x h).anchor = s.anchor := by
  simp [slSendHop]

@[simp] theorem anchor_slTakeHop (s : State) (k : Nat) (x : SlExec) (h : SlHop) : (slTakeHop s k x h).anchor = s.anchor := by
  simp only [slTakeHop]; split <;> simp

@[simp] theorem anchor_slSend (s : State) (k : Nat) : (slSend s k).anchor = s.anchor := by
  simp only [slSend]; split <;> simp

@[simp] theorem anchor_slOut (s : State) (k cidx pass origin hops : Nat) (data : List Byte) (crc : Option Nat) : (slOut s k cidx pass origin hops data crc).anchor = s.anchor := by
  simp [slOut]

@[simp] theorem anchor_slResult (s : State) (k cidx : Nat) (data : List Byte) : (slResult s k cidx data).anchor = s.anchor := by
  simp only [slResult]; (repeat' split) <;> simp

@[simp] theorem anchor_slBegin (s : State) (k : Nat) (cidx : Nat) : (slBegin s k cidx).anchor = s.anchor := by
  simp only [slBegin]; split <;> simp

@[simp] theorem anchor_slRun (s : State) (k : Nat) : (s.slRun k).anchor = s.anchor := by
  simp only [slRun]
  split
  · rfl
  split
  · rfl
  · rw [anchor_slComplete]
    refine (anchor_foldl _ (fun t c => ?_) _ _).trans (by simp)
    split <;> simp

@[simp] theorem anchor_slRunAll (s : State) : (slRunAll s).anchor = s.anchor := by
  simp [slRunAll]

@[simp] theorem anchor_sluiceGranted (s : State) (h upto : Nat) : (sluiceGranted s h upto).anchor = s.anchor := by
  simp only [sluiceGranted]; (repeat' split) <;> simp

@[simp] theorem anchor_bermArrive (s : State) (b : BermChunk) : (bermArrive s b).anchor = s.anchor := by
  simp [bermArrive]

@[simp] theorem anchor_hopTake (s : State) (k : Nat) (x : SlExec) (cidx pass origin hops crc : Nat) (data : List Byte) : (hopTake s k x cidx pass origin hops crc data).anchor = s.anchor := by
  simp [hopTake]

@[simp] theorem anchor_hop (s : State) (h : Nat) (payload : List Byte) : (hop s h payload).anchor = s.anchor := by
  simp only [hop]; split <;> simp

@[simp] theorem anchor_resetCores (s : State) (m : Nat) : (resetCores s m).anchor = s.anchor := by
  simp [resetCores]

@[simp] theorem anchor_settleExec (s : State) (k : Nat) (x : SlExec) : (settleExec s k x).anchor = s.anchor := by
  simp only [settleExec]; (repeat' split) <;> simp

@[simp] theorem anchor_settleAbort (s : State) (opid : Nat) : (settleAbort s opid).anchor = s.anchor := by
  simp only [settleAbort]; split <;> simp

@[simp] theorem anchor_postSlow (s : State) (on : Bool) : (postSlow s on).anchor = s.anchor := by
  simp [postSlow]

@[simp] theorem anchor_slRoutes (s : State) : (slRoutes s).anchor = s.anchor := by
  simp [slRoutes]

@[simp] theorem anchor_hopExpires (s : State) (k : Nat) (x : SlExec) (w : SlWait) : (hopExpires s k x w).anchor = s.anchor := by
  simp [hopExpires]

@[simp] theorem anchor_probeOn (s : State) (k : Nat) (x : SlExec) (rank : Nat) : (probeOn s k x rank).anchor = s.anchor := by
  simp only [probeOn]; split <;> simp

@[simp] theorem anchor_selectOp (s : State) (v : Nat) : (selectOp s v).anchor = s.anchor := by
  simp [selectOp]

@[simp] theorem anchor_runUnit (s : State) (c model : Nat) (q : QStep) : (runUnit s c model q).anchor = s.anchor := by
  simp only [runUnit]; split <;> simp

@[simp] theorem anchor_completeUnit (s : State) (c : Nat) (u : UnitId) (ecc : Ecc) (q : QStep) : (completeUnit s c u ecc q).anchor = s.anchor := by
  simp [completeUnit]

@[simp] theorem anchor_tgenDrop (s : State) (n : Nat) : (tgenDrop s n).anchor = s.anchor := by
  simp [tgenDrop]

@[simp] theorem anchor_peerMessage (s : State) (m : Msg) : (peerMessage s m).anchor = s.anchor := by
  simp only [peerMessage]; (repeat' split) <;> simp

@[simp] theorem anchor_deliverMsg (s : State) (n : Nat) (l : List Byte) : (deliverMsg s n l).anchor = s.anchor := by
  simp [deliverMsg]

@[simp] theorem anchor_dropRest (s : State) (lane flow : Nat) : (dropRest s lane flow).anchor = s.anchor := by
  simp only [dropRest]; split <;> simp

@[simp] theorem anchor_abandon (s : State) (n lane : Nat) : (abandon s n lane).anchor = s.anchor := by
  simp only [abandon]; (repeat' split) <;> simp

theorem anchor_passFlit (s : State) (n key : Nat) (f : Flit) (frame : List Byte) (give : State → Flit → State × Bool)
    (hgive : ∀ s f, (give s f).1.anchor = s.anchor) : (s.passFlit n key f frame give).anchor = s.anchor := by
  simp only [passFlit]
  split <;> simp [hgive]

@[simp] theorem anchor_keepFlit (s : State) (n lane cls : Nat) (head eom : Bool) (frame data : List Byte) : (keepFlit s n lane cls head eom frame data).anchor = s.anchor := by
  simp [keepFlit]

@[simp] theorem anchor_takeFlit (s : State) (n lane cls : Nat) (head eom : Bool) (frame data : List Byte) :
    (s.takeFlit n lane cls head eom frame data).anchor = s.anchor := by
  have hs : (if head then s.abandon n lane else s).anchor = s.anchor := by simp
  simp only [takeFlit]
  split
  · rw [anchor_passFlit _ _ _ _ _ _ fun _ _ => anchor_putFlow .., hs]
  · refine (anchor_passFlit _ _ _ _ _ _ fun t f => ?_).trans hs
    split <;> simp
  · exact (anchor_passFlit _ _ _ _ _ _ fun _ _ => rfl).trans hs
  · rw [anchor_keepFlit, hs]

@[simp] theorem anchor_replayFrames (s : State) (n : Nat) : (replayFrames s n).anchor = s.anchor := by
  simp [replayFrames]

@[simp] theorem anchor_sendIdle (s : State) (n : Nat) (nak : Bool) : (sendIdle s n nak).anchor = s.anchor := by
  simp [sendIdle]

@[simp] theorem anchor_losePeers (s : State) (l : List Flit) : (losePeers s l).anchor = s.anchor := by
  simp [losePeers]

@[simp] theorem anchor_peerLost (s : State) (dst : Nat) : (peerLost s dst).anchor = s.anchor := by
  simp [peerLost]

@[simp] theorem anchor_rerouteFlits (s : State) (l : List Flit) : (s.rerouteFlits l).anchor = s.anchor := by
  refine (anchor_slRoutes _).trans (anchor_foldl _ (fun t f => ?_) _ _)
  split
  · simp
  · exact anchor_release ..

@[simp] theorem anchor_clearFlows (s : State) (p : Nat → Nat → Bool) : (clearFlows s p).anchor = s.anchor := by
  simp [clearFlows]

@[simp] theorem anchor_reroute (s : State) (n : Nat) : (reroute s n).anchor = s.anchor := by
  simp [reroute]

@[simp] theorem anchor_dropUnacked (s : State) (n : Nat) : (dropUnacked s n).anchor = s.anchor := by
  simp [dropUnacked]

@[simp] theorem anchor_abandonAll (s : State) (n : Nat) : (abandonAll s n).anchor = s.anchor := by
  simp [abandonAll]

@[simp] theorem anchor_freshRx (s : State) (n : Nat) : (freshRx s n).anchor = s.anchor := by
  simp [freshRx]

@[simp] theorem anchor_portEvent (s : State) (n cause : Nat) : (portEvent s n cause).anchor = s.anchor := by
  simp [portEvent]

@[simp] theorem anchor_portDown (s : State) (n : Nat) : (portDown s n).anchor = s.anchor := by
  simp [portDown]

@[simp] theorem anchor_tunnelDown (s : State) (n tun : Nat) : (tunnelDown s n tun).anchor = s.anchor := by
  simp [tunnelDown]

@[simp] theorem anchor_chargeLane (s : State) (n lane : Nat) : (chargeLane s n lane).anchor = s.anchor := by
  simp [chargeLane]

@[simp] theorem anchor_startRetrain (s : State) (n : Nat) (lanes : List Nat) : (startRetrain s n lanes).anchor = s.anchor := by
  simp [startRetrain]

@[simp] theorem anchor_retireHalf (s : State) (n : Nat) : (retireHalf s n).anchor = s.anchor := by
  simp [retireHalf]

theorem anchor_settleLanes (s : State) (n : Nat) (half : BitVec 2) (f : State → State) (hf : ∀ s, (f s).anchor = s.anchor) :
    (s.settleLanes n half f).anchor = s.anchor := by
  simp [settleLanes, hf]

@[simp] theorem anchor_miswire (s : State) (n : Nat) : (miswire s n).anchor = s.anchor := by
  simp [miswire]

@[simp] theorem anchor_ethReplay (s : State) (n tun : Nat) : (s.ethReplay n tun).anchor = s.anchor := by
  unfold ethReplay
  dsimp only
  split
  · rfl
  · refine (anchor_count ..).trans (anchor_foldl _ (fun t f => ?_) _ _)
    split
    · exact anchor_transmit ..
    · rfl

@[simp] theorem anchor_replayAll (s : State) (n : Nat) : (replayAll s n).anchor = s.anchor := by
  simp [replayAll]

@[simp] theorem anchor_portUp (s : State) (n : Nat) (fresh : Bool) : (portUp s n fresh).anchor = s.anchor := by
  simp [portUp]

@[simp] theorem anchor_sendCapability (s : State) (n : Nat) : (sendCapability s n).anchor = s.anchor := by
  simp [sendCapability]

@[simp] theorem anchor_nakOnce (s : State) (n : Nat) : (nakOnce s n).anchor = s.anchor := by
  simp [nakOnce]

@[simp] theorem anchor_acceptFlit (s : State) (n lane cls : Nat) (head eom : Bool) (frame data : List Byte) : (acceptFlit s n lane cls head eom frame data).anchor = s.anchor := by
  simp [acceptFlit]

@[simp] theorem anchor_receiveFrame (s : State) (n : Nat) (f : List Byte) : (receiveFrame s n f).anchor = s.anchor := by
  simp [receiveFrame]

@[simp] theorem anchor_ethDrop (s : State) (n : Nat) : (ethDrop s n).anchor = s.anchor := by
  simp [ethDrop]

@[simp] theorem anchor_ethAck (s : State) (n tun : Nat) (nak : Bool) : (s.ethAck n tun nak).anchor = s.anchor :=
  anchor_transmit ..

@[simp] theorem anchor_updTun (s : State) (n tun : Nat) (f : Tunnel → Tunnel) : (updTun s n tun f).anchor = s.anchor := by
  simp [updTun]

@[simp] theorem anchor_takeFlits (n tun k : Nat) (l : List Byte) (s : State) : (takeFlits n tun k l s).anchor = s.anchor := by
  induction k generalizing l s with
  | zero => rfl
  | succ k ih =>
    rw [takeFlits, ih]
    (repeat' split) <;> simp

theorem anchor_of_ethTunnel {s t : State} {n k : Nat} {l : List Byte} (h : s.ethTunnel n l = some (k, t)) : t.anchor = s.anchor := by
  simp only [ethTunnel] at h
  split at h
  · cases h; rfl
  · split at h
    · exact anchor_of_openTunnel h
    · cases h

@[simp] theorem anchor_ethSequence (s : State) (n k : Nat) (l : List Byte) : (s.ethSequence n k l).anchor = s.anchor := by
  unfold ethSequence
  dsimp only
  split
  · rfl
  split
  · split
    · rw [anchor_ethAck, anchor_ethDrop, anchor_updTun]
    · rw [anchor_ethAck, anchor_takeFlits, anchor_count, anchor_updTun]
  split
  · split
    · rfl
    · rw [anchor_ethAck, anchor_updTun]
  · rw [anchor_ethAck]

@[simp] theorem anchor_ethFrame (s : State) (n k : Nat) (l : List Byte) : (ethFrame s n k l).anchor = s.anchor := by
  simp [ethFrame]

@[simp] theorem anchor_receiveEth (s : State) (n : Nat) (f : List Byte) : (s.receiveEth n f).anchor = s.anchor := by
  simp only [receiveEth]
  split
  · rfl
  split
  · simp
  split
  · simp
  split
  · simp
  · next h => rw [anchor_ethFrame, anchor_of_ethTunnel h]

@[simp] theorem anchor_recheckWiring (s : State) : (recheckWiring s).anchor = s.anchor := by
  simp [recheckWiring]

@[simp] theorem anchor_afterPmd (s : State) (port : Nat) : (afterPmd s port).anchor = s.anchor := by
  simp [afterPmd]

@[simp] theorem anchor_portOn (s : State) (port : Nat) : (portOn s port).anchor = s.anchor := by
  simp [portOn]

@[simp] theorem anchor_portOff (s : State) (port : Nat) : (portOff s port).anchor = s.anchor := by
  simp [portOff]

@[simp] theorem anchor_requeue (s : State) (port : Nat) : (requeue s port).anchor = s.anchor := by
  simp [requeue]

@[simp] theorem anchor_selectTun (s : State) (port v : Nat) : (selectTun s port v).anchor = s.anchor := by
  simp [selectTun]

@[simp] theorem anchor_endRun (s : State) (k : Nat) (r : StreamRun) : (endRun s k r).anchor = s.anchor := by
  simp [endRun]

@[simp] theorem anchor_endFills (k bound n : Nat) (s : State) : (endFills k bound n s).anchor = s.anchor := by
  induction n generalizing s with
  | zero => rfl
  | succ n ih =>
    simp only [endFills]
    (repeat' split) <;> simp [ih]

@[simp] theorem anchor_dropPins (s : State) (o : Owner) (next : Option Nat) : (dropPins s o next).anchor = s.anchor := by
  simp [dropPins]

@[simp] theorem anchor_moved (s : State) (k o n : Nat) : (moved s k o n).anchor = s.anchor := by
  simp only [moved]; split <;> simp

@[simp] theorem anchor_startStream (s : State) (c i : Nat) (q : QStep) (w : Nat) : (startStream s c i q w).anchor = s.anchor := by
  simp [startStream]

@[simp] theorem anchor_issueStream (s : State) (c i mode : Nat) : (s.issueStream c i mode).anchor = s.anchor :=
  anchor_issue _ _ _ _ _ _ fun _ _ => anchor_startStream ..

@[simp] theorem anchor_nearDrain (s : State) (k : Nat) : (nearDrain s k).anchor = s.anchor := by
  simp only [nearDrain]; split <;> simp

@[simp] theorem anchor_nearFault (s : State) (k : Nat) (r : StreamRun) (o n : Nat) : (nearFault s k r o n).anchor = s.anchor := by
  simp [nearFault]

@[simp] theorem anchor_sendSegment (s : State) (k : Nat) (r : StreamRun) (o n : Nat) : (sendSegment s k r o n).1.anchor = s.anchor := by
  simp only [sendSegment]; split <;> simp

@[simp] theorem anchor_yieldPlace (s : State) : (yieldPlace s).anchor = s.anchor := by
  simp [yieldPlace]

@[simp] theorem anchor_takeTag (s : State) (q : TagReq) (a n : Nat) : (takeTag s q a n).anchor = s.anchor := by
  simp [takeTag]

@[simp] theorem anchor_grant (s : State) (cls : TagClass) : (grant s cls).anchor = s.anchor := by
  simp only [grant]; (repeat' split) <;> simp

@[simp] theorem anchor_farEcc (s : State) (a n : Nat) (st : XferStatus) : (farEcc s a n st).anchor = s.anchor := by
  simp only [farEcc]; split <;> simp

@[simp] theorem anchor_farWrite (s : State) (x : Xfer) (k : Nat) (r : StreamRun) : (farWrite s x k r).anchor = s.anchor := by
  simp [farWrite]

@[simp] theorem anchor_landWrites (s : State) : s.landWrites.anchor = s.anchor := by
  refine anchor_foldl _ (fun t x => ?_) _ _
  (repeat' split) <;> simp

@[simp] theorem anchor_streamDone (s : State) (x : Xfer) (k : Nat) (st : XferStatus) : (streamDone s x k st).anchor = s.anchor := by
  simp only [streamDone]; split <;> simp

@[simp] theorem anchor_pumpDone (s : State) (r : PumpRun) : (pumpDone s r).anchor = s.anchor := by
  simp only [pumpDone]; split <;> simp

@[simp] theorem anchor_pumpXferDone (s : State) (x : Xfer) (p e l : Nat) (st : XferStatus) : (pumpXferDone s x p e l st).anchor = s.anchor := by
  simp only [pumpXferDone]; split <;> simp

@[simp] theorem anchor_slotLent (s : State) (x : Xfer) : (slotLent s x).anchor = s.anchor := by
  simp only [slotLent]; split <;> simp

@[simp] theorem anchor_xferDone (s : State) (id : Nat) (st : XferStatus) : (xferDone s id st).anchor = s.anchor := by
  simp only [xferDone]; (repeat' split) <;> simp

@[simp] theorem anchor_untagged (s : State) (k : Nat) (st : XferStatus) : (untagged s k st).anchor = s.anchor := by
  unfold untagged; (repeat' split) <;> simp

@[simp] theorem anchor_resume (s : State) (k : Nat) : (s.resume k).anchor = s.anchor := by
  unfold resume
  split
  · rfl
  split
  · rfl
  dsimp only
  split
  · rfl
  · rw [anchor_settle]
    split
    · rw [anchor_tgUpd, anchor_count, anchor_count, anchor_setRun, anchor_setScField]
    · rw [anchor_count, anchor_count, anchor_setRun, anchor_setScField]

@[simp] theorem anchor_setChain (s : State) (c c' : Chain) : (setChain s c c').anchor = s.anchor := by
  simp [setChain]

theorem anchor_of_slice {s t : State} {k off : Nat} {flit : List Byte} (h : s.slice k off flit = some t) : t.anchor = s.anchor := by
  simp only [slice] at h
  split at h
  · cases h; rfl
  · split at h
    · cases h
    · obtain rfl := Option.some.inj h
      exact anchor_foldl _ (by simp) _ _

theorem anchor_flitAt (s : State) (ch : Chain) (j : Nat) (flit more : List Byte) (done : State → State) (hdone : ∀ s, (done s).anchor = s.anchor) :
    (s.flitAt ch j flit more done).anchor = s.anchor := by
  simp only [flitAt]
  split
  · simp [hdone]
  · split
    · next h => simp [hdone, anchor_of_slice h]
    · simp

@[simp] theorem anchor_chainFlit (s : State) (ch : Chain) (j : Nat) : (s.chainFlit ch j).anchor = s.anchor := by
  unfold chainFlit
  extract_lets past hops stuck other k
  split
  · rfl
  split
  · split
    · rfl
    split
    · rfl
    split
    · exact anchor_nearFault ..
    · exact anchor_flitAt _ _ _ _ _ _ (by simp)
  split
  · rfl
  · exact anchor_flitAt _ _ _ _ _ _ fun _ => rfl

@[simp] theorem anchor_setDike (s : State) (k : Nat) (x : Dike) : (setDike s k x).anchor = s.anchor := by
  simp [setDike]

@[simp] theorem anchor_pumpIssue (s : State) (p j : Nat) : (s.pumpIssue p j).anchor = s.anchor := by
  unfold pumpIssue
  split
  · rfl
  · refine anchor_foldl _ (fun t e => ?_) _ _
    (repeat' split) <;> simp

@[simp] theorem anchor_pumpStart (s : State) (p : Nat) : (pumpStart s p).anchor = s.anchor := by
  simp only [pumpStart]; split <;> simp

@[simp] theorem anchor_pumpAhead (s : State) (p j : Nat) : (pumpAhead s p j).anchor = s.anchor := by
  simp only [pumpAhead]; split <;> simp

@[simp] theorem anchor_pumpRelease (s : State) (p : Nat) : (pumpRelease s p).anchor = s.anchor := by
  simp only [pumpRelease]; split <;> simp

@[simp] theorem anchor_releaseDike (s : State) (k : Nat) : (s.releaseDike k).anchor = s.anchor := by
  refine (anchor_foldl _ (fun t p => ?_) _ _).trans (by simp)
  (repeat' split) <;> simp

@[simp] theorem anchor_arrive (s : State) (k : Nat) (a : Arrival) : (arrive s k a).anchor = s.anchor := by
  simp [arrive]

@[simp] theorem anchor_skUpd (s : State) (f : SkState → SkState) : (skUpd s f).anchor = s.anchor := by
  simp [skUpd]

@[simp] theorem anchor_setIdx (s : State) (x : Nat) (ix : SkIdx) : (setIdx s x ix).anchor = s.anchor := by
  simp [setIdx]

@[simp] theorem anchor_skPut (s : State) (a : Nat) (bs : List Byte) : (skPut s a bs).anchor = s.anchor := by
  simp [skPut]

@[simp] theorem anchor_skMark (s : State) (x : Nat) (ix : SkIdx) (i : Nat) (v : Bool) : (skMark s x ix i v).anchor = s.anchor := by
  simp [skMark]

@[simp] theorem anchor_setValid (s : State) (x i : Nat) (on : Bool) : (setValid s x i on).anchor = s.anchor := by
  simp [setValid]

@[simp] theorem anchor_skSeen (s : State) (a n : Nat) : (s.skSeen a n).anchor = s.anchor := by
  refine anchor_foldl _ (fun t x => ?_) _ _
  simp

@[simp] theorem anchor_skErr (s : State) (x bit cause : Nat) : (skErr s x bit cause).anchor = s.anchor := by
  simp [skErr]

@[simp] theorem anchor_setBatch (s : State) (b : SkBatch) : (setBatch s b).anchor = s.anchor := by
  simp [setBatch]

@[simp] theorem anchor_skFailQueries (s : State) (b : SkBatch) (qs : List Nat) (g : Nat) : (skFailQueries s b qs g).anchor = s.anchor := by
  refine anchor_foldl _ (fun t x => ?_) _ _; split <;> simp

@[simp] theorem anchor_skOffer (s : State) (num n j sketch i : Nat) : (skOffer s num n j sketch i).anchor = s.anchor := by
  simp only [skOffer]; (repeat' split) <;> simp

@[simp] theorem anchor_skEmit (s : State) (b : SkBatch) (work : List (Nat × Nat × Nat × List Nat)) : (skEmit s b work).anchor = s.anchor := by
  simp [skEmit]

@[simp] theorem anchor_skWrite (s : State) (b : SkBatch) (j : Nat) (q : SkQuery) (l : List (Nat × Nat)) : (skWrite s b j q l).anchor = s.anchor := by
  simp only [skWrite]; split <;> simp

@[simp] theorem anchor_skFinish (s : State) (b : SkBatch) (lists : List (List (Nat × Nat))) : (s.skFinish b lists).anchor = s.anchor := by
  refine (anchor_foldl _ (fun t p => ?_) _ _).trans (by simp)
  (repeat' split) <;> simp

@[simp] theorem anchor_skRank (s : State) (b : SkBatch) (ix : SkIdx) : (s.skRank b ix).anchor = s.anchor := by
  unfold skRank
  dsimp only
  split
  · simp
  have hpoison : ∀ f : State → SkQuery × Nat → State, (∀ s q, (f s q).anchor = s.anchor) → (b.queries.zipIdx.foldl f s).anchor = s.anchor :=
    fun f hf => anchor_foldl f hf _ _
  split
  · rw [anchor_skFinish, hpoison]
    intro t q
    split <;> simp
  split
  · rw [anchor_setBatch, hpoison]
    intro t q
    split <;> simp
  · rw [anchor_slRunAll, anchor_slWant, anchor_setBatch, anchor_foldl _ (by simp), hpoison]
    intro t q
    split <;> simp

end State

end Sys2Proof.Machine
end

section
/-! SUPPORT. The anchor under the operations of searches, hosts, requests and the cut. -/

namespace Sys2Proof.Machine

namespace State

@[simp] theorem anchor_skCollect (s : State) : (skCollect s).anchor = s.anchor := by
  simp [skCollect]

@[simp] theorem anchor_skGo (num n : Nat) (s : State) : (skGo num n s).anchor = s.anchor := by
  induction n generalizing s with
  | zero => rfl
  | succ n ih =>
    simp only [skGo]
    (repeat' split) <;> simp [ih]

@[simp] theorem anchor_skDeliver (s : State) (tag : Nat) (neigh : List (Nat × Nat)) : (skDeliver s tag neigh).anchor = s.anchor := by
  simp only [skDeliver]; split <;> simp

@[simp] theorem anchor_skRetry (s : State) : (skRetry s).anchor = s.anchor := by
  simp [skRetry]

@[simp] theorem anchor_skHeapRows (s : State) (num n phase : Nat) : (skHeapRows s num n phase).anchor = s.anchor := by
  simp only [skHeapRows]; split <;> simp

theorem anchor_skUnit (s : State) (n phase : Nat) (ecc : Ecc) (f : State → SkBatch → SkIdx → QuDesc → State × List (Nat × Nat) × Nat)
    (hf : ∀ s b ix d, (f s b ix d).1.anchor = s.anchor) : (s.skUnit n phase ecc f).anchor = s.anchor := by
  refine anchor_quRun _ _ _ _ _ fun t l ue err => ?_
  split
  · rfl
  split
  · rfl
  split <;> simp [hf]

@[simp] theorem anchor_skScan (s : State) (num n : Nat) (qs : List Nat) (es : List (Nat × Nat)) : (skScan s num n qs es).anchor = s.anchor := by
  simp [skScan]

@[simp] theorem anchor_skAdmit (first : Nat) (s : State) (r : Req) : (skAdmit first s r).anchor = s.anchor := by
  simp only [skAdmit]; (repeat' split) <;> simp

@[simp] theorem anchor_skCut (s : State) (reqs : List Req) : (s.skCut reqs).anchor = s.anchor := by
  refine (anchor_foldl _ (fun t r => ?_) _ _).trans (anchor_foldl _ (by simp) _ _)
  split <;> simp

@[simp] theorem anchor_skBadByte (s : State) : (skBadByte s).2.anchor = s.anchor := by
  simp [skBadByte]

@[simp] theorem anchor_skInsert (s : State) (x : Nat) (r : Req) (g : Nat) (item : List Byte) : (skInsert s x r g item).2.anchor = s.anchor := by
  simp only [skInsert]; (repeat' split) <;> simp

@[simp] theorem anchor_skDelete (s : State) (x : Nat) (r : Req) (g id : Nat) : (skDelete s x r g id).2.anchor = s.anchor := by
  simp only [skDelete]; (repeat' split) <;> simp

@[simp] theorem anchor_skApply (s : State) (u : SkUpdate) (r : Req) (ix : SkIdx) : (s.skApply u r ix).anchor = s.anchor := by
  unfold skApply
  dsimp only
  split
  · split <;> simp
  · rw [anchor_updReq, anchor_hostTx, anchor_count, anchor_foldl_snd]
    intro p it
    split <;> simp

@[simp] theorem anchor_skUpdates (s : State) : s.skUpdates.anchor = s.anchor := by
  refine anchor_foldl _ (fun t u => ?_) _ _
  (repeat' split) <;> simp

theorem anchor_skReady (s : State) (stop : State → State) (x : Nat) (l : List (Nat × Nat)) (go : State → State)
    (hstop : ∀ s, (stop s).anchor = s.anchor) (hgo : ∀ s, (go s).anchor = s.anchor) : (s.skReady stop x l go).anchor = s.anchor := by
  simp only [skReady]
  (repeat' split) <;> simp [hstop, hgo]

@[simp] theorem anchor_skSwitch (s : State) (x : Nat) (ix : SkIdx) (m : SkMerge) (placed : List (Nat × Nat × Nat)) (lists : List (Nat × (Nat × Nat) × List (Nat × Nat))) (runs : List (Nat × Nat)) : (skSwitch s x ix m placed lists runs).anchor = s.anchor := by
  simp [skSwitch]

@[simp] theorem anchor_skPublish (s : State) (x : Nat) (ix : SkIdx) (m : SkMerge) : (s.skPublish x ix m).anchor = s.anchor := by
  unfold skPublish
  extract_lets stop side
  have hstop : ∀ t, (stop t).anchor = t.anchor := fun t => anchor_setIdx ..
  refine anchor_skReady _ _ _ _ _ hstop fun t => ?_
  extract_lets placed ids tombs
  refine anchor_skReady _ _ _ _ _ hstop fun t => ?_
  extract_lets old
  refine anchor_skReady _ _ _ _ _ hstop fun t => ?_
  extract_lets lists
  split
  · rw [hstop, anchor_report, anchor_orReg]
  · extract_lets fresh
    split
    · rw [anchor_skSwitch, anchor_foldl _ (by simp)]
    · exact anchor_foldl _ anchor_demand _ _

@[simp] theorem anchor_skBoundary (s : State) : s.skBoundary.anchor = s.anchor := by
  refine (anchor_foldl _ (fun t e => ?_) _ _).trans (by simp)
  extract_lets x u
  have hu : u.anchor = t.anchor := by
    simp only [u]
    (repeat' split) <;> simp
  split
  · exact hu
  · extract_lets iy due
    split
    · rw [anchor_setIdx, hu]
    · rw [anchor_setIdx, hu]

@[simp] theorem anchor_skRan (s : State) (q cid op : Nat) : (skRan s q cid op).anchor = s.anchor := by
  simp only [skRan]; split <;> simp

@[simp] theorem anchor_resultFailed (s : State) (ctx : Nat) (g : Option Nat) : (resultFailed s ctx g).anchor = s.anchor := by
  simp only [resultFailed]; split <;> simp

@[simp] theorem anchor_copyDone (s : State) (ctx dst : Nat) (failed : Option Nat) : (copyDone s ctx dst failed).anchor = s.anchor := by
  simp only [copyDone]; (repeat' split) <;> simp

@[simp] theorem anchor_afterHome (s : State) : (afterHome s).anchor = s.anchor := by
  simp [afterHome]

@[simp] theorem anchor_deliver (s : State) (n : Nat) : (deliver s n).anchor = s.anchor := by
  simp only [deliver]; (repeat' split) <;> simp

@[simp] theorem anchor_windowWrites (s : State) : (windowWrites s).anchor = s.anchor := by
  simp [windowWrites]

@[simp] theorem anchor_afterMove (s : State) (g n : Nat) : (afterMove s g n).anchor = s.anchor := by
  simp [afterMove]

@[simp] theorem anchor_moveCommit (s : State) (g : Nat) : (moveCommit s g).anchor = s.anchor := by
  simp only [moveCommit]; split <;> simp

@[simp] theorem anchor_hiUpd (s : State) (f : HiState → HiState) : (hiUpd s f).anchor = s.anchor := by
  simp [hiUpd]

@[simp] theorem anchor_stopGenerates (s : State) (p : Req → Bool) (status : Nat) : (stopGenerates s p status).anchor = s.anchor := by
  simp [stopGenerates]

@[simp] theorem anchor_hostReset (s : State) : (hostReset s).anchor = s.anchor := by
  simp [hostReset]

@[simp] theorem anchor_linkReset (s : State) : (linkReset s).anchor = s.anchor := by
  simp [linkReset]

@[simp] theorem anchor_badDoorbell (s : State) (q : Nat) : (badDoorbell s q).anchor = s.anchor := by
  simp [badDoorbell]

@[simp] theorem anchor_handshake (s : State) (v : Nat) : (handshake s v).anchor = s.anchor := by
  simp only [handshake]; (repeat' split) <;> simp

@[simp] theorem anchor_enableQueue (s : State) (q v : Nat) : (enableQueue s q v).anchor = s.anchor := by
  simp [enableQueue]

@[simp] theorem anchor_disableQueue (s : State) (q v : Nat) : (disableQueue s q v).anchor = s.anchor := by
  simp [disableQueue]

@[simp] theorem anchor_queueDrain (s : State) (q : Nat) : (queueDrain s q).anchor = s.anchor := by
  simp [queueDrain]

@[simp] theorem anchor_queueError (s : State) (q cause index : Nat) : (queueError s q cause index).anchor = s.anchor := by
  simp [queueError]

@[simp] theorem anchor_writeEventCfg (s : State) (v : Nat) : (writeEventCfg s v).anchor = s.anchor := by
  simp [writeEventCfg]

@[simp] theorem anchor_unmask (s : State) (vec : Nat) : (unmask s vec).anchor = s.anchor := by
  simp [unmask]

@[simp] theorem anchor_probeNext (s : State) (q : Nat) : (probeNext s q).anchor = s.anchor := by
  simp [probeNext]

@[simp] theorem anchor_fetchEntries (q n : Nat) (s : State) : (fetchEntries q n s).anchor = s.anchor := by
  induction n generalizing s with
  | zero => rfl
  | succ n ih =>
    simp only [fetchEntries]
    rw [ih]
    simp

@[simp] theorem anchor_takeEntry (s : State) (r : Req) (entry : Nat) (data : List Byte) (dataOk : Bool) : (takeEntry s r entry data dataOk).anchor = s.anchor := by
  simp only [takeEntry]; (repeat' split) <;> simp

@[simp] theorem anchor_unfetch (s : State) (r : Req) (phase : Nat) : (unfetch s r phase).anchor = s.anchor := by
  simp [unfetch]

@[simp] theorem anchor_arriveProbe (s : State) (r : Req) (entry : Nat) (take : State → State) (htake : ∀ s, (take s).anchor = s.anchor) : (arriveProbe s r entry take).anchor = s.anchor := by
  simp [arriveProbe, htake]

@[simp] theorem anchor_unprobe (s : State) (q : Nat) : (unprobe s q).anchor = s.anchor := by
  simp [unprobe]

@[simp] theorem anchor_arriveEntry (s : State) (q : Nat) (ok : Bool) (entry : Nat) (data : List Byte) (dataOk : Bool) : (arriveEntry s q ok entry data dataOk).anchor = s.anchor := by
  simp only [arriveEntry]; split <;> simp

@[simp] theorem anchor_markRan (s : State) (x : Nat) : (markRan s x).anchor = s.anchor := by
  simp [markRan]

theorem anchor_ranRequest (s : State) (q cid op : Nat) (f : State → Req → Nat → State) (hf : ∀ s r x, (f s r x).anchor = s.anchor) :
    (s.ranRequest q cid op f).anchor = s.anchor := by
  simp only [ranRequest]
  (repeat' split) <;> simp [hf]

@[simp] theorem anchor_ranTokens (s : State) (r : Req) (x : Nat) : (ranTokens s r x).anchor = s.anchor := by
  simp [ranTokens]

@[simp] theorem anchor_writeToken (s : State) (r : Req) (tok idx reason : Nat) (ok : Bool) : (writeToken s r tok idx reason ok).anchor = s.anchor := by
  simp [writeToken]

@[simp] theorem anchor_dropNext (s : State) (x : Nat) : (dropNext s x).anchor = s.anchor := by
  simp [dropNext]

@[simp] theorem anchor_lateAborts (s : State) (r : Req) : (lateAborts s r).anchor = s.anchor := by
  simp [lateAborts]

@[simp] theorem anchor_takeToken (s : State) (r : Req) (x tok : Nat) (ok : Bool) : (takeToken s r x tok ok).anchor = s.anchor := by
  simp [takeToken]

@[simp] theorem anchor_generate (s : State) (r : Req) (x : Nat) (zs : List Word) (ok : Bool) : (generate s r x zs ok).anchor = s.anchor := by
  simp only [generate]; (repeat' split) <;> simp

theorem anchor_onRequest (s : State) (q cid op : Nat) (f : State → Req → State) (hf : ∀ s r, (f s r).anchor = s.anchor) :
    (s.onRequest q cid op f).anchor = s.anchor := by
  simp only [onRequest]
  split <;> simp [hf]

theorem anchor_of_freeCtx? {s t : State} {x : Nat} (h : s.freeCtx? = some (x, t)) : t.anchor = s.anchor := by
  obtain ⟨y, -, hy⟩ := Option.map_eq_some_iff.1 h
  cases hy
  exact anchor_draw s

theorem anchor_of_planFork {s t : State} {r : Req} {x : Nat} {f : Option ForkPlan} (h : s.planFork r x = .ok (f, t)) : t.anchor = s.anchor := by
  simp only [planFork] at h
  split at h
  · next hctx =>
    split at h
    · cases h
    next hroot =>
    split at h
    · cases h
    next hrows =>
    split at h
    · cases h
    next hsk =>
    split at h
    · cases h
    next hpages =>
    cases h
    rw [anchor_of_allocMany anchor_of_forkPage hpages, anchor_of_allocMany anchor_of_allocBlock hsk, anchor_of_allocMany anchor_of_allocBlock hrows,
      anchor_of_allocBlock hroot, anchor_of_freeCtx? hctx]
  · cases h; rfl

@[simp] theorem anchor_dropFork (s : State) (f : ForkPlan) : (dropFork s f).anchor = s.anchor := by
  simp [dropFork]

@[simp] theorem anchor_cleanForks (s : State) : (cleanForks s).anchor = s.anchor := by
  simp [cleanForks]

@[simp] theorem anchor_fork (s : State) (r : Req) : (s.fork r).anchor = s.anchor := by
  unfold fork
  dsimp only
  split
  · split
    · simp
    split
    · simp
    · next h => rw [anchor_complete, anchor_kvUpd, anchor_setCtx, anchor_kvUpd, anchor_releaseFork, anchor_of_forkRows h]
  · simp

@[simp] theorem anchor_truncateReq (s : State) (r : Req) : (truncateReq s r).anchor = s.anchor := by
  simp [truncateReq]

@[simp] theorem anchor_rankTable (s : State) (r : Req) : (rankTable s r).anchor = s.anchor := by
  simp only [rankTable]; split <;> simp

@[simp] theorem anchor_tableRegs (s : State) (t : List Byte) : (tableRegs s t).anchor = s.anchor := by
  simp [tableRegs]

@[simp] theorem anchor_ringRegs (s : State) (g : Nat) : (ringRegs s g).anchor = s.anchor := by
  simp [ringRegs]

@[simp] theorem anchor_placeTable (s : State) (bytes : List Byte) : (placeTable s bytes).anchor = s.anchor := by
  simp [placeTable]

@[simp] theorem anchor_applyTable (s : State) : (applyTable s).anchor = s.anchor := by
  simp only [applyTable]; split <;> simp

@[simp] theorem anchor_spillRegister (s : State) (r : Req) : (spillRegister s r).anchor = s.anchor := by
  simp [spillRegister]

@[simp] theorem anchor_loadHomes (s : State) (r : Req) : (s.loadHomes r).2.anchor = s.anchor := by
  refine anchor_foldl_snd _ (fun p u => ?_) _ _
  dsimp only
  (repeat' split) <;> simp

@[simp] theorem anchor_load (s : State) (r : Req) : (s.load r).anchor = s.anchor := by
  have homes := s.anchor_loadHomes r
  unfold load
  split
  · next h => simpa [h] using homes
  · next t h =>
    have ht : t.anchor = s.anchor := by simpa [h] using homes
    split
    · exact ht
    · rw [anchor_complete, anchor_kvUpd, anchor_foldl _ (by simp), anchor_skSeen, anchor_heat, anchor_devWrite, anchor_foldl _ (by simp),
        anchor_foldl _ (by simp), ht]

@[simp] theorem anchor_supply (s : State) (r : Req) : (s.supply r).anchor = s.anchor := by
  unfold supply
  extract_lets g p t u v
  have ht : t.anchor = s.anchor := by simp [t]
  split
  · simp
  split
  · rfl
  split
  · exact ht
  · rw [anchor_complete, anchor_pumpResume, anchor_count, anchor_upd, anchor_updEntry, anchor_heat, anchor_devWrite, ht]

@[simp] theorem anchor_writeBuffer (s : State) (r : Req) : (writeBuffer s r).anchor = s.anchor := by
  simp [writeBuffer]

@[simp] theorem anchor_abort (s : State) (r : Req) : (abort s r).anchor = s.anchor := by
  simp only [abort]; (repeat' split) <;> simp

@[simp] theorem anchor_park (s : State) (x : Nat) : (park s x).anchor = s.anchor := by
  simp [park]

@[simp] theorem anchor_unpark (s : State) (x : Nat) : (unpark s x).anchor = s.anchor := by
  simp [unpark]

@[simp] theorem anchor_swapTrial (s : State) (x : Nat) : (swapTrial s x).anchor = s.anchor := by
  simp [swapTrial]

@[simp] theorem anchor_chooseVictims (s : State) (x : Nat) (e : Short) (need : State → Option Short) : (chooseVictims s x e need).anchor = s.anchor := by
  simp [chooseVictims]

@[simp] theorem anchor_notAdmitted (s : State) (r : Req) (x : Nat) (e : Short) (need : State → Option Short) : (notAdmitted s r x e need).anchor = s.anchor := by
  simp [notAdmitted]

@[simp] theorem anchor_parkTimeout (s : State) (r : Req) (x : Nat) : (parkTimeout s r x).anchor = s.anchor := by
  simp [parkTimeout]

@[simp] theorem anchor_choose (s : State) (r : Req) (f : Req → Req) : (choose s r f).anchor = s.anchor := by
  simp only [choose]; split <;> simp

theorem anchor_of_makeCtx {s t : State} {r r' : Req} (h : s.makeCtx r = some (r', t)) : t.anchor = s.anchor := by
  simp only [makeCtx] at h
  split at h
  · cases h
  · next hx =>
    cases h
    rw [anchor_updReq, anchor_kvUpd, anchor_setCtx, anchor_of_freeCtx? hx]

theorem anchor_of_withRoot {s t : State} {r : Req} {x : Nat} (h : s.withRoot r x = .ok t) : t.anchor = s.anchor := by
  simp only [withRoot] at h
  split at h
  · cases h; rfl
  · split at h
    · cases h
    · next hb =>
      obtain rfl := Except.ok.inj h
      rw [anchor_updCtx, anchor_of_allocBlock hb]

theorem anchor_of_planChunk {s t : State} {r : Req} {x : Nat} (h : s.planChunk r x = .ok t) : t.anchor = s.anchor := by
  simp only [planChunk] at h
  split at h
  · cases h
  · next hroot =>
    split at h
    · cases h
      exact anchor_of_withRoot hroot
    · rw [anchor_of_planGrowth h, anchor_of_withRoot hroot]

theorem anchor_of_adopt {s t : State} {r r' : Req} {x l0 : Nat} (h : s.adopt r x l0 = .ok (r', t)) : t.anchor = s.anchor := by
  revert h
  unfold adopt
  extract_lets c
  split
  · rintro ⟨⟩
    rfl
  split
  · rintro ⟨⟩
    rfl
  split
  extract_lets away
  split
  · nofun
  split
  next hlook =>
  rintro ⟨⟩
  exact (congrArg (fun p => p.1.anchor) hlook).symm.trans (anchor_seamLookup ..)

@[simp] theorem anchor_cutAppend (s : State) (r : Req) (x : Nat) : (s.cutAppend r x).anchor = s.anchor := by
  unfold cutAppend
  dsimp only
  split
  · simp
  split
  · simp
  next u hroot =>
  have hu := anchor_of_withRoot hroot
  split
  · simp [hu]
  next v hadopt =>
  have hv : v.anchor = u.anchor := by
    split at hadopt
    · exact anchor_of_adopt hadopt
    · cases hadopt; rfl
  split
  · next hplan => rw [anchor_choose, anchor_of_planChunk hplan, hv, hu]
  · simp [hv, hu]

@[simp] theorem anchor_cutGenerate (s : State) (r : Req) (x : Nat) : (s.cutGenerate r x).anchor = s.anchor := by
  unfold cutGenerate
  dsimp only
  split
  · simp
  split
  · rfl
  split
  · next h => rw [anchor_choose, anchor_of_planGrowth h]
  · simp

@[simp] theorem anchor_cutResident (s : State) (r : Req) (x : Nat) : (s.cutResident r x).anchor = s.anchor := by
  unfold cutResident
  dsimp only
  split
  · simp
  split
  · rfl
  split
  · simp
  split
  · simp
  · split
    · next h => rw [anchor_choose, anchor_kvUpd, anchor_of_planFork h]
    · next h => rw [anchor_complete, anchor_of_planFork h]
    · simp
  all_goals simp

@[simp] theorem anchor_cutContext (s : State) (r : Req) (x : Nat) : (s.cutContext r x).anchor = s.anchor := by
  have hswap : ((s.swapIn x).getD s).anchor = s.anchor := by
    cases h : s.swapIn x with
    | none => rfl
    | some t => exact anchor_of_swapIn h
  unfold cutContext
  dsimp only
  (repeat' split) <;> simp [hswap]

@[simp] theorem anchor_cutOne (s : State) (r : Req) : (s.cutOne r).anchor = s.anchor := by
  unfold cutOne
  extract_lets planned
  split
  · rfl
  split
  · split
    · simp
    split
    · simp
    split
    · next h => rw [anchor_cutContext, anchor_of_makeCtx h]
    · simp
  · (repeat' split) <;> simp

@[simp] theorem anchor_cutEnds (s : State) : (cutEnds s).anchor = s.anchor := by
  refine anchor_foldl _ (fun t x => ?_) _ _; split <;> simp

@[simp] theorem anchor_cutContexts (s : State) : (cutContexts s).anchor = s.anchor := by
  refine anchor_foldl _ (fun t x => ?_) _ _; split <;> simp

@[simp] theorem anchor_cutAborts (s : State) : (cutAborts s).anchor = s.anchor := by
  refine anchor_foldl _ (fun t x => ?_) _ _; split <;> simp

@[simp] theorem anchor_cut (s : State) : s.cut.anchor = s.anchor := by
  unfold cut
  split
  · rfl
  · refine (anchor_skCut _ _).trans ((anchor_foldl _ (fun t r => ?_) _ _).trans (by simp))
    split <;> simp

@[simp] theorem anchor_dtUpd (s : State) (f : DtState → DtState) : (dtUpd s f).anchor = s.anchor := by
  simp [dtUpd]

@[simp] theorem anchor_declare (s : State) (ready x : Nat) : (declare s ready x).anchor = s.anchor := by
  simp [declare]

@[simp] theorem anchor_missWindow (s : State) (ready deadline : Nat) : (missWindow s ready deadline).anchor = s.anchor := by
  simp [missWindow]

@[simp] theorem anchor_closeWindow (s : State) : (closeWindow s).anchor = s.anchor := by
  simp only [closeWindow]; split <;> simp

@[simp] theorem anchor_readyPoint (s : State) : (readyPoint s).anchor = s.anchor := by
  simp only [readyPoint]; (repeat' split) <;> simp

@[simp] theorem anchor_dieReport (s : State) (d : Nat) : (dieReport s d).anchor = s.anchor := by
  simp [dieReport]

@[simp] theorem anchor_pulse (s : State) : (pulse s).anchor = s.anchor := by
  simp only [pulse]; (repeat' split) <;> simp

@[simp] theorem anchor_finishReq (s : State) (r : Req) : (finishReq s r).anchor = s.anchor := by
  simp only [finishReq]; split <;> simp

@[simp] theorem anchor_startReqs (s : State) : (startReqs s).anchor = s.anchor := by
  simp [startReqs]

@[simp] theorem anchor_resetCore (s : State) (c : Nat) : (s.resetCore c).anchor = s.anchor := by
  have hs : (((s.core c).streams.keys.foldl (fun s sc => s.cancelRun (32 * c + sc)) s).setCore c CoreState.fresh).anchor = s.anchor := by simp
  unfold resetCore
  dsimp only
  split
  · rw [anchor_writeStore, hs]
  · exact hs

@[simp] theorem anchor_preempt (s : State) (x : Nat) : (preempt s x).anchor = s.anchor := by
  simp [preempt]

@[simp] theorem anchor_returnFlows (s : State) : (returnFlows s).anchor = s.anchor := by
  simp [returnFlows]

@[simp] theorem anchor_endEpoch (s : State) : (endEpoch s).anchor = s.anchor := by
  simp [endEpoch]

@[simp] theorem anchor_beginStep (s : State) : (beginStep s).anchor = s.anchor := by
  simp [beginStep]

@[simp] theorem anchor_boundary (s : State) : (boundary s).anchor = s.anchor := by
  simp [boundary]

@[simp] theorem anchor_atOnce (s : State) (q cid op : Nat) : (atOnce s q cid op).anchor = s.anchor := by
  simp only [atOnce]; split <;> simp

end State

end Sys2Proof.Machine
end

section
/-! SUPPORT. The anchor under the operations of reports, images, starts, power, management, registers and the clock. -/

namespace Sys2Proof.Machine

namespace State

@[simp] theorem anchor_elUpd (s : State) (f : ElState → ElState) : (elUpd s f).anchor = s.anchor := by
  simp [elUpd]

@[simp] theorem anchor_alertEdge (s : State) (f : State → State) (hf : ∀ s, (f s).anchor = s.anchor) : (alertEdge s f).anchor = s.anchor := by
  simp [alertEdge, hf]

@[simp] theorem anchor_setAlert (s : State) (bit : Nat) : (setAlert s bit).anchor = s.anchor := by
  simp [setAlert]

@[simp] theorem anchor_putEntry (s : State) (i : Nat) (q : Queued) (ovf : Bool) : (putEntry s i q ovf).anchor = s.anchor := by
  simp [putEntry]

@[simp] theorem anchor_bumpEntry (s : State) (i : Nat) : (bumpEntry s i).anchor = s.anchor := by
  simp [bumpEntry]

@[simp] theorem anchor_overflow (s : State) : (overflow s).anchor = s.anchor := by
  simp only [overflow]; (repeat' split) <;> simp

@[simp] theorem anchor_intake (s : State) (r : Report) : (intake s r).anchor = s.anchor := by
  simp only [intake]; (repeat' split) <;> simp

@[simp] theorem anchor_pldmEvent (s : State) (cls : Nat) (data : List Byte) : (pldmEvent s cls data).anchor = s.anchor := by
  simp [pldmEvent]

@[simp] theorem anchor_logEntry (s : State) (q : Queued) (ovf : Bool) : (logEntry s q ovf).anchor = s.anchor := by
  simp [logEntry]

@[simp] theorem anchor_writeNext (s : State) : (writeNext s).anchor = s.anchor := by
  simp only [writeNext]; (repeat' split) <;> simp

@[simp] theorem anchor_addRetired (s : State) (kind id : Nat) : (addRetired s kind id).anchor = s.anchor := by
  unfold addRetired; split <;> simp

@[simp] theorem anchor_retireChannel (s : State) (st pc : Nat) : (retireChannel s st pc).anchor = s.anchor := by
  simp [retireChannel]

@[simp] theorem anchor_retireCore (s : State) (p : Nat) : (retireCore s p).anchor = s.anchor := by
  simp only [retireCore]; (repeat' split) <;> simp

@[simp] theorem anchor_retireTest (s : State) (r : Report) : (retireTest s r).anchor = s.anchor := by
  simp only [retireTest]; (repeat' split) <;> simp

@[simp] theorem anchor_fatal (s : State) : (fatal s).anchor = s.anchor := by
  simp [fatal]

@[simp] theorem anchor_takeReport (s : State) (r : Report) : (takeReport s r).anchor = s.anchor := by
  simp [takeReport]

@[simp] theorem anchor_ringRefused (s : State) (r : Report) : (ringRefused s r).anchor = s.anchor := by
  simp [ringRefused]

@[simp] theorem anchor_writeElRd (s : State) (v : Nat) : (writeElRd s v).anchor = s.anchor := by
  simp [writeElRd]

@[simp] theorem anchor_writeElTest (s : State) (v : Nat) : (writeElTest s v).anchor = s.anchor := by
  simp [writeElTest]

@[simp] theorem anchor_clearAlert (s : State) (v : Nat) : (clearAlert s v).anchor = s.anchor := by
  simp [clearAlert]

@[simp] theorem anchor_writeAlertEn (s : State) (v : Nat) : (writeAlertEn s v).anchor = s.anchor := by
  simp [writeAlertEn]

@[simp] theorem anchor_fillRegs (s : State) (words : Map Word) : (fillRegs s words).anchor = s.anchor := by
  simp [fillRegs]

@[simp] theorem anchor_filled (s : State) (rs : List IRec) (words : Map Word) : (filled s rs words).anchor = s.anchor := by
  simp [filled]

@[simp] theorem anchor_glUpd (s : State) (f : GlState → GlState) : (s.glUpd f).anchor = (s.pending, (f s.gl).fused) := rfl

@[simp] theorem anchor_imUpd (s : State) (f : ImState → ImState) : (imUpd s f).anchor = s.anchor := by
  simp [imUpd]

@[simp] theorem anchor_discardAll (s : State) : (discardAll s).anchor = s.anchor := by
  simp [discardAll]

@[simp] theorem anchor_drawLink (s : State) : (drawLink s).anchor = s.anchor := by
  simp [drawLink]

@[simp] theorem anchor_coldStart (s : State) : (coldStart s).anchor = s.anchor := by
  simp [coldStart]

@[simp] theorem anchor_holdReset (s : State) : (holdReset s).anchor = s.anchor := by
  simp [holdReset]

@[simp] theorem anchor_bistFailed (s : State) (failed : List Nat) : (s.bistFailed failed).anchor = s.anchor := by
  refine anchor_foldl _ (fun t p => ?_) _ _
  simp

@[simp] theorem anchor_spareEntries (s : State) (new : Map Nat) : (spareEntries s new).anchor = s.anchor := by
  simp [spareEntries]

@[simp] theorem anchor_sparing (s : State) : (sparing s).anchor = s.anchor := by
  simp [sparing]

@[simp] theorem anchor_fuses (s : State) (ok : Bool) : (fuses s ok).anchor = s.anchor := by
  simp [fuses]

@[simp] theorem anchor_retireAtStart (s : State) (failed : List Nat) : (retireAtStart s failed).anchor = s.anchor := by
  simp [retireAtStart]

@[simp] theorem anchor_trainStacks (s : State) (status : Nat) : (trainStacks s status).anchor = s.anchor := by
  simp [trainStacks]

@[simp] theorem anchor_warmStacks (s : State) (failed : List Nat) (ok : Bool) : (warmStacks s failed ok).anchor = s.anchor := by
  simp [warmStacks]

@[simp] theorem anchor_trainAll (s : State) : (trainAll s).anchor = s.anchor := by
  simp [trainAll]

@[simp] theorem anchor_trainPorts (s : State) : (trainPorts s).anchor = s.anchor := by
  simp [trainPorts]

@[simp] theorem anchor_pwUpd (s : State) (f : PwState → PwState) : (pwUpd s f).anchor = s.anchor := by
  simp [pwUpd]

@[simp] theorem anchor_setTargets (s : State) (div : Nat) : (setTargets s div).anchor = s.anchor := by
  simp [setTargets]

@[simp] theorem anchor_enterLoaded (s : State) : (enterLoaded s).anchor = s.anchor := by
  simp [enterLoaded]

@[simp] theorem anchor_abandonMoves (s : State) : (abandonMoves s).anchor = s.anchor := by
  simp [abandonMoves]

@[simp] theorem anchor_abandonSteps (s : State) : (abandonSteps s).anchor = s.anchor := by
  simp [abandonSteps]

@[simp] theorem anchor_quiesce (s : State) : (quiesce s).anchor = s.anchor := by
  simp [quiesce]

@[simp] theorem anchor_warmRequest (s : State) (cause : Nat) : (warmRequest s cause).anchor = s.anchor := by
  simp [warmRequest]

@[simp] theorem anchor_warmRestart (s : State) : (warmRestart s).anchor = s.anchor := by
  simp [warmRestart]

@[simp] theorem anchor_discardLayout (s : State) : (discardLayout s).anchor = s.anchor := by
  simp [discardLayout]

@[simp] theorem anchor_addMapFrames (s : State) : s.addMapFrames.anchor = s.anchor := by
  unfold addMapFrames
  split
  · rfl
  · refine anchor_foldl _ (fun t st => anchor_foldl _ (fun t i => ?_) _ _) _ _
    dsimp only
    split
    · rfl
    · split <;> simp

@[simp] theorem anchor_loadHome (s : State) (at_ : Option Nat) (g p : Nat) : (loadHome s at_ g p).anchor = s.anchor := by
  simp only [loadHome]; (repeat' split) <;> simp

@[simp] theorem anchor_buildMap (s : State) (fill : List Nat) : (s.buildMap fill).anchor = s.anchor := by
  refine (anchor_foldl _ (fun t g => ?_) _ _).trans (anchor_foldl _ (by simp) _ _)
  split <;> simp

@[simp] theorem anchor_writeProjections (s : State) : (writeProjections s).anchor = s.anchor := by
  simp [writeProjections]

@[simp] theorem anchor_applyImage (s : State) (slot : Nat) (rs : List IRec) (k0 k1 : Nat) (keys : Map (List Byte)) : (applyImage s slot rs k0 k1 keys).anchor = s.anchor := by
  simp [applyImage]

@[simp] theorem anchor_reuseImage (s : State) : (reuseImage s).anchor = s.anchor := by
  simp [reuseImage]

@[simp] theorem anchor_beginRead (s : State) : (beginRead s).anchor = s.anchor := by
  simp [beginRead]

@[simp] theorem anchor_takeSlot (s : State) (slot : Nat) (reused : Bool) : (takeSlot s slot reused).anchor = s.anchor := by
  simp [takeSlot]

@[simp] theorem anchor_failSlot (s : State) (slot : Nat) (c : ICause) : (failSlot s slot c).anchor = s.anchor := by
  simp [failSlot]

@[simp] theorem anchor_checkSlot (s : State) (slot : Nat) (readable : Bool) : (checkSlot s slot readable).anchor = s.anchor := by
  simp only [checkSlot]; (repeat' split) <;> simp

@[simp] theorem anchor_applySlot (s : State) : (applySlot s).anchor = s.anchor := by
  simp only [applySlot]; (repeat' split) <;> simp

@[simp] theorem anchor_phaseDone (s : State) (ms : Nat) : (phaseDone s ms).anchor = s.anchor := by
  simp [phaseDone]

@[simp] theorem anchor_startDone (s : State) (ms : Nat) : (startDone s ms).anchor = s.anchor := by
  simp [startDone]

@[simp] theorem anchor_coldPhase (s : State) (ms : Nat) (failed : List Nat) (ok : Bool) : (coldPhase s ms failed ok).anchor = s.anchor := by
  simp only [coldPhase]; (repeat' split) <;> simp

@[simp] theorem anchor_warmPhase (s : State) (ms : Nat) (failed : List Nat) (ok : Bool) : (warmPhase s ms failed ok).anchor = s.anchor := by
  simp only [warmPhase]; (repeat' split) <;> simp

@[simp] theorem anchor_fuseResult (s : State) (cause : Nat) : (fuseResult s cause).anchor = s.anchor := by
  simp [fuseResult]

@[simp] theorem anchor_setPolder (s : State) (p n : Nat) : (setPolder s p n).anchor = s.anchor := by
  simp [setPolder]

@[simp] theorem anchor_polderWrite (s : State) (p : Nat) (en : Bool) : (polderWrite s p en).anchor = s.anchor := by
  simp only [polderWrite]; (repeat' split) <;> simp

@[simp] theorem anchor_polderDrain (s : State) (p : Nat) : (polderDrain s p).anchor = s.anchor := by
  simp only [polderDrain]; (repeat' split) <;> simp

@[simp] theorem anchor_resetWrite (s : State) (v : Nat) : (resetWrite s v).anchor = s.anchor := by
  simp [resetWrite]

@[simp] theorem anchor_slowUpdate (s : State) : (slowUpdate s).anchor = s.anchor := by
  simp [slowUpdate]

@[simp] theorem anchor_dropRaise (s : State) : (dropRaise s).anchor = s.anchor := by
  simp [dropRaise]

@[simp] theorem anchor_setDiv (s : State) (div : Nat) (sources : List Nat) (exc : Bool) : (setDiv s div sources exc).anchor = s.anchor := by
  simp [setDiv]

@[simp] theorem anchor_slower (s : State) (div : Nat) (sources : List Nat) (exc : Bool) : (slower s div sources exc).anchor = s.anchor := by
  simp [slower]

@[simp] theorem anchor_startRaise (s : State) (div : Nat) : (startRaise s div).anchor = s.anchor := by
  simp [startRaise]

@[simp] theorem anchor_confirmRaise (s : State) : (confirmRaise s).anchor = s.anchor := by
  simp only [confirmRaise]; split <;> simp

@[simp] theorem anchor_throttle (s : State) (temps : List (BitVec 12)) : (throttle s temps).anchor = s.anchor := by
  simp [throttle]

@[simp] theorem anchor_estimate (s : State) (w : Nat) : (estimate s w).anchor = s.anchor := by
  simp [estimate]

@[simp] theorem anchor_stopClocks (s : State) : (stopClocks s).anchor = s.anchor := by
  simp [stopClocks]

@[simp] theorem anchor_railFaultAt (s : State) (rail : Nat) : (railFaultAt s rail).anchor = s.anchor := by
  simp [railFaultAt]

@[simp] theorem anchor_tripAt (s : State) (sensor : Nat) (t : BitVec 12) : (tripAt s sensor t).anchor = s.anchor := by
  simp [tripAt]

@[simp] theorem anchor_pmbFail (s : State) : (pmbFail s).anchor = s.anchor := by
  simp [pmbFail]

@[simp] theorem anchor_pollRail (s : State) (rail : Nat) (answer : Bool) (mv amps status : Nat) : (pollRail s rail answer mv amps status).anchor = s.anchor := by
  simp [pollRail]

@[simp] theorem anchor_captureDr (s : State) : (captureDr s).2.anchor = s.anchor := by
  simp only [captureDr]; split <;> simp

@[simp] theorem anchor_tckEdge (s : State) (tms tdi : Bool) : (tckEdge s tms tdi).anchor = s.anchor := by
  simp only [tckEdge]; split <;> simp

@[simp] theorem anchor_mgUpd (s : State) (f : MgState → MgState) : (mgUpd s f).anchor = s.anchor := by
  simp [mgUpd]

@[simp] theorem anchor_managed (s : State) (f : State → State) (hf : ∀ s, (f s).anchor = s.anchor) : (managed s f).anchor = s.anchor := by
  simp [managed, hf]

@[simp] theorem anchor_answer (s : State) (cmd code : Nat) (fields : List Nat) (data : List Byte) : (answer s cmd code fields data).anchor = s.anchor := by
  simp [answer]

@[simp] theorem anchor_pldm (s : State) (ty cmd code : Nat) (fields : List Nat) (data : List Byte) : (pldm s ty cmd code fields data).anchor = s.anchor := by
  simp [pldm]

@[simp] theorem anchor_sensorEvents (s : State) : s.sensorEvents.anchor = s.anchor := by
  refine anchor_foldl _ (fun t i => ?_) _ _
  dsimp only
  split
  · rfl
  split
  · rfl
  · rw [anchor_pldmEvent, anchor_mgUpd]

@[simp] theorem anchor_requestData (s : State) (off : Nat) : (requestData s off).anchor = s.anchor := by
  simp [requestData]

@[simp] theorem anchor_requestUpdate (s : State) : (requestUpdate s).anchor = s.anchor := by
  simp [requestUpdate]

@[simp] theorem anchor_transferData (s : State) (off : Nat) (data : List Byte) : (transferData s off data).anchor = s.anchor := by
  simp only [transferData]; split <;> simp

@[simp] theorem anchor_verifyUpdate (s : State) : (verifyUpdate s).anchor = s.anchor := by
  simp only [verifyUpdate]; split <;> simp

@[simp] theorem anchor_activate (s : State) (selfContained : Bool) : (activate s selfContained).anchor = s.anchor := by
  simp only [activate]; split <;> simp

@[simp] theorem anchor_readWord (s : State) (off : Nat) : (readWord s off).2.anchor = s.anchor := by
  simp only [readWord]; (repeat' split) <;> simp

@[simp] theorem anchor_readBar (s : State) (off bytes : Nat) : (readBar s off bytes).anchor = s.anchor := by
  simp [readBar]

@[simp] theorem anchor_badAccess (s : State) (off : Nat) (write : Bool) : (badAccess s off write).anchor = s.anchor := by
  simp [badAccess]

@[simp] theorem anchor_clearSticky (s : State) (v : Nat) : (clearSticky s v).anchor = s.anchor := by
  simp [clearSticky]

@[simp] theorem anchor_refreshSticky (s : State) (gone : Nat) : (refreshSticky s gone).anchor = s.anchor := by
  simp [refreshSticky]

@[simp] theorem anchor_writeSticky (s : State) (v hwSet : Nat) : (writeSticky s v hwSet).anchor = s.anchor := by
  simp [writeSticky]

@[simp] theorem anchor_clearCoreFlag (s : State) (i v hwSet : Nat) : (clearCoreFlag s i v hwSet).anchor = s.anchor := by
  simp [clearCoreFlag]

@[simp] theorem anchor_clearArith (s : State) (c v hwSet : Nat) : (clearArith s c v hwSet).anchor = s.anchor := by
  simp [clearArith]

@[simp] theorem anchor_clearSlArith (s : State) (v hwSet : Nat) : (clearSlArith s v hwSet).anchor = s.anchor := by
  simp [clearSlArith]

@[simp] theorem anchor_rwlDiscard (s : State) (off : Nat) : (rwlDiscard s off).anchor = s.anchor := by
  simp [rwlDiscard]

@[simp] theorem anchor_codeWrite (s : State) (off v hwSet : Nat) : (codeWrite s off v hwSet).anchor = s.anchor := by
  simp only [codeWrite]; (repeat' split) <;> simp

@[simp] theorem anchor_commitHi (s : State) (off v : Nat) : (commitHi s off v).anchor = s.anchor := by
  simp only [commitHi]; (repeat' split) <;> simp

@[simp] theorem anchor_pairWrite (s : State) (off v hwSet : Nat) : (pairWrite s off v hwSet).anchor = s.anchor := by
  simp only [pairWrite]; split <;> simp

@[simp] theorem anchor_queueWrite (s : State) (q r off v : Nat) : (queueWrite s q r off v).anchor = s.anchor := by
  simp [queueWrite]

@[simp] theorem anchor_portWrite (s : State) (n r off v hwSet : Nat) : (portWrite s n r off v hwSet).anchor = s.anchor := by
  simp [portWrite]

@[simp] theorem anchor_freeBytes (s : State) (n : Nat) : (freeBytes s n).2.anchor = s.anchor := by
  simp [freeBytes]

@[simp] theorem anchor_windowRead (s : State) (off a n : Nat) (ue : Bool) : (windowRead s off a n ue).anchor = s.anchor := by
  simp [windowRead]

@[simp] theorem anchor_windowWrite (s : State) (off a : Nat) (data : List Byte) : (windowWrite s off a data).anchor = s.anchor := by
  simp [windowWrite]

@[simp] theorem anchor_debugDiscard (s : State) : (debugDiscard s).anchor = s.anchor := by
  simp [debugDiscard]

@[simp] theorem anchor_peerAccess (s : State) (off len : Nat) (write : Bool) (data : List Byte) : (peerAccess s off len write data).anchor = s.anchor := by
  simp [peerAccess]

@[simp] theorem anchor_replayRead (s : State) (n a len : Nat) : (replayRead s n a len).2.anchor = s.anchor := by
  simp [replayRead]

@[simp] theorem anchor_rxRead (s : State) (n a len : Nat) : (rxRead s n a len).2.anchor = s.anchor := by
  simp [rxRead]

@[simp] theorem anchor_debugRead (s : State) (off n : Nat) (ue : Bool) : (debugRead s off n ue).anchor = s.anchor := by
  simp [debugRead]

@[simp] theorem anchor_debugWrite (s : State) (off : Nat) (data : List Byte) : (debugWrite s off data).anchor = s.anchor := by
  simp [debugWrite]

@[simp] theorem anchor_hosted (s : State) (f : State → State) (hf : ∀ s, (f s).anchor = s.anchor) : (hosted s f).anchor = s.anchor := by
  simp [hosted, hf]

@[simp] theorem anchor_count48 (s : State) (off : Nat) : (count48 s off).anchor = s.anchor := by
  simp [count48]

@[simp] theorem anchor_noCredit (s : State) : (noCredit s).anchor = s.anchor := by
  simp [noCredit]

@[simp] theorem anchor_cycles (s : State) : (cycles s).anchor = s.anchor := by
  simp [cycles]

@[simp] theorem anchor_fecCounts (s : State) : (fecCounts s).anchor = s.anchor := by
  simp [fecCounts]

@[simp] theorem anchor_servePeers (s : State) : (servePeers s).anchor = s.anchor := by
  simp [servePeers]

@[simp] theorem anchor_micro (s : State) : s.micro.anchor = s.anchor := by
  simp only [micro, anchor_ite, anchor_sensorEvents, anchor_count, anchor_foldl, anchor_count48, anchor_fecCounts, implies_true, ite_self]

@[simp] theorem anchor_upset (s : State) : (upset s).anchor = s.anchor := by
  simp only [upset]; split <;> simp

@[simp] theorem anchor_emptyAll (s : State) : (emptyAll s).anchor = s.anchor := by
  simp [emptyAll]

/-- A PCLK cycle runs no command and writes no fuse. -/
@[simp] theorem anchor_tick (s : State) : s.tick.anchor = s.anchor := by
  simp only [tick, anchor_ite, anchor_micro, anchor_servePeers, anchor_noCredit, anchor_skRetry, anchor_slRunAll, anchor_cycles,
    anchor_emptyAll, anchor_upset, anchor_mk, anchor_eta, ite_self]

end State

end Sys2Proof.Machine
end

section
/-! SUPPORT. Every command leaves the waiting commands and the fuses as they are, but for the fuse commands (R440); and the statements about the queue and the fuses. -/

namespace Sys2Proof.Machine

namespace State

/-- The waiting commands stand, and no fuse is cleared or changed. -/
def steady (s t : State) : Prop := t.pending = s.pending ∧ s.fusesKept t

theorem steady_of_anchor {s t : State} (h : t.anchor = s.anchor) : s.steady t := by
  simp only [anchor, GlState.fused, Prod.mk.injEq] at h
  obtain ⟨hpending, hotp, hkeys, hkek, hsvn, hrevoked⟩ := h
  exact ⟨hpending, hotp, hkeys, hkek, hsvn.ge, fun k hk => hrevoked ▸ hk⟩

theorem steady_trans {s t u : State} (hst : s.steady t) (htu : t.steady u) : s.steady u := by
  obtain ⟨hpending, hotp, hkeys, hkek, hsvn, hrevoked⟩ := hst
  obtain ⟨hpending', hotp', hkeys', hkek', hsvn', hrevoked'⟩ := htu
  exact ⟨hpending'.trans hpending, hotp'.trans hotp, hkeys'.trans hkeys, hkek'.trans hkek, hsvn.trans hsvn', fun k hk => hrevoked' k (hrevoked k hk)⟩

theorem steady_svn (s : State) {n : Nat} (h : s.gl.svn ≤ n) : s.steady (s.glUpd fun g => { g with svn := n }) :=
  ⟨rfl, rfl, rfl, rfl, h, fun _ hk => hk⟩

theorem steady_revoked (s : State) {l : List Nat} (h : ∀ k ∈ s.gl.revoked, k ∈ l) : s.steady (s.glUpd fun g => { g with revoked := l }) :=
  ⟨rfl, rfl, rfl, rfl, le_rfl, h⟩

/-- A fuse command may only raise the fused SVN, where the image's is above it, or add a revoked slot (R440). -/
theorem steady_fuseCmd (s : State) (v : Nat) (ok : Bool) : s.steady (s.fuseCmd v ok) := by
  have hresult (t : State) (cause : Nat) : t.steady (t.fuseResult cause) := steady_of_anchor (by simp)
  unfold fuseCmd
  dsimp only
  split
  · exact steady_of_anchor rfl
  split
  · exact hresult _ _
  split
  · exact hresult _ _
  split
  · exact hresult _ _
  next hsvn =>
    split
    · exact hresult _ _
    split
    next hraise => exact steady_trans (steady_svn _ (by omega)) (hresult _ _)
    · refine steady_trans (steady_revoked _ fun k hk => ?_) (hresult _ _)
      split
      · exact hk
      · exact List.mem_append_left _ hk

theorem steady_ite {s t u : State} {c : Prop} [Decidable c] (ht : s.steady t) (hu : s.steady u) : s.steady (if c then t else u) := by
  split
  · exact ht
  · exact hu
theorem steady_regWrite (s : State) (off v hwSet : Nat) : s.steady (s.regWrite off v hwSet) := by
  unfold regWrite
  refine steady_ite (steady_of_anchor (anchor_handshake ..)) ?_
  refine steady_ite (steady_of_anchor (anchor_writeEventCfg ..)) ?_
  refine steady_ite (steady_of_anchor (anchor_resetWrite ..)) ?_
  refine steady_ite (steady_trans (steady_of_anchor (anchor_draw s)) (steady_fuseCmd ..)) ?_
  refine steady_ite (steady_of_anchor (anchor_writeElRd ..)) ?_
  refine steady_ite (steady_of_anchor (anchor_writeElTest ..)) ?_
  refine steady_ite (steady_of_anchor (by simp)) ?_
  refine steady_ite (steady_of_anchor (anchor_writeAlertEn ..)) ?_
  refine steady_ite (steady_of_anchor (anchor_writeSticky ..)) ?_
  refine steady_ite (steady_of_anchor (anchor_clearSlArith ..)) ?_
  refine steady_ite (steady_of_anchor (anchor_selectCtx ..)) ?_
  refine steady_ite (steady_of_anchor (anchor_selectOp ..)) ?_
  refine steady_ite (steady_of_anchor (anchor_selectGran ..)) ?_
  refine steady_of_anchor ?_
  (repeat' split) <;> simp

theorem steady_hosted (s : State) {f : State → State} (h : s.steady (f s)) : s.steady (s.hosted f) := by
  unfold hosted
  split
  · exact steady_of_anchor rfl
  · exact h

end State

/-- Where the command completes, the commands that wait stand and no fuse is cleared or changed. -/
def keepsSteady (o : Outcome) (s : State) : Prop := ∀ t, o = .next t → s.steady t

theorem keepsSteady_next {s t : State} (h : s.steady t) : keepsSteady (.next t) s := fun _ hu => by cases hu; exact h

theorem steady_next {s t : State} (h : t.anchor = s.anchor) : keepsSteady (.next t) s := keepsSteady_next (State.steady_of_anchor h)

theorem steady_onUnit {c : Bool} {s t : State} (h : t.anchor = s.anchor) : keepsSteady (onUnit c t) s :=
  fun _ hu => (onUnit_next.1 hu).2 ▸ State.steady_of_anchor h

theorem exec_steady (c : Instr) (s : State) : keepsSteady (exec c s) s := by
  cases c with
  | quDescEnqueue | bench | benchLat | dequant | expand | mma | mmaReduce | attnTile | add | mul | fma | addi | muli | max | min | cmpge | selge |
    convert | copy | rsum | rmax | dropout | exp2 | log2 | rcp | rsqrt | pwl | geluErf | geluTanh | erf | microProgram | norm | rope | pcRange |
    slotLaunch | patrolScrub | sluiceLaunch | claimToken | lateProbe | abortSettle | slowNotice | frameReceive | replayTimeout | ackTimer |
    ctrlFrameTimer | capabilityRecord | laneLockLoss | fecUncorrectable | linkSilence | trainingTimeout | portEnable | portDisable | portDrainDone |
    ethFrameReceive | ethCoalesce | tunnelIdle | tunnelRto | cuTunSel | streamIn | streamOut | streamChainRecv | streamChainSend |
    untaggedTransferComplete | haulResume | descEnqueue | peerAbort | slotFaultMessage | dikeTimeout | insert | remove | allowLoad |
    quarryResultDeliver | sqTail | cqHead | trHead | snoopedDoorbell | queueEnable | queueDisable | queueDrained | irqAggregationTimer | msixUnmask |
    entryArrival | dieStepReport | polderEnable | polderDisable | polderDrained | imageSlotCheck | powerRemove | pmbusPoll | pmbAlertN | thermtrip |
    railFault | watchdog | voutCommandStep | sfCoreFlag =>
    exact steady_onUnit (by simp)
  | heatEpoch | moveDataDone | spillReadComplete | spillReadLate | resupplyTimeout | tiMapSelHi | kvCtxSel | sluiceHop | slOpSel | tagGrant |
    transferComplete | pinExpire | moveReserve | moveCommit | functionLevelReset | pePerstN | linkDown | d3hot | hostLinkUp | configurationRequest |
    hiQpHandshake | eventRingEnable | admissionCut | stepSyncPulse | syncHoldDeadline | stepBoundary | stepMarkFall | logEntryWrite | elRd | elTest |
    elAlert | elAlertEn | platformEventAck | warmStartRequest | warmRestart | resetNRise | resetNLow | startPhaseDone | imageApply | pwrgoodRise |
    pwrgoodFall | throttleRun | powerEstimate | fastThrotN | voltageRaiseTimeout | sysRefclkLoss | tck | trstN | entdaa | setdasa | setEndpointId |
    getEndpointId | getEndpointUuid | getMctpVersionSupport | getMessageTypeSupport | gettid | settid | getpldmversion | getpldmtypes |
    getpldmcommands | getpdrrepositoryinfo | effecterWarmStart | effecterAlertClear | seteventreceiver | pollforplatformeventmessage | requestupdate |
    firmwareDataTransfer | verifycomplete | activatefirmware | barAccess | loReadCapture | sfSticky | bar2Read | bar2Write | peerWindow =>
    exact steady_next (by simp)
  | patrolRead =>
    refine steady_onUnit ?_
    split <;> simp
  | backgroundZero | pageSelection | emitReply | startTimeout | probeTimeout | search | pageWalk | partialFold | hopTimeout |
    unitStepComplete | peerTimeout | chainFlit | chainTimeout | merge =>
    refine steady_onUnit ?_
    (repeat' split) <;> simp
  | signalDeliver | slowNoticeHoldEnd | chainArm | entryFetch | postponedBoundary | errorReport | peRefclkLoss | peerWindowTimeout =>
    refine steady_next ?_
    split <;> simp
  | sketchScore | sketchUpd | quarryCopy | move =>
    refine steady_onUnit (State.anchor_quRun _ _ _ _ _ fun t l ue err => ?_)
    (repeat' split) <;> simp
  | zero =>
    refine steady_onUnit (State.anchor_quRun _ _ _ _ _ fun t l ue err => ?_)
    split
    · rfl
    split
    · dsimp only
      split
      · rfl
      · exact State.anchor_writeFrame ..
    · split
      · rfl
      · exact (State.anchor_heat ..).trans (State.anchor_devWrite ..)
  | wait | signal | dike =>
    exact steady_onUnit (State.anchor_issue _ _ _ _ _ _ fun t w => by simp)
  | halt =>
    exact steady_onUnit (State.anchor_issue _ _ _ _ _ _ fun t w => by simp)
  | emit =>
    refine steady_onUnit (State.anchor_issue _ _ _ _ _ _ fun t w => ?_)
    dsimp only
    split <;> simp
  | searchCentroid | searchList | searchSide | searchGather | searchScore | searchMerge =>
    exact steady_onUnit (State.anchor_skUnit _ _ _ _ _ fun t b ix d => by simp)
  | create | append | generate | finetune =>
    exact steady_onUnit (State.anchor_ranRequest _ _ _ _ _ fun t r x => by simp)
  | spillRegister | load | supply | abort | nop | fork =>
    exact steady_onUnit (State.anchor_onRequest _ _ _ _ _ fun t r => by simp)
  | truncate | delete | rankTable =>
    exact steady_onUnit ((State.anchor_onRequest _ _ _ _ _ fun t r => by simp).trans (State.anchor_atOnce ..))
  | getpdr =>
    refine steady_next (State.anchor_managed _ _ fun t => ?_)
    dsimp only
    split <;> simp
  | getsensorreading | getstatesensorreadings =>
    refine steady_next (State.anchor_managed _ _ fun t => ?_)
    split <;> simp
  | start =>
    refine steady_onUnit ?_
    dsimp only
    (repeat' split) <;> simp
  | sluiceGrant =>
    refine steady_onUnit ?_
    dsimp only
    (repeat' split) <;> simp
  | probeAnswer =>
    refine steady_onUnit ?_
    dsimp only
    (repeat' split) <;> simp
  | abortNotice =>
    refine steady_onUnit ?_
    dsimp only
    (repeat' split) <;> simp
  | pmdTrainingDone =>
    refine steady_onUnit ?_
    dsimp only
    (repeat' split) <;> simp [State.anchor_settleLanes]
  | retrainDone =>
    refine steady_onUnit ?_
    dsimp only
    (repeat' split) <;> simp [State.anchor_settleLanes]
  | haulFaultMessage =>
    refine steady_onUnit ?_
    dsimp only
    (repeat' split) <;> simp
  | peerGrant =>
    refine steady_onUnit ?_
    dsimp only
    split <;> simp
  | peerSegment =>
    refine steady_onUnit ?_
    dsimp only
    (repeat' split) <;> simp
  | raiseSvn =>
    exact keepsSteady_next (State.steady_ite (State.steady_fuseCmd ..) (State.steady_of_anchor rfl))
  | revokeKey =>
    exact keepsSteady_next (State.steady_ite (State.steady_fuseCmd ..) (State.steady_of_anchor rfl))
  | hiWriteCommit =>
    exact keepsSteady_next (State.steady_hosted _ (State.steady_ite (State.steady_regWrite ..) (State.steady_of_anchor rfl)))
  | registerWrite =>
    exact keepsSteady_next (State.steady_hosted _ (State.steady_ite (State.steady_regWrite ..) (State.steady_of_anchor (State.anchor_badAccess ..))))
/-- A step takes the front command and leaves the others, and no step clears or changes a fuse. -/
theorem step_steady {s t : State} (h : step s = .next t) : t.pending = s.pending.tail ∧ s.fusesKept t := by
  unfold step at h
  split at h
  next hidle =>
    cases h
    obtain ⟨hpending, hfuses⟩ := State.steady_of_anchor (State.anchor_tick s)
    exact ⟨by rw [hpending, hidle, List.tail_nil], hfuses⟩
  next c rest hfront =>
    rw [hfront]
    exact exec_steady c { s with pending := rest } t h

/-- Settles O56: a step runs the front command on the rest of the queue, and no command touches the commands that wait. -/
theorem queueIsFirstInFirstOut : Obligations.QueueIsFirstInFirstOut := fun _ _ h => (step_steady h).1

/-- Settles O59: only a fuse command reaches the fuses, and it only raises the fused SVN or adds a revoked slot. -/
theorem fusesArePermanent : Obligations.FusesArePermanent := fun _ _ h => (step_steady h).2

end Sys2Proof.Machine
end

section
/-! SUPPORT. The part identity (R410): what a read of GL_ID returns. -/

namespace Sys2Proof.Machine

/-- GL_ID is read as it stands: its row is read-only, without reserved bits and of one word (R438). -/
theorem regRow_GL_ID : ∃ r, regRow R.GL_ID = some r ∧ r.access = .ro ∧ r.maskAt R.GL_ID = 0xFFFFFFFF ∧ halfAt R.GL_ID = 0 :=
  ⟨⟨R.GL_ID, 1, 1, 0x0, 1, 0x0, .ro, 0x0, 0xFFFFFFFF, false, false, 0⟩, by decide +kernel⟩

namespace State

/-- GL_ID shows the part identity word of the fuses (R410). -/
theorem regRead_GL_ID (s : State) : s.regRead R.GL_ID = Map.getD 0 s.gl.otp 0 % 2 ^ 32 := by
  obtain ⟨r, hrow, haccess, hmask, -⟩ := regRow_GL_ID
  have hhw : s.hwReg R.GL_ID = some (Map.getD 0 s.gl.otp 0 % 2 ^ 32) := by simp [hwReg, hwGl, R.GL_ID]
  have hand (n : Nat) : n &&& 0xFFFFFFFF = n % 2 ^ 32 := Nat.and_two_pow_sub_one_eq_mod n 32
  simp [regRead, hrow, haccess, hmask, hhw, hand]

end State

/-- Settles O60: GL_ID reads the fused identity word, and the access answers with its bytes. -/
theorem partIdentityReadsBack : Obligations.PartIdentityReadsBack := by
  intro s hotp
  have hread : s.regRead R.GL_ID = 0xD80512B0 := by
    rw [State.regRead_GL_ID, hotp]
    rfl
  obtain ⟨-, -, -, -, hhalf⟩ := regRow_GL_ID
  refine ⟨by rw [hread]; rfl, by rw [hread]; rfl, by rw [hread]; rfl, hread, fun hheld hcapt => ?_⟩
  rw [exec_barAccess_read hheld (by decide +kernel)]
  have hword := State.readWord_plain s (off := R.GL_ID) (by simp [hhalf]) hcapt
  simp [State.readBar, hword, hread, leBytes]

end Sys2Proof.Machine
end

section
/-! SUPPORT. Management (R473–R477): what the tables give, the steps of an update, and the statement about management. -/

namespace Sys2Proof.Machine

namespace State

/-! ### What the tables of the management protocols give -/

theorem pldmCommands_eq_nil (t : Nat) : pldmCommands t = [] ↔ t ∉ [0, 2, 5] := by
  unfold pldmCommands
  split <;> simp_all

theorem pdr_isSome {n : Nat} (hpos : 1 ≤ n) (hle : n ≤ 40) : ∃ l, pdr n = some l := by
  rw [← Option.isSome_iff_exists]
  unfold pdr
  rw [if_neg (by omega)]
  split_ifs <;> rfl

theorem pdr_past_end {n : Nat} (h : 40 < n) : pdr n = none := by simp [pdr, h]

theorem numericReading_isSome (s : State) {n : Nat} (hpos : 1 ≤ n) (hle : n ≤ 17) : (s.numericReading n).isSome = true := by
  unfold numericReading
  split_ifs
  iterate 4 rfl
  all_goals omega

/-- Clearing EL_ALERT bits takes those bits of the register, and nothing else of it. -/
theorem clearAlert_clears (s : State) (v : Nat) : s.clears (s.clearAlert v) R.EL_ALERT (v % 16) := by
  have hreg : (s.setReg R.EL_ALERT (s.reg R.EL_ALERT - (s.reg R.EL_ALERT &&& v % 16))).reg R.EL_ALERT =
      s.reg R.EL_ALERT - (s.reg R.EL_ALERT &&& v % 16) := by
    rw [reg_setReg_self, Nat.mod_eq_of_lt ((Nat.sub_le ..).trans_lt (s.reg_lt _))]
  unfold clears clearAlert
  dsimp only
  split
  · exact hreg
  · exact hreg

/-! ### Firmware updates (R477) -/

/-- An update starts with a request for its first 4,096 bytes, unless a start reads flash or one stands already. -/
theorem requestUpdate_eq (s : State) (hcap : 0 < s.im.capacity / 2) :
    s.requestUpdate = if s.startReadsFlash then s.pldm 5 0x10 0x8E [] [] else if s.mg.update.isSome then s.pldm 5 0x10 0x81 [] []
      else ((s.mgUpd fun m => { m with update := some ⟨s.updateSlot, 1⟩ }).pldm 5 0x10 0 s.offered []).send (.mctp 1 0x15 [5, 0, 4096] []) := by
  unfold requestUpdate requestData
  rw [if_pos (show 0 < (((s.mgUpd fun m => { m with update := some ⟨s.updateSlot, 1⟩ }).pldm 5 0x10 0 s.offered []).im.capacity / 2) from hcap)]

/-- Flash after a transfer to the bytes from a on: the data, padded with 0xFF to the 4,096 bytes of its place. -/
def programmed (s : State) (a : Nat) (d : List Byte) : Memory :=
  Memory.write 0xFF s.im.flash a (d ++ List.replicate (4096 - d.length) 0xFF)

theorem read_programmed (s : State) (a : Nat) (d : List Byte) {k : Nat} (hlen : d.length ≤ 4096) (hk : k < 4096) :
    Memory.read 0xFF (s.programmed a d) (a + k) = d.getD k 0xFF := by
  rw [programmed, Memory.read_write_inside _ _ _ _ (by simp; omega), List.getElem_append]
  split
  next h => simp [h]
  next h => simp [List.getElem?_eq_none (Nat.le_of_not_lt h)]

theorem read_programmed_outside (s : State) (a : Nat) (d : List Byte) {b : Nat} (hlen : d.length ≤ 4096) (hb : ¬ (a ≤ b ∧ b < a + 4096)) :
    Memory.read 0xFF (s.programmed a d) b = Memory.read 0xFF s.im.flash b := by
  refine Memory.read_write_outside _ _ _ _ ?_
  simp only [List.length_append, List.length_replicate]
  omega

theorem requestData_frame (s : State) (off : Nat) : s.requestData off = { s with out := (s.requestData off).out } := by
  unfold requestData
  split
  · rfl
  · rfl

/-- A transfer programs the 4,096 bytes of its place, and asks for the next. -/
theorem transferData_eq (s : State) {off slot : Nat} (d : List Byte) (hup : s.mg.update = some ⟨slot, 1⟩) (halign : off % 4096 = 0)
    (hin : off < s.im.capacity / 2) (hlen : d.length ≤ 4096) :
    s.transferData off d =
      ({ s with im := { s.im with flash := s.programmed (slot * (s.im.capacity / 2) + off) d } } : State).requestData (off + 4096) := by
  have hno : ¬ (1 ≠ 1 ∨ off % 4096 ≠ 0 ∨ s.im.capacity / 2 ≤ off) := by omega
  rw [transferData, hup]
  simp only [if_neg hno, List.take_of_length_le hlen, slotAt, programmed]

theorem transferData_effect (s : State) {off slot : Nat} (d : List Byte) (hup : s.mg.update = some ⟨slot, 1⟩) (halign : off % 4096 = 0)
    (hin : off < s.im.capacity / 2) (hlen : d.length ≤ 4096) : let t := s.transferData off d
    (∀ k, k < 4096 → Memory.read 0xFF t.im.flash (slot * (s.im.capacity / 2) + off + k) = d.getD k 0xFF) ∧
    (∀ a, ¬ (slot * (s.im.capacity / 2) + off ≤ a ∧ a < slot * (s.im.capacity / 2) + off + 4096) →
      Memory.read 0xFF t.im.flash a = Memory.read 0xFF s.im.flash a) ∧
    t = { s with out := t.out, im := { s.im with flash := t.im.flash } } := by
  rw [s.transferData_eq d hup halign hin hlen, requestData_frame]
  exact ⟨fun k hk => s.read_programmed _ d hlen hk, fun a ha => s.read_programmed_outside _ d hlen ha, rfl⟩

theorem verifyUpdate_of_transferring (s : State) {slot : Nat} (hup : s.mg.update = some ⟨slot, 1⟩) :
    s.verifyUpdate = if s.verifies slot then (s.mgUpd fun m => { m with update := some ⟨slot, 2⟩ }).send (.mctp 1 0x17 [5, 0] [])
      else s.send (.mctp 1 0x17 [5, 1] []) := by
  simp [verifyUpdate, hup]

theorem activate_verified (s : State) {slot : Nat} (hup : s.mg.update = some ⟨slot, 2⟩) :
    s.activate false = ((s.orReg R.IM_BOOT_SEL 2).mgUpd fun m => { m with update := none }).pldm 5 0x1A 0 [] [] := by
  simp [activate, hup]

end State

/-- Settles O44: most answers are the commands' own; the rest are the tables, the alert clear and the update's steps above. -/
theorem managementAnswers : Obligations.ManagementAnswers := by
  intro s ok pl mg half go
  have hgo {x : Instr} {f : State → State} {t : State} (hx : exec x s = .next (s.managed f)) (ht : f s = t) : go x t := by
    rw [← ht]
    exact hx
  refine ⟨fun a => ⟨hgo rfl rfl, hgo rfl rfl⟩, fun e => hgo rfl rfl, hgo rfl rfl, ⟨_, State.length_leBytes 16 _, hgo rfl rfl⟩, fun t => ⟨_, hgo rfl rfl⟩, hgo rfl rfl,
    hgo rfl rfl, fun t => ⟨hgo rfl rfl, ?_, ?_⟩, hgo rfl rfl, hgo rfl rfl, fun n => ?_, fun n v hv => hgo rfl ?_,
    fun n => s.numericReading_isSome, fun n v hv => hgo rfl ?_, hgo rfl rfl, ⟨_, s.clearAlert_clears 0xF, hgo rfl rfl⟩, fun e => hgo rfl rfl, hgo rfl rfl,
    fun hcap => hgo rfl (s.requestUpdate_eq hcap), fun off d slot hup halign hin hlen => ⟨_, hgo rfl rfl, s.transferData_effect d hup halign hin hlen⟩,
    fun slot hup => hgo rfl (s.verifyUpdate_of_transferring hup),
    fun slot hup => ⟨_, hgo rfl (s.activate_verified hup), s.reg_orReg_self (by decide), rfl⟩⟩
  · refine ⟨leBytes 4 (Config.unstated 32 [t.toNat]), hgo rfl ?_⟩
    simp only [State.pldmCommands_eq_nil, ite_not]
    rfl
  · refine hgo rfl ?_
    simp only [State.pldmCommands_eq_nil, ite_not]
    rfl
  · rcases Nat.lt_or_ge 40 n with hpast | hle
    · refine ⟨[], hgo rfl ?_⟩
      simp only [State.pdr_past_end (show 40 < max 1 n by omega), if_neg (show ¬ n ≤ 40 by omega)]
      rfl
    · obtain ⟨l, hl⟩ := State.pdr_isSome (n := max 1 n) (by omega) (by omega)
      refine ⟨l, hgo rfl ?_⟩
      simp only [hl, if_pos hle]
      rfl
  · simp only [hv]
    rfl
  · simp only [hv]
    rfl

end Sys2Proof.Machine
end

section
/-! SUPPORT. The error log (R461–R467): the intake, the writer and the registers of the log, and the statement about reports. -/

namespace Sys2Proof.Machine

theorem b2n_le_one (b : Bool) : b2n b ≤ 1 := by cases b <;> decide

namespace State

variable (s : State)

/-! ### Reports that arrive (R463, R465, R468) -/

/-- No unit of the model has raised this report. -/
theorem find?_raised {r : Report} (h : ∀ x ∈ s.el.raised, ({ x with addr := none } : Report) ≠ r) :
    (s.el.raised.find? fun x => { x with addr := none } == r) = none :=
  List.find?_eq_none.2 fun x hx heq => h x hx (eq_of_beq heq)

theorem ringRefused_other {r : Report} (h : r.code ≠ 0x2084) (t : State) : t.ringRefused r = t := by
  rw [ringRefused, if_pos (Or.inl h)]

theorem takeReport_bad {r : Report} (h : 5 < r.cls) : s.takeReport r = s := by rw [takeReport, if_pos h]

theorem takeReport_running {r : Report} (h : r.cls < 5) :
    s.takeReport r = ((s.count (R.EL_CLASS_CNT + 8 * r.cls) 1).intake r).retireTest r := by
  rw [takeReport, if_neg (by omega)]
  exact if_neg h.ne

theorem takeReport_fatal {r : Report} (h : r.cls = 5) :
    s.takeReport r = (((s.count (R.EL_CLASS_CNT + 8 * r.cls) 1).intake r).retireTest r).fatal := by
  rw [takeReport, if_neg (by omega)]
  exact if_pos h

/-! ### The intake (R463–R465) -/

theorem intake_reserved {r : Report} (h : r.cls = 3 ∨ r.cls = 5) : s.intake r = { s with el := if s.el.high.length < 16
    then { s.el with high := s.el.high ++ [⟨r, 1, s.now, s.now⟩] } else { s.el with held := s.el.held ++ [r] } } := by
  have hhigh : Nat.ble 3 r.cls = true := by rw [Nat.ble_eq]; omega
  rw [intake, if_pos h]
  simp only [hhigh, if_true]
  split
  · rfl
  · rfl

theorem intake_low {r : Report} (h : r.cls < 3) (hkey : ((s.el.high ++ s.el.low).any fun q => q.rep.sameKey r) = false) (hjoin : s.joinable r = none) :
    s.intake r = if s.el.low.length < 256 then { s with el := { s.el with low := s.el.low ++ [⟨r, 1, s.now, s.now⟩] } } else s.overflow := by
  have hhigh : Nat.ble 3 r.cls = false := by rw [Bool.eq_false_iff, ne_eq, Nat.ble_eq]; omega
  rw [intake, if_neg (by omega)]
  simp only [hkey, hjoin, hhigh, Bool.false_eq_true, if_false]
  rfl

@[simp] theorem length_joinQueue (now : Nat) (r : Report) (l : List Queued) : (joinQueue now r l).length = l.length := by
  induction l with
  | nil => rfl
  | cons q l ih =>
    unfold joinQueue
    split
    · rfl
    · simp [ih]

theorem intake_coalesces {r : Report} (hcorr : r.cls ≠ 3) (hfatal : r.cls ≠ 5) (hkey : ((s.el.high ++ s.el.low).any fun q => q.rep.sameKey r) = true) :
    s.intake r = (s.elUpd fun e => { e with high := joinQueue s.now r e.high, low := joinQueue s.now r e.low }).count R.EL_COALESCED_LO 1 := by
  rw [intake, if_neg (by simp [hcorr, hfatal])]
  simp only [hkey, if_true]

/-! ### The writer (R466) -/

theorem writeNext_high {q : Queued} {l : List Queued} (hhigh : s.el.high = q :: l) (hheld : s.el.held = []) :
    s.writeNext = ({ s with el := { s.el with high := l } } : State).logEntry q false := by
  simp only [writeNext, hhigh, hheld, elUpd]

theorem writeNext_low {q : Queued} {l : List Queued} (hhigh : s.el.high = []) (hovf : s.el.ovf = none) (hlow : s.el.low = q :: l) :
    s.writeNext = ({ s with el := { s.el with low := l } } : State).logEntry q false := by
  simp only [writeNext, hhigh, hovf, hlow, elUpd, Option.map_none]

theorem writeNext_idle (hhigh : s.el.high = []) (hlow : s.el.low = []) (hovf : s.el.ovf = none) : s.writeNext = s := by
  simp only [writeNext, hhigh, hlow, hovf]

/-- The words of a log entry (R462). -/
def entryWords (q : Queued) (ovf : Bool) : List Nat :=
  [q.rep.code + q.rep.source * 65536, 1 + 2 * b2n q.rep.phys + 4 * b2n ovf, min q.count (2 ^ 32 - 1), q.first % 2 ^ 32,
    q.first / 2 ^ 32 % 65536 + q.last % 65536 * 65536, q.last / 65536 % 2 ^ 32, q.rep.data % 2 ^ 32, q.rep.data / 2 ^ 32]

theorem putEntry_eq (i : Nat) (q : Queued) (ovf : Bool) : s.putEntry i q ovf = s.setWords (entryReg i 0) 8 fun w => (entryWords q ovf).getD w 0 := rfl

/-- The word that EL_WR takes when an entry is written at i (R466). -/
def nextWr (i wraps : Nat) : Nat := (i + 1) % 1024 + (if i = 1023 then min (wraps + 1) 65535 else wraps) * 65536

/-- The index of EL_WR moves on by one. -/
theorem bitsOf_nextWr {i : Nat} (wraps : Nat) (hi : i < 1023) : bitsOf (nextWr i wraps % 2 ^ 32) 9 0 = i + 1 := by
  unfold nextWr bitsOf
  rw [if_neg hi.ne]
  omega

theorem entryReg_apart (i w : Nat) {o : Nat} (ho : o < R.EL_ENTRY) : o ≠ entryReg i w := by
  unfold entryReg
  omega

theorem reg_putEntry_other (i : Nat) (q : Queued) (ovf : Bool) {o : Nat} (ho : o < R.EL_ENTRY) : (s.putEntry i q ovf).reg o = s.reg o := by
  rw [putEntry_eq]
  refine s.reg_setWords_other _ ?_
  unfold entryReg
  omega

theorem reg_putEntry (i : Nat) (q : Queued) (ovf : Bool) {w : Nat} (hw : w < 8) :
    (s.putEntry i q ovf).reg (entryReg i w) = (entryWords q ovf).getD w 0 % 2 ^ 32 :=
  s.reg_setWords (base := entryReg i 0) _ hw

/-- The state once an entry is written at EL_WR, with room for one more unread entry; what the entry raises is left out. -/
def recorded (q : Queued) (ovf : Bool) : State :=
  (((s.putEntry (bitsOf (s.reg R.EL_WR) 9 0) q ovf).setReg R.EL_WR (nextWr (bitsOf (s.reg R.EL_WR) 9 0) (bitsOf (s.reg R.EL_WR) 31 16))).elUpd
    fun e => { e with unread := e.unread + 1 }).count R.EL_RECORDED_LO 1

theorem recorded_frame (q : Queued) (ovf : Bool) :
    s.recorded q ovf = { s with regs := (s.recorded q ovf).regs, el := { s.el with unread := s.el.unread + 1 } } := by
  obtain ⟨g, hwords⟩ := regsOnly_iff.1 (s.regsOnly_setWords (entryReg (bitsOf (s.reg R.EL_WR) 9 0) 0) 8 fun w => (entryWords q ovf).getD w 0)
  unfold recorded
  obtain ⟨g', hcount⟩ := regsOnly_iff.1 (regsOnly_count _ R.EL_RECORDED_LO 1)
  rw [hcount, putEntry_eq, hwords]
  rfl

theorem reg_elUpd (f : ElState → ElState) (o : Nat) : (s.elUpd f).reg o = s.reg o := rfl

/-- Recording touches the entry's words, EL_WR and the count. -/
theorem reg_recorded (q : Queued) (ovf : Bool) {o : Nat} (hlo : o ≠ R.EL_RECORDED_LO) (hhi : o ≠ R.EL_RECORDED_LO + 4) (hwr : o ≠ R.EL_WR) :
    (s.recorded q ovf).reg o = (s.putEntry (bitsOf (s.reg R.EL_WR) 9 0) q ovf).reg o := by
  rw [recorded, reg_count_other _ _ hlo hhi, reg_elUpd, reg_setReg_other _ _ hwr]

theorem reg_recorded_ctrl (q : Queued) (ovf : Bool) : (s.recorded q ovf).reg R.EL_CTRL = s.reg R.EL_CTRL := by
  rw [reg_recorded _ _ _ (by decide) (by decide) (by decide), reg_putEntry_other _ _ _ _ (by decide)]

theorem reg_recorded_word (q : Queued) (ovf : Bool) {w : Nat} (hw : w < 8) :
    (s.recorded q ovf).reg (entryReg (bitsOf (s.reg R.EL_WR) 9 0) w) = (entryWords q ovf).getD w 0 % 2 ^ 32 := by
  have hapart {o : Nat} (ho : o < R.EL_ENTRY) := (entryReg_apart (bitsOf (s.reg R.EL_WR) 9 0) w ho).symm
  rw [reg_recorded _ _ _ (hapart (by decide)) (hapart (by decide)) (hapart (by decide)), reg_putEntry _ _ _ _ hw]

theorem reg_recorded_wr (q : Queued) (ovf : Bool) :
    (s.recorded q ovf).reg R.EL_WR = nextWr (bitsOf (s.reg R.EL_WR) 9 0) (bitsOf (s.reg R.EL_WR) 31 16) % 2 ^ 32 := by
  rw [recorded, reg_count_other _ _ (by decide) (by decide), reg_elUpd, reg_setReg_self]

/-- A report below the thresholds of EL_CTRL is recorded and raises nothing. -/
theorem logEntry_quiet (q : Queued) (ovf : Bool) (hunread : s.el.unread < 1024) (hcls : q.rep.cls < 2) (halert : q.rep.cls < bitsOf (s.reg R.EL_CTRL) 2 0)
    (hpldm : q.rep.cls < bitsOf (s.reg R.EL_CTRL) 6 4) : s.logEntry q ovf = s.recorded q ovf := by
  have hel : (s.putEntry (bitsOf (s.reg R.EL_WR) 9 0) q ovf).el = s.el := by
    obtain ⟨g, hwords⟩ := regsOnly_iff.1 (s.regsOnly_setWords (entryReg (bitsOf (s.reg R.EL_WR) 9 0) 0) 8 fun w => (entryWords q ovf).getD w 0)
    rw [putEntry_eq, hwords]
  have hctrl := s.reg_recorded_ctrl q ovf
  have hwr := s.reg_putEntry_other (bitsOf (s.reg R.EL_WR) 9 0) q ovf (show R.EL_WR < R.EL_ENTRY by decide)
  unfold recorded nextWr at hctrl ⊢
  simp only [logEntry, setReg_el, hel, hwr, if_neg hunread.ne, hctrl, if_neg (Nat.not_le.2 halert), if_neg (Nat.not_le.2 hcls),
    if_neg (Nat.not_le.2 hpldm)]

/-! ### The registers of the log (R466, R467) -/

theorem clearAlert_frame (v : Nat) :
    s.clearAlert v = { s with regs := (s.clearAlert v).regs, el := { s.el with ovfArmed := (s.clearAlert v).el.ovfArmed } } := by
  unfold clearAlert
  dsimp only
  split
  · rfl
  · rfl

theorem clearAlert_keeps (v : Nat) : s.keeps (s.clearAlert v) [R.EL_ALERT] := by
  intro o ho
  have hreg (w : Nat) := s.reg_setReg_other w (List.ne_of_not_mem_cons ho)
  unfold clearAlert
  dsimp only
  split
  · exact hreg _
  · exact hreg _

theorem writeAlertEn_eq (v : Nat) : s.writeAlertEn v = if s.alertLow = false ∧ (s.setReg R.EL_ALERT_EN (v % 32)).alertLow = true
    then (s.setReg R.EL_ALERT_EN (v % 32)).count R.EL_ALERTS_LO 1 else s.setReg R.EL_ALERT_EN (v % 32) := by
  simp [writeAlertEn, alertEdge]

end State

/-- Settles O42: arrival, the intake's cases, the writer's order, the recorded words, and the registers of the log. -/
theorem reportsReachTheLog : Obligations.ReportsReachTheLog := by
  intro s
  refine ⟨fun code source phys data hraised => ?_, fun r => s.intake_reserved, fun r => s.intake_low, fun r hcorr hfatal hkey => ?_,
    fun q t hhigh hheld => congrArg _ (s.writeNext_high hhigh hheld), fun q t hhigh hovf hlow => congrArg _ (s.writeNext_low hhigh hovf hlow),
    fun hhigh hlow hovf => congrArg _ (s.writeNext_idle hhigh hlow hovf), fun q b hi hunread hcls halert hpldm hcode hsource => ?_, fun v => rfl, fun v => rfl,
    fun v => ⟨_, rfl, s.clearAlert_clears v.toNat, s.clearAlert_keeps v.toNat, s.clearAlert_frame v.toNat⟩,
    fun v => congrArg _ (s.writeAlertEn_eq v.toNat), rfl⟩
  · have hexec : exec (.errorReport code source phys data) s = .next ((s.takeReport ⟨code.toNat, source.toNat, phys, data.toNat, none⟩).ringRefused
        ⟨code.toNat, source.toNat, phys, data.toNat, none⟩) := by
      simp only [exec, execErrorReport, s.find?_raised hraised]
    refine ⟨hexec, fun hcode => State.ringRefused_other (fun h => hcode (BitVec.eq_of_toNat_eq h)) _, s.takeReport_bad, s.takeReport_running, s.takeReport_fatal⟩
  · rw [s.intake_coalesces hcorr hfatal hkey]
    refine ⟨State.reg64_count_self .., ?_⟩
    obtain ⟨g, hcount⟩ := State.regsOnly_iff.1
      ((s.elUpd fun e => { e with high := State.joinQueue s.now r e.high, low := State.joinQueue s.now r e.low }).regsOnly_count R.EL_COALESCED_LO 1)
    rw [hcount]
    exact ⟨State.length_joinQueue .., State.length_joinQueue .., rfl⟩
  · rw [s.logEntry_quiet q b hunread hcls halert hpldm]
    have hword {w : Nat} (hw : w < 8) := s.reg_recorded_word q b hw
    have hphys : b2n q.rep.phys ≤ 1 := b2n_le_one q.rep.phys
    have hb : b2n b ≤ 1 := b2n_le_one b
    refine ⟨(hword (w := 0) (by decide)).trans ?_, (hword (w := 1) (by decide)).trans ?_, (hword (w := 2) (by decide)).trans ?_,
      (hword (w := 6) (by decide)).trans ?_, ?_, s.recorded_frame q b⟩
    · exact Nat.mod_eq_of_lt (show q.rep.code + q.rep.source * 65536 < 2 ^ 32 by omega)
    · exact Nat.mod_eq_of_lt (show 1 + 2 * b2n q.rep.phys + 4 * b2n b < 2 ^ 32 by omega)
    · exact Nat.mod_eq_of_lt (show min q.count (2 ^ 32 - 1) < 2 ^ 32 by omega)
    · exact Nat.mod_mod ..
    · rw [s.reg_recorded_wr]
      exact State.bitsOf_nextWr _ hi
end Sys2Proof.Machine
end

section
/-! SUPPORT. Power (R485–R494, R509): the divider, the controller's run, PMBus, trips, voltage steps and the TAP, and the statement about them. -/

namespace Sys2Proof.Machine

namespace State

variable (s : State)

/-! ### Errors that count, and reports of several causes -/

/-- An error bit and its counter. -/
theorem sets_orReg_count {o m c : Nat} (hm : m < 2 ^ 32) (h : o ≠ c) (h' : o ≠ c + 4) : s.sets ((s.orReg o m).count c 1) o m := by
  rw [sets, reg_count_other _ _ h h', reg_orReg_self _ hm]

theorem adds_orReg_count {o m c : Nat} (h : c ≠ o) (h' : c + 4 ≠ o) : s.adds ((s.orReg o m).count c 1) c 1 := by
  rw [adds, reg64_count_self, reg64, reg64, reg_orReg_other _ _ h, reg_orReg_other _ _ h']

/-- One THROTTLE report for each cause (R485). -/
theorem foldl_throttleReport (l : List Nat) : l.foldl (fun s x => s.report 0 0x04 0x01 x 0) s =
    { s with el := { s.el with raised := s.el.raised ++ l.map fun x => ⟨0x101, x, false, 0, none⟩ } } := by
  induction l generalizing s with
  | nil => simp
  | cons x l ih =>
    rw [List.foldl_cons, ih]
    simp [report, raise]

theorem sets_of_regs {s t u : State} {o m : Nat} (h : u.regs = t.regs) (ht : s.sets t o m) : s.sets u o m := by
  rw [sets, reg, h]
  exact ht

theorem adds_of_regs {s t u : State} {o n : Nat} (h : u.regs = t.regs) (ht : s.adds t o n) : s.adds u o n := by
  rw [adds, reg64, reg, reg, h]
  exact ht

/-! ### The divider (R485, R486, R488) -/

/-- The state once the divider has changed, before the voltages and the slow notice follow. -/
def divided (div : Nat) (sources : List Nat) (exc : Bool) : State :=
  let s := sources.foldl (fun s x => s.report 0 0x04 0x01 x 0) ((s.orReg R.PW_ERR 1).count R.PW_DIVCHG_LO 1)
  s.pwUpd fun p => { p with div := div, at6 := if div = 6 then some s.now else none, excursion := exc, raise := none }

theorem setDiv_same (l : List Nat) (e : Bool) : s.setDiv s.pw.div l e = s := if_pos rfl

theorem setDiv_changes {d : Nat} (h : d ≠ s.pw.div) (l : List Nat) (e : Bool) : s.setDiv d l e = ((s.divided d l e).setTargets d).slowUpdate :=
  if_neg h

theorem divided_regs (d : Nat) (l : List Nat) (e : Bool) : (s.divided d l e).regs = ((s.orReg R.PW_ERR 1).count R.PW_DIVCHG_LO 1).regs := by
  rw [divided, foldl_throttleReport, pwUpd_regs]

theorem divided_raised (d : Nat) (l : List Nat) (e : Bool) :
    (s.divided d l e).el.raised = s.el.raised ++ l.map fun x => ⟨0x101, x, false, 0, none⟩ := by
  obtain ⟨g, hcount⟩ := regsOnly_iff.1 ((s.orReg R.PW_ERR 1).regsOnly_count R.PW_DIVCHG_LO 1)
  rw [divided, foldl_throttleReport, hcount]
  rfl

theorem divided_effect (d : Nat) (l : List Nat) (e : Bool) : let u := s.divided d l e
    u.pw.div = d ∧ u.pw.raise = none ∧ u.pw.excursion = e ∧ s.sets u R.PW_ERR 1 ∧ s.adds u R.PW_DIVCHG_LO 1 ∧
    u.el.raised = s.el.raised ++ l.map fun x => ⟨0x101, x, false, 0, none⟩ :=
  ⟨rfl, rfl, rfl, sets_of_regs (s.divided_regs d l e) (s.sets_orReg_count (by decide) (by decide) (by decide)),
    adds_of_regs (s.divided_regs d l e) (s.adds_orReg_count (by decide) (by decide)), s.divided_raised d l e⟩

theorem dropRaise_none (h : s.pw.raise = none) : s.dropRaise = s := by simp [dropRaise, h]

theorem dropRaise_some {r : Raise} (h : s.pw.raise = some r) :
    s.dropRaise = (((s.pwUpd fun p => { p with raise := none }).setTargets s.pw.div).orReg R.PW_ERR 0x20).count R.PW_PMB_ERR_LO 1 := by
  simp [dropRaise, h]

theorem dropRaise_effect (h : s.pw.raise ≠ none) : let t := s.dropRaise
    t.pw.raise = none ∧ t.pw.div = s.pw.div ∧ s.sets t R.PW_ERR 0x20 ∧ s.adds t R.PW_PMB_ERR_LO 1 := by
  obtain ⟨r, hr⟩ := Option.ne_none_iff_exists'.1 h
  let u := (s.pwUpd fun p => { p with raise := none }).setTargets s.pw.div
  have hdrop : s.dropRaise = (u.orReg R.PW_ERR 0x20).count R.PW_PMB_ERR_LO 1 := s.dropRaise_some hr
  have hpw : ((u.orReg R.PW_ERR 0x20).count R.PW_PMB_ERR_LO 1).pw = u.pw := by rw [count_regs_only]; rfl
  rw [hdrop]
  exact ⟨by rw [hpw]; rfl, by rw [hpw]; rfl, u.sets_orReg_count (m := 0x20) (by decide) (by decide) (by decide),
    u.adds_orReg_count (o := R.PW_ERR) (m := 0x20) (by decide) (by decide)⟩

/-! ### The controller's run (R485) -/

theorem sensorWord_lt (n : Nat) (t : BitVec 12) : s.sensorWord n t < 2 ^ 32 := by
  unfold sensorWord
  omega

/-- The readings of a run, in PW_TEMP. -/
def sensed (temps : List (BitVec 12)) : State := (List.range 72).foldl (fun s n => s.setReg (R.PW_TEMP + 4 * n) (s.sensorWord n (temps.getD n 0))) s

theorem sensed_eq (temps : List (BitVec 12)) : s.sensed temps = s.setWords R.PW_TEMP 72 fun n => s.sensorWord n (temps.getD n 0) := by
  have hrun (l : List Nat) (t : State) (h : s.regsOnly t) : l.foldl (fun s n => s.setReg (R.PW_TEMP + 4 * n) (s.sensorWord n (temps.getD n 0))) t =
      l.foldl (fun t n => t.setReg (R.PW_TEMP + 4 * n) (s.sensorWord n (temps.getD n 0))) t := by
    induction l generalizing t with
    | nil => rfl
    | cons n l ih =>
      have hword : t.sensorWord n (temps.getD n 0) = s.sensorWord n (temps.getD n 0) := by
        obtain ⟨g, rfl⟩ := regsOnly_iff.1 h
        rfl
      rw [List.foldl_cons, List.foldl_cons, hword]
      exact ih _ (regsOnly_trans h (t.regsOnly_setReg ..))
  exact hrun _ s rfl

theorem reg_sensed (temps : List (BitVec 12)) {n : Nat} (hn : n < 72) : (s.sensed temps).reg (R.PW_TEMP + 4 * n) = s.sensorWord n (temps.getD n 0) := by
  rw [sensed_eq, reg_setWords _ _ hn, Nat.mod_eq_of_lt (s.sensorWord_lt ..)]

theorem reg_sensed_other (temps : List (BitVec 12)) {o : Nat} (ho : ¬ (R.PW_TEMP ≤ o ∧ o < R.PW_TEMP + 288)) : (s.sensed temps).reg o = s.reg o := by
  rw [sensed_eq, reg_setWords_other _ _ ho]

theorem regsOnly_sensed (temps : List (BitVec 12)) : s.regsOnly (s.sensed temps) := by
  rw [sensed_eq]
  exact s.regsOnly_setWords ..

/-- A run leaves the slow notice to its end; power over the limit at the slowest clock changes no clock. -/
theorem throttle_effect (temps : List (BitVec 12)) : let u := s.sensed temps
    ∃ v : State, s.throttle temps = v.slowUpdate ∧ (u.pw.pin = false → u.pw.raise = none → u.isHot = false → u.overLimit = true → u.pw.div = 6 →
      v = u.pwUpd fun p => { p with hot := false, above := true, calm := 0, held := false }) := by
  unfold throttle
  extract_lets u a hot above causes cool b c d long v
  refine ⟨v, rfl, fun hpin hraise hcold hover hdiv => ?_⟩
  have hhot : hot = false := hcold
  have habove : above = true := hover
  have hb : b = { u with pw := { u.pw with hot := false, above := true } } := by
    simp only [b, hhot, habove]
    rfl
  have hslower : b.slower (min (b.pw.div + 1) 6) causes false = b := by
    have hdiv' : b.pw.div = 6 := by rw [hb]; exact hdiv
    have hslowest : min (b.pw.div + 1) 6 = b.pw.div := by rw [hdiv']; rfl
    rw [slower, dropRaise_none b (by rw [hb]; exact hraise), hslowest, setDiv_same]
  have hd : d = { u with pw := { u.pw with hot := false, above := true, calm := 0 } } := by
    have hpin' : b.pw.pin = false := by rw [hb]; exact hpin
    simp only [d, hpin', hhot, habove, Bool.false_eq_true, if_false, Bool.false_or, if_true, hslower]
    simp only [hb, pwUpd]
  simp only [v, hhot, Bool.not_false, if_true, hd, pwUpd]

/-! ### Power estimates (R485) -/

/-- PW_POWER and PW_POWER_MAX take an estimate. -/
def powered (w : Nat) : State :=
  let s := s.pwUpd fun p => { p with watts := (w :: p.watts).take 10000 }
  let m := s.reg R.PW_POWER_MAX
  (s.setReg R.PW_POWER (min s.p10 4095 + 65536 * min w 4095)).setReg R.PW_POWER_MAX
    (max (bitsOf m 11 0) (min s.p10 4095) + 65536 * max (bitsOf m 27 16) (min w 4095))

theorem estimate_eq (w : Nat) : s.estimate w = if w ≤ 2100 then s.powered w
    else ((((s.powered w).orReg R.PW_ERR 4).count R.PW_EXCURSION_LO 1).report 2 0x04 0x03 0xFFFF 0).slower 6 [0xFFFF] true := by
  simp only [estimate, powered]

theorem regsOnly_powered (w : Nat) : (s.pwUpd fun p => { p with watts := (w :: p.watts).take 10000 }).regsOnly (s.powered w) :=
  regsOnly_trans (regsOnly_setReg ..) (regsOnly_setReg ..)

theorem powered_frame (w : Nat) : s.powered w = { s with regs := (s.powered w).regs, pw := { s.pw with watts := (w :: s.pw.watts).take 10000 } } := by
  obtain ⟨g, hg⟩ := regsOnly_iff.1 (s.regsOnly_powered w)
  rw [hg]
  rfl

theorem reg_powered_other (w : Nat) {o : Nat} (h : o ≠ R.PW_POWER) (h' : o ≠ R.PW_POWER_MAX) : (s.powered w).reg o = s.reg o := by
  rw [powered, reg_setReg_other _ _ h', reg_setReg_other _ _ h]
  rfl

theorem reg_powered {w : Nat} (hw : w ≤ 2100) : let l := (w :: s.pw.watts).take 10000
    (s.powered w).reg R.PW_POWER = min (l.sum / max 1 l.length) 4095 + 65536 * w := by
  intro l
  rw [powered, reg_setReg_other _ _ (by decide), reg_setReg_self, min_eq_left (show w ≤ 4095 by omega)]
  change (min (l.sum / max 1 l.length) 4095 + 65536 * w) % 2 ^ 32 = _
  have hmin := Nat.min_le_right (l.sum / max 1 l.length) 4095
  exact Nat.mod_eq_of_lt (by omega)

theorem excursion_effect (w : Nat) : let u := (((s.powered w).orReg R.PW_ERR 4).count R.PW_EXCURSION_LO 1).report 2 0x04 0x03 0xFFFF 0
    s.sets u R.PW_ERR 4 ∧ s.adds u R.PW_EXCURSION_LO 1 ∧ s.logs u 0x2103 0xFFFF 0 ∧
    u = { s with regs := u.regs, el := { s.el with raised := u.el.raised }, pw := { s.pw with watts := (w :: s.pw.watts).take 10000 } } := by
  have hsets := (s.powered w).sets_orReg_count (o := R.PW_ERR) (m := 4) (c := R.PW_EXCURSION_LO) (by decide) (by decide) (by decide)
  have hadds := (s.powered w).adds_orReg_count (o := R.PW_ERR) (m := 4) (c := R.PW_EXCURSION_LO) (by decide) (by decide)
  have hreg {o : Nat} := s.reg_powered_other w (o := o)
  rw [sets, hreg (by decide) (by decide)] at hsets
  rw [adds, reg64, reg64, hreg (by decide) (by decide), hreg (by decide) (by decide)] at hadds
  obtain ⟨g, hcount⟩ := regsOnly_iff.1 (regsOnly_trans ((s.powered w).regsOnly_orReg R.PW_ERR 4) (regsOnly_count _ R.PW_EXCURSION_LO 1))
  rw [hcount, s.powered_frame w] at hsets hadds ⊢
  exact ⟨hsets, hadds, rfl, rfl⟩

/-! ### PMBus (R493) -/

theorem voltageRaiseTimeout_some {r : Raise} (h : s.pw.raise = some r) :
    (if s.pw.raise.any fun r => Nat.ble r.stop s.now then s.dropRaise else s) = if r.stop ≤ s.now then s.dropRaise else s := by
  simp [h]

/-- The readings of rail r, and the commands that asked for them. -/
def polled (r mv a : Nat) : State :=
  (({ s with out := s.out ++ [.pmbus r 0x8B 0, .pmbus r 0x8C 0, .pmbus r 0x96 0, .pmbus r 0x79 0] } : State).setReg
    (R.PW_RAIL_V + 4 * r) (mv % 4096)).setReg (R.PW_RAIL_I + 4 * r) (a % 2 ^ 20)

/-- A poll that a regulator answers without a fault: its readings, then the raise that they may confirm. -/
theorem pollRail_good {r : Nat} (mv a st : Nat) (hmoded : s.pw.moded.contains r = true) (hgood : statusFault st = false) :
    s.pollRail r true mv a st = (s.polled r mv a).confirmRaise := by
  simp only [pollRail, polled, hmoded, hgood, send, if_true, List.foldl_cons, List.foldl_nil, List.append_assoc, List.cons_append, List.nil_append,
    Bool.not_true, Bool.false_eq_true, if_false]

theorem polled_effect (r mv a : Nat) : let u := s.polled r mv a
    u.reg (R.PW_RAIL_V + 4 * r) = mv % 4096 ∧ u.reg (R.PW_RAIL_I + 4 * r) = a % 2 ^ 20 ∧
    u = { s with regs := u.regs, out := s.out ++ [.pmbus r 0x8B 0, .pmbus r 0x8C 0, .pmbus r 0x96 0, .pmbus r 0x79 0] } := by
  have hapart : R.PW_RAIL_V + 4 * r ≠ R.PW_RAIL_I + 4 * r := by
    simp only [R.PW_RAIL_V, R.PW_RAIL_I]
    omega
  refine ⟨?_, ?_, rfl⟩
  · rw [polled, reg_setReg_other _ _ hapart, reg_setReg_self, Nat.mod_eq_of_lt ((Nat.mod_lt _ (by decide)).trans (by decide))]
  · rw [polled, reg_setReg_self, Nat.mod_eq_of_lt ((Nat.mod_lt _ (by decide)).trans (by decide))]

/-! ### Trips and rail faults (R490, R494) -/

theorem reg_pwUpd (f : PwState → PwState) (o : Nat) : (s.pwUpd f).reg o = s.reg o := rfl

theorem reg_stopClocks (o : Nat) : s.stopClocks.reg o = s.reg o := rfl

theorem railFaultAt_effect (r : Nat) : let t := s.railFaultAt r
    s.sets t R.PW_ERR 8 ∧ s.logs t 0x5104 r 0 ∧
    t = { s with regs := t.regs, pw := { s.pw with stopped := true }, el := { s.el with raised := t.el.raised } } := by
  refine ⟨?_, ?_⟩
  · rw [sets, railFaultAt, reg_stopClocks, reg_report, reg_orReg_self _ (by decide)]
  · obtain ⟨g, hg⟩ := regsOnly_iff.1 (s.regsOnly_orReg R.PW_ERR 8)
    rw [railFaultAt, hg]
    exact ⟨rfl, rfl⟩

/-- PW_TRIP_INFO and PW_ERR at a trip. -/
def tripNoted (n : Nat) (t : BitVec 12) : State := (s.setReg R.PW_TRIP_INFO (n + 65536 * t.toNat + 2 ^ 31)).orReg R.PW_ERR 16

theorem tripAt_eq (n : Nat) (t : BitVec 12) :
    s.tripAt n t = (((s.pwUpd fun p => { p with trip := true }).tripNoted n t).report 5 0x04 0x05 n 0).stopClocks := rfl

theorem tripAt_effect {n : Nat} (hn : n < 72) (t : BitVec 12) : let v := s.tripAt n t
    v.reg R.PW_TRIP_INFO = n + 65536 * t.toNat + 2 ^ 31 ∧ s.sets v R.PW_ERR 16 ∧ s.logs v 0x5105 n 0 ∧
    v = { s with regs := v.regs, pw := { s.pw with trip := true, stopped := true }, el := { s.el with raised := v.el.raised } } := by
  have ht := t.isLt
  refine ⟨?_, ?_, ?_⟩
  · rw [tripAt_eq, reg_stopClocks, reg_report, tripNoted, reg_orReg_other _ _ (by decide), reg_setReg_self, Nat.mod_eq_of_lt (by omega)]
  · rw [sets, tripAt_eq, reg_stopClocks, reg_report, tripNoted, reg_orReg_self _ (by decide), reg_setReg_other _ _ (by decide), reg_pwUpd]
  · obtain ⟨g, hg⟩ := regsOnly_iff.1 (regsOnly_trans ((s.pwUpd fun p => { p with trip := true }).regsOnly_setReg R.PW_TRIP_INFO (n + 65536 * t.toNat + 2 ^ 31))
      (regsOnly_orReg _ R.PW_ERR 16))
    rw [tripAt_eq, tripNoted, hg]
    exact ⟨rfl, rfl⟩

/-! ### Voltage steps (R493) -/

/-- Where a step of at most 5 mV takes v on its way to g. -/
def stepTo (v g : Nat) : Nat := if v < g then min g (v + 5) else max g (v - 5)

/-- The messages and the time of a step of a die's voltage to n. -/
def stepping (d n : Nat) : State :=
  ((s.send (.pmbus d 0x00 (bitsOf (s.reg (R.PW_PMB_ADDR + 4 * d)) 15 8))).send (.pmbus d 0x21 n)).pwUpd fun p => { p with vstep := p.vstep.put d s.now }

theorem voutStep_due {d : Nat} (ans : Bool) (hd : d < 4) (hbus : s.onBus d = true) (hne : Map.getD 750 s.pw.vout d ≠ Map.getD 750 s.pw.target d)
    (hstep : s.pw.vstep.get? d = none) : exec (.voutCommandStep ⟨d, ans⟩) s = .next
      (let n := stepTo (Map.getD 750 s.pw.vout d) (Map.getD 750 s.pw.target d)
       if ans then (s.stepping d n).pwUpd fun p => { p with vout := p.vout.put d n } else (s.stepping d n).pmbFail) := by
  refine onUnit_next.2 ⟨decide_eq_true hd, ?_⟩
  simp only [hbus, hstep, beq_false_of_ne hne, Bool.not_true, Bool.or_false, Bool.false_eq_true, if_false]
  rfl

theorem voutStep_there {d : Nat} (ans : Bool) (hd : d < 4) (heq : Map.getD 750 s.pw.vout d = Map.getD 750 s.pw.target d) :
    exec (.voutCommandStep ⟨d, ans⟩) s = .next s := by
  refine onUnit_next.2 ⟨decide_eq_true hd, ?_⟩
  simp only [heq, beq_self_eq_true, Bool.or_true, Bool.true_or, if_true]

theorem pmbFail_regsOnly : s.regsOnly s.pmbFail := regsOnly_trans (regsOnly_orReg ..) (regsOnly_count ..)

/-- A step that the regulator answers, or leaves unanswered. -/
theorem voutStep_effect (d : Nat) (ans : Bool) (n : Nat) :
    let t := if ans then (s.stepping d n).pwUpd fun p => { p with vout := p.vout.put d n } else (s.stepping d n).pmbFail
    Map.getD 750 t.pw.vout d = (if ans then n else Map.getD 750 s.pw.vout d) ∧ t.pw.vstep.get? d = some s.now ∧
    (∀ e, e ≠ d → Map.getD 750 t.pw.vout e = Map.getD 750 s.pw.vout e) ∧ (ans = true → t.regs = s.regs) ∧
    (ans = false → s.sets t R.PW_ERR 0x20 ∧ s.adds t R.PW_PMB_ERR_LO 1) ∧
    t = { s with regs := t.regs, out := t.out, pw := { s.pw with vout := t.pw.vout, vstep := t.pw.vstep } } := by
  cases ans with
  | true => exact ⟨Map.getD_put_self .., Map.get?_put_self .., fun e he => Map.getD_put_other _ _ _ he, fun _ => rfl, nofun, rfl⟩
  | false =>
    have hsets := (s.stepping d n).sets_orReg_count (o := R.PW_ERR) (m := 0x20) (c := R.PW_PMB_ERR_LO) (by decide) (by decide) (by decide)
    have hadds := (s.stepping d n).adds_orReg_count (o := R.PW_ERR) (m := 0x20) (c := R.PW_PMB_ERR_LO) (by decide) (by decide)
    change (s.stepping d n).sets (s.stepping d n).pmbFail R.PW_ERR 0x20 at hsets
    change (s.stepping d n).adds (s.stepping d n).pmbFail R.PW_PMB_ERR_LO 1 at hadds
    obtain ⟨g, hg⟩ := regsOnly_iff.1 (s.stepping d n).pmbFail_regsOnly
    rw [hg] at hsets hadds
    simp only [Bool.false_eq_true, if_false, hg]
    exact ⟨rfl, Map.get?_put_self .., fun e _ => rfl, nofun, fun _ => ⟨hsets, hadds⟩, rfl⟩

/-! ### The TAP (R509) -/

/-- Where an edge of TCK moves the port, whatever the state it leaves did. -/
theorem tckEdge_effect (tms tdi : Bool) : let t := s.tckEdge tms tdi
    t.jt.tap = s.jt.tap.next tms ∧ t = { s with jt := t.jt, out := t.out, free := t.free } ∧
    (s.jt.tap = .shiftDr → t.jt.dr = s.jt.dr.drop 1 ++ [tdi] ∧ t.out = s.out ++ [.tdo (s.jt.dr.headD false)]) ∧
    (s.jt.tap = .captureDr → s.jt.instr = .idcode → t.jt.dr = (List.range 32).map (bitOf 0x1D851C6F)) := by
  intro t
  refine ⟨rfl, ?_, fun hshift => ?_, fun hcapture hid => ?_⟩
  · have hcaptured : s.captureDr.2 = { s with free := s.captureDr.2.free } := by
      unfold captureDr
      split <;> rfl
    simp only [t, tckEdge]
    split
    · rw [hcaptured]
    all_goals rfl
  · simp only [t, tckEdge, hshift]
    exact ⟨rfl, rfl⟩
  · simp only [t, tckEdge, hcapture, captureDr, hid]
    rfl

end State

theorem exec_throttleRun (s : State) (temps : List (BitVec 12)) : exec (.throttleRun temps) s = .next (s.throttle temps) := rfl

theorem exec_powerEstimate (s : State) (w : Nat) : exec (.powerEstimate w) s = .next (s.estimate w) := rfl

/-- Settles O43: the divider, the controller's run, power, PMBus, trips, voltage steps and the TAP, each by its lemma above. -/
theorem powerThrottlesAndTrips : Obligations.PowerThrottlesAndTrips := by
  intro s
  refine ⟨fun d l e => ⟨fun hne => ⟨s.divided d l e, s.setDiv_changes hne l e, s.divided_effect d l e⟩, s.setDiv_same l e, rfl⟩,
    ⟨s.dropRaise_none, s.dropRaise_effect⟩, rfl, rfl, fun temps => ?_, fun w => ⟨fun hw => ?_, fun hw => ?_⟩,
    fun r hr => congrArg _ (s.voltageRaiseTimeout_some hr), fun hr => ?_, fun r mv a w st hr hbus hmoded hgood => ?_, fun r b mv a w st hr hbus => ?_,
    fun r st hr hbus => ?_, fun n t hn => ⟨fun hlim htrip => ?_, fun hcool => ?_⟩, fun r hr => ⟨fun hpw => ?_, fun hpw => ?_⟩,
    fun w hw => onUnit_next.2 ⟨decide_eq_true hw, rfl⟩, fun d ans hd => ⟨fun hbus hne hstep => ?_, s.voutStep_there ans hd⟩,
    fun tms tdi => ⟨fun htrst => ?_, fun htrst => ⟨_, ?_, s.tckEdge_effect tms tdi⟩⟩, rfl, rfl⟩
  · obtain ⟨v, hrun, hover⟩ := s.throttle_effect temps
    obtain ⟨g, hg⟩ := State.regsOnly_iff.1 (s.regsOnly_sensed temps)
    refine ⟨s.sensed temps, v, (exec_throttleRun s temps).trans (congrArg _ hrun), fun n => s.reg_sensed temps, fun o => s.reg_sensed_other temps, s.regsOnly_sensed temps,
      fun hpin hraise hcold habove hdiv => ?_⟩
    have hpw : (s.sensed temps).pw = s.pw := by rw [hg]
    rw [hover (by rw [hpw]; exact hpin) (by rw [hpw]; exact hraise) hcold habove (by rw [hpw]; exact hdiv), State.pwUpd, hpw]
  · have hest : s.estimate w = s.powered w := by rw [s.estimate_eq, if_pos hw]
    refine ⟨_, (exec_powerEstimate s w).trans (congrArg _ hest), s.reg_powered hw, fun o ho => s.reg_powered_other w ?_ ?_, s.powered_frame w⟩
    · exact List.ne_of_not_mem_cons ho
    · exact List.ne_of_not_mem_cons (List.not_mem_of_not_mem_cons ho)
  · have hest : s.estimate w = ((((s.powered w).orReg R.PW_ERR 4).count R.PW_EXCURSION_LO 1).report 2 0x04 0x03 0xFFFF 0).slower 6 [0xFFFF] true := by
      rw [s.estimate_eq, if_neg (by omega)]
    exact ⟨_, (exec_powerEstimate s w).trans (congrArg _ hest), s.excursion_effect w⟩
  · simp [exec, execVoltageRaiseTimeout, hr]
  · obtain ⟨hv, hi, hframe⟩ := s.polled_effect r mv a
    refine ⟨s.polled r mv a, onUnit_next.2 ⟨decide_eq_true hr, ?_⟩, hv, hi, hframe⟩
    rw [if_pos hbus, s.pollRail_good mv a _ hmoded hgood]
  · exact ⟨onUnit_next.2 ⟨decide_eq_true hr, by simp [hbus]⟩, onUnit_next.2 ⟨decide_eq_true hr, by simp [hbus]⟩⟩
  · exact onUnit_next.2 ⟨decide_eq_true hr, by simp [hbus]⟩
  · have hno : (decide (signedOf 12 t.toNat < if n < 64 then 460 else 420) || s.pw.trip) = false := by
      simp only [htrip, Bool.or_false, decide_eq_false (Int.not_lt.2 hlim)]
    exact ⟨_, onUnit_next.2 ⟨decide_eq_true hn, if_neg (by simp only [hno, Bool.false_eq_true, not_false_eq_true])⟩, s.tripAt_effect hn t⟩
  · exact onUnit_next.2 ⟨decide_eq_true hn, if_pos (by simpa using hcool)⟩
  · exact ⟨_, onUnit_next.2 ⟨decide_eq_true hr, if_pos hpw⟩, s.railFaultAt_effect r⟩
  · exact onUnit_next.2 ⟨decide_eq_true hr, by simp [hpw]⟩
  · obtain ⟨hvout, hvstep, hothers, hkept, herr, hframe⟩ := s.voutStep_effect d ans (State.stepTo (Map.getD 750 s.pw.vout d) (Map.getD 750 s.pw.target d))
    exact ⟨_, s.voutStep_due ans hd hbus hne hstep, hvout, hvstep, hothers, hkept, herr, hframe⟩
  · simp [exec, execTck, htrst]
  · simp [exec, execTck, htrst]

end Sys2Proof.Machine
end

section
/-! SUPPORT. What apply leaves of the chip manager's state (R423). -/

namespace Sys2Proof.Machine

namespace State

/-! ### What apply leaves of the chip manager's state (R423) -/

theorem gl_ite {c : Prop} [Decidable c] (a b : State) : (if c then a else b).gl = if c then a.gl else b.gl := apply_ite State.gl c a b

theorem gl_foldl {α : Type} {f : State → α → State} (hf : ∀ s x, (f s x).gl = s.gl) (l : List α) (s : State) : (l.foldl f s).gl = s.gl :=
  List.foldlRecOn l f (motive := fun t => t.gl = s.gl) rfl fun t ht x _ => (hf t x).trans ht

theorem devWrite_gl (s : State) (a : Nat) (bs : List Byte) : (s.devWrite a bs).gl = s.gl := by
  have hlist (l : List (Nat × Nat × Nat)) (t : State) (bs : List Byte) : (t.devWriteList l bs).gl = t.gl := by
    induction l generalizing t bs with
    | nil => rfl
    | cons x l ih =>
      obtain ⟨g, o, m⟩ := x
      rw [devWriteList, ih]
      split
      · rfl
      · unfold writeHome
        split
        · rfl
        · rfl
  exact hlist _ s bs

theorem giveHome_gl (s : State) (g st f p : Nat) : (s.giveHome g st f p).gl = s.gl := by
  have hclaim : (s.claimFrame st f p).gl = s.gl := by
    unfold claimFrame
    split
    · rfl
    split
    · rfl
    · rfl
  have hentry (h : MapEntry → MapEntry) : ((s.claimFrame st f p).updEntry g h).gl = s.gl := by
    refine Eq.trans ?_ hclaim
    unfold updEntry setEntry
    split
    · rfl
    · rfl
  unfold giveHome
  dsimp only
  split
  · rw [devWrite_gl, hentry]
  · exact hentry _

theorem giveHomes_gl (s : State) (l : List Nat) (p : Nat) : (s.giveHomes l p).gl = s.gl := by
  unfold giveHomes
  refine (gl_foldl (fun t g => ?_) l _).trans rfl
  dsimp only [draw]
  split
  · exact giveHome_gl ..
  · rfl

theorem loadHome_gl (s : State) (a : Option Nat) (g p : Nat) : (s.loadHome a g p).gl = s.gl := by
  unfold loadHome
  split
  · rfl
  split
  · split
    · exact giveHome_gl ..
    · rfl
  · exact giveHomes_gl ..

theorem buildMap_gl (s : State) (fill : List Nat) : (s.buildMap fill).gl = s.gl := by
  have hregions : (s.ti.regions.foldl (fun s r => if r.place = 0 then s
      else (List.range r.count).foldl (fun s i => s.loadHome (s.bitmapStack (r.base + i)) (r.base + i) r.polder) s) s).gl = s.gl := by
    refine gl_foldl (fun t r => ?_) _ s
    split
    · rfl
    · exact gl_foldl (fun u i => loadHome_gl ..) _ t
  refine (gl_foldl (fun t g => ?_) fill _).trans hregions
  split
  · exact loadHome_gl ..
  · rfl

theorem linkPool_gl (s : State) : s.linkPool.gl = s.gl := (devWrite_gl ..).trans rfl

theorem placeTable_gl (s : State) (bs : List Byte) : (s.placeTable bs).gl = s.gl := (devWrite_gl ..).trans (giveHomes_gl ..)

theorem addMapFrames_gl (s : State) : s.addMapFrames.gl = s.gl := by
  unfold addMapFrames
  split
  · rfl
  · refine gl_foldl (fun t st => gl_foldl (fun u i => ?_) _ t) _ s
    dsimp only
    split
    · rfl
    split
    · rfl
    · rfl

theorem skSeen_gl (s : State) (a n : Nat) : (s.skSeen a n).gl = s.gl := by
  refine gl_foldl (fun t e => ?_) _ s
  refine gl_foldl (fun u i => ?_) _ t
  rfl

theorem writeProjections_gl (s : State) : s.writeProjections.gl = s.gl := by
  refine gl_foldl (fun t q => ?_) _ s
  rfl

theorem filled_gl (s : State) (rs : List IRec) (words : Map Word) : (s.filled rs words).gl = s.gl := by
  refine (gl_foldl (fun t e => ?_) words _).trans rfl
  rfl

/-- Apply leaves the kind of the start. -/
theorem applyImage_kind (s : State) (slot : Nat) (rs : List IRec) (k0 k1 : Nat) (keys : Map (List Byte)) : (s.applyImage slot rs k0 k1 keys).gl.kind = s.gl.kind := by
  unfold applyImage
  extract_lets h words layout cold s1 fresh skip old idx s2 sk gl im s3 s4 s5 s6 s7 s8 s9 s10 d s11 s12
  have h1 : s1.gl = s.gl := by
    simp only [s1]
    split
    · rfl
    · rfl
  have h2 : s2.gl = s.gl := (filled_gl ..).trans h1
  have h3 : s3.gl.kind = s.gl.kind := by
    change s2.gl.kind = s.gl.kind
    rw [h2]
  have h4 : s4.gl = s3.gl := by
    refine gl_foldl (fun t x => ?_) _ s3
    rfl
  have h6 : s6.gl = s4.gl := by
    simp only [s6, gl_ite, addMapFrames_gl, ite_self]
    exact writeProjections_gl s4
  have h8 : s8.gl = s6.gl := by simp only [s8, s7, gl_ite, placeTable_gl, linkPool_gl, buildMap_gl, ite_self]
  have h9 : s9.gl = s8.gl := by
    simp only [s9, gl_ite]
    split
    · exact gl_foldl (fun t f => (skSeen_gl ..).trans (devWrite_gl ..)) _ s8
    · rfl
  have h10 : s10.gl = s9.gl := by simp only [s10, setReg_gl, setReg64_gl]
  have h11 : s11.gl = s10.gl := by
    refine gl_foldl (fun t w => ?_) _ s10
    rfl
  have h12 : s12.gl = s11.gl := by simp only [s12, gl_ite, report_gl, orReg_gl, ite_self]
  calc s12.gl.kind = s11.gl.kind := by rw [h12]
    _ = s10.gl.kind := by rw [h11]
    _ = s9.gl.kind := by rw [h10]
    _ = s3.gl.kind := by rw [h9, h8, h6, h4]
    _ = s.gl.kind := h3

end State
end Sys2Proof.Machine
end

section
/-! SUPPORT. Starts (R413, R422–R440, R484–R497): resets, warm starts, phases, slots, fuses and polders, and the statement about them. -/

namespace Sys2Proof.Machine

namespace State

variable (s : State)

/-! ### Resets (R426, R484, R497) -/

theorem discardAll_keeps : let d := s.discardAll
    d.gl.otp = s.gl.otp ∧ d.gl.fuseKeys = s.gl.fuseKeys ∧ d.gl.revoked = s.gl.revoked ∧ d.gl.svn = s.gl.svn ∧ d.gl.kek = s.gl.kek ∧ d.im.flash = s.im.flash ∧ d.pending = s.pending ∧
    d.mem = [] ∧ d.stk = [] ∧ d.cores = [] ∧ d.regs = State.reset.regs ∧ d.pw.trip = s.pw.trip ∧ d.gl.phase = 1 ∧ d.gl.running = true ∧ d.gl.kind = 0 ∧ d.pw.held0 = false :=
  ⟨rfl, rfl, rfl, rfl, rfl, rfl, rfl, rfl, rfl, rfl, rfl, rfl, rfl, rfl, rfl, rfl⟩

/-! ### Warm starts (R428–R430) -/

theorem warmRequest_refused (cause : Nat) (h : s.gl.running = true ∨ s.el.fatal = true) : let t := s.warmRequest cause
    s.adds32 t R.GL_START_REFUSED 1 ∧ s.logs t 5 0 0 ∧ s.logsOnly t := by
  have hbusy : (s.gl.running || s.el.fatal) = true := by simpa using h
  rw [warmRequest, if_pos hbusy]
  refine ⟨?_, rfl, rfl⟩
  rw [adds32, reg_report, count32, reg_setReg_self, Nat.mod_eq_of_lt ((Nat.min_le_right ..).trans_lt (by decide))]

theorem warmRequest_starts (cause : Nat) (hidle : s.gl.running = false) (hfatal : s.el.fatal = false) : let t := s.warmRequest cause
    t.gl.running = true ∧ t.gl.kind = 1 ∧ t.gl.phase = 0 ∧ t.gl.cause = cause := by
  have hfree : ¬ (s.gl.running || s.el.fatal) = true := by simp [hidle, hfatal]
  rw [warmRequest, if_neg hfree]
  exact ⟨rfl, rfl, rfl, rfl⟩

/-- Queued descriptors touch the units alone. -/
theorem foldl_quPush_frame (st : Nat → Nat) (d : Nat → QuDesc) (l : List Nat) :
    l.foldl (fun s k => s.quPush (st k) (d k)) s = { s with qus := (l.foldl (fun s k => s.quPush (st k) (d k)) s).qus } :=
  List.foldlRecOn l _ (motive := fun t : State => t = { s with qus := t.qus }) rfl fun t ht k _ => by
    rw [ht]
    rfl

theorem warmRestart_effect : let t := s.warmRestart
    t.gl.phase = 1 ∧ t.cores = [] ∧ (s.ti.zeroing = [] → t.qus = []) ∧ t.stk = s.stk ∧ t.models = s.models ∧ t.kv.seam = s.kv.seam ∧ t.gl.otp = s.gl.otp ∧
    t.im.flash = s.im.flash := by
  unfold warmRestart
  refine ⟨?_, ?_, ?_, ?_, ?_, ?_, ?_, ?_⟩
  case refine_3 =>
    intro h
    change State.qus (List.foldl _ _ s.ti.zeroing) = []
    rw [h]
    rfl
  all_goals
    rw [foldl_quPush_frame]
    rfl

/-! ### The phases of a cold start (R427) -/

theorem trainAll_frame : s.trainAll = { s with cu := { s.cu with ports := s.trainAll.cu.ports } } :=
  List.foldlRecOn (List.range 18) _ (motive := fun t : State => t = { s with cu := { s.cu with ports := t.cu.ports } }) rfl fun t ht k _ => by
    rw [ht]
    rfl

/-- A port of the list begins step 1, and one that has begun stays so. -/
theorem foldl_train_port (n : Nat) (l : List Nat) (t : State) (h : n ∈ l ∨ (t.port n).phase = 1) :
    ((l.foldl (fun s n => s.updPort n fun p => { p with phase := 1, full := true, pmd := false, latched := false }) t).port n).phase = 1 := by
  induction l generalizing t with
  | nil => exact h.resolve_left List.not_mem_nil
  | cons m l ih =>
    refine ih _ ?_
    by_cases hm : n = m
    · rw [hm, port_updPort_self]
      exact Or.inr rfl
    · rw [port_updPort_other _ _ hm]
      exact h.imp_left fun hmem => List.mem_of_ne_of_mem hm hmem

theorem trainAll_port {n : Nat} (hn : n < 18) : (s.trainAll.port n).phase = 1 := foldl_train_port n _ s (Or.inl (List.mem_range.2 hn))

theorem phaseDone_port (ms n : Nat) : (s.phaseDone ms).port n = s.port n := rfl

theorem phaseDone_reg (ms : Nat) : (s.phaseDone ms).reg (R.GL_PHASE_MS + 4 * (s.gl.phase - 1)) = ms % 2 ^ 32 := s.reg_setReg_self _ _

theorem fuses_bad : s.fuses false = (s.report 5 0x00 0x01 0 0).glUpd fun g => { g with stuck := true, running := false } := rfl

/-- Phases 1 and 6 end: the phase's duration, the next phase, and in phase 6 step 1 of R361 on every port. -/
theorem coldPhase_ends (hrun : s.gl.running = true) (hphase : s.gl.phase = 1 ∨ s.gl.phase = 6) (ms : Nat) (l : List Nat) (ok : Bool) :
    let t := s.coldPhase ms l ok
    t.reg (R.GL_PHASE_MS + 4 * (s.gl.phase - 1)) = ms % 2 ^ 32 ∧ (s.gl.phase = 1 → t.cu = s.cu) ∧
    (s.gl.phase = 6 → ∀ n, n < 18 → (t.port n).phase = 1) ∧
    t = { s with regs := t.regs, gl := { s.gl with phase := s.gl.phase + 1 }, cu := { s.cu with ports := t.cu.ports } } := by
  rcases hphase with hphase | hphase
  · have hcold : s.coldPhase ms l ok = s.phaseDone ms := by simp only [coldPhase, hphase, hrun, if_true]
    rw [hcold]
    exact ⟨s.phaseDone_reg ms, fun _ => rfl, fun h => by omega, rfl⟩
  · have hgl : s.trainAll.gl = s.gl := by rw [trainAll_frame]
    have hcold : s.coldPhase ms l ok = s.trainAll.phaseDone ms := by simp only [coldPhase, hphase, hgl, hrun, if_true]
    have hreg := s.trainAll.phaseDone_reg ms
    rw [hgl] at hreg
    rw [hcold]
    refine ⟨hreg, fun h => by omega, fun _ n hn => ?_, ?_⟩
    · rw [phaseDone_port, s.trainAll_port hn]
    · obtain ⟨ports, htrain⟩ : ∃ ports, s.trainAll = { s with cu := { s.cu with ports := ports } } := ⟨_, s.trainAll_frame⟩
      rw [htrain]
      rfl

theorem coldPhase_fuses (hphase : s.gl.phase = 2) (ms : Nat) (l : List Nat) :
    s.coldPhase ms l false = (s.report 5 0x00 0x01 0 0).glUpd fun g => { g with stuck := true, running := false } := by
  simp only [coldPhase, hphase, fuses_bad, glUpd_gl, Bool.false_eq_true, if_false]

theorem coldPhase_last (hphase : s.gl.phase = 9) (ms : Nat) (l : List Nat) (ok : Bool) : s.coldPhase ms l ok = s.startDone ms := by
  simp only [coldPhase, hphase]

/-! ### Slots and apply (R413, R422, R423) -/

theorem checkSlot_other (h : s.readsImage = false) (slot : Nat) (r : Bool) : s.checkSlot slot r = s := by simp [checkSlot, h]

theorem checkSlot_second {slot : Nat} (hreads : s.readsImage = true) (hnext : s.nextSlot = some slot) (htried : s.im.tried ≠ []) (r : Bool) :
    s.checkSlot slot r = if s.reusable slot r then s.takeSlot slot true else
      match s.slotCheck slot r with | .error c => s.failSlot slot c | .ok _ => s.takeSlot slot false := by
  have hbegin : s.beginRead = s := by simp [beginRead, htried]
  unfold checkSlot
  simp only [hreads, hnext, hbegin, bne_self_eq_false, Bool.not_true, Bool.or_false, Bool.false_eq_true, if_false] <;> rfl

/-- Both slots have failed: nothing is loaded, and the start ends. -/
theorem failSlot_second {slot : Nat} (c : ICause) (htried : s.im.tried = [1 - slot]) :
    (s.failSlot slot c).im.phase = 5 ∧ (s.failSlot slot c).gl.running = false := by
  have htwo : ¬ (s.im.tried ++ [slot]).length < 2 := by simp [htried]
  unfold failSlot
  extract_lets cause detail u v tried w
  change ¬ tried.length < 2 at htwo
  rw [if_neg htwo]
  exact ⟨rfl, rfl⟩

/-! ### Fuse commands (R440) -/

theorem fuseCmd_raise {v : Nat} (hkey : bitsOf v 31 24 = 0x5C) (hop : v % 4 = 1) (ok : Bool) :
    s.fuseCmd v ok = if s.im.phase ≠ 4 then s.setReg R.IM_FUSE_RESULT 257 else if s.im.imgSvn ≤ s.gl.svn then s.setReg R.IM_FUSE_RESULT 769
      else if ok then ({ s with gl := { s.gl with svn := s.im.imgSvn } } : State).setReg R.IM_FUSE_RESULT 3 else s.setReg R.IM_FUSE_RESULT 1025 := by
  cases ok <;> simp [fuseCmd, fuseResult, hkey, hop, glUpd]

theorem fuseCmd_revoke {v : Nat} (hkey : bitsOf v 31 24 = 0x5C) (hop : v % 4 = 2) (ok : Bool) :
    s.fuseCmd v ok = if s.im.phase ≠ 4 then s.setReg R.IM_FUSE_RESULT 257 else if bitsOf v 5 4 = s.im.key then s.setReg R.IM_FUSE_RESULT 513
      else if ok then ({ s with gl := { s.gl with revoked := if s.gl.revoked.contains (bitsOf v 5 4) then s.gl.revoked else s.gl.revoked ++ [bitsOf v 5 4] } } : State).setReg
        R.IM_FUSE_RESULT 3 else s.setReg R.IM_FUSE_RESULT 1025 := by
  cases ok <;> simp [fuseCmd, fuseResult, hkey, hop, glUpd]

/-! ### Polders (R435, R436) -/

theorem polderWrite_undefined {p : Nat} (h : s.gl.defined.contains p = false) (en : Bool) : s.polderWrite p en = s := by
  simp only [polderWrite, h, Bool.not_false, if_true]

theorem polderWrite_defined {p : Nat} (h : s.gl.defined.contains p = true) :
    (s.polderState p = 0 → s.polderWrite p true = (s.setReg (R.GL_POLDER_CTRL + 4 * p) 1).setPolder p 1) ∧
    (s.polderState p = 2 → s.polderWrite p true = (s.setReg (R.GL_POLDER_CTRL + 4 * p) 1).setPolder p 3) ∧
    (s.polderState p = 1 ∨ s.polderState p = 3 → s.polderWrite p false = (s.setReg (R.GL_POLDER_CTRL + 4 * p) 0).setPolder p 2) := by
  have hstate (v : Nat) : (s.setReg (R.GL_POLDER_CTRL + 4 * p) v).polderState p = s.polderState p := rfl
  unfold polderWrite
  simp only [h, hstate, Bool.not_true, Bool.false_eq_true, if_false]
  refine ⟨fun hoff => ?_, fun hdrain => ?_, ?_⟩
  · rw [hoff]
    rfl
  · rw [hdrain]
    rfl
  · rintro (hon | hagain)
    · rw [hon]
      rfl
    · rw [hagain]
      rfl

theorem polderDrain_eq (p : Nat) : s.polderDrain p = if s.polderOutstanding p ≠ 0 then s else if s.polderState p = 2 then s.setPolder p 0
    else if s.polderState p = 3 then s.setPolder p 1 else s := by
  unfold polderDrain
  congr 1
  split
  next h => rw [h, if_pos rfl]
  next h => rw [h, if_neg (by decide), if_pos rfl]
  next h h' => rw [if_neg h, if_neg h']

theorem applySlot_applies {slot : Nat} (hrun : s.gl.running = true) (hkind : s.gl.kind = 0) (hphase : s.gl.phase = 8) (him : s.im.phase = 3)
    (hreused : s.im.reused = false) (hgood : s.im.good = some slot) : s.applySlot =
      match s.slotCheck slot true with | .ok (rs, k0, k1, keys) => (s.applyImage slot rs k0 k1 keys).enterLoaded | .error _ => s := by
  have happlied (rs : List IRec) (k0 k1 : Nat) (keys : Map (List Byte)) : (s.applyImage slot rs k0 k1 keys).gl.kind = 0 :=
    (s.applyImage_kind slot rs k0 k1 keys).trans hkind
  unfold applySlot
  simp only [hrun, hkind, hphase, him, hreused, hgood, happlied, if_true, beq_self_eq_true, Bool.and_self, Bool.not_false] <;> rfl

theorem applySlot_idle (h : s.gl.running = false) : s.applySlot = s := by
  unfold applySlot
  simp only [h, Bool.false_and]

end State

/-- What a rail's removal takes (R490, R496). -/
theorem exec_powerRemove (s : State) {r : Nat} (hr : r < 12) : exec (.powerRemove r) s = .next { s with
    stk := if r = 5 then [] else s.stk, pw := { s.pw with rails := s.pw.rails.filter (· != r), trip := if r = 10 then false else s.pw.trip } } := by
  refine onUnit_next.2 ⟨decide_eq_true hr, ?_⟩
  by_cases h5 : r = 5
  · subst h5
    rfl
  · by_cases h10 : r = 10
    · subst h10
      rfl
    · simp only [if_neg h5, if_neg h10]

/-- Settles O41: resets and starts by unfolding their commands; phases, slots, apply, fuses and polders by their lemmas above. -/
theorem startsRunInPhases : Obligations.StartsRunInPhases := by
  intro s pw
  have hwarm (v : Word) : exec (.warmStartRequest v) s = .next (s.resetWrite v.toNat) := rfl
  refine ⟨s.discardAll_keeps, fun hpower href hpll => ?_, fun hoff => ?_, fun hpower => ?_, fun hreset href hpll => ?_, ⟨_, rfl, rfl, rfl, rfl, rfl⟩, ⟨_, rfl, rfl, rfl, rfl, rfl⟩,
    fun hup => ?_, fun r => exec_powerRemove s, fun v hv => ?_, fun v hkey hgo => ?_, fun hrun hkind hphase hdrained => ?_, fun hidle => ?_, fun ms l ok => ?_,
    fun slot r hslot => ⟨fun hreads => ?_, fun hreads hnext htried => ?_⟩, fun slot c => s.failSlot_second c, fun slot hrun hkind hphase him hreused hgood => ?_, fun hidle => ?_,
    fun v ok hkey => ?_, fun p hp => ?_⟩
  · simp [exec, execResetNRise, hpower, href, hpll, pw]
  · have hno : (s.pw.pwrgood && s.pw.sysRef && s.pw.pll) = false := by
      rcases hoff with h | h
      · simp [h]
      · simp [h]
    simp [exec, execResetNRise, hno, pw]
  · simp [exec, execResetNLow, hpower, pw]
  · simp [exec, execPwrgoodRise, hreset, href, hpll, pw]
  · simp [exec, execPeRefclkLoss, hup, State.pwUpd, pw]
  · rw [hwarm, State.resetWrite, if_neg fun h => hv.elim (fun hkey => hkey h.1) fun hgo => Bool.false_ne_true (hgo.symm.trans h.2)]
  · have hrun : s.resetWrite v.toNat = s.warmRequest 1 := if_pos ⟨hkey, hgo⟩
    exact ⟨_, (hwarm v).trans (congrArg _ hrun), s.warmRequest_refused 1, s.warmRequest_starts 1⟩
  · refine ⟨_, ?_, s.warmRestart_effect⟩
    simp [exec, execWarmRestart, hrun, hkind, hphase, hdrained]
  · have hno : (s.gl.running && s.gl.kind == 1 && s.gl.phase == 0 && s.logDrained) = false := by
      rcases hidle with h | h
      · simp [h]
      · simp [h]
    simp only [exec, execWarmRestart, hno, Bool.false_eq_true, if_false]
  · refine ⟨fun hidle => ?_, fun hrun hclocks hkind => ?_⟩
    · have hno : (!s.gl.running || s.pw.stopped) = true := by simpa using hidle
      simp only [exec, execStartPhaseDone, hno, if_true]
    · have hcold : exec (.startPhaseDone ms l ok) s = .next (s.coldPhase ms l ok) := by simp [exec, execStartPhaseDone, hrun, hclocks, hkind]
      refine ⟨fun hphase => ⟨_, hcold, s.coldPhase_ends hrun hphase ms l ok⟩, fun hphase hbad => ?_, fun hphase => ?_⟩
      · subst hbad
        exact ⟨_, hcold.trans (congrArg _ (s.coldPhase_fuses hphase ms l)), rfl, rfl, rfl⟩
      · exact ⟨_, hcold.trans (congrArg _ (s.coldPhase_last hphase ms l ok)), rfl, rfl⟩
  · exact onUnit_next.2 ⟨decide_eq_true hslot, s.checkSlot_other hreads slot r⟩
  · exact onUnit_next.2 ⟨decide_eq_true hslot, s.checkSlot_second hreads hnext htried r⟩
  · exact congrArg _ (s.applySlot_applies hrun hkind hphase him hreused hgood)
  · exact congrArg _ (s.applySlot_idle hidle)
  · refine ⟨fun hop => ?_, fun hop => ?_⟩
    · have hexec : exec (.raiseSvn v ok) s = .next (s.fuseCmd v.toNat ok) := by simp only [exec, execRaiseSvn, hop, if_true]
      exact hexec.trans (congrArg _ (s.fuseCmd_raise hkey hop ok))
    · have hexec : exec (.revokeKey v ok) s = .next (s.fuseCmd v.toNat ok) := by simp only [exec, execRevokeKey, hop, if_true]
      exact hexec.trans (congrArg _ (s.fuseCmd_revoke hkey hop ok))
  · have hunit {t u : State} (h : t = u) : onUnit (decide (p < 64)) t = .next u := onUnit_next.2 ⟨decide_eq_true hp, h⟩
    refine ⟨fun hno => ⟨hunit (s.polderWrite_undefined hno true), hunit (s.polderWrite_undefined hno false)⟩, fun hdef => ?_, hunit (s.polderDrain_eq p)⟩
    obtain ⟨hoff, hdrains, hon⟩ := s.polderWrite_defined hdef
    exact ⟨fun h => hunit (hoff h), fun h => hunit (hdrains h), fun h => hunit (hon h)⟩

end Sys2Proof.Machine
end

section
/-! SUPPORT. Host queues (R388–R393, R402, R403): doorbells, the handshake, enables, drains and interrupts, and the statement about them. -/

namespace Sys2Proof.Machine

/-- The words of a queue's window, and the registers outside the windows. -/
theorem qReg_apart (q : Nat) {a b : Nat} (h : a ≠ b) : qReg q a ≠ qReg q b := by
  unfold qReg
  omega

theorem qReg_ne_of_lt (q a : Nat) {o : Nat} (h : o < 0x10000) : qReg q a ≠ o := by
  unfold qReg
  omega

namespace State

variable (s : State)

/-! ### Doorbells (R388) -/

theorem badDoorbell_effect (q : Nat) : let u := s.badDoorbell q
    s.sets u R.HI_ERR 1 ∧ s.keeps u [R.HI_ERR] ∧ s.logs u 0x82 q 0 ∧ s.logsOnly u := by
  refine ⟨?_, fun o ho => ?_, rfl, rfl⟩
  · rw [sets, badDoorbell, reg_report, reg_orReg_self _ (by decide)]
  · rw [badDoorbell, reg_report, reg_orReg_other _ _ (List.ne_of_not_mem_cons ho)]

theorem headOk_iff {size head tail v : Nat} :
    headOk size head tail v = true ↔ 0 < size ∧ v < size ∧ ringDist size head v ≤ ringDist size head tail := by
  simp [headOk, Nat.pos_iff_ne_zero, and_assoc]

/-! ### The handshake (R389) -/

theorem handshake_busy (h : s.queuesOn ≠ 0 ∨ s.hi.evOn = true) (v : Nat) : s.handshake v = s.orReg R.HI_ERR 4 := if_pos h

theorem handshake_effect (hqueues : s.queuesOn = 0) (hev : s.hi.evOn = false) (v : Nat) : let t := s.handshake v
    t.reg R.HI_QP_HANDSHAKE = v % 65536 ∧ t.reg R.HI_QP_AGREED = (if bitsOf v 15 8 = 3 ∧ s.im.phase ≠ 5 then 0x10300 + min (v % 256) 1 else 0x20000) ∧
    s.keeps t [R.HI_QP_HANDSHAKE, R.HI_QP_AGREED] ∧ s.regsOnly t := by
  have heq : s.handshake v = (s.setReg R.HI_QP_HANDSHAKE (v % 65536)).setReg R.HI_QP_AGREED
      (if bitsOf v 15 8 = 3 ∧ s.im.phase ≠ 5 then 0x10300 + min (v % 256) 1 else 0x20000) := by
    unfold handshake
    rw [if_neg (by simp [hqueues, hev]), apply_ite (fun n => (s.setReg R.HI_QP_HANDSHAKE (v % 65536)).setReg R.HI_QP_AGREED n)]
    rfl
  rw [heq]
  refine ⟨?_, ?_, fun o ho => ?_, regsOnly_trans (regsOnly_setReg ..) (regsOnly_setReg ..)⟩
  · rw [reg_setReg_other _ _ (by decide), reg_setReg_self, Nat.mod_eq_of_lt (by omega)]
  · rw [reg_setReg_self, Nat.mod_eq_of_lt]
    split
    · omega
    · decide
  · rw [reg_setReg_other _ _ (List.ne_of_not_mem_cons (List.not_mem_of_not_mem_cons ho)), reg_setReg_other _ _ (List.ne_of_not_mem_cons ho)]

/-! ### Queues (R390, R393) -/

theorem reg_setPair (q : Nat) (x : QPair) (o : Nat) : (s.setPair q x).reg o = s.reg o := rfl

theorem pair_setReg (off v q : Nat) : (s.setReg off v).pair q = s.pair q := rfl

theorem enableQueue_unagreed (h : s.agreed = false) (q v : Nat) : s.enableQueue q v = s.orReg R.HI_ERR 2 := by
  simp only [enableQueue, h, Bool.not_false, if_true]

/-- The state of a queue that has just been enabled. -/
def enabled (q v : Nat) : State :=
  ((((s.setReg (qReg q 0) (v % 8)).setPair q { QPair.off with phase := 1 }).setReg (qReg q 0x28) 0x10000).setReg (qReg q 0x2C) 0x10000).setReg (qReg q 0x30) 0x10000

theorem enableQueue_off {q : Nat} (hagreed : s.agreed = true) (hoff : (s.pair q).phase = 0) (v : Nat) : s.enableQueue q v =
    if s.queueCfgOk q then s.enabled q v else (s.setReg (qReg q 0) (v % 8 - v % 2)).orReg R.HI_ERR 8 := by
  simp only [enableQueue, hagreed, hoff, Bool.not_true, Bool.false_eq_true, if_false, if_true]
  rfl

theorem enableQueue_draining {q : Nat} (hagreed : s.agreed = true) (hdrain : (s.pair q).phase = 2) (v : Nat) :
    s.enableQueue q v = (s.setReg (qReg q 0) (v % 8)).setPair q { s.pair q with phase := 3 } := by
  simp [enableQueue, hagreed, hdrain]

theorem enabled_effect (q v : Nat) : let t := s.enabled q v
    t.pair q = { QPair.off with phase := 1 } ∧ t.reg (qReg q 0) = v % 8 ∧ (∀ o ∈ [0x28, 0x2C, 0x30], t.reg (qReg q o) = 0x10000) ∧
    (∀ p, p ≠ q → t.pair p = s.pair p) ∧ t = { s with regs := t.regs, hi := { s.hi with pairs := t.hi.pairs } } := by
  have hapart {a b : Nat} (h : a ≠ b) := qReg_apart q h
  have hpair (p : Nat) : (s.enabled q v).pair p = ((s.setReg (qReg q 0) (v % 8)).setPair q { QPair.off with phase := 1 }).pair p := by
    rw [enabled, pair_setReg, pair_setReg, pair_setReg]
  have hregs : ((s.setReg (qReg q 0) (v % 8)).setPair q { QPair.off with phase := 1 }).regsOnly (s.enabled q v) :=
    regsOnly_trans (regsOnly_setReg ..) (regsOnly_trans (regsOnly_setReg ..) (regsOnly_setReg ..))
  refine ⟨by rw [hpair, pair_setPair_self], ?_, ?_, fun p hp => by rw [hpair, pair_setPair_other _ _ hp, pair_setReg], ?_⟩
  · rw [enabled, reg_setReg_other _ _ (hapart (by decide)), reg_setReg_other _ _ (hapart (by decide)), reg_setReg_other _ _ (hapart (by decide)), reg_setPair,
      reg_setReg_self, Nat.mod_eq_of_lt (by omega)]
  · intro o ho
    simp only [List.mem_cons, List.not_mem_nil, or_false] at ho
    rcases ho with rfl | rfl | rfl
    · rw [enabled, reg_setReg_other _ _ (hapart (by decide)), reg_setReg_other _ _ (hapart (by decide)), reg_setReg_self]
      rfl
    · rw [enabled, reg_setReg_other _ _ (hapart (by decide)), reg_setReg_self]
      rfl
    · rw [enabled, reg_setReg_self]
      rfl
  · obtain ⟨g, hg⟩ := regsOnly_iff.1 hregs
    rw [hg]
    rfl

theorem refused_effect (q v : Nat) : let t := (s.setReg (qReg q 0) (v % 8 - v % 2)).orReg R.HI_ERR 8
    bitOf (t.reg (qReg q 0)) 0 = false ∧ s.sets t R.HI_ERR 8 ∧ s.regsOnly t := by
  have hapart : qReg q 0 ≠ R.HI_ERR := qReg_ne_of_lt q 0 (by decide)
  refine ⟨?_, ?_, regsOnly_trans (regsOnly_setReg ..) (regsOnly_orReg ..)⟩
  · rw [reg_orReg_other _ _ hapart, reg_setReg_self, bitOf]
    simp
    omega
  · rw [sets, reg_orReg_self _ (by decide), reg_setReg_other _ _ hapart.symm]

theorem disableQueue_on {q : Nat} (hon : (s.pair q).phase = 1 ∨ (s.pair q).phase = 3) (v : Nat) : s.disableQueue q v =
    ((s.setReg (qReg q 0) (v % 8)).setPair q { s.pair q with phase := 2, snoop := false }).stopGenerates (fun r => r.q == q) 0x1A :=
  if_pos hon

/-- A running GENERATE of the queues that p names ends after its token. -/
theorem stopGenerates_stops (p : Req → Bool) (st : Nat) {r : Req} (hr : r ∈ (s.stopGenerates p st).hi.reqs) (hp : ∀ r' : Req, r'.q = r.q → p r' = true)
    (hop : r.opcode = 3) (hphase : r.phase = .admitted) : r.stop ≠ none := by
  obtain ⟨r', -, hmap⟩ := List.mem_map.1 hr
  split at hmap
  next h =>
    rw [← hmap]
    exact Option.some_ne_none _
  next h =>
    subst hmap
    exact fun hstop => h ⟨hop, Or.inr hphase, hstop, hp _ rfl⟩

theorem disabled_effect {q : Nat} (v : Nat) (hv : v % 2 = 0) :
    let t := ((s.setReg (qReg q 0) (v % 8)).setPair q { s.pair q with phase := 2, snoop := false }).stopGenerates (fun r => r.q == q) 0x1A
    t.pair q = { s.pair q with phase := 2, snoop := false } ∧ bitOf (t.reg (qReg q 0)) 0 = false ∧ (∀ p, p ≠ q → t.pair p = s.pair p) ∧
    (∀ r ∈ t.hi.reqs, r.q = q → r.opcode = 3 → r.phase = .admitted → r.stop ≠ none) ∧
    t = { s with regs := t.regs, hi := { s.hi with pairs := t.hi.pairs, reqs := t.hi.reqs } } := by
  intro t
  have hreg : t.reg (qReg q 0) = v % 8 % 2 ^ 32 := s.reg_setReg_self _ _
  have hpair (p : Nat) : t.pair p = ((s.setReg (qReg q 0) (v % 8)).setPair q { s.pair q with phase := 2, snoop := false }).pair p := rfl
  refine ⟨by rw [hpair, pair_setPair_self], ?_, fun p hp => by rw [hpair, pair_setPair_other _ _ hp, pair_setReg],
    fun r hr hq hop hphase => stopGenerates_stops _ _ _ hr (fun r' h => beq_iff_eq.2 (h.trans hq)) hop hphase, rfl⟩
  rw [hreg, bitOf]
  simp
  omega

theorem queueDrain_eq (q : Nat) : s.queueDrain q = if s.outstanding q ≠ 0 then s else if (s.pair q).phase = 2 then s.setPair q { s.pair q with phase := 0 }
    else if (s.pair q).phase = 3 then s.setPair q { s.pair q with phase := 1 }
    else if (s.pair q).phase = 4 ∧ bitOf (s.reg (qReg q 0)) 0 = false then s.setPair q { s.pair q with phase := 0 } else s := by
  simp only [queueDrain, Bool.not_eq_true']

/-! ### The event ring (R403) -/

theorem writeEventCfg_unagreed (h : s.agreed = false) {v : Nat} (hon : bitOf v 0 = true) : s.writeEventCfg v = s.orReg R.HI_ERR 2 := by
  simp [writeEventCfg, h, hon]

/-- The state of the event ring that has just been enabled. -/
def evEnabled (v : Nat) : State :=
  { ((s.setReg R.HI_EV_CFG (v &&& 0x7FF1F01)).setReg R.HI_EV_TAIL 0x10000).setReg R.HI_EV_HEAD 0 with hi := { s.hi with evOn := true } }

theorem writeEventCfg_enables (hagreed : s.agreed = true) (hev : s.hi.evOn = false) {v : Nat} (hon : bitOf v 0 = true) (hlow : 4 ≤ bitsOf v 12 8)
    (hhigh : bitsOf v 12 8 ≤ 16) : s.writeEventCfg v = s.evEnabled v := by
  have hsize : ¬ (bitsOf v 12 8 < 4 ∨ 16 < bitsOf v 12 8) := by omega
  simp only [writeEventCfg, evEnabled, hon, hagreed, hev, if_neg hsize, Bool.not_true, Bool.false_eq_true, if_false]

theorem evEnabled_effect (v : Nat) : let t := s.evEnabled v
    t.reg R.HI_EV_TAIL = 0x10000 ∧ t.reg R.HI_EV_HEAD = 0 ∧ t.reg R.HI_EV_CFG = v &&& 0x7FF1F01 ∧ t = { s with regs := t.regs, hi := { s.hi with evOn := true } } := by
  have hreg (o : Nat) : (s.evEnabled v).reg o = (((s.setReg R.HI_EV_CFG (v &&& 0x7FF1F01)).setReg R.HI_EV_TAIL 0x10000).setReg R.HI_EV_HEAD 0).reg o := rfl
  refine ⟨?_, ?_, ?_, rfl⟩
  · rw [hreg, reg_setReg_other _ _ (by decide), reg_setReg_self]
    rfl
  · rw [hreg, reg_setReg_self]
    rfl
  · rw [hreg, reg_setReg_other _ _ (by decide), reg_setReg_other _ _ (by decide), reg_setReg_self,
      Nat.mod_eq_of_lt (Nat.and_le_right.trans_lt (by decide))]

/-! ### Interrupts (R402) -/

/-- The Mask bit of a vector is clear, and its pending bit too where it is sent. -/
def unmasked (k : Nat) : State :=
  let u := s.setReg (0x80000 + 16 * k + 12) (s.reg (0x80000 + 16 * k + 12) / 2 * 2)
  if bitOf (s.reg (0x90000 + k / 32 * 4)) (k % 32) then u.setReg (0x90000 + k / 32 * 4) (s.reg (0x90000 + k / 32 * 4) - 2 ^ (k % 32)) else u

theorem bitOf_sub_self {x j : Nat} (h : bitOf x j = true) : bitOf (x - 2 ^ j) j = false := by
  have hpos : 0 < 2 ^ j := Nat.two_pow_pos j
  have hdiv : (x - 2 ^ j) / 2 ^ j = x / 2 ^ j - 1 := by
    have := Nat.sub_mul_div x (2 ^ j) 1
    rwa [Nat.mul_one] at this
  simp only [bitOf, beq_iff_eq] at h
  simp only [bitOf, hdiv, beq_eq_false_iff_ne, ne_eq]
  omega

theorem unmask_eq (k : Nat) :
    s.unmask k = if bitOf (s.reg (0x90000 + k / 32 * 4)) (k % 32) then (s.unmasked k).msix k else s.unmasked k := by
  have hapart : 0x90000 + k / 32 * 4 ≠ 0x80000 + 16 * k + 12 := by omega
  unfold unmask unmasked
  simp only [reg_setReg_other _ _ hapart]
  split
  · rfl
  · rfl

theorem unmasked_effect (k : Nat) : let u := s.unmasked k
    u.reg (0x80000 + 16 * k + 12) = s.reg (0x80000 + 16 * k + 12) / 2 * 2 ∧ s.regsOnly u ∧
    (bitOf (s.reg (0x90000 + k / 32 * 4)) (k % 32) = true → bitOf (u.reg (0x90000 + k / 32 * 4)) (k % 32) = false) := by
  have hapart : 0x80000 + 16 * k + 12 ≠ 0x90000 + k / 32 * 4 := by omega
  have hctl : (s.setReg (0x80000 + 16 * k + 12) (s.reg (0x80000 + 16 * k + 12) / 2 * 2)).reg (0x80000 + 16 * k + 12) = s.reg (0x80000 + 16 * k + 12) / 2 * 2 := by
    have hlt := s.reg_lt (0x80000 + 16 * k + 12)
    rw [reg_setReg_self, Nat.mod_eq_of_lt (by omega)]
  unfold unmasked
  dsimp only
  split
  next hpend =>
    refine ⟨by rw [reg_setReg_other _ _ hapart, hctl], regsOnly_trans (regsOnly_setReg ..) (regsOnly_setReg ..), fun _ => ?_⟩
    rw [reg_setReg_self, Nat.mod_eq_of_lt ((Nat.sub_le ..).trans_lt (s.reg_lt _)), bitOf_sub_self hpend]
  next hpend => exact ⟨hctl, regsOnly_setReg .., fun h => absurd h hpend⟩

end State

theorem exec_eventRingEnable (s : State) (v : Word) : exec (.eventRingEnable v) s = .next (s.writeEventCfg v.toNat) := rfl

/-- Settles O36: doorbells, the handshake, the enables and drains of queues and of the event ring, and interrupts, each by its lemma above. -/
theorem queuesAndRingsAreEnabled : Obligations.QueuesAndRingsAreEnabled := by
  intro s q v hq x
  have hunit {t u : State} (h : t = u) : onUnit (decide (q < 1024)) t = .next u := onUnit_next.2 ⟨decide_eq_true hq, h⟩
  refine ⟨s.badDoorbell_effect q, hunit rfl, hunit ?_, hunit ?_, hunit ?_, fun hqueues hev => ⟨_, rfl, s.handshake_effect hqueues hev v.toNat⟩,
    fun hbusy => congrArg _ (s.handshake_busy hbusy v.toNat), fun hno => ⟨hunit (s.enableQueue_unagreed hno ..), fun hon => congrArg _ (s.writeEventCfg_unagreed hno hon)⟩,
    fun hagreed => ⟨fun hoff hcfg => ?_, fun hoff hcfg => ?_, fun hdrain => hunit (s.enableQueue_draining hagreed hdrain _)⟩, fun hon => ?_, hunit (s.queueDrain_eq q),
    fun hagreed hev hon hlow hhigh => ?_, hunit ?_, fun k hk => ?_⟩
  · simp only [State.headOk_iff, x]
  · simp only [State.headOk_iff, x]
  · simp only [Bool.and_eq_true, beq_iff_eq, and_assoc, x]
  · refine ⟨s.enabled q (v.toNat ||| 1), hunit ?_, s.enabled_effect q _⟩
    rw [s.enableQueue_off hagreed hoff, if_pos hcfg]
  · refine ⟨_, hunit ?_, s.refused_effect q (v.toNat ||| 1)⟩
    rw [s.enableQueue_off hagreed hoff, if_neg (by rw [hcfg]; exact Bool.false_ne_true)]
  · exact ⟨_, hunit (s.disableQueue_on hon _), s.disabled_effect (v.toNat - v.toNat % 2) (by omega)⟩
  · exact ⟨_, (exec_eventRingEnable s v).trans (congrArg _ (s.writeEventCfg_enables hagreed hev hon hlow hhigh)), s.evEnabled_effect v.toNat⟩
  · simp only [← Nat.not_lt, ← not_or, ite_not, x, ne_eq]
  · obtain ⟨hctl, hregs, hpend⟩ := s.unmasked_effect k
    have hexec : exec (.msixUnmask k) s = .next (s.unmask k) := onUnit_next.2 ⟨decide_eq_true hk, rfl⟩
    rw [hexec, s.unmask_eq k]
    refine ⟨s.unmasked k, hctl, hregs, fun h => ⟨by rw [if_pos h], hpend h⟩, fun h => by rw [if_neg (by rw [h]; exact Bool.false_ne_true)]⟩

end Sys2Proof.Machine
end

section
/-! SUPPORT. The host port (R382–R394, R405, R427): resets, and the fetch and arrival of entries, and the statement about them. -/

namespace Sys2Proof.Machine

namespace State

variable (s : State)

/-! ### A reset of the host port (R384) -/

/-- A reset of the host port keeps the registers that HI does not reset (R384, R409). -/
theorem reg_hostReset {o : Nat} (ho : hiKeeps o = true) : s.hostReset.reg o = s.reg o := by
  have hfold (img m : Map Word) (himg : ∀ r ∈ img, hiKeeps r.1 = false) :
      Map.getD (regReset o) (img.foldl (fun m r => Map.store (regReset r.1) m r.1 r.2) m) o = Map.getD (regReset o) m o := by
    induction img generalizing m with
    | nil => rfl
    | cons r l ih =>
      have hne : o ≠ r.1 := fun h => by
        have hr := himg r List.mem_cons_self
        rw [← h, ho] at hr
        exact Bool.noConfusion hr
      rw [List.foldl_cons, ih _ fun x hx => himg x (List.mem_cons_of_mem _ hx), Map.getD_store_other _ _ _ _ hne]
  have himg : ∀ r ∈ s.im.regs.filter fun r => !hiKeeps r.1, hiKeeps r.1 = false := fun r hr => by simpa using (List.mem_filter.1 hr).2
  have hkept : Map.getD (regReset o) (s.regs.filter fun r => hiKeeps r.1) o = Map.getD (regReset o) s.regs o := by
    rw [Map.getD, Map.getD, Memory.get?_filter, if_pos ho]
  exact congrArg BitVec.toNat ((hfold _ _ himg).trans hkept)

theorem linkReset_reqs : ∀ r ∈ s.linkReset.hi.reqs, (r.phase = .chosen ∨ r.phase = .admitted) ∧ 1024 ≤ r.q := by
  intro r hr
  obtain ⟨r', hr', rfl⟩ := List.mem_map.1 hr
  refine ⟨by simpa using (List.mem_filter.1 hr').2, ?_⟩
  dsimp only
  split
  · omega
  · omega

theorem hostReset_frame : ∃ g h k, s.hostReset = { s with regs := g, hi := h, sk := k } := by
  unfold hostReset stopGenerates
  exact ⟨_, _, _, rfl⟩

theorem linkReset_effect : let t := s.linkReset
    (∀ q, t.pair q = QPair.off) ∧ t.hi.evOn = false ∧ t.hi.peer = [] ∧ (∀ r ∈ t.hi.reqs, (r.phase = .chosen ∨ r.phase = .admitted) ∧ 1024 ≤ r.q) ∧
    s.logs t 0x2087 0xFFFF 0 ∧ (∀ o, 0x100000 ≤ o → t.reg o = s.reg o) ∧ t.mem = s.mem ∧ t.stk = s.stk ∧ t.cores = s.cores ∧ t.kv = s.kv := by
  obtain ⟨g, h, k, hreset⟩ := s.hostReset_frame
  refine ⟨fun _ => rfl, rfl, rfl, s.linkReset_reqs, ?_, fun o ho => ?_, ?_⟩
  · rw [linkReset, hreset]
    rfl
  · rw [linkReset, reg_report, s.reg_hostReset (by simp [hiKeeps, ho])]
  · rw [linkReset, hreset]
    exact ⟨rfl, rfl, rfl, rfl⟩

/-! ### Entry fetch (R391, R392) -/

theorem probeNext_frame (q : Nat) : s.probeNext q = { s with hi := { s.hi with pairs := (s.probeNext q).hi.pairs } } := by
  unfold probeNext
  split
  · rfl
  · rfl

theorem unprobe_frame (q : Nat) : s.unprobe q = { s with hi := { s.hi with pairs := (s.unprobe q).hi.pairs } } := by
  unfold unprobe
  split
  · rfl
  · rfl

/-- The state once one entry of queue q has been requested: its read is on its way, and the head moves on. -/
def fetchedOne (q : Nat) : State :=
  { s with
    out := s.out ++ [.hostRead (s.reg64 (qReg q 0x10) + 64 * (s.reg (qReg q 0x28) % 65536)) 64]
    hi := { (s.probeNext q).hi with last := q, reqs := s.hi.reqs ++ [blankReq q (s.reg (qReg q 0x28) % 65536) (bitsOf (s.reg (qReg q 8)) 5 0)] } }

theorem fetchEntries_one (q : Nat) : fetchEntries q 1 (s.hiUpd fun h => { h with last := q }) =
    ((s.fetchedOne q).markTags .remote ((s.fetchedOne q).inUse .remote)).setReg (qReg q 0x28) (bump (s.reg (qReg q 0x28)) (s.sqSize q)) := by
  have hprobe : (s.hiUpd fun h => { h with last := q }).probeNext q = { s with hi := { (s.probeNext q).hi with last := q } } := by
    unfold probeNext
    change (if s.probing q then _ else _) = _
    split
    · rfl
    · rfl
  have hreqs : (s.probeNext q).hi.reqs = s.hi.reqs := by rw [probeNext_frame]
  rw [show (1 : Nat) = 0 + 1 from rfl, fetchEntries, fetchEntries]
  rw [hprobe]
  simp only [fetchedOne, ← hreqs]
  rfl

theorem fetchedOne_inUse (q : Nat) : (s.fetchedOne q).inUse .remote = s.inUse .remote + 1 := by
  simp [inUse, entryReads, fetchedOne, List.filter_append, blankReq, Nat.add_assoc]

theorem fetchable_without_tags (h : s.hostTags = 0) (q : Nat) : s.fetchable q = 0 := by simp [fetchable, h]

/-! ### Entries that arrive (R392, R405) -/

theorem arriveEntry_none {q : Nat} (h : s.hi.reqs.find? (fun r => r.q == q && r.phase == .fetching) = none) (ok : Bool) (e : Nat) (d : List Byte) (b : Bool) :
    s.arriveEntry q ok e d b = s := by
  simp only [arriveEntry, h]

theorem arriveEntry_bad {q : Nat} {r : Req} (h : s.hi.reqs.find? (fun r => r.q == q && r.phase == .fetching) = some r) (e : Nat) (d : List Byte) (b : Bool) :
    s.arriveEntry q false e d b = (({ s.unprobe q with hi := { (s.unprobe q).hi with reqs := s.hi.reqs.filter fun y => !(y.q == r.q && y.index == r.index) } } : State).queueError
      q 1 r.index) := by
  have hreqs : (s.unprobe q).hi.reqs = s.hi.reqs := by rw [unprobe_frame]
  simp only [arriveEntry, h, Bool.not_false, if_true, hiUpd, hreqs]

theorem arriveEntry_expected {q : Nat} {r : Req} (h : s.hi.reqs.find? (fun r => r.q == q && r.phase == .fetching) = some r) (hprobe : (s.pair q).probe = false)
    (e : Nat) (d : List Byte) (b : Bool) : s.arriveEntry q true e d b = s.takeEntry r e d b := by
  have hno : s.unprobe q = s := by simp [unprobe, hprobe]
  simp [arriveEntry, h, hprobe, hno]

/-- The state in which the arrived entry r waits for its checks. -/
def entryTaken (r : Req) (e : Nat) (d : List Byte) (ok : Bool) : State :=
  (s.count R.HI_FETCH_LO 1).updReq r fun _ => { r with entry := e, data := d, dataOk := ok, phase := .waiting }

theorem takeEntry_bad {r : Req} {e st dt : Nat} {d : List Byte} {ok : Bool}
    (h : (s.entryTaken r e d ok).fetchError { r with entry := e, data := d, dataOk := ok, phase := .waiting } = some (st, dt)) :
    s.takeEntry r e d ok = (s.entryTaken r e d ok).complete { r with entry := e, data := d, dataOk := ok, phase := .waiting } st dt 0 := by
  unfold entryTaken at h ⊢
  simp only [takeEntry, h]

theorem takeEntry_good {r : Req} {e : Nat} {d : List Byte} {ok : Bool}
    (h : (s.entryTaken r e d ok).fetchError { r with entry := e, data := d, dataOk := ok, phase := .waiting } = none)
    (hmodel : (s.entryTaken r e d ok).modelOf { r with entry := e, data := d, dataOk := ok, phase := .waiting } = none ∨ (s.entryTaken r e d ok).ti.lost = []) :
    s.takeEntry r e d ok = s.entryTaken r e d ok := by
  unfold entryTaken at h hmodel ⊢
  simp only [takeEntry, h]
  rcases hmodel with hmodel | hlost
  · rw [hmodel]
  · split
    · simp only [hlost]
      rfl
    · rfl

/-- One entry of queue q has been requested. -/
theorem fetchEntries_one_effect (q : Nat) : let h := s.reg (qReg q 0x28); let t := fetchEntries q 1 (s.hiUpd fun h => { h with last := q })
    t.reg (qReg q 0x28) = bump h (s.sqSize q) % 2 ^ 32 ∧ t.inUse .remote = s.inUse .remote + 1 ∧
    t = { s with regs := t.regs, out := s.out ++ [.hostRead (s.reg64 (qReg q 0x10) + 64 * (h % 65536)) 64]
                 hi := { (s.probeNext q).hi with last := q, reqs := s.hi.reqs ++ [blankReq q (h % 65536) (bitsOf (s.reg (qReg q 8)) 5 0)] } } := by
  intro h t
  have ht : t = ((s.fetchedOne q).markTags .remote ((s.fetchedOne q).inUse .remote)).setReg (qReg q 0x28) (bump h (s.sqSize q)) := s.fetchEntries_one q
  have hregs : (s.fetchedOne q).regsOnly t := by
    rw [ht]
    exact regsOnly_trans (markTags_regsOnly ..) (regsOnly_setReg ..)
  obtain ⟨g, hg⟩ := regsOnly_iff.1 hregs
  refine ⟨by rw [ht, reg_setReg_self], ?_, ?_⟩
  · rw [hg]
    exact s.fetchedOne_inUse q
  · rw [hg]
    rfl

end State

theorem exec_entryFetch (s : State) : exec .entryFetch s =
    .next (match s.nextQueue with | some q => State.fetchEntries q (s.fetchable q) (s.hiUpd fun h => { h with last := q }) | none => s) := rfl

/-- Settles O37: resets by their frame, the link by its conditions, and the fetch and arrival of entries by their lemmas above. -/
theorem hostPortResetsAndFetches : Obligations.HostPortResetsAndFetches := by
  intro s t
  refine ⟨s.linkReset_effect, rfl, rfl, rfl, rfl, rfl, fun cxl hperst hheld hstart => ?_, fun cxl hperst => ?_, fun d => ?_, fun q hq hnext hone => ?_, fun q h => s.fetchable_without_tags h q,
    fun hnone => by rw [exec_entryFetch, hnone], fun q e d ok hq => ⟨fun hnone b => ?_, fun r hr => ⟨?_, fun hprobe => ⟨fun st dt herr => ?_, fun herr hmodel => ?_⟩⟩⟩⟩
  · have hgo : (s.hi.perst && !s.pw.held0 && !(s.gl.kind == 0 && s.gl.running && s.gl.phase == 1)) = true := by
      simp only [hperst, hheld, Bool.not_false, Bool.true_and, Bool.not_eq_true', Bool.and_eq_false_iff, beq_eq_false_iff_ne]
      tauto
    simp only [exec, execHostLinkUp, hgo, if_true]
  · simp only [exec, execHostLinkUp, hperst, Bool.false_and, Bool.false_eq_true, if_false]
  · have hcond : (s.gl.kind == 0 && s.gl.running && Nat.ble s.gl.phase 2) = true ↔ s.gl.kind = 0 ∧ s.gl.running ∧ s.gl.phase ≤ 2 := by
      simp [and_assoc]
    simp only [exec, execConfigurationRequest, hcond]
    cases d
    · rfl
    · rfl
  · have hexec : exec .entryFetch s = .next (State.fetchEntries q 1 (s.hiUpd fun h => { h with last := q })) := by
      rw [exec_entryFetch, hnext, ← hone]
    exact ⟨_, hexec, s.fetchEntries_one_effect q⟩
  · exact onUnit_next.2 ⟨decide_eq_true hq, s.arriveEntry_none hnone ..⟩
  · exact onUnit_next.2 ⟨decide_eq_true hq, s.arriveEntry_bad hr ..⟩
  · exact onUnit_next.2 ⟨decide_eq_true hq, (s.arriveEntry_expected hr hprobe ..).trans (s.takeEntry_bad herr)⟩
  · exact onUnit_next.2 ⟨decide_eq_true hq, (s.arriveEntry_expected hr hprobe ..).trans (s.takeEntry_good herr hmodel)⟩

end Sys2Proof.Machine
end

section
/-! SUPPORT. What a request's work leaves of the context records (R219, R397, R406). -/

namespace Sys2Proof.Machine

namespace State

variable (s : State)

/-! ### Requests that the cut has let start (R219, R406) -/

theorem onRequest_some {s : State} {q cid op : Nat} {r : Req} (h : s.started q cid op = some r) (f : State → Req → State) : s.onRequest q cid op f = f s r := by
  rw [onRequest, h]

theorem onRequest_none {s : State} {q cid op : Nat} (h : s.started q cid op = none) (f : State → Req → State) : s.onRequest q cid op f = s := by
  rw [onRequest, h]

theorem atOnce_none {s : State} {q cid op : Nat} (h : s.findReq q cid op .waiting = none) : s.atOnce q cid op = s := by
  rw [atOnce, h]

theorem ranRequest_some {s : State} {q cid op c : Nat} {r : Req} (h : s.findReq q cid op .admitted = some r) (htarget : r.target = some c)
    (herr : r.err = none) (hdone : r.done = none) (f : State → Req → Nat → State) : s.ranRequest q cid op f = f s r c := by
  simp only [ranRequest, h, htarget, herr, hdone, Option.isSome_none, Bool.or_self, Bool.false_eq_true, if_false]

theorem skRan_some {s : State} {q cid op : Nat} {r : Req} (h : s.findReq q cid op .admitted = some r) : s.skRan q cid op =
    { s with sk := { s.sk with updates := s.sk.updates.map fun u => if u.q = r.q ∧ u.slot = r.index then { u with ran := true } else u } } := by
  rw [skRan, h]
  rfl

/-! ### TRUNCATE and DELETE leave the contexts' other fields (R219) -/

theorem ctx_setCtx_self (x : Nat) (c : Ctx) : (s.setCtx x c).ctx x = c := Map.getD_store_self ..

theorem ctx_congr {s t : State} (h : t.kv.ctxs = s.kv.ctxs) (x : Nat) : t.ctx x = s.ctx x := by
  rw [ctx, ctx, h]

theorem ctx_freeRecord (x : Nat) : (s.freeRecord x).ctx x = Ctx.empty := s.ctx_setCtx_self x Ctx.empty

theorem kv_foldl {α : Type} {f : State → α → State} (hf : ∀ s x, (f s x).kv = s.kv) (l : List α) (s : State) : (l.foldl f s).kv = s.kv :=
  List.foldlRecOn l f (motive := fun t => t.kv = s.kv) rfl fun t ht x _ => (hf t x).trans ht

theorem ctxs_foldl {α : Type} {f : State → α → State} (hf : ∀ s x, (f s x).kv.ctxs = s.kv.ctxs) (l : List α) (s : State) :
    (l.foldl f s).kv.ctxs = s.kv.ctxs :=
  List.foldlRecOn l f (motive := fun t => t.kv.ctxs = s.kv.ctxs) rfl fun t ht x _ => (hf t x).trans ht

/-- A write to device memory reaches the stacks, or waits behind a ZERO (R266). -/
theorem devWrite_frame (a : Nat) (bs : List Byte) : s.devWrite a bs =
    { s with stk := (s.devWrite a bs).stk, ti := { s.ti with after := (s.devWrite a bs).ti.after } } := by
  have hlist (l : List (Nat × Nat × Nat)) (t : State) (bs : List Byte) : t.devWriteList l bs =
      { t with stk := (t.devWriteList l bs).stk, ti := { t.ti with after := (t.devWriteList l bs).ti.after } } := by
    induction l generalizing t bs with
    | nil => rfl
    | cons e l ih =>
      obtain ⟨g, o, m⟩ := e
      rw [devWriteList]
      split
      · exact ih ..
      · unfold writeHome
        split
        · exact ih ..
        · exact ih ..
  exact hlist ..

theorem devWrite_kv (a : Nat) (bs : List Byte) : (s.devWrite a bs).kv = s.kv := by rw [devWrite_frame]

theorem warmedTo_kv {s t : State} (h : s.warmedTo t) : t.kv = s.kv := by rw [h]

theorem tableWrite_kv (a : Nat) (bs : List Byte) : (s.tableWrite a bs).kv = s.kv :=
  calc (s.tableWrite a bs).kv = ((s.tagPulse .write).devWrite a bs).kv := warmedTo_kv (heat_warmedTo ..)
    _ = (s.tagPulse .write).kv := devWrite_kv ..
    _ = s.kv := warmedTo_kv (warmedTo_of_regsOnly (s.markTags_regsOnly ..))

theorem setPft_kv (pn v : Nat) : (s.setPft pn v).kv = s.kv := tableWrite_kv ..

theorem putRoot_kv (x r v : Nat) : (s.putRoot x r v).kv = s.kv := by
  refine kv_foldl (fun t a => ?_) _ s
  split
  · exact tableWrite_kv ..
  · rfl

theorem spoilBlock_ctxs (d a : Nat) : (s.spoilBlock d a).kv.ctxs = s.kv.ctxs := by
  unfold spoilBlock
  split
  · rfl
  · rfl

theorem spoilPage_ctxs (d pn : Nat) : (s.spoilPage d pn).kv.ctxs = s.kv.ctxs := by
  unfold spoilPage
  dsimp only [kvUpd]
  split
  · exact congrArg KvState.ctxs ((setPft_kv ..).trans (setPft_kv ..))
  · exact congrArg KvState.ctxs (setPft_kv ..)

theorem dropRef_ctxs (d a : Nat) : (s.dropRef d a).kv.ctxs = s.kv.ctxs := by
  unfold dropRef
  dsimp only
  split
  · exact spoilPage_ctxs ..
  · exact congrArg KvState.ctxs (setPft_kv ..)

theorem releaseRow_ctxs (m : Model) (d row : Nat) : (s.releaseRow m d row).kv.ctxs = s.kv.ctxs := by
  have hpages : (s.dropPages d row m.layers).kv.ctxs = s.kv.ctxs := by
    refine ctxs_foldl (fun t l => ?_) _ s
    split
    · exact dropRef_ctxs ..
    · rfl
  refine (spoilBlock_ctxs ..).trans ?_
  split
  · exact hpages
  · exact (spoilBlock_ctxs ..).trans hpages

theorem dropCopies_ctxs (x : Nat) (f : CowCopy → Bool) : (s.dropCopies x f).kv.ctxs = s.kv.ctxs := by
  unfold dropCopies
  dsimp only [kvUpd]
  exact ctxs_foldl (fun t c => dropRef_ctxs ..) _ s

/-- What TRUNCATE does to the tables leaves the context records; it sets LEN last. -/
theorem len_truncate {x : Nat} (h : (s.model (s.ctx x).model).isSome = true) (n : Nat) : ((s.truncate x n).ctx x).len = min (s.ctx x).len n := by
  obtain ⟨m, hm⟩ := Option.isSome_iff_exists.1 h
  unfold truncate
  simp only [hm]
  unfold updCtx
  rw [ctx_setCtx_self]
  refine congrArg (fun c : Ctx => min c.len n) (ctx_congr ?_ x)
  dsimp only [kvUpd]
  refine (ctxs_foldl (fun t a => ?_) _ _).trans (dropCopies_ctxs ..)
  obtain ⟨r, row⟩ := a
  dsimp only
  split
  · exact (congrArg KvState.ctxs (putRoot_kv ..)).trans (releaseRow_ctxs ..)
  split
  · have hrecords : ∀ k, ((List.range (m.tpp - k)).foldl (fun s i => s.setRecord m row (k + i) padRecord) t).kv = t.kv :=
      fun k => kv_foldl (fun u i => tableWrite_kv ..) _ t
    split
    · refine congrArg KvState.ctxs ((kv_foldl (fun u i => tableWrite_kv ..) _ _).trans ?_)
      exact (tableWrite_kv ..).trans ((tableWrite_kv ..).trans (hrecords _))
    · exact congrArg KvState.ctxs ((tableWrite_kv ..).trans ((tableWrite_kv ..).trans (hrecords _)))
  · rfl

theorem ctx_deleteCtx (x : Nat) : (s.deleteCtx x).ctx x = Ctx.empty := by
  unfold deleteCtx
  dsimp only
  split
  · exact ctx_freeRecord ..
  · exact ctx_freeRecord ..

end State

end Sys2Proof.Machine
end

section
/-! SUPPORT. Requests (R219, R265, R281, R369, R396–R400, R406): what each does once it may start, and the statement about them. -/

namespace Sys2Proof.Machine

namespace State

variable (s : State)

/-! ### FORK (R219) -/

theorem ctx_kvUpd_setCtx (x : Nat) (c : Ctx) {f : KvState → KvState} (hf : ∀ k, (f k).ctxs = k.ctxs) : ((s.setCtx x c).kvUpd f).ctx x = c :=
  (ctx_congr (hf _) x).trans (s.ctx_setCtx_self x c)

/-- The record of a fork's child: its parent's length, model and polder, under the request's priority and segment. -/
theorem fork_effect {s u : State} {r : Req} {f left : ForkPlan} {m : Model}
    (hplan : (s.kv.forks.find? fun f => f.q == r.q % 1024 && f.index == r.index) = some f)
    (hmodel : s.model (s.ctx r.ctx).model = some m) (hhome : s.forkAway m r.ctx = [])
    (hrows : forkRows m r.ctx f.child (s.ctx r.ctx).polder ((s.rowsNext r.ctx).filter fun a => s.rowTok a.2 != 0) f s = .ok (left, u)) :
    ∃ t : State, s.fork r = t.complete r 0 0 f.child ∧ (t.ctx f.child).phase = .active ∧ (t.ctx f.child).seq = r.field 16 8 ∧
      (t.ctx f.child).prio = r.field 24 1 % 8 ∧ (t.ctx f.child).root = f.root ∧ (t.ctx f.child).len = (s.ctx r.ctx).len := by
  unfold fork
  simp only [hplan, hmodel, hhome, ne_eq, not_true_eq_false, if_false, hrows]
  refine ⟨_, rfl, ?_⟩
  rw [ctx_kvUpd_setCtx]
  · exact ⟨rfl, rfl, rfl, rfl, rfl⟩
  · exact fun _ => rfl

theorem fork_unplanned {s : State} {r : Req} (h : (s.kv.forks.find? fun f => f.q == r.q % 1024 && f.index == r.index) = none) :
    s.fork r = s.updReq r fun q => { q with phase := .waiting } := by
  unfold fork
  simp only [h]

theorem fork_away {s : State} {r : Req} {f : ForkPlan} {m : Model}
    (hplan : (s.kv.forks.find? fun f => f.q == r.q % 1024 && f.index == r.index) = some f)
    (hmodel : s.model (s.ctx r.ctx).model = some m) (haway : s.forkAway m r.ctx ≠ []) :
    s.fork r = (s.forkAway m r.ctx).foldl State.demand s := by
  unfold fork
  simp only [hplan, hmodel, haway, ne_eq, not_false_eq_true, if_true]

/-! ### LOAD and SUPPLY write to the stacks (R281, R397) -/

/-- Nothing but map entries and the copies of the indexes' valid marks has changed. -/
def marksOnly (t : State) : Prop := t = { s with ti := { s.ti with map := t.ti.map }, sk := { s.sk with valid := t.sk.valid } }

theorem marksOnly_trans {s t u : State} (h : s.marksOnly t) (h' : t.marksOnly u) : s.marksOnly u := by
  unfold marksOnly at h h' ⊢
  rw [h', h]

theorem foldl_marksOnly {α : Type} {f : State → α → State} (hf : ∀ t a, marksOnly t (f t a)) (l : List α) : s.marksOnly (l.foldl f s) :=
  List.foldlRecOn l f (motive := s.marksOnly) rfl fun t ht a _ => marksOnly_trans ht (hf t a)

theorem updEntry_marksOnly (g : Nat) (f : MapEntry → MapEntry) : s.marksOnly (s.updEntry g f) := by
  unfold updEntry setEntry
  split
  · rfl
  · rfl

theorem heat_marksOnly (a n : Nat) : s.marksOnly (s.heat a n) := by
  refine s.foldl_marksOnly (fun t p => ?_) _
  dsimp only
  split
  · rfl
  · exact t.updEntry_marksOnly ..

theorem skSeen_marksOnly (a n : Nat) : s.marksOnly (s.skSeen a n) := by
  refine s.foldl_marksOnly (fun t e => ?_) _
  refine t.foldl_marksOnly (fun u i => ?_) _
  rfl

/-- A write to granules that await no ZERO goes to the stacks alone. -/
theorem devWriteList_stk (l : List (Nat × Nat × Nat)) (bs : List Byte) (h : ∀ e ∈ l, s.awaitsZero e.1 = false) :
    s.devWriteList l bs = { s with stk := (s.devWriteList l bs).stk } := by
  induction l generalizing s bs with
  | nil => rfl
  | cons e l ih =>
    obtain ⟨g, o, m⟩ := e
    obtain ⟨hg, hl⟩ := List.forall_mem_cons.1 h
    rw [devWriteList]
    by_cases hspill : (s.entry g).spill = true
    · rw [if_pos hspill]
      exact ih s _ hl
    · have hzero : s.ti.zeroing.contains ((s.entry g).stack * 2 ^ 20 + (s.entry g).frame) = false := by simpa [awaitsZero, hspill] using hg
      rw [if_neg hspill, writeHome, hzero, if_neg Bool.false_ne_true]
      exact ih (s.writeFrame ..) _ hl

theorem devWrite_stk {a : Nat} {bs : List Byte} (h : ∀ e ∈ extent a bs.length, s.awaitsZero e.1 = false) :
    s.devWrite a bs = { s with stk := (s.devWrite a bs).stk } := s.devWriteList_stk _ bs h

theorem load_effect {s : State} {r : Req} (hhomes : s.loadHomes r = (true, s)) (hzero : ∀ e ∈ loadExtent r, s.awaitsZero e.1 = false)
    (hpages : s.loadPages r = []) : let n := 64 * r.field 32 4; ∃ u : State, s.load r = u.complete r 0 0 (r.field 32 4) ∧
      u = { s with stk := (s.devWrite (r.field 24 8) ((r.data ++ List.replicate n 0).take n)).stk,
                   ti := { s.ti with map := u.ti.map }, sk := { s.sk with valid := u.sk.valid } } := by
  intro n
  have hany : ((loadExtent r).any fun e => s.awaitsZero e.1) = false := by simpa using hzero
  have hlen : ((r.data ++ List.replicate n 0).take n).length = n := by simp
  have hwrite := s.devWrite_stk (a := r.field 24 8) (bs := (r.data ++ List.replicate n 0).take n) (by rw [hlen]; exact hzero)
  unfold load
  simp only [hhomes, hany, Bool.false_eq_true, if_false, hpages, List.foldl_nil]
  refine ⟨_, rfl, ?_⟩
  have hmarks : (s.devWrite (r.field 24 8) ((r.data ++ List.replicate n 0).take n)).marksOnly
      ((loadExtent r).foldl (fun s e => if e.2.2 = 65536 then s.updEntry e.1 fun x => { x with poison := false } else s)
        (((s.devWrite (r.field 24 8) ((r.data ++ List.replicate n 0).take n)).heat (r.field 24 8) n).skSeen (r.field 24 8) n)) := by
    refine marksOnly_trans (marksOnly_trans (heat_marksOnly ..) (skSeen_marksOnly ..)) (foldl_marksOnly _ (fun t e => ?_) _)
    split
    · exact updEntry_marksOnly ..
    · rfl
  unfold marksOnly at hmarks
  rw [hmarks, hwrite]
  simp [kvUpd]

theorem supply_unexpected {s : State} {r : Req} (hnone : s.ti.supply.get? (r.field 24 8) = none) (hexpired : r.field 24 8 ∉ s.ti.expired) :
    s.supply r = s.complete r 9 0 0 := by
  have hunasked : ((s.ti.supply.get? (r.field 24 8)).isNone && !s.ti.expired.contains (r.field 24 8)) = true := by simp [hnone, hexpired]
  unfold supply
  exact if_pos hunasked

theorem supply_effect {s : State} {r : Req} : let g := r.field 24 8
    (s.ti.supply.get? g).isSome = true → s.planned g = false → (s.entry g).spill = false → s.awaitsZero g = false → (s.entryNo g).isSome = true →
      ∃ u : State, s.supply r = ((u.count R.TI_RESUPPLY_OK_LO 1).pumpResume g).complete r 0 0 0 ∧ (u.entry g).poison = false ∧
        u.ti.supply = s.ti.supply.del g ∧ u.stk = (s.devWrite (g * 65536) ((r.data ++ List.replicate 65536 0).take 65536)).stk := by
  intro g hsupply hplanned hspill hzero hmapped
  have hmove : s.moveOf g = none := by
    refine List.find?_eq_none.2 fun m hm => ?_
    simp [List.any_eq_false.1 hplanned m hm]
  have hexpected : ((s.ti.supply.get? g).isNone && !s.ti.expired.contains g) = false := by
    rw [Option.isNone_eq_false_iff.2 hsupply, Bool.false_and]
  unfold supply
  simp only [show r.field 24 8 = g from rfl, hexpected, hmove, hspill, hzero, Option.isSome_none, Bool.or_self, Bool.false_and, Bool.false_eq_true, if_false]
  refine ⟨_, rfl, ?_⟩
  generalize hw : s.devWrite (g * 65536) ((r.data ++ List.replicate 65536 0).take 65536) = w
  have hframe := s.devWrite_frame (g * 65536) ((r.data ++ List.replicate 65536 0).take 65536)
  rw [hw] at hframe
  have hheat := w.heat_marksOnly (g * 65536) 65536
  generalize w.heat (g * 65536) 65536 = v at hheat
  have hmapped' : (v.entryNo g).isSome = true := by rw [hheat, hframe]; exact hmapped
  have hpoison : ((v.updEntry g fun x => { x with poison := false }).entry g).poison = false := by rw [entry_updEntry_self hmapped']
  have hclear := v.updEntry_marksOnly g fun x => { x with poison := false }
  refine ⟨hpoison, ?_, ?_⟩
  · show (v.updEntry g fun x => { x with poison := false }).ti.supply.del g = _
    rw [hclear, hheat, hframe]
  · show (v.updEntry g fun x => { x with poison := false }).stk = _
    rw [hclear, hheat]

/-! ### RANK_TABLE and SPILL_REGISTER (R265, R369) -/

theorem rankTable_refused {s : State} {r : Req} {d : Nat} (h : s.tableRefused r.data = some d) : s.rankTable r = s.complete r 0x1B d 0 := by
  rw [rankTable, h]

theorem rankTable_accepted {s : State} {r : Req} (h : s.tableRefused r.data = none) : let t := s.rankTable r
    t = { s with cu := { s.cu with next := some r.data }, hi := { s.hi with reqs := t.hi.reqs } } := by
  dsimp only
  rw [rankTable, h]
  rfl

theorem spillRegister_twice {s : State} {r : Req} (h : s.ti.ready = true) : s.spillRegister r = s.complete r 9 0 0 := by
  unfold spillRegister
  exact if_pos h

theorem spillRegister_good {s : State} {r : Req} (hready : s.ti.ready = false) : let n := s.reg R.TI_SPILL_GRANULES; let k := r.field 24 4 % 2 ^ 29
    n ≤ k → (∀ i, i < k → leField r.data (8 * i) 8 % 65536 = 0) → s.spillRegister r =
      ({ s with ti := { s.ti with spill := ((List.range k).map fun i => leField r.data (8 * i) 8).take n, ready := true } } : State).complete r 0 0 n := by
  intro n k hn haligned
  have hgood : ((List.range k).map fun i => leField r.data (8 * i) 8).any (fun a => a % 65536 != 0) = false := by
    simpa using haligned
  unfold spillRegister
  dsimp only
  rw [if_neg (by rw [hready]; exact Bool.false_ne_true), if_neg (Nat.not_lt.2 hn), if_neg (by rw [hgood]; exact Bool.false_ne_true)]
  rfl

/-! ### ABORT (R406, R407) -/

theorem abort_stopped {s : State} {r : Req} (h : r.tokens ≠ []) : s.abort r = s.complete r 0 0 1 := if_pos h

theorem abort_untargeted {s : State} {r : Req} (htokens : r.tokens = []) (h : s.abortTarget r = none) : s.abort r = s.complete r 0 0 0 := by
  rw [abort, if_neg (not_not.2 htokens), h]

theorem abort_waiting {s : State} {r t : Req} (htokens : r.tokens = []) (h : s.abortTarget r = some t) (hphase : t.phase = .waiting)
    (hearly : t.opcode = 3 ∨ t.start = none) :
    s.abort r = ((s.writeBuffer t).complete t 0x19 (genDetail t) (s.genResult t)).complete r 0 0 1 := by
  have hcut : t.phase = .waiting ∧ ((t.opcode == 3) || t.start.isNone) = true := ⟨hphase, by simpa using hearly⟩
  rw [abort, if_neg (not_not.2 htokens), h]
  exact if_pos hcut

theorem abort_running {s : State} {r t : Req} (htokens : r.tokens = []) (h : s.abortTarget r = some t) (hphase : t.phase ≠ .waiting)
    (hdone : t.done = none) (herr : t.err = none) (hop : t.opcode ≠ 3) : s.abort r = s.complete r 0 0 2 := by
  rw [abort, if_neg (not_not.2 htokens), h]
  dsimp only
  rw [if_neg fun hcut => hphase hcut.1, hdone, herr, if_neg (by simp), if_neg (by simpa using hop)]

/-! ### Requests of the running step (R396, R397) -/

theorem markRan_ran (x : Nat) : ∀ g ∈ (s.markRan x).kv.growth, g.ctx = x → g.epoch = s.epoch → g.ran = true := by
  intro g hg hctx hepoch
  obtain ⟨g', -, rfl⟩ := List.mem_map.1 hg
  split at hctx
  · next h => rw [if_pos h]
  · next h =>
    rw [if_neg h] at hepoch
    exact absurd ⟨hctx, hepoch⟩ h

/-- A chunk that has run marks its growth; of the rest only the requests may change. -/
theorem ranTokens_effect (r : Req) (x : Nat) : let t := s.ranTokens r x
    t = { s with kv := { s.kv with growth := t.kv.growth }, hi := { s.hi with reqs := t.hi.reqs } } ∧
      ∀ g ∈ t.kv.growth, g.ctx = x → g.epoch = s.epoch → g.ran = true := by
  unfold ranTokens
  dsimp only
  split
  · exact ⟨rfl, s.markRan_ran x⟩
  · exact ⟨rfl, s.markRan_ran x⟩

/-- The outcome of a GENERATE's draw from a row of logits (R73, R74). -/
def drawn (r : Req) (c : Nat) (zs : List Word) : Sample :=
  sample (zs.map fun z => fp32L.decode z.toNat) (fp32L.decode (r.field 28 4)) (if r.field 48 2 = 0 then 1024 else r.field 48 2)
    (fp32L.decode (r.field 52 4)) (tokenDraw r (s.seqLen c))

section

variable {s : State} {r : Req} {c : Nat} {zs : List Word}

theorem generate_token {tok : Nat} (hdue : (s.kv.growth.any fun g => g.ctx == c && g.epoch == s.epoch && !g.ran) = true)
    (hdrawn : s.drawn r c zs = .token tok) (ok : Bool) : s.generate r c zs ok = s.takeToken r c tok ok := by
  unfold drawn at hdrawn
  unfold generate
  rw [hdue, if_neg (by simp)]
  dsimp only
  rw [hdrawn]

theorem generate_invalid (hdue : (s.kv.growth.any fun g => g.ctx == c && g.epoch == s.epoch && !g.ran) = true)
    (hdrawn : s.drawn r c zs = .invalidLogits) (ok : Bool) :
    ∃ u : State, s.generate r c zs ok = (u.failReq r 0x16 0 0).dropNext c ∧ u = { s with kv := { s.kv with growth := u.kv.growth } } := by
  unfold drawn at hdrawn
  unfold generate
  rw [hdue, if_neg (by simp)]
  dsimp only
  rw [hdrawn]
  exact ⟨_, rfl, rfl⟩

end

end State

/-- Settles O38: a request that has not started changes nothing, and each that has does what its lemma above says. -/
theorem requestsRunAndComplete : Obligations.RequestsRunAndComplete := by
  intro s q cid r hq go starts runs
  have hunit {t u : State} (h : t = u) : onUnit (decide (q < 1024)) t = .next u := onUnit_next.2 ⟨decide_eq_true hq, h⟩
  refine ⟨?idle, fun h => hunit (State.onRequest_some h _), ?truncate, ?delete, fun h => ?fork, ?table, fun h => ?spill, fun h => ?load, fun h => ?supply,
    fun h => ?abort, fun c htarget herr hdone => ⟨?chunk, ?generate, fun imm h => hunit (State.ranRequest_some h htarget herr hdone _)⟩, ?update, ?merge, ?search⟩
  case idle =>
    intro hidle
    have hnone : ∀ op ∈ [4, 5, 6, 0x20, 0x21, 0x22, 0x23, 0x24, 0x25], ∀ f, s.onRequest q cid.toNat op f = s :=
      fun op hop f => State.onRequest_none (hidle op hop).1 f
    have hlate : ∀ op ∈ [4, 5, 6, 0x20, 0x21, 0x22, 0x23, 0x24, 0x25], ∀ f, (s.atOnce q cid.toNat op).onRequest q cid.toNat op f = s := by
      intro op hop f
      rw [State.atOnce_none (hidle op hop).2]
      exact hnone op hop f
    simp only [List.mem_cons, List.not_mem_nil, or_false, forall_eq_or_imp, forall_eq]
    exact ⟨hunit (hnone 4 (by simp) _), hunit (hlate 5 (by simp) _), hunit (hlate 6 (by simp) _), hunit (hlate 0x20 (by simp) _), hunit (hnone 0x21 (by simp) _),
      hunit (hnone 0x22 (by simp) _), hunit (hnone 0x23 (by simp) _), hunit (hnone 0x24 (by simp) _), hunit (hnone 0x25 (by simp) _)⟩
  case truncate => exact ⟨State.atOnce_none, fun h => ⟨hunit (State.onRequest_some h _), fun hmodel => State.len_truncate _ hmodel _⟩⟩
  case delete => exact ⟨State.atOnce_none, fun h => ⟨hunit (State.onRequest_some h _), State.ctx_deleteCtx ..⟩⟩
  case fork =>
    have hgo {t : State} (ht : s.fork r = t) : go .fork = .next t := hunit ((State.onRequest_some h _).trans ht)
    refine ⟨fun hplan => hgo (State.fork_unplanned hplan), fun f m hplan hmodel haway => hgo (State.fork_away hplan hmodel haway),
      fun f m left u hplan hmodel hhome hrows => ?_⟩
    obtain ⟨t, ht, hchild⟩ := State.fork_effect hplan hmodel hhome hrows
    exact ⟨t, hgo ht, hchild⟩
  case table =>
    refine ⟨State.atOnce_none, fun h => ⟨fun d hd => ?_, fun hd => ⟨_, hunit (State.onRequest_some h _), State.rankTable_accepted hd⟩⟩⟩
    exact hunit ((State.onRequest_some h _).trans (State.rankTable_refused hd))
  case spill =>
    have hgo {t : State} (ht : s.spillRegister r = t) : go .spillRegister = .next t := hunit ((State.onRequest_some h _).trans ht)
    exact ⟨fun hready => hgo (State.spillRegister_twice hready), fun hready hn haligned => hgo (State.spillRegister_good hready hn haligned)⟩
  case load => exact ⟨hunit (State.onRequest_some h _), State.load_effect⟩
  case supply =>
    have hgo {t : State} (ht : s.supply r = t) : go .supply = .next t := hunit ((State.onRequest_some h _).trans ht)
    refine ⟨fun hnone hexpired => hgo (State.supply_unexpected hnone hexpired), fun hsupply hplanned hspill hzero hmapped => ?_⟩
    obtain ⟨u, hu, heffect⟩ := State.supply_effect hsupply hplanned hspill hzero hmapped
    exact ⟨u, hgo hu, heffect⟩
  case abort =>
    have hgo {t : State} (ht : s.abort r = t) : go .abort = .next t := hunit ((State.onRequest_some h _).trans ht)
    exact ⟨fun htokens => hgo (State.abort_stopped htokens), fun htokens hhit => hgo (State.abort_untargeted htokens hhit),
      fun t htokens hhit hphase hearly => hgo (State.abort_waiting htokens hhit hphase hearly),
      fun t htokens hhit hphase hdone herr hop => hgo (State.abort_running htokens hhit hphase hdone herr hop)⟩
  case chunk =>
    intro op x hop h
    have hran := State.ranRequest_some h htarget herr hdone State.ranTokens
    refine ⟨s.ranTokens r c, ?_, s.ranTokens_effect r c⟩
    simp only [List.mem_cons, List.not_mem_nil, or_false, Prod.mk.injEq] at hop
    obtain ⟨rfl, rfl⟩ | ⟨rfl, rfl⟩ := hop
    · exact hunit hran
    · exact hunit hran
  case generate =>
    intro zs ok e h hdue hsample
    have hran := State.ranRequest_some h htarget herr hdone fun s r x => s.generate r x zs ok
    refine ⟨fun tok htok => hunit (hran.trans (State.generate_token hdue (hsample.trans htok) ok)), fun hinvalid => ?_⟩
    obtain ⟨u, hu, hframe⟩ := State.generate_invalid hdue (hsample.trans hinvalid) ok
    exact ⟨u, hunit (hran.trans hu), hframe⟩
  case update =>
    intro op x hop h
    have hran := State.skRan_some h
    simp only [List.mem_cons, List.not_mem_nil, or_false, Prod.mk.injEq] at hop
    obtain ⟨rfl, rfl⟩ | ⟨rfl, rfl⟩ | ⟨rfl, rfl⟩ := hop
    · exact hunit hran
    · exact hunit hran
    · exact hunit hran
  case merge =>
    intro ix h hix
    refine hunit ?_
    rw [show s.findReq q cid.toNat 0x14 .admitted = some r from h]
    dsimp only
    rw [hix]
  case search =>
    intro b h hb
    refine hunit ?_
    rw [show s.findReq q cid.toNat 0x10 .admitted = some r from h]
    dsimp only
    rw [hb, List.foldl_cons, List.foldl_nil]

end Sys2Proof.Machine
end
